-- ==== Sys2Proof/Word.lean ====
section
/-! DEFINITION. The word types of VZS-DT1 and their plainest arithmetic. -/

namespace Sys2Proof

/-- A register word of one lane or one gang, and a code word: 32 bits (00 R6, 02 R30). -/
abbrev Word := BitVec 32

/-- A byte of memory. -/
abbrev Byte := BitVec 8

/-- A mask with one bit for each `lane.home` (03 R55). -/
abbrev Mask := BitVec 64

end Sys2Proof
end

