-- ==== Sys2Proof/Machine/Numbers.lean ====
section
/-! DEFINITION. Integer types: reading, wrapping and saturating (05 R93 to R95). Operand values are 64-bit patterns;
a 32-bit operand is the low half. -/

namespace Sys2Proof.Machine

/-- Width of an integer or bit TYPE code (16 R346). -/
def typeWidth (t : Nat) : Nat :=
  match t with
  | 1 | 5 => 8
  | 2 | 6 => 16
  | 3 | 7 | 9 | 11 => 64
  | _ => 32

/-- TYPE codes 0 to 3 are two's complement (05 R93). -/
def typeSigned (t : Nat) : Bool := t ≤ 3

/-- The integer of the low `n` bits of a pattern (05 R93). -/
def intOf (n : Nat) (signed : Bool) (x : BitVec 64) : Int :=
  let m := x.toNat % 2 ^ n
  if signed && 2 ^ (n - 1) ≤ m then (m : Int) - 2 ^ n else m

/-- A source read under its type (05 R93). -/
def readInt (t : Nat) (x : BitVec 64) : Int := intOf (typeWidth t) (typeSigned t) x

/-- Least value of a type. -/
def typeMin (t : Nat) : Int := if typeSigned t then -(2 ^ (typeWidth t - 1)) else 0

/-- Greatest value of a type. -/
def typeMax (t : Nat) : Int := if typeSigned t then 2 ^ (typeWidth t - 1) - 1 else 2 ^ typeWidth t - 1

/-- `sat` of 00 R9 and 05 R95. -/
def satInt (v lo hi : Int) : Int := if v < lo then lo else if hi < v then hi else v

/-- A result wrapped to a type and written extended (05 R93, R95). -/
def wrapInt (t : Nat) (v : Int) : BitVec 64 := BitVec.ofInt 64 (readInt t (BitVec.ofInt 64 v))

/-- A result written under SAT or not (19 R432). -/
def writeInt (t : Nat) (sat : Bool) (v : Int) : BitVec 64 :=
  wrapInt t (if sat then satInt v (typeMin t) (typeMax t) else v)

/-- The low `n` bits of a pattern as a number. -/
def lowBits (n : Nat) (x : BitVec 64) : Nat := x.toNat % 2 ^ n

/-- Byte `k` of a pattern (19 R441). -/
def byteAt (x : BitVec 64) (k : Nat) : BitVec 64 := (x >>> (8 * k)) &&& 0xFF

/-- The remainder in 0 to `m` - 1 (00 R9). -/
def modInt (a : Int) (m : Nat) : Nat := (a % (m : Int)).toNat

/-- floor(log2 n) of a positive number; 0 at 0. -/
def log2 (n : Nat) : Nat := Nat.log2 n

/-- ceil(log2 n). -/
def clog2 (n : Nat) : Nat := if n ≤ 1 then 0 else Nat.log2 (n - 1) + 1

/-- ceil(a / b). -/
def ceilDiv (a b : Nat) : Nat := (a + b - 1) / b

/-- Number of ones in the low `n` bits. -/
def popNat : Nat → Nat → Nat
  | 0, _ => 0
  | n + 1, x => x % 2 + popNat n (x / 2)

/-- Number of zeros below the lowest one of the low `n` bits; `n` when there is none. -/
def ctzNat : Nat → Nat → Nat
  | 0, _ => 0
  | n + 1, x => if x % 2 == 1 then 0 else 1 + ctzNat n (x / 2)

/-- The low `n` bits in reverse order. -/
def revNat : Nat → Nat → Nat
  | 0, _ => 0
  | n + 1, x => x % 2 * 2 ^ n + revNat n (x / 2)

/-- floor of the square root of a number below 4 ^ `k`, bit by bit. -/
def isqrtAux : Nat → Nat → Nat → Nat
  | 0, _, r => r
  | k + 1, n, r => let c := r + 2 ^ k; if c * c ≤ n then isqrtAux k n c else isqrtAux k n r

/-- floor of the square root. -/
def isqrt (n : Nat) : Nat := isqrtAux (Nat.log2 n / 2 + 1) n 0

end Sys2Proof.Machine
end

