-- ==== Sys2Proof/Machine/Flags.lean ====
section
/-! DEFINITION. The conditions that integer instructions compute: comparisons, and carry and borrow. -/

namespace Sys2Proof.Machine

/-- The conditions of `icmp` by MINOR (17 R368, 19 R439). -/
def intCond (mn : Nat) (a b : Int) : Bool :=
  match mn with
  | 0 => a == b
  | 1 => a != b
  | 2 => a < b
  | 3 => a ≤ b
  | 4 => b < a
  | _ => b ≤ a

/-- Sum and carry out of `iaddc` (19 R438). -/
def addCarry (t : Nat) (a b : BitVec 64) (c : Bool) : BitVec 64 × Bool :=
  let s := readInt t a + readInt t b + (if c then 1 else 0)
  (wrapInt t s, decide ((2 : Int) ^ typeWidth t ≤ s))

/-- Difference and borrow out of `isubb` (19 R438). -/
def subBorrow (t : Nat) (a b : BitVec 64) (c : Bool) : BitVec 64 × Bool :=
  let s := readInt t a - readInt t b - (if c then 1 else 0)
  (wrapInt t s, decide (s < 0))

/-- All ones for true and 0 for false in one register (19 R439). -/
def boolWord (b : Bool) : BitVec 64 := if b then 0xFFFFFFFF else 0

end Sys2Proof.Machine
end

