-- ==== Sys2Proof/Machine/Floats.lean ====
section
/-! DEFINITION. Floating-point formats, rounding and exact arithmetic (05 R96 to R106, 18 R377, R378). -/

namespace Sys2Proof.Machine

/-- A format (05 R96): field widths, bias, the code of the largest finite magnitude, the code of infinity if there is
one, the canonical NaN (05 R97) and whether there is a sign. -/
structure Fmt where
  eb : Nat
  mb : Nat
  bias : Nat
  maxCode : Nat
  inf : Option Nat
  nan : Nat
  signed : Bool := true
deriving DecidableEq, Repr

def f64 : Fmt := { eb := 11, mb := 52, bias := 1023, maxCode := 0x7FEFFFFFFFFFFFFF, inf := some 0x7FF0000000000000, nan := 0x7FF8000000000000 }
def f32 : Fmt := { eb := 8, mb := 23, bias := 127, maxCode := 0x7F7FFFFF, inf := some 0x7F800000, nan := 0x7FC00000 }
def f16 : Fmt := { eb := 5, mb := 10, bias := 15, maxCode := 0x7BFF, inf := some 0x7C00, nan := 0x7E00 }
def bf16 : Fmt := { eb := 8, mb := 7, bias := 127, maxCode := 0x7F7F, inf := some 0x7F80, nan := 0x7FC0 }
def e4m3 : Fmt := { eb := 4, mb := 3, bias := 7, maxCode := 0x7E, inf := none, nan := 0x7F }
def e5m2 : Fmt := { eb := 5, mb := 2, bias := 15, maxCode := 0x7B, inf := some 0x7C, nan := 0x7E }
def e2m1 : Fmt := { eb := 2, mb := 1, bias := 1, maxCode := 7, inf := none, nan := 0 }
def e3m5 : Fmt := { eb := 3, mb := 5, bias := 3, maxCode := 0xFE, inf := none, nan := 0xFF, signed := false }

/-- The format of a float TYPE code (16 R346); of each half for the x2 types. -/
def fmtOf (t : Nat) : Fmt :=
  match t with
  | 11 => f64
  | 12 => f16
  | 13 => bf16
  | _ => f32

/-- What a float holds: NaN, an infinity, or a sign and the magnitude `n` * 2 ^ `e`. -/
inductive FVal where
  | nan
  | inf (neg : Bool)
  | fin (neg : Bool) (n : Nat) (e : Int)
deriving DecidableEq, Repr

/-- Bits of a format. -/
def Fmt.width (f : Fmt) : Nat := f.eb + f.mb + (if f.signed then 1 else 0)

/-- Smallest normal exponent (05 R96). -/
def Fmt.emin (f : Fmt) : Int := 1 - (f.bias : Int)

/-- The code with a sign. -/
def Fmt.signCode (f : Fmt) (neg : Bool) (c : Nat) : Nat := if neg then c + 2 ^ (f.eb + f.mb) else c

/-- The value of a code (05 R96 to R99). -/
def Fmt.decode (f : Fmt) (c : Nat) : FVal :=
  let mag := c % 2 ^ (f.eb + f.mb)
  let neg := f.signed && (c / 2 ^ (f.eb + f.mb)) % 2 == 1
  let e := mag / 2 ^ f.mb
  let m := mag % 2 ^ f.mb
  if f.inf = some mag then .inf neg
  else if f.maxCode < mag then .nan
  else if e == 0 then .fin neg m (f.emin - f.mb)
  else .fin neg (2 ^ f.mb + m) ((e : Int) - f.bias - f.mb)

/-- The code of an infinity: the largest finite value in a format without one (05 R103). -/
def Fmt.infCode (f : Fmt) (neg : Bool) : Nat := f.signCode neg (f.inf.getD f.maxCode)

/-- The result where the rounded magnitude exceeds the largest finite value (05 R103). RM codes of 05 R101. -/
def Fmt.overflow (f : Fmt) (rm : Nat) (neg : Bool) : Nat :=
  match f.inf with
  | none => f.signCode neg f.maxCode
  | some i =>
    let toInf := rm == 0 || rm == 1 || (rm == 3 && !neg) || (rm == 4 && neg)
    f.signCode neg (if toInf then i else f.maxCode)

/-- `x` * 2 ^ `e` rounded down, with what is lost. -/
def scaleFloor (n : Nat) (e : Int) : Nat × Bool :=
  if 0 ≤ e then (n * 2 ^ e.toNat, false)
  else (n / 2 ^ (-e).toNat, n % 2 ^ (-e).toNat != 0)

/-- Rounds up from `q` given whether the remainder is over (`gt`), exactly (`eq`) half, or not zero (`any`) (05 R102). -/
def roundUp (rm : Nat) (neg : Bool) (q : Nat) (gt eq any : Bool) : Bool :=
  match rm with
  | 0 => gt || (eq && q % 2 == 1)
  | 1 => gt || eq
  | 2 => false
  | 3 => any && !neg
  | _ => any && neg

/-- `n` * 2 ^ `e`, and something more below the last place when `sticky`, split at the place 2 ^ `u`: the whole part and
the remainder as over half, half, and not zero. -/
def splitAt (n : Nat) (e : Int) (sticky : Bool) (u : Int) : Nat × Bool × Bool × Bool :=
  if u ≤ e then (n * 2 ^ (e - u).toNat, false, false, sticky)
  else
    let d := (u - e).toNat
    let r := n % 2 ^ d
    let h := 2 ^ (d - 1)
    (n / 2 ^ d, h < r || (r == h && sticky), r == h && !sticky, r != 0 || sticky)

/-- The exponent of the last place of a magnitude in a format (05 R102). -/
def Fmt.ulpExp (f : Fmt) (n : Nat) (e : Int) : Int :=
  max ((Nat.log2 n : Int) + e) f.emin - f.mb

/-- `round` of 05 R102 and R103 of the magnitude `n` * 2 ^ `e` (a little more when `sticky`, with at least two places
below the last). A zero keeps its sign. -/
def Fmt.round (f : Fmt) (rm : Nat) (neg : Bool) (n : Nat) (e : Int) (sticky : Bool := false) : Nat :=
  if n == 0 && !sticky then f.signCode neg 0
  else
    let u := f.ulpExp n e
    let (q, gt, eq, any) := splitAt n e sticky u
    let r := if roundUp rm neg q gt eq any then q + 1 else q
    let code := (u - (f.emin - f.mb)).toNat * 2 ^ f.mb + r
    if f.maxCode < code then f.overflow rm neg else f.signCode neg code

/-- Stochastic rounding with a 16-bit random word (05 R104, R103). -/
def Fmt.roundSr (f : Fmt) (rnd : Nat) (neg : Bool) (n : Nat) (e : Int) : Nat :=
  if n == 0 then f.signCode neg 0
  else
    let u := f.ulpExp n e
    let q := (scaleFloor n (e - u)).1
    let (hi, sticky) := scaleFloor n (e - u + 16)
    let dHi := hi % 2 ^ 16
    let r := if rnd < dHi || (dHi == rnd && sticky) then q + 1 else q
    let code := (u - (f.emin - f.mb)).toNat * 2 ^ f.mb + r
    if f.maxCode < code then f.infCode neg else f.signCode neg code

/-- A value rounded to a format; NaN is canonical (05 R97, R106). -/
def Fmt.ofVal (f : Fmt) (rm : Nat) : FVal → Nat
  | .nan => f.nan
  | .inf neg => f.infCode neg
  | .fin neg n e => f.round rm neg n e

/-- The signed significand of a finite value at exponent `u`, not above its own. -/
def signedAt (neg : Bool) (n : Nat) (e u : Int) : Int :=
  let m : Int := n * 2 ^ (e - u).toNat
  if neg then -m else m

/-- The sign of an exact zero sum (05 R102). -/
def zeroSign (rm : Nat) (bothNeg : Bool) (bothZeroSame : Bool) : Bool :=
  if bothZeroSame then bothNeg else rm == 4

/-- The exact sum (18 R378), its zero signed under the rounding mode. -/
def FVal.add (rm : Nat) (a b : FVal) : FVal :=
  match a, b with
  | .nan, _ => .nan
  | _, .nan => .nan
  | .inf s, .inf t => if s == t then .inf s else .nan
  | .inf s, .fin _ _ _ => .inf s
  | .fin _ _ _, .inf t => .inf t
  | .fin s n e, .fin t m g =>
    let u := min e g
    let v := signedAt s n e u + signedAt t m g u
    if v == 0 then .fin (zeroSign rm s (n == 0 && m == 0 && s == t)) 0 u
    else .fin (decide (v < 0)) v.natAbs u

/-- The negated value. -/
def FVal.neg : FVal → FVal
  | .nan => .nan
  | .inf s => .inf (!s)
  | .fin s n e => .fin (!s) n e

/-- The exact product (18 R378). -/
def FVal.mul (a b : FVal) : FVal :=
  match a, b with
  | .nan, _ => .nan
  | _, .nan => .nan
  | .inf s, .inf t => .inf (s != t)
  | .inf s, .fin t m _ => if m == 0 then .nan else .inf (s != t)
  | .fin s n _, .inf t => if n == 0 then .nan else .inf (s != t)
  | .fin s n e, .fin t m g => .fin (s != t) (n * m) (e + g)

/-- Quotient rounded to a format (18 R378, R413). -/
def Fmt.div (f : Fmt) (rm : Nat) (a b : FVal) : Nat :=
  match a, b with
  | .nan, _ => f.nan
  | _, .nan => f.nan
  | .inf _, .inf _ => f.nan
  | .inf s, .fin t _ _ => f.infCode (s != t)
  | .fin s _ _, .inf t => f.signCode (s != t) 0
  | .fin s n e, .fin t m g =>
    if m == 0 then (if n == 0 then f.nan else f.infCode (s != t))
    else
      let k := Nat.log2 m + f.mb + 8
      let q := n * 2 ^ k / m
      f.round rm (s != t) q (e - g - k) (n * 2 ^ k % m != 0)

/-- The square root of `n` * 2 ^ `e`, as a whole number of a small place, that place, and whether more is below. -/
def sqrtParts (n : Nat) (e : Int) (bits : Nat) : Nat × Int × Bool :=
  let odd := e % 2 == 1
  let n1 := if odd then 2 * n else n
  let e1 := if odd then e - 1 else e
  let n2 := n1 * 4 ^ bits
  let r := isqrt n2
  (r, e1 / 2 - bits, r * r != n2)

/-- Square root rounded to a format (18 R425). -/
def Fmt.sqrt (f : Fmt) (rm : Nat) (a : FVal) : Nat :=
  match a with
  | .nan => f.nan
  | .inf s => if s then f.nan else f.infCode false
  | .fin s n e =>
    if n == 0 then f.signCode s 0
    else if s then f.nan
    else let (r, g, st) := sqrtParts n e (f.mb + 8); f.round rm false r g st

/-- Reciprocal square root rounded to a format (18 R423): the root of 1 / `a` from a quotient with a sticky place. -/
def Fmt.rsqrt (f : Fmt) (rm : Nat) (a : FVal) : Nat :=
  match a with
  | .nan => f.nan
  | .inf s => if s then f.nan else f.signCode false 0
  | .fin s n e =>
    if n == 0 then f.infCode s
    else if s then f.nan
    else
      let odd := e % 2 == 1
      let n1 := if odd then 2 * n else n
      let e1 := if odd then e - 1 else e
      let k := Nat.log2 n1 + 2 * f.mb + 18
      let k2 := if k % 2 == 1 then k + 1 else k
      let q := 2 ^ k2 / n1
      let r := isqrt q
      f.round rm false r (-(e1 / 2) - k2 / 2) (r * r * n1 != 2 ^ k2)

/-- The integer a finite value rounds to (18 R403, R422). -/
def roundToInt (rm : Nat) (neg : Bool) (n : Nat) (e : Int) : Int :=
  let (q, gt, eq, any) := splitAt n e false 0
  let r : Int := if roundUp rm neg q gt eq any then q + 1 else q
  if neg then -r else r

/-- Comparison of two values, neither NaN: -1, 0 or 1; -0 equals +0 (18 R411). -/
def FVal.cmp (a b : FVal) : Int :=
  let key (v w : FVal) : Int × Int :=
    match v, w with
    | .fin s n e, .fin t m g => let u := min e g; (signedAt s n e u, signedAt t m g u)
    | .inf s, .inf t => ((if s then -1 else 1), (if t then -1 else 1))
    | .inf s, _ => ((if s then -1 else 1), 0)
    | _, .inf t => (0, (if t then -1 else 1))
    | _, _ => (0, 0)
  let (x, y) := key a b
  if x < y then -1 else if y < x then 1 else 0

/-- NaN or not. -/
def FVal.isNan : FVal → Bool
  | .nan => true
  | _ => false

/-- The sign of a value. -/
def FVal.sign : FVal → Bool
  | .nan => false
  | .inf s => s
  | .fin s _ _ => s

/-- The conditions of `fcmp` by MINOR (17 R369, 18 R411). -/
def floatCond (mn : Nat) (a b : FVal) : Bool :=
  let un := a.isNan || b.isNan
  let c := a.cmp b
  match mn with
  | 0 => !un && c == 0
  | 1 => un || c != 0
  | 2 => !un && c < 0
  | 3 => !un && c ≤ 0
  | 4 => !un && 0 < c
  | 5 => !un && 0 ≤ c
  | 6 => !un
  | _ => un

/-- `fmin` and `fmax` on codes (18 R418, R419). -/
def Fmt.minMax (f : Fmt) (isMax : Bool) (a b : Nat) : Nat :=
  let x := f.decode a
  let y := f.decode b
  match x.isNan, y.isNan with
  | true, true => f.nan
  | true, false => b
  | false, true => a
  | false, false =>
    let c := x.cmp y
    if c == 0 then (if x.sign == isMax then b else a)
    else if (0 < c) == isMax then a else b

/-- The class mask of one element (18 R410). -/
def Fmt.classMask (f : Fmt) (c : Nat) : Nat :=
  match f.decode c with
  | .nan => 2 ^ 8
  | .inf s => if s then 1 else 2 ^ 7
  | .fin s n _ =>
    if n == 0 then (if s then 2 ^ 3 else 2 ^ 4)
    else if n < 2 ^ f.mb then (if s then 2 ^ 2 else 2 ^ 5)
    else (if s then 2 else 2 ^ 6)

/-- `frnd` on a code (18 R422). -/
def Fmt.rnd (f : Fmt) (rm : Nat) (c : Nat) : Nat :=
  match f.decode c with
  | .nan => f.nan
  | .inf s => f.infCode s
  | .fin s n e =>
    let v := roundToInt rm s n e
    f.round rm s v.natAbs 0

/-- A finite value of an integer. -/
def FVal.ofInt (v : Int) : FVal := .fin (decide (v < 0)) v.natAbs 0

/-! Transcendental functions. A value is held as a whole number of 2 ^ -512; each series stops below that place.
The results round to nearest only (17 R369), and no result of these functions is a tie but an exact one, so the value
and a sticky place below it round as the exact result does (18 R377). -/

/-- Places of the fixed point. -/
def fxBits : Nat := 512

/-- 1 in fixed point. -/
def fxOne : Int := 2 ^ fxBits

/-- floor(ln 2 * 2 ^ 640). -/
def ln2Big : Nat := 0xb17217f7d1cf79abc9e3b39803f2f6af40f343267298b62d8a0d175b8baafa2be7b876206debac98559552fb4afa1b10ed2eae35c138214427573b291169b8253e96ca16224ae8c51acbda11317c387e

/-- floor(pi * 2 ^ 768). -/
def piBig : Nat := 0x3243f6a8885a308d313198a2e03707344a4093822299f31d0082efa98ec4e6c89452821e638d01377be5466cf34e90c6cc0ac29b7c97c50dd3f84d5b5b54709179216d5d98979fb1bd1310ba698dfb5ac2ffd72dbd01adfb7b8e1afed6a267e96

/-- ln 2 in fixed point. -/
def fxLn2 : Int := (ln2Big / 2 ^ 128 : Nat)

/-- Terms of the exponential series from term `k`: the sum of x ^ k / k! (05 R9). -/
def fxExpAux : Nat → Int → Int → Int → Int
  | 0, _, _, _ => 0
  | fuel + 1, x, term, k => term + fxExpAux fuel x (term * x / fxOne / (k + 1)) (k + 1)

/-- e ^ x of a fixed-point x with |x| below 1. -/
def fxExp (x : Int) : Int := fxExpAux 110 x fxOne 0

/-- Terms of the series of sine and cosine. -/
def fxTrigAux : Nat → Int → Int → Int → Int
  | 0, _, _, _ => 0
  | fuel + 1, x2, term, k => term + fxTrigAux fuel x2 (-(term * x2 / fxOne / ((k + 1) * (k + 2)))) (k + 2)

/-- sin x for |x| at most pi / 4. -/
def fxSin (x : Int) : Int := fxTrigAux 60 (x * x / fxOne) x 1

/-- cos x for |x| at most pi / 4. -/
def fxCos (x : Int) : Int := fxTrigAux 60 (x * x / fxOne) fxOne 0

/-- Terms of the series of the inverse hyperbolic tangent. -/
def fxAtanhAux : Nat → Int → Int → Int → Int
  | 0, _, _, _ => 0
  | fuel + 1, z2, pow, k => pow / k + fxAtanhAux fuel z2 (pow * z2 / fxOne) (k + 2)

/-- ln m of 1 ≤ m < 2 in fixed point. -/
def fxLn (m : Int) : Int :=
  let z := (m - fxOne) * fxOne / (m + fxOne)
  2 * fxAtanhAux 170 (z * z / fxOne) z 1

/-- Round a fixed-point result, its sign apart, with a sticky place. -/
def Fmt.roundFx (f : Fmt) (v : Int) : Nat :=
  f.round 0 (decide (v < 0)) v.natAbs (-(fxBits : Int)) true

/-- 2 ^ a (18 R415). -/
def Fmt.exp2 (f : Fmt) (a : FVal) : Nat :=
  match a with
  | .nan => f.nan
  | .inf s => if s then f.signCode false 0 else f.infCode false
  | .fin s n e =>
    if n == 0 then f.round 0 false 1 0
    else if 12 ≤ (Nat.log2 n : Int) + e then (if s then f.signCode false 0 else f.infCode false)
    else
      -- a in fixed point: its floor i and the fraction
      let x : Int := if -(fxBits : Int) ≤ e then signedAt s n e (-(fxBits : Int))
        else let (q, _) := scaleFloor n (e + fxBits); if s then -(q : Int) - 1 else q
      let i := x / fxOne
      let fr := x % fxOne
      if fr == 0 && -(fxBits : Int) ≤ e then f.round 0 false 1 i
      else f.round 0 false (fxExp (fr * fxLn2 / fxOne)).natAbs (i - fxBits) true

/-- log2 a (18 R417). -/
def Fmt.lg2 (f : Fmt) (a : FVal) : Nat :=
  match a with
  | .nan => f.nan
  | .inf s => if s then f.nan else f.infCode false
  | .fin s n e =>
    if n == 0 then f.infCode true
    else if s then f.nan
    else
      let l := Nat.log2 n
      let i : Int := l + e
      if n == 2 ^ l then f.round 0 (decide (i < 0)) i.natAbs 0
      else f.roundFx (i * fxOne + fxLn ((n : Int) * fxOne / 2 ^ l) * fxOne / fxLn2)

/-- An angle as a quarter turn number and a remainder in fixed point within pi / 4 of it: `a` less `k` * pi / 2. -/
def quarterTurn (s : Bool) (n : Nat) (e : Int) : Int × Int :=
  -- everything in units of 2 ^ -768
  let x : Int := if -768 ≤ e then signedAt s n e (-768) else 0
  let k := (4 * x + (piBig : Int)) / (2 * (piBig : Int))
  (k, (2 * x - k * (piBig : Int)) / 2 ^ 257)

/-- sin a, or cos a when `cosine` (18 R412, R424). An angle below 2 ^ -200 is its own sine to the last place. -/
def Fmt.trig (f : Fmt) (cosine : Bool) (a : FVal) : Nat :=
  match a with
  | .nan => f.nan
  | .inf _ => f.nan
  | .fin s n e =>
    if n == 0 then (if cosine then f.round 0 false 1 0 else f.signCode s 0)
    else
      let (k, r) := quarterTurn s n e
      let q := ((if cosine then k + 1 else k) % 4).toNat
      if k == 0 && !cosine && (Nat.log2 n : Int) + e < -200 then f.round 0 s n e
      else
        let v := if q % 2 == 0 then fxSin r else fxCos r
        f.roundFx (if 2 ≤ q then -v else v)

/-- tanh a (18 R427). -/
def Fmt.tanh (f : Fmt) (a : FVal) : Nat :=
  match a with
  | .nan => f.nan
  | .inf s => f.round 0 s 1 0
  | .fin s n e =>
    if n == 0 then f.signCode s 0
    else if 6 ≤ (Nat.log2 n : Int) + e then f.round 0 s 1 0
    else if (Nat.log2 n : Int) + e < -100 then f.round 0 s n e
    else
      let x : Int := signedAt false n e (-(fxBits : Int))
      -- e ^ (-2 x) = 2 ^ -k * e ^ r with 2 x = k ln 2 - r, r in 0 to ln 2
      let k := (2 * x + fxLn2 - 1) / fxLn2
      let t := fxExp (k * fxLn2 - 2 * x) / 2 ^ k.toNat
      let v := (fxOne - t) * fxOne / (fxOne + t)
      f.roundFx (if s then -v else v)

/-! The two halves of an x2 operand. -/

/-- Whether a TYPE packs two elements. -/
def packed (t : Nat) : Bool := t == 12 || t == 13

/-- A function of codes on each element (18 R377). -/
def onElems1 (t : Nat) (g : Nat → Nat) (a : BitVec 64) : BitVec 64 :=
  if packed t then BitVec.ofNat 64 (g (a.toNat % 2 ^ 16) + g (a.toNat / 2 ^ 16 % 2 ^ 16) * 2 ^ 16)
  else BitVec.ofNat 64 (g (lowBits (typeWidth t) a))

/-- A function of two codes on each element. -/
def onElems2 (t : Nat) (g : Nat → Nat → Nat) (a b : BitVec 64) : BitVec 64 :=
  if packed t then
    BitVec.ofNat 64 (g (a.toNat % 2 ^ 16) (b.toNat % 2 ^ 16) +
      g (a.toNat / 2 ^ 16 % 2 ^ 16) (b.toNat / 2 ^ 16 % 2 ^ 16) * 2 ^ 16)
  else BitVec.ofNat 64 (g (lowBits (typeWidth t) a) (lowBits (typeWidth t) b))

/-- A function of three codes on each element. -/
def onElems3 (t : Nat) (g : Nat → Nat → Nat → Nat) (a b c : BitVec 64) : BitVec 64 :=
  if packed t then
    BitVec.ofNat 64 (g (a.toNat % 2 ^ 16) (b.toNat % 2 ^ 16) (c.toNat % 2 ^ 16) +
      g (a.toNat / 2 ^ 16 % 2 ^ 16) (b.toNat / 2 ^ 16 % 2 ^ 16) (c.toNat / 2 ^ 16 % 2 ^ 16) * 2 ^ 16)
  else BitVec.ofNat 64 (g (lowBits (typeWidth t) a) (lowBits (typeWidth t) b) (lowBits (typeWidth t) c))

/-- Rounded sum of two codes (18 R409). -/
def Fmt.addC (f : Fmt) (rm a b : Nat) : Nat := f.ofVal rm ((f.decode a).add rm (f.decode b))
/-- Rounded difference of two codes (18 R426). -/
def Fmt.subC (f : Fmt) (rm a b : Nat) : Nat := f.ofVal rm ((f.decode a).add rm (f.decode b).neg)
/-- Rounded product of two codes (18 R420). -/
def Fmt.mulC (f : Fmt) (rm a b : Nat) : Nat := f.ofVal rm ((f.decode a).mul (f.decode b))
/-- One rounding of the product and sum of three codes (18 R416). -/
def Fmt.fmaC (f : Fmt) (rm a b c : Nat) : Nat :=
  f.ofVal rm (((f.decode a).mul (f.decode b)).add rm (f.decode c))
/-- Reciprocal of a code (18 R421). -/
def Fmt.rcpC (f : Fmt) (rm a : Nat) : Nat := f.div rm (.fin false 1 0) (f.decode a)

end Sys2Proof.Machine
end

