-- ==== Sys2Proof/Machine/Residues.lean ====
section
/-! DEFINITION. Residue arithmetic: the channels, reconstruction, checking and correction (06 R121 to R134). -/

namespace Sys2Proof.Machine

/-- The ten moduli (06 R121). -/
def moduli : List Nat := [256, 255, 253, 251, 247, 241, 239, 233, 263, 269]

/-- The modulus of a channel. -/
def modulus (j : Nat) : Nat := moduli.getD j 1

/-- The working product M (06). -/
def bigM : Nat := 13741755155627516160

/-- The inverse constants C(i, j) (06 R130), row i from column i + 1. -/
def inverseRows : List (List Nat) :=
  [[1, 169, 201, 55, 225, 225, 152, 75, 62], [127, 63, 31, 155, 15, 53, 230, 96], [126, 206, 221, 222, 35, 184, 84],
   [62, 217, 20, 13, 241, 254], [201, 30, 50, 115, 110], [120, 204, 251, 48], [39, 252, 260], [149, 127]]

/-- C(i, j) (06 R130). -/
def inverseC (i j : Nat) : Nat := (inverseRows.getD i []).getD (j - i - 1) 0

/-- One step of the conversion: peel digit `d` of channel `i` off the residues of the channels from `j` on (06 R131). -/
def peel (i d : Nat) : Nat → List Nat → List Nat
  | _, [] => []
  | j, x :: xs => (x + (modulus j - d % modulus j)) * inverseC i j % modulus j :: peel i d (j + 1) xs

/-- The mixed-radix digits of eight steps and the two extended digits, from channel `i` on (06 R131). -/
def digitsFrom : Nat → Nat → List Nat → List Nat
  | 0, _, xs => xs
  | _ + 1, _, [] => []
  | fuel + 1, i, x :: xs => x :: digitsFrom fuel (i + 1) (peel i x (i + 1) xs)

/-- The ten digits of a residue vector; a short vector is extended with zeros (06 R131). -/
def digits (res : List Nat) : List Nat := digitsFrom 8 0 res

/-- The number of mixed-radix digits (06 R131): Horner from the last. -/
def digitValue : Nat → List Nat → Nat
  | _, [] => 0
  | i, d :: ds => d + modulus i * digitValue (i + 1) ds

/-- X of 06 R131, from the first eight digits. -/
def crtX (res : List Nat) : Nat := digitValue 0 ((digits res).take 8)

/-- The signed value of the working residues (06 R123). -/
def crtValue (res : List Nat) : Int :=
  let x := crtX res
  if bigM ≤ 2 * x then (x : Int) - bigM else x

/-- A residue is valid (06 R122). -/
def residueValid (j r : Nat) : Bool := r < modulus j

/-- The residue of a signed integer in a channel. -/
def residueOf (j : Nat) (v : Int) : Nat := modInt v (modulus j)

/-- The ten residues of an integer (06 R123). -/
def residues (v : Int) : List Nat := (List.range 10).map (fun j => residueOf j v)

/-- The channels whose residue is invalid (06 R134). -/
def invalidChannels (res : List Nat) : List Nat :=
  (List.range 10).filter (fun j => !residueValid j (res.getD j 0))

/-- The element is consistent (06 R131). -/
def consistent (res : List Nat) : Bool :=
  (invalidChannels res).isEmpty && res.getD 8 0 == residueOf 8 (crtValue res) && res.getD 9 0 == residueOf 9 (crtValue res)

/-- The certified range (06). -/
def certified (v : Int) : Bool := -(2 ^ 62) ≤ v && v < 2 ^ 62

/-- Solve for a value modulo the product of moduli, one congruence at a time (06 R133): `x` is right modulo `p`. -/
def crtSolve : List (Nat × Nat) → Nat → Nat → Nat
  | [], x, _ => x
  | (m, r) :: rest, x, p =>
    -- the step t below m with x + p * t = r modulo m
    let t := ((List.range m).find? (fun t => (x + p * t) % m == r)).getD 0
    crtSolve rest (x + p * t) (p * m)

/-- The candidate of a channel: the certified integer that agrees with the other nine channels (06 R133). -/
def candidate (res : List Nat) (j : Nat) : Option Int :=
  let others := (List.range 10).filter (· != j)
  if others.any (fun k => !residueValid k (res.getD k 0)) then none
  else
    let p := others.foldl (fun a k => a * modulus k) 1
    let x := crtSolve (others.map (fun k => (modulus k, res.getD k 0))) 0 1
    let v : Int := if p ≤ 2 * x then (x : Int) - p else x
    if certified v then some v else none

/-- The judgement of one element (06 R134). -/
inductive Verdict where
  /-- Consistent: the value. -/
  | clean (v : Int)
  /-- Corrected: the value and the channel. -/
  | fixed (v : Int) (j : Nat)
  /-- Inconsistent and not correctable. -/
  | uncorrectable
  /-- Inconsistent in an uncertified tile. -/
  | overflow
deriving DecidableEq, Repr

/-- The judgement of an element's residues in a tile with CERT (06 R134). -/
def judge (cert : Bool) (res : List Nat) : Verdict :=
  if consistent res then .clean (crtValue res)
  else if !cert then .overflow
  else
    let inv := invalidChannels res
    if 2 ≤ inv.length then .uncorrectable
    else
      let js := if inv.length == 1 then inv else List.range 10
      match js.filterMap (fun j => (candidate res j).map (fun v => (v, j))) with
      | [(v, j)] => .fixed v j
      | _ => .uncorrectable

/-- Base extension onto a redundant modulus (06 R132): the working digits from the last to the first. -/
def extendDigits (m : Nat) (t : Nat) : Nat → List Nat → Nat
  | _, [] => t
  | i, d :: ds => (extendDigits m t (i + 1) ds * modulus i + d) % m

/-- Ten residues from the eight working ones, the redundant ones regenerated from their digits (06 R132), whatever the eight
bytes hold. -/
def extendBytes (work : List Nat) : List Nat :=
  let ds := (digits (work.take 8)).take 8
  let neg := bigM ≤ 2 * digitValue 0 ds
  work.take 8 ++ [8, 9].map (fun j => extendDigits (modulus j) (if neg then modulus j - 1 else 0) 0 ds)

/-- The eight bytes of an element of an RP8 unit are residues (05 R120). -/
def bytesValid (work : List Nat) : Bool := (List.range 8).all (fun j => residueValid j (work.getD j 0))

/-- The ten residues of an element of an RP8 unit (05 R119, 06 R132); none when a byte is invalid (05 R120). -/
def extendResidues (work : List Nat) : Option (List Nat) := if bytesValid work then some (extendBytes work) else none

/-- The eight working residues of an even pair, channel j in byte j (20 R482). -/
def workingOf (a : BitVec 64) : List Nat := (List.range 8).map (fun j => (byteAt a j).toNat)

/-- The redundant residues of a register (20 R482). -/
def redundantOf (b : BitVec 64) : List Nat := [b.toNat % 512, b.toNat / 2 ^ 16 % 512]

/-- A list of bytes as a number, the first the least significant. -/
def packBytes : List Nat → Nat
  | [] => 0
  | b :: bs => b + 256 * packBytes bs

end Sys2Proof.Machine
end

