-- ==== Sys2Proof/Machine/Alu.lean ====
section
/-! DEFINITION. The value each arithmetic instruction computes from the operand values of one lane: integer (19 R432
to R451), bit (18 R380 to R428, 20 R480, R489), convert (18 R402 to R405, 20 R484, R542) and residue (20 R481, R496,
R500). `t` is TYPE, `mn` MINOR, `sat` SAT and `rm` RM. -/

namespace Sys2Proof.Machine

/-- 19 R437. -/
def iaddVal (t : Nat) (sat : Bool) (a b : BitVec 64) : BitVec 64 := writeInt t sat (readInt t a + readInt t b)
/-- 19 R451. -/
def isubVal (t : Nat) (sat : Bool) (a b : BitVec 64) : BitVec 64 := writeInt t sat (readInt t a - readInt t b)
/-- 19 R446, R433. -/
def imulVal (t mn : Nat) (sat : Bool) (a b : BitVec 64) : BitVec 64 :=
  let p := readInt t a * readInt t b
  if mn == 0 then writeInt t sat p else wrapInt t (p / 2 ^ typeWidth t)
/-- 19 R442, R433. -/
def imadVal (t mn : Nat) (sat : Bool) (a b c : BitVec 64) : BitVec 64 :=
  let p := readInt t a * readInt t b + readInt t c
  if mn == 0 then writeInt t sat p else wrapInt t (p / 2 ^ typeWidth t)
/-- 19 R443. -/
def imadwVal (t : Nat) (a b c : BitVec 64) : BitVec 64 :=
  BitVec.ofInt 64 (readInt t a * readInt t b + intOf 64 (typeSigned t) c)
/-- 19 R440. -/
def idivVal (t : Nat) (a b : BitVec 64) : BitVec 64 :=
  let x := readInt t a
  let y := readInt t b
  if y == 0 then wrapInt t (if typeSigned t && x < 0 then typeMin t else typeMax t)
  else wrapInt t (Int.tdiv x y)
/-- 19 R440, R448. -/
def iremVal (t : Nat) (a b : BitVec 64) : BitVec 64 :=
  let x := readInt t a
  let y := readInt t b
  if y == 0 then wrapInt t x else wrapInt t (x - Int.tdiv x y * y)
/-- 19 R445. -/
def iminVal (t : Nat) (a b : BitVec 64) : BitVec 64 := wrapInt t (min (readInt t a) (readInt t b))
/-- 19 R444. -/
def imaxVal (t : Nat) (a b : BitVec 64) : BitVec 64 := wrapInt t (max (readInt t a) (readInt t b))
/-- 19 R436. -/
def iabsVal (t : Nat) (sat : Bool) (a : BitVec 64) : BitVec 64 := writeInt t sat (readInt t a).natAbs
/-- 19 R447. -/
def inegVal (t : Nat) (sat : Bool) (a : BitVec 64) : BitVec 64 := writeInt t sat (-(readInt t a))
/-- 19 R439: the condition. -/
def icmpCond (t mn : Nat) (a b : BitVec 64) : Bool := intCond mn (readInt t a) (readInt t b)
/-- 19 R450: the chosen bits of the type's width, extended as an 8- or 16-bit result is (19 R432). -/
def iselVal (t : Nat) (c : Bool) (a b : BitVec 64) : BitVec 64 := wrapInt t (readInt t (if c then a else b))
/-- A byte read signed or not (19 R441). -/
def byteInt (signed : Bool) (x : BitVec 64) (k : Nat) : Int := intOf 8 signed (byteAt x k)
/-- 19 R441. -/
def idot4Val (t mn : Nat) (sat : Bool) (a b c : BitVec 64) : BitVec 64 :=
  let sa := mn % 2 == 1
  let sb := mn / 2 % 2 == 1
  let p (k : Nat) := byteInt sa a k * byteInt sb b k
  writeInt t sat (readInt t c + p 0 + p 1 + p 2 + p 3)
/-- 19 R449. -/
def isadVal (a b c : BitVec 64) : BitVec 64 :=
  let p (k : Nat) : Int := (byteInt false a k - byteInt false b k).natAbs
  wrapInt 4 (readInt 4 c + p 0 + p 1 + p 2 + p 3)

/-- A result of a bit type kept to its width. -/
def bitRes (t : Nat) (x : BitVec 64) : BitVec 64 := if typeWidth t == 64 then x else x &&& 0xFFFFFFFF

/-- 18 R380. -/
def andVal (t : Nat) (a b : BitVec 64) : BitVec 64 := bitRes t (a &&& b)
/-- 20 R480. -/
def orVal (t : Nat) (a b : BitVec 64) : BitVec 64 := bitRes t (a ||| b)
/-- 20 R480. -/
def xorVal (t : Nat) (a b : BitVec 64) : BitVec 64 := bitRes t (a ^^^ b)
/-- 19 R476. -/
def notVal (t : Nat) (a : BitVec 64) : BitVec 64 := bitRes t (~~~a)
/-- 19 R459: the OR over the table's ones of the minterms. -/
def lop3Val (t table : Nat) (a b c : BitVec 64) : BitVec 64 :=
  let term (i : Nat) : BitVec 64 :=
    if (table / 2 ^ i) % 2 == 1 then
      (if i % 2 == 1 then a else ~~~a) &&& (if i / 2 % 2 == 1 then b else ~~~b) &&& (if i / 4 % 2 == 1 then c else ~~~c)
    else 0
  bitRes t (term 0 ||| term 1 ||| term 2 ||| term 3 ||| term 4 ||| term 5 ||| term 6 ||| term 7)
/-- A shift count: 32 bits read as unsigned (20 R480). -/
def shiftCount (b : BitVec 64) : Nat := lowBits 32 b
/-- 20 R480. -/
def shlVal (t : Nat) (a b : BitVec 64) : BitVec 64 :=
  let n := typeWidth t
  if shiftCount b < n then BitVec.ofNat 64 (lowBits n a * 2 ^ shiftCount b % 2 ^ n) else 0
/-- 20 R480. -/
def shrVal (t : Nat) (a b : BitVec 64) : BitVec 64 :=
  let n := typeWidth t
  if shiftCount b < n then BitVec.ofNat 64 (lowBits n a / 2 ^ shiftCount b) else 0
/-- 20 R480. -/
def sarVal (t : Nat) (a b : BitVec 64) : BitVec 64 :=
  let n := typeWidth t
  bitRes t (BitVec.ofInt 64 (intOf n true a / 2 ^ min (shiftCount b) (n - 1)))
/-- 20 R480. -/
def rotlVal (t : Nat) (a b : BitVec 64) : BitVec 64 :=
  let n := typeWidth t
  let r := shiftCount b % n
  BitVec.ofNat 64 (lowBits n a * 2 ^ r % 2 ^ n + lowBits n a / 2 ^ (n - r))
/-- 18 R428. -/
def funlVal (a b c : BitVec 64) : BitVec 64 :=
  let sh := min (shiftCount b) 32
  BitVec.ofNat 64 ((lowBits 32 a * 2 ^ 32 + lowBits 32 c) * 2 ^ sh / 2 ^ 32 % 2 ^ 32)
/-- Position and length of a field within `n` bits (18 R388). -/
def fieldOf (n : Nat) (b : BitVec 64) : Nat × Nat :=
  let pos := b.toNat % 256
  let len := b.toNat / 256 % 256
  (pos, if pos < n then min (pos + len) n - pos else 0)
/-- 18 R388, R389. -/
def bfxVal (t mn : Nat) (a b : BitVec 64) : BitVec 64 :=
  let n := typeWidth t
  let (pos, w) := fieldOf n b
  let f := BitVec.ofNat 64 (lowBits n a / 2 ^ pos % 2 ^ w)
  if w == 0 then 0 else bitRes t (BitVec.ofInt 64 (intOf w (mn == 1) f))
/-- 18 R388. -/
def bfiVal (t : Nat) (a b c : BitVec 64) : BitVec 64 :=
  let n := typeWidth t
  let (pos, w) := fieldOf n b
  let cn := lowBits n c
  if w == 0 then BitVec.ofNat 64 cn
  else BitVec.ofNat 64 (cn - cn / 2 ^ pos % 2 ^ w * 2 ^ pos + lowBits w a * 2 ^ pos)
/-- 20 R480. -/
def popcVal (t : Nat) (a : BitVec 64) : BitVec 64 := BitVec.ofNat 64 (popNat (typeWidth t) (lowBits (typeWidth t) a))
/-- 18 R398. -/
def clzVal (t : Nat) (a : BitVec 64) : BitVec 64 :=
  let n := typeWidth t
  let x := lowBits n a
  BitVec.ofNat 64 (if x == 0 then n else n - 1 - Nat.log2 x)
/-- 18 R401. -/
def ctzVal (t : Nat) (a : BitVec 64) : BitVec 64 := BitVec.ofNat 64 (ctzNat (typeWidth t) (lowBits (typeWidth t) a))
/-- 18 R392. -/
def brevVal (t : Nat) (a : BitVec 64) : BitVec 64 := BitVec.ofNat 64 (revNat (typeWidth t) (lowBits (typeWidth t) a))
/-- Nibble `k` of `perm.nib`, byte `k` of `perm.ext` (20 R489). -/
def permVal (mn : Nat) (a b c : BitVec 64) : BitVec 64 :=
  let src := lowBits 32 c * 2 ^ 32 + lowBits 32 a
  let sel (k : Nat) := b.toNat / 16 ^ k % 16
  let byte (k : Nat) := src / 256 ^ k % 256
  let ext (k : Nat) :=
    let s := sel k
    if s ≤ 7 then byte s else if s == 8 then 0 else if s == 9 then 0xFF else if 128 ≤ byte (s - 10) then 0xFF else 0
  if mn == 0 then
    BitVec.ofNat 64 ((List.range 8).foldl (fun acc k => acc + src / 16 ^ sel k % 16 * 16 ^ k) 0)
  else BitVec.ofNat 64 ((List.range 4).foldl (fun acc k => acc + ext k * 256 ^ k) 0)

/-! Float. -/

/-- `fadd` (18 R409). -/
def faddVal (t rm : Nat) (a b : BitVec 64) : BitVec 64 := onElems2 t ((fmtOf t).addC rm) a b
/-- `fsub` (18 R426). -/
def fsubVal (t rm : Nat) (a b : BitVec 64) : BitVec 64 := onElems2 t ((fmtOf t).subC rm) a b
/-- `fmul` (18 R420). -/
def fmulVal (t rm : Nat) (a b : BitVec 64) : BitVec 64 := onElems2 t ((fmtOf t).mulC rm) a b
/-- `ffma` (18 R416). -/
def ffmaVal (t rm : Nat) (a b c : BitVec 64) : BitVec 64 := onElems3 t ((fmtOf t).fmaC rm) a b c
/-- `fmin` (18 R419). -/
def fminVal (t : Nat) (a b : BitVec 64) : BitVec 64 := onElems2 t ((fmtOf t).minMax false) a b
/-- `fmax` (18 R418). -/
def fmaxVal (t : Nat) (a b : BitVec 64) : BitVec 64 := onElems2 t ((fmtOf t).minMax true) a b
/-- The condition of `fcmp` on one element (18 R411). -/
def fcmpCond (t mn : Nat) (a b : BitVec 64) : Bool :=
  let f := fmtOf t
  floatCond mn (f.decode (lowBits (typeWidth t) a)) (f.decode (lowBits (typeWidth t) b))
/-- `fcmp` into a register: all ones for true, per element (18 R411). -/
def fcmpVal (t mn : Nat) (a b : BitVec 64) : BitVec 64 :=
  if packed t then
    onElems2 t (fun x y => if floatCond mn ((fmtOf t).decode x) ((fmtOf t).decode y) then 0xFFFF else 0) a b
  else boolWord (fcmpCond t mn a b)
/-- `frcp` (18 R421). -/
def frcpVal (t rm : Nat) (a : BitVec 64) : BitVec 64 := onElems1 t ((fmtOf t).rcpC rm) a
/-- `frsq` (18 R423). -/
def frsqVal (t rm : Nat) (a : BitVec 64) : BitVec 64 := onElems1 t (fun x => (fmtOf t).rsqrt rm ((fmtOf t).decode x)) a
/-- `fsqrt` (18 R425). -/
def fsqrtVal (t rm : Nat) (a : BitVec 64) : BitVec 64 := onElems1 t (fun x => (fmtOf t).sqrt rm ((fmtOf t).decode x)) a
/-- `fdiv` (18 R413). -/
def fdivVal (t rm : Nat) (a b : BitVec 64) : BitVec 64 :=
  onElems2 t (fun x y => (fmtOf t).div rm ((fmtOf t).decode x) ((fmtOf t).decode y)) a b
/-- `fex2` (18 R415). -/
def fex2Val (t : Nat) (a : BitVec 64) : BitVec 64 := onElems1 t (fun x => (fmtOf t).exp2 ((fmtOf t).decode x)) a
/-- `flg2` (18 R417). -/
def flg2Val (t : Nat) (a : BitVec 64) : BitVec 64 := onElems1 t (fun x => (fmtOf t).lg2 ((fmtOf t).decode x)) a
/-- `fsin` (18 R424). -/
def fsinVal (t : Nat) (a : BitVec 64) : BitVec 64 := onElems1 t (fun x => (fmtOf t).trig false ((fmtOf t).decode x)) a
/-- `fcos` (18 R412). -/
def fcosVal (t : Nat) (a : BitVec 64) : BitVec 64 := onElems1 t (fun x => (fmtOf t).trig true ((fmtOf t).decode x)) a
/-- `ftanh` (18 R427). -/
def ftanhVal (t : Nat) (a : BitVec 64) : BitVec 64 := onElems1 t (fun x => (fmtOf t).tanh ((fmtOf t).decode x)) a
/-- `fclass` (18 R410). -/
def fclassVal (t : Nat) (a : BitVec 64) : BitVec 64 := onElems1 t (fmtOf t).classMask a
/-- `frnd` (18 R422). -/
def frndVal (t rm : Nat) (a : BitVec 64) : BitVec 64 := onElems1 t ((fmtOf t).rnd rm) a

/-! Convert. Elements are held as a list of codes, element 0 first. -/

/-- How one element of a side is held: an integer of a width and signedness, or a float format. -/
inductive Elem where
  | int (n : Nat) (signed : Bool)
  | flt (f : Fmt)
deriving DecidableEq, Repr

/-- The element of a TYPE code (16 R346). -/
def elemOfType (t : Nat) : Elem := if t ≤ 9 then .int (typeWidth t) (typeSigned t) else .flt (fmtOf t)

/-- The element of a narrow code (17 R369). -/
def elemOfNarrow (md : Nat) : Elem :=
  match md with
  | 1 => .flt e4m3
  | 2 => .flt e5m2
  | 3 => .int 4 true
  | _ => .int 4 false

/-- Bits of an element. -/
def Elem.width : Elem → Nat
  | .int n _ => n
  | .flt f => f.width

/-- An integer of `n` bits as its code. -/
def intCode (n : Nat) (v : Int) : Nat := modInt v (2 ^ n)

/-- Bounds of an integer element. -/
def elemMin (n : Nat) (signed : Bool) : Int := if signed then -(2 ^ (n - 1)) else 0
def elemMax (n : Nat) (signed : Bool) : Int := if signed then 2 ^ (n - 1) - 1 else 2 ^ n - 1

/-- A float rounded to an integer element (18 R403, 05 R106). -/
def floatToInt (rm n : Nat) (signed : Bool) (v : FVal) : Nat :=
  match v with
  | .nan => 0
  | .inf s => intCode n (if s then elemMin n signed else elemMax n signed)
  | .fin s m e => intCode n (satInt (roundToInt rm s m e) (elemMin n signed) (elemMax n signed))

/-- One element converted (18 R403, 05 R106), an integer to a wider one exactly, whatever `.sat`; with a random word the rounding is stochastic (18 R405). -/
def convertElem (rm : Nat) (rnd : Option Nat) (sat : Bool) (src dst : Elem) (c : Nat) : Nat :=
  match src, dst with
  | .int n sg, .int m sg' =>
    let v := intOf n sg (BitVec.ofNat 64 c)
    intCode m (if sat && m ≤ n then satInt v (elemMin m sg') (elemMax m sg') else v)
  | .int n sg, .flt f => f.ofVal rm (FVal.ofInt (intOf n sg (BitVec.ofNat 64 c)))
  | .flt f, .int m sg => floatToInt rm m sg (f.decode c)
  | .flt f, .flt g =>
    match f.decode c with
    | .nan => g.nan
    | .inf s => if g.inf.isSome then g.infCode s else g.nan
    | .fin s n e => match rnd with
      | some r => g.roundSr r s n e
      | none => g.round rm s n e

/-- The registers of a side as words, and how its elements lie in them: `per` bits an element (18 R402). -/
def unpackElems (width per count : Nat) (x : Nat) : List Nat :=
  (List.range count).map (fun k => x / 2 ^ (per * k) % 2 ^ width)

/-- The code of an element as its container of `per` bits holds it: an 8- or 16-bit integer in a register of its own
is extended (18 R403, 05 R93). -/
def extendElem (e : Elem) (per : Nat) (c : Nat) : Nat :=
  match e with
  | .int n true => if per == n then c else intCode per (intOf n true (BitVec.ofNat 64 c))
  | _ => c

/-- The registers of a side from its element codes. -/
def packElems (e : Elem) (per : Nat) (l : List Nat) : Nat :=
  (l.foldr (fun c acc => extendElem e per c + 2 ^ per * acc) 0)

/-- The elements, element kind and bits an element of a side of `cvt`: (element, container bits, count) for TYPE `t`
beside a side of TYPE `u` (18 R402). -/
def sideOfType (t u : Nat) : Elem × Nat × Nat :=
  let n := if isPacked t || isPacked u then 2 else 1
  (elemOfType t, if isPacked t then 16 else if typeWidth t == 64 then 64 else 32, n)
where
  /-- An x2 type. -/
  isPacked (t : Nat) : Bool := t == 12 || t == 13

/-- The sides of `cvt` and `cvtsr`: source, then destination (18 R402). -/
def cvtSides (t mn md : Nat) : (Elem × Nat × Nat) × (Elem × Nat × Nat) :=
  if md == 0 then (sideOfType mn t, sideOfType t mn)
  else
    let count := if md ≤ 2 then 4 else 8
    let narrow := (elemOfNarrow md, (elemOfNarrow md).width, count)
    let wide := (elemOfType t, if t == 12 || t == 13 then 16 else 32, count)
    if mn == 0 then (wide, narrow) else (narrow, wide)

/-- `cvt` and `cvtsr` on a group of registers held as one number; `rnd` gives each element's random word for `cvtsr`
(18 R402 to R405). -/
def cvtVal (t mn md rm : Nat) (sat : Bool) (rnd : Nat → Option Nat) (x : Nat) : Nat :=
  let (src, dst) := cvtSides t mn md
  let codes := unpackElems src.1.width src.2.1 src.2.2 x
  packElems dst.1 dst.2.1 ((List.range codes.length).map (fun k =>
    convertElem rm (rnd k) sat src.1 dst.1 (codes.getD k 0)))

/-- The device generator (05 R105). -/
def randomWord (seed : BitVec 64) (c k : Nat) : Nat :=
  let z := seed + 0x9E3779B97F4A7C15#64 * BitVec.ofNat 64 (8 * c + k + 1)
  let z := (z ^^^ (z >>> 30)) * 0xBF58476D1CE4E5B9#64
  let z := (z ^^^ (z >>> 27)) * 0x94D049BB133111EB#64
  let z := z ^^^ (z >>> 31)
  (z >>> 48).toNat

/-! FP4 blocks (05 R107, R116, R117). -/

/-- The finite magnitude of a value at exponent `u`. -/
def magAt (v : FVal) (u : Int) : Nat :=
  match v with
  | .fin _ n e => n * 2 ^ (e - u).toNat
  | _ => 0

/-- The smallest E3M5 code whose value times 6 reaches `a` * 2 ^ -200 (05 R116): 31 above 186, 2^-7 below 6 * 2^-7. -/
def blockScale (a : Nat) : Nat :=
  let val (c : Nat) := magAt (e3m5.decode c) (-200)
  ((List.range 0xFE).map (· + 1)).find? (fun c => a ≤ 6 * val c) |>.getD 0xFE

/-- The E2M1 code of x / s, rounded to nearest and saturating (05 R116). -/
def blockElem (s : FVal) (x : FVal) : Nat := e2m1.div 0 x s

/-- A block encoded from eight values: the element codes and the scale (05 R116). -/
def encodeBlock (xs : List FVal) : List Nat × Nat :=
  if xs.any (fun x => match x with | .fin _ _ _ => false | _ => true) then (xs.map (fun _ => 0), 0xFF)
  else
    let a := xs.foldl (fun m x => max m (magAt x (-200))) 0
    if a == 0 then (xs.map (fun x => if x.sign then 8 else 0), 0)
    else
      let sc := blockScale a
      (xs.map (blockElem (e3m5.decode sc)), sc)

/-- The value of an element under a scale (05 R107, R109). -/
def blockValue (code scale : Nat) : FVal :=
  if scale == 0xFF then .nan
  else match e2m1.decode code, e3m5.decode scale with
    | .fin s n e, .fin _ m g => .fin s (n * m) (e + g)
    | _, _ => .nan

/-- `packf4` of eight FP32 registers held as one number: the element word and the scale word (20 R484). -/
def packf4Val (x : Nat) : Nat :=
  let (es, sc) := encodeBlock ((unpackElems 32 32 8 x).map f32.decode)
  packElems (.int 4 false) 4 es + 2 ^ 32 * sc

/-- `unpkf4` of an element word and a scale: eight FP32 registers (20 R542). -/
def unpkf4Val (x : Nat) : Nat :=
  let sc := x / 2 ^ 32 % 256
  packElems (.flt f32) 32 ((unpackElems 4 4 8 x).map (fun c => f32.ofVal 0 (blockValue c sc)))

/-- floor(log2 |x|) of a nonzero finite value; none otherwise (05 R112). -/
def binade (v : FVal) : Option Int :=
  match v with
  | .fin _ n e => if n == 0 then none else some ((Nat.log2 n : Int) + e)
  | _ => none

/-- The elements of a register as values, for `qblk` (20 R492). -/
def qblkElems (t : Nat) (a : BitVec 64) : List FVal :=
  if t == 13 then [bf16.decode (a.toNat % 2 ^ 16), bf16.decode (a.toNat / 2 ^ 16 % 2 ^ 16)] else [f32.decode (lowBits 32 a)]

/-- The band exponent of a set of values (20 R492, 05 R112). -/
def bandExponent (xs : List FVal) : Int :=
  match (xs.filterMap binade).max? with
  | none => 0
  | some e => 18 - e

/-! Residue (20 R481, R496, R500). -/

/-- `rsplit` (20 R481). -/
def rsplitVal (t mn : Nat) (a : BitVec 64) : BitVec 64 :=
  BitVec.ofNat 64 (modInt (intOf (if t == 3 then 64 else 32) true a) (modulus mn))
/-- `radd` (20 R481). -/
def raddVal (mn : Nat) (a b : BitVec 64) : BitVec 64 := BitVec.ofNat 64 ((lowBits 32 a + lowBits 32 b) % modulus mn)
/-- `rsub` (20 R481). -/
def rsubVal (mn : Nat) (a b : BitVec 64) : BitVec 64 :=
  BitVec.ofNat 64 (modInt ((lowBits 32 a : Int) - lowBits 32 b) (modulus mn))
/-- `rmul` (20 R481). -/
def rmulVal (mn : Nat) (a b : BitVec 64) : BitVec 64 := BitVec.ofNat 64 (lowBits 32 a * lowBits 32 b % modulus mn)
/-- `rmerge` (20 R500). -/
def rmergeVal (a : BitVec 64) : BitVec 64 :=
  let w := workingOf a
  if (List.range 8).any (fun j => !residueValid j (w.getD j 0)) then 0x8000000000000000
  else BitVec.ofInt 64 (crtValue w)
/-- `rchk`: the status word low, the replacement residue high (20 R496). -/
def rchkVal (a b : BitVec 64) : BitVec 64 :=
  match judge true (workingOf a ++ redundantOf b) with
  | .clean _ => 0
  | .fixed v j => BitVec.ofNat 64 (0x80000000 + j + 2 ^ 32 * residueOf j v)
  | _ => 0xC000000F

end Sys2Proof.Machine
end

