-- ==== Sys2Proof/Config.lean ====
section
/-! DEFINITION. What the spec leaves open: free values, each an opaque constant with no body. -/

namespace Sys2Proof.Config

/-- Any value the spec does not state, by the number of the read (log 2). -/
opaque freeWord : Nat → BitVec 64

/-- Which line of a full set a fill of L1 replaces (08 R178, log 7): clock, core, the line filled and the set's lines. -/
opaque l1Victim : Nat → Nat → Nat → List Nat → Nat

/-- Which line of a full set a fill of L2 replaces (08 R179, log 8): clock, the line filled and the lines that may go. -/
opaque l2Victim : Nat → Nat → List Nat → Nat

/-- Which entry a fill of a full TLB or set replaces (11 R241, log 8): clock, the core, or 128 and the quad, the context
and the page filled, and the pages held. -/
opaque tlbVictim : Nat → Nat → Nat → Nat → List Nat → Nat

/-- Which of the old values of a word, or the present one, a fetch gives while the grids that have written it run: clock and
physical address (16 R353, log 26). -/
opaque fetchPick : Nat → Nat → Nat

/-- Busy cycles of a migration (12 R272, log 69), and of an engine's access to a pod window, by the clock. -/
opaque migrationCycles : Nat → Nat
opaque podCycles : Nat → Nat

/-- Residue of a tile element the spec calls unspecified: mapping number, element index and channel (07 R144, log 9). -/
opaque tileResidue : Nat → Nat → Nat → BitVec 9

/-- Which of two allowed outcomes a 128-byte line takes after `discard`: use number and line (18 R406). -/
opaque discardZero : Nat → Nat → Bool

/-- Modulus and exponent of the RSA-4096 public key whose hash is fused (15 R332). -/
opaque bootKey : Nat × Nat

/-- The magic of a firmware image's header (15 R332). -/
opaque imageMagic : BitVec 64

/-- The fused minimum of the security version (15 R332). -/
opaque fusedSvn : Nat

/-- The device serial number of the attestation report (15 R333). -/
opaque serialNumber : BitVec 128

/-- The bytes of the attestation report's signature over a message (15 R333). -/
opaque attestSign : List Byte → List Byte

/-- The bytes of the device's certificate chain (15 R333). -/
opaque certChain : Unit → List Byte

/-- The stored signature of the scan test of a physical core (14 R319). -/
opaque scanGolden : Nat → BitVec 64

end Sys2Proof.Config
end

