-- ==== Sys2Proof/Machine/Map.lean ====
section
/-! DEFINITION. Finite maps as lists of key and value in rising order of key, and physical memory as one. -/

namespace Sys2Proof.Machine

/-- A map from keys to values; keys rise strictly. -/
abbrev SMap (α : Type) := List (Nat × α)

/-- The value at a key. -/
def mapFind {α : Type} : SMap α → Nat → Option α
  | [], _ => none
  | (k, v) :: m, n => if k == n then some v else mapFind m n

/-- The value at a key, or a default where the key is not listed. -/
def mapGet {α : Type} (d : α) (m : SMap α) (n : Nat) : α := (mapFind m n).getD d

/-- The map without a key. -/
def mapErase {α : Type} : SMap α → Nat → SMap α
  | [], _ => []
  | (k, v) :: m, n => if k == n then mapErase m n else (k, v) :: mapErase m n

/-- The map with a value at a key. -/
def mapSet {α : Type} : SMap α → Nat → α → SMap α
  | [], n, x => [(n, x)]
  | (k, v) :: m, n, x =>
    if n < k then (n, x) :: (k, v) :: m
    else if n == k then (n, x) :: m
    else (k, v) :: mapSet m n x

/-- The map with a value at a key, not listed when it is the default: the canonical form. -/
def mapPut {α : Type} [DecidableEq α] (d : α) (m : SMap α) (n : Nat) (x : α) : SMap α :=
  if x = d then mapErase m n else mapSet m n x

/-- The values of a map. -/
def mapValues {α : Type} (m : SMap α) : List α := m.map (·.2)

/-- The keys of a map. -/
def mapKeys {α : Type} (m : SMap α) : List Nat := m.map (·.1)

/-- A map with a value changed at a key that may be listed. -/
def mapModify {α : Type} (m : SMap α) (n : Nat) (f : α → α) : SMap α :=
  match mapFind m n with
  | none => m
  | some v => mapSet m n (f v)

/-- Byte-addressed memory (08 R171): an unlisted address reads as 0 (log 4). -/
abbrev Memory := List Host.Cell

/-- What an unlisted address reads as: 0 (log 4, DESIGN CHOICE, unsafe). -/
def unlistedByte : Byte := 0

/-- Addresses rise strictly from above `n`. -/
def risingFrom {α : Type} : Nat → SMap α → Bool
  | _, [] => true
  | n, (k, _) :: m => n ≤ k && risingFrom (k + 1) m

/-- The canonical form of memory: addresses strictly rising, and no entry equal to what an unlisted address reads as. -/
def Memory.wf (m : Memory) : Bool := risingFrom 0 m && m.all (fun c => c.2 != unlistedByte)

/-- Reads one byte. -/
def memRead (m : Memory) (a : Nat) : Byte := mapGet unlistedByte m a

/-- Writes one byte. -/
def memWrite (m : Memory) (a : Nat) (b : Byte) : Memory := mapPut unlistedByte m a b

/-- Reads `n` bytes. -/
def memReadBytes (m : Memory) (a : Nat) : Nat → List Byte
  | 0 => []
  | n + 1 => memRead m a :: memReadBytes m (a + 1) n

/-- Writes bytes at rising addresses. -/
def memWriteBytes (m : Memory) (a : Nat) : List Byte → Memory
  | [] => m
  | b :: bs => memWriteBytes (memWrite m a b) (a + 1) bs

/-- A list of bytes as a number, the first the least significant (00 R6). -/
def bytesToNat : List Byte → Nat
  | [] => 0
  | b :: bs => b.toNat + 256 * bytesToNat bs

/-- The first `n` bytes of a number, the least significant first (00 R6). -/
def natToBytes : Nat → Nat → List Byte
  | 0, _ => []
  | n + 1, x => BitVec.ofNat 8 x :: natToBytes n (x / 256)

end Sys2Proof.Machine
end

