-- ==== Sys2Proof/Syntax.lean ====
section
/-! DEFINITION. The syntax: one constructor for each row of spec/opcode_table.json. -/

namespace Sys2Proof

/-- The base word (16 R341): guard, sources b and a, destination d. -/
structure Base where
  g : BitVec 2
  b : BitVec 7
  a : BitVec 7
  d : BitVec 7
deriving DecidableEq, Repr

/-- The extended form (16 R343) but for its opcode and length, which the constructor and the form give. -/
structure Ext where
  gn : Bool
  minor : BitVec 6
  a : BitVec 8
  d : BitVec 8
  b : BitVec 8
  c : BitVec 8
  gp : BitVec 3
  kd : BitVec 2
  ka : BitVec 2
  kb : BitVec 2
  kc : BitVec 2
  typ : BitVec 4
  sat : Bool
  rm : BitVec 3
  sem : BitVec 2
  agent : BitVec 3
  stor : BitVec 2
  md : BitVec 5
  fs : Bool
  imm : BitVec 16
deriving DecidableEq, Repr

/-- How an instruction of more than one word is written (16 R339). -/
inductive Form where
  /-- LEN 0b01: three words. -/
  | ext (e : Ext)
  /-- LEN 0b11: five words, with a 64-bit literal. -/
  | extLit (e : Ext) (lit : BitVec 64)
  /-- LEN 0b10: a base word with a 64-bit literal. -/
  | baseLit (w : Base) (lit : BitVec 64)
deriving DecidableEq, Repr

/-- An instruction's fields after a base word is expanded (16 R342, 17 R366). -/
structure Fields where
  op : Nat
  e : Ext
  lit : Option (BitVec 64)
deriving DecidableEq, Repr

/-- What a pod peer asks of this device's window (15 R324). -/
inductive PodAccess where
  /-- Read of a number of bytes. -/
  | read (len : Nat)
  /-- Write of bytes. -/
  | write (bytes : List Byte)
  /-- Atomic of 18 R382: MINOR of `atom`, TYPE, operands b and c. -/
  | atomic (op typ : Nat) (b c : BitVec 64)
  /-- `atomw` of 18 R384: MINOR and the 32-byte operand. -/
  | wide (op : Nat) (c : BitVec 256)
  /-- `ratom` of 20 R494: the packed residues. -/
  | residues (r : BitVec 64)
deriving DecidableEq, Repr

/-- What the monitors of one die read in a period (15 R328): TMAX in 1/16 degree, POWER in 1/32 W, PROC. -/
structure DieSample where
  tmax : Int
  power : Nat
  proc : Nat
deriving DecidableEq, Repr

/-- What is measured at one connector pin (15 R331). -/
structure PinSample where
  res : Nat
  margin : Nat
  cls : Nat
deriving DecidableEq, Repr

/-- How a welt fails (06 R134, R137): it stops answering, or delivers wrong residues. -/
inductive WeltMode where
  /-- Contributes residues with all bits set. -/
  | silent
  /-- Delivers one value for every element. -/
  | stuck (value : BitVec 9)
  /-- Delivers the value listed for an element in place of that element's residue. -/
  | altered (elems : List (Nat × BitVec 9))
deriving DecidableEq, Repr

/-- Why a word is not an instruction: the rule of spec/ that rejects it. -/
inductive IllegalReason where
  /-- A base word of an opcode without a base form (16 R342). -/
  | noBaseForm
  /-- A literal on a base word whose field B is not 0, or with no operand b (16 R342). -/
  | badBaseLiteral
  /-- A MINOR, MOD, TYPE, RM or SAT that the opcode does not list (17 R367). -/
  | badVariant
  /-- A SEM, AGENT or STOR that 10 R215 does not allow. -/
  | badScope
  /-- FS on an instruction that is not long-latency (16 R352). -/
  | badFlagSelect
  /-- An operand kind, named register or alignment that the entry does not allow (16 R352). -/
  | badOperand
  /-- An immediate, or a literal, that the entry does not use (16 R347, R352). -/
  | badImmediate
  /-- GP 7 with GN 1 (16 R344). -/
  | badGuard
  /-- A scalar destination with a vector source (17 R372). -/
  | badScalar
  /-- Too few words were given. -/
  | tooShort
deriving DecidableEq, Repr

/-- Every row of spec/opcode_table.json. A device step comes from an agent of the machine or from outside it;
the others are instructions that a split issues. -/
inductive Instr where
  /-- IADD (R437): Integer add in the base form. -/
  | iadd (w : Base)
  /-- IADD_EXTENDED (R437): Integer add in an extended or literal form. -/
  | iaddExt (f : Form)
  /-- ISUB (R451): Integer subtract in the base form. -/
  | isub (w : Base)
  /-- ISUB_EXTENDED (R451): Integer subtract in an extended or literal form. -/
  | isubExt (f : Form)
  /-- IADDC (R438): Add with a carry predicate read and written. -/
  | iaddc (f : Form)
  /-- ISUBB (R438): Subtract with a borrow predicate read and written. -/
  | isubb (f : Form)
  /-- IMUL (R446): Integer multiply, low half, in the base form. -/
  | imul (w : Base)
  /-- IMUL_EXTENDED (R446): Integer multiply in an extended or literal form. -/
  | imulExt (f : Form)
  /-- IMAD (R442): Integer multiply-add with c = d in the base form. -/
  | imad (w : Base)
  /-- IMAD_EXTENDED (R442): Integer multiply-add in an extended or literal form. -/
  | imadExt (f : Form)
  /-- IMADW (R443): Widening multiply-add into a 64-bit pair in the base form. -/
  | imadw (w : Base)
  /-- IMADW_EXTENDED (R443): Widening multiply-add in an extended or literal form. -/
  | imadwExt (f : Form)
  /-- IDIV (R440): Integer divide truncating toward zero in the base form. -/
  | idiv (w : Base)
  /-- IDIV_EXTENDED (R440): Integer divide in an extended or literal form. -/
  | idivExt (f : Form)
  /-- IREM (R448): Integer remainder in the base form. -/
  | irem (w : Base)
  /-- IREM_EXTENDED (R448): Integer remainder in an extended or literal form. -/
  | iremExt (f : Form)
  /-- IMIN (R445): Integer minimum in the base form. -/
  | imin (w : Base)
  /-- IMIN_EXTENDED (R445): Integer minimum in an extended or literal form. -/
  | iminExt (f : Form)
  /-- IMAX (R444): Integer maximum in the base form. -/
  | imax (w : Base)
  /-- IMAX_EXTENDED (R444): Integer maximum in an extended or literal form. -/
  | imaxExt (f : Form)
  /-- IABS (R436): Integer absolute value in the base form. -/
  | iabs (w : Base)
  /-- IABS_EXTENDED (R436): Integer absolute value in the extended form. -/
  | iabsExt (f : Form)
  /-- INEG (R447): Integer negate in the base form. -/
  | ineg (w : Base)
  /-- INEG_EXTENDED (R447): Integer negate in the extended form. -/
  | inegExt (f : Form)
  /-- ICMP (R439): Integer compare for equality into a vector register in the base form. -/
  | icmp (w : Base)
  /-- ICMP_EXTENDED (R439): Integer compare in an extended or literal form. -/
  | icmpExt (f : Form)
  /-- ISEL (R450): Select a or b by a predicate. -/
  | isel (f : Form)
  /-- IDOT4 (R441): Four-byte dot product plus accumulator in the base form. -/
  | idot4 (w : Base)
  /-- IDOT4_EXTENDED (R441): Four-byte dot product in an extended or literal form. -/
  | idot4Ext (f : Form)
  /-- ISAD (R449): Sum of absolute byte differences plus accumulator. -/
  | isad (f : Form)
  /-- AND (R380): Bitwise AND in the base form. -/
  | andB (w : Base)
  /-- AND_EXTENDED (R380): Bitwise AND in an extended or literal form. -/
  | andBExt (f : Form)
  /-- OR (R480): Bitwise OR in the base form. -/
  | orB (w : Base)
  /-- OR_EXTENDED (R480): Bitwise OR in an extended or literal form. -/
  | orBExt (f : Form)
  /-- XOR (R480): Bitwise XOR in the base form. -/
  | xorB (w : Base)
  /-- XOR_EXTENDED (R480): Bitwise XOR in an extended or literal form. -/
  | xorBExt (f : Form)
  /-- NOT (R476): Bitwise complement in the base form. -/
  | notB (w : Base)
  /-- NOT_EXTENDED (R476): Bitwise complement in the extended form. -/
  | notBExt (f : Form)
  /-- LOP3 (R459): Three-input logic function by an 8-bit truth table. -/
  | lop3 (f : Form)
  /-- SHL (R480): Shift left in the base form. -/
  | shl (w : Base)
  /-- SHL_EXTENDED (R480): Shift left in an extended or literal form. -/
  | shlExt (f : Form)
  /-- SHR (R480): Logical shift right in the base form. -/
  | shr (w : Base)
  /-- SHR_EXTENDED (R480): Logical shift right in an extended or literal form. -/
  | shrExt (f : Form)
  /-- SAR (R480): Arithmetic shift right in the base form. -/
  | sar (w : Base)
  /-- SAR_EXTENDED (R480): Arithmetic shift right in an extended or literal form. -/
  | sarExt (f : Form)
  /-- ROTL (R480): Rotate left in the base form. -/
  | rotl (w : Base)
  /-- ROTL_EXTENDED (R480): Rotate left in an extended or literal form. -/
  | rotlExt (f : Form)
  /-- FUNL (R428): Funnel shift left of a:c with c = d in the base form. -/
  | funl (w : Base)
  /-- FUNL_EXTENDED (R428): Funnel shift in an extended or literal form. -/
  | funlExt (f : Form)
  /-- BFX (R389): Zero-extending bit-field extract in the base form. -/
  | bfx (w : Base)
  /-- BFX_EXTENDED (R389): Bit-field extract, including sign-extending, in an extended or literal form. -/
  | bfxExt (f : Form)
  /-- BFI (R388): Bit-field insert with c = d in the base form. -/
  | bfi (w : Base)
  /-- BFI_EXTENDED (R388): Bit-field insert in an extended or literal form. -/
  | bfiExt (f : Form)
  /-- POPC (R480): Population count in the base form. -/
  | popc (w : Base)
  /-- POPC_EXTENDED (R480): Population count in the extended form. -/
  | popcExt (f : Form)
  /-- CLZ (R398): Count leading zeros in the base form. -/
  | clz (w : Base)
  /-- CLZ_EXTENDED (R398): Count leading zeros in the extended form. -/
  | clzExt (f : Form)
  /-- CTZ (R401): Count trailing zeros in the base form. -/
  | ctz (w : Base)
  /-- CTZ_EXTENDED (R401): Count trailing zeros in the extended form. -/
  | ctzExt (f : Form)
  /-- BREV (R392): Bit reverse in the base form. -/
  | brev (w : Base)
  /-- BREV_EXTENDED (R392): Bit reverse in the extended form. -/
  | brevExt (f : Form)
  /-- PERM (R489): Nibble permute of c:a with c = d in the base form. -/
  | perm (w : Base)
  /-- PERM_EXTENDED (R489): Nibble or byte permute in an extended or literal form. -/
  | permExt (f : Form)
  /-- FADD (R409): Float add in the base form. -/
  | fadd (w : Base)
  /-- FADD_EXTENDED (R409): Float add in an extended or literal form. -/
  | faddExt (f : Form)
  /-- FSUB (R426): Float subtract in the base form. -/
  | fsub (w : Base)
  /-- FSUB_EXTENDED (R426): Float subtract in an extended or literal form. -/
  | fsubExt (f : Form)
  /-- FMUL (R420): Float multiply in the base form. -/
  | fmul (w : Base)
  /-- FMUL_EXTENDED (R420): Float multiply in an extended or literal form. -/
  | fmulExt (f : Form)
  /-- FFMA (R416): Fused multiply-add with c = d in the base form. -/
  | ffma (w : Base)
  /-- FFMA_EXTENDED (R416): Fused multiply-add in an extended or literal form. -/
  | ffmaExt (f : Form)
  /-- FMIN (R419): Float minimum in the base form. -/
  | fmin (w : Base)
  /-- FMIN_EXTENDED (R419): Float minimum in an extended or literal form. -/
  | fminExt (f : Form)
  /-- FMAX (R418): Float maximum in the base form. -/
  | fmax (w : Base)
  /-- FMAX_EXTENDED (R418): Float maximum in an extended or literal form. -/
  | fmaxExt (f : Form)
  /-- FCMP (R411): Float compare for equality into a vector register in the base form. -/
  | fcmp (w : Base)
  /-- FCMP_EXTENDED (R411): Float compare in an extended or literal form. -/
  | fcmpExt (f : Form)
  /-- FRCP (R421): Float reciprocal in the base form. -/
  | frcp (w : Base)
  /-- FRCP_EXTENDED (R421): Float reciprocal in the extended form. -/
  | frcpExt (f : Form)
  /-- FRSQ (R423): Float reciprocal square root in the base form. -/
  | frsq (w : Base)
  /-- FRSQ_EXTENDED (R423): Float reciprocal square root in the extended form. -/
  | frsqExt (f : Form)
  /-- FSQRT (R425): Float square root in the base form. -/
  | fsqrt (w : Base)
  /-- FSQRT_EXTENDED (R425): Float square root in the extended form. -/
  | fsqrtExt (f : Form)
  /-- FDIV (R413): Float divide in the base form. -/
  | fdiv (w : Base)
  /-- FDIV_EXTENDED (R413): Float divide in an extended or literal form. -/
  | fdivExt (f : Form)
  /-- FEX2 (R415): Float power of two in the base form. -/
  | fex2 (w : Base)
  /-- FEX2_EXTENDED (R415): Float power of two in the extended form. -/
  | fex2Ext (f : Form)
  /-- FLG2 (R417): Float base-2 logarithm in the base form. -/
  | flg2 (w : Base)
  /-- FLG2_EXTENDED (R417): Float base-2 logarithm in the extended form. -/
  | flg2Ext (f : Form)
  /-- FSIN (R424): Float sine in the base form. -/
  | fsin (w : Base)
  /-- FSIN_EXTENDED (R424): Float sine in the extended form. -/
  | fsinExt (f : Form)
  /-- FCOS (R412): Float cosine in the base form. -/
  | fcos (w : Base)
  /-- FCOS_EXTENDED (R412): Float cosine in the extended form. -/
  | fcosExt (f : Form)
  /-- FTANH (R427): Float hyperbolic tangent in the base form. -/
  | ftanh (w : Base)
  /-- FTANH_EXTENDED (R427): Float hyperbolic tangent in the extended form. -/
  | ftanhExt (f : Form)
  /-- FCLASS (R410): Float class mask in the base form. -/
  | fclass (w : Base)
  /-- FCLASS_EXTENDED (R410): Float class mask in the extended form. -/
  | fclassExt (f : Form)
  /-- FRND (R422): Round to an integral value in the base form. -/
  | frnd (w : Base)
  /-- FRND_EXTENDED (R422): Round to an integral value in the extended form. -/
  | frndExt (f : Form)
  /-- CVT (R402): Convert between wide and narrow formats. -/
  | cvt (f : Form)
  /-- CVTSR (R405): Convert with stochastic rounding from the device generator. -/
  | cvtsr (f : Form)
  /-- PACKF4 (R484): Encode eight FP32 values as one FP4 block. -/
  | packf4 (f : Form)
  /-- UNPKF4 (R542): Decode one FP4 block into eight FP32 values. -/
  | unpkf4 (f : Form)
  /-- QBLK (R492): Compute the band exponent over the split's values. -/
  | qblk (f : Form)
  /-- RSPLIT (R481): Residue of a 32-bit value in channel 0 in the base form. -/
  | rsplit (w : Base)
  /-- RSPLIT_EXTENDED (R481): Residue of a value in any channel in the extended form. -/
  | rsplitExt (f : Form)
  /-- RMERGE (R500): Reconstruct a signed 64-bit value from eight working residues. -/
  | rmerge (f : Form)
  /-- RADD (R481): Residue add in channel 0 in the base form. -/
  | radd (w : Base)
  /-- RADD_EXTENDED (R481): Residue add in any channel in an extended or literal form. -/
  | raddExt (f : Form)
  /-- RSUB (R481): Residue subtract in channel 0 in the base form. -/
  | rsub (w : Base)
  /-- RSUB_EXTENDED (R481): Residue subtract in any channel in an extended or literal form. -/
  | rsubExt (f : Form)
  /-- RMUL (R481): Residue multiply in channel 0 in the base form. -/
  | rmul (w : Base)
  /-- RMUL_EXTENDED (R481): Residue multiply in any channel in an extended or literal form. -/
  | rmulExt (f : Form)
  /-- RCHK (R496): Check a residue vector and report a correctable channel in the base form. -/
  | rchk (w : Base)
  /-- RCHK_EXTENDED (R496): Check a residue vector in the extended form. -/
  | rchkExt (f : Form)
  /-- MOV (R465): Copy a vector register in the base form. -/
  | mov (w : Base)
  /-- MOV_EXTENDED (R465): Copy a register or predicate in the extended form. -/
  | movExt (f : Form)
  /-- MOVI (R466): Write an immediate value. -/
  | movi (f : Form)
  /-- GETS (R435): Read a system value. -/
  | gets (f : Form)
  /-- SETS (R501): Write a system value. -/
  | sets (f : Form)
  /-- VOTE (R514): Ballot a predicate over the split's guard-true lanes. -/
  | vote (f : Form)
  /-- SHFL (R502): Read a register of another lane of the split. -/
  | shfl (f : Form)
  /-- MATCH (R460): Sort the split's lanes into classes of equal value. -/
  | matchOp (f : Form)
  /-- REDX (R497): Reduce a value over the split on the fixed tree. -/
  | redx (f : Form)
  /-- WIDTH (R516): Write split.width and gang.width. -/
  | widthOp (f : Form)
  /-- REGANG (R498): Arrive at a regang rendezvous with a live set. -/
  | regang (f : Form)
  /-- SPAWN (R504): Request new threads with a payload and optional join counter. -/
  | spawn (f : Form)
  /-- JINIT (R452): Write a join counter in scratchpad. -/
  | jinit (f : Form)
  /-- JWAIT (R453): Wait until the join counters read 0. -/
  | jwait (f : Form)
  /-- EXIT (R408): End the guard-true lanes, decrementing join counters and barrier counts. -/
  | exitOp (f : Form)
  /-- LNCH (R457): Append a launch record to a device-fed queue. -/
  | lnch (f : Form)
  /-- QTOK_NEW (R271): Arm the lowest free queue token. -/
  | qtokNew (f : Form)
  /-- QTOK_TEST (R271): Read the state of a queue token. -/
  | qtokTest (f : Form)
  /-- QTOK_FREE (R271): Free a signalled or failed queue token. -/
  | qtokFree (f : Form)
  /-- BRA (R391): Branch to a code address. -/
  | bra (f : Form)
  /-- BRX (R393): Branch to addresses in a register pair. -/
  | brx (f : Form)
  /-- CALL (R396): Write a link and branch to a code address. -/
  | callOp (f : Form)
  /-- CALLX (R397): Write a link and branch to a register address. -/
  | callx (f : Form)
  /-- RET (R499): Branch through a link pair. -/
  | retOp (f : Form)
  /-- LOOP (R458): Decrement a counter and branch while it is nonzero. -/
  | loopOp (f : Form)
  /-- YIELD (R518): End the clause with the yield hint. -/
  | yieldOp (f : Form)
  /-- NOP (R475): Do nothing. -/
  | nop (f : Form)
  /-- BKPT (R390): Raise the breakpoint trap. -/
  | bkpt (f : Form)
  /-- TRAP (R509): Raise the user trap with a code. -/
  | trapOp (f : Form)
  /-- TRET (R286): Return from a trap handler and deliver the oldest held trap. -/
  | tret (f : Form)
  /-- WAITF (R515): Begin a clause that waits for flags to clear. -/
  | waitf (f : Form)
  /-- PHINT (R490): Mark a pre-emption stopping point with a live set and scratchpad range. -/
  | phint (f : Form)
  /-- VCOMMIT (R513): Commit the group's held version. -/
  | vcommit (f : Form)
  /-- LD (R454): Load from a global address. -/
  | ld (f : Form)
  /-- ST (R505): Store to a global address. -/
  | st (f : Form)
  /-- LDS (R456): Load from scratchpad. -/
  | lds (f : Form)
  /-- STS (R507): Store to scratchpad. -/
  | sts (f : Form)
  /-- WIN (R517): Load a window register by translating its base. -/
  | win (f : Form)
  /-- ATOM (R382): Atomic read-modify-write per lane. -/
  | atom (f : Form)
  /-- ATOMW (R384): Atomic read-modify-write of a 32-byte block. -/
  | atomw (f : Form)
  /-- RATOM (R494): Add a residue vector to an RP8 element atomically. -/
  | ratom (f : Form)
  /-- FENCE (R414): Order the split's accesses by semantics and scope. -/
  | fence (f : Form)
  /-- PREF (R491): Hint a cache fill. -/
  | pref (f : Form)
  /-- DISCARD (R406): Drop a range's cached contents, leaving old bytes or zeros. -/
  | discard (f : Form)
  /-- NZERO (R477): Zero a near-window range inside its sinter layer. -/
  | nzero (f : Form)
  /-- NCOPY (R473): Copy a near-window range inside its sinter layer. -/
  | ncopy (f : Form)
  /-- NCMP (R472): Compare two near-window ranges inside a sinter layer. -/
  | ncmp (f : Form)
  /-- NFENCE (R474): Order in-layer operations against ordinary accesses. -/
  | nfence (f : Form)
  /-- CPY (R399): Queue one copy request from scalar registers. -/
  | cpy (f : Form)
  /-- CPYL (R400): Queue a list of copy requests from scratchpad. -/
  | cpyl (f : Form)
  /-- TDEF (R508): Set an empty tile entry's base and size. -/
  | tdef (f : Form)
  /-- TSTAT (R512): Read a tile entry word. -/
  | tstat (f : Form)
  /-- TREL (R510): Move a ready tile to draining. -/
  | trel (f : Form)
  /-- PBINIT (R487): Initialise a phase barrier. -/
  | pbinit (f : Form)
  /-- PBEXP (R486): Declare bytes due to a phase barrier. -/
  | pbexp (f : Form)
  /-- PBARV (R485): Arrive at a phase barrier. -/
  | pbarv (f : Form)
  /-- PBWAIT (R488): Wait until a phase barrier's generation changes. -/
  | pbwait (f : Form)
  /-- BDEF (R387): Set a barrier's member mask at a generation boundary. -/
  | bdef (f : Form)
  /-- BARV (R386): Arrive at a named or cohort barrier. -/
  | barv (f : Form)
  /-- BWAIT (R395): Wait for a barrier generation to complete. -/
  | bwait (f : Form)
  /-- BSYNC (R394): Arrive at a barrier and wait. -/
  | bsync (f : Form)
  /-- MSHAPE (R468): Request and set the gang's matrix shape. -/
  | mshape (f : Form)
  /-- MZERO (R470): Queue a command to zero an accumulator tile. -/
  | mzero (f : Form)
  /-- MMA (R464): Queue an accumulating matrix product. -/
  | mma (f : Form)
  /-- MLDC_RP8 (R463): Queue a tile load from RP8 data with a headroom. -/
  | mldcRp8 (f : Form)
  /-- MLDC_IMG (R463): Queue a tile restore from an msave image. -/
  | mldcImg (f : Form)
  /-- MDRAIN (R462): Queue a drain of a tile through the Cobbler. -/
  | mdrain (f : Form)
  /-- MSAVE (R467): Queue a save of a tile image. -/
  | msave (f : Form)
  /-- MSTAT (R469): Read matrix engine or tile status, optionally clearing status bits. -/
  | mstat (f : Form)
  /-- ISSUE_CYCLE (R47): Each cycle the issue stage orders the ready candidates by age and builds one slot of up to four instructions of one pipe class on non-overlapping slices. -/
  | issueCycle (core : Nat) (mismatch : List Nat)
  /-- LIFT_RECALL_DECISION (R44): Each cycle the core chooses gangs to lift to the sinter tier and lifted ready gangs to recall. -/
  | liftRecallDecision (core : Nat)
  /-- GANG_LIFT_COMPLETE (R44): A gang image finishes moving up the write bus into the sinter register tier. -/
  | gangLiftComplete (core slot : Nat)
  /-- GANG_RECALL_COMPLETE (R44): A lifted gang image finishes moving down the read bus into the physical file, and the gang is present again. -/
  | gangRecallComplete (core slot : Nat)
  /-- GANG_RETIRE (R53): A gang whose lanes have all exited and whose matrix commands have all retired frees its slot, file and tier space. -/
  | gangRetire (core slot : Nat)
  /-- GEYSER_FORM (R83): Each cycle the Geyser may form one full or partial spawned gang from the landed records of one bucket, discarding stale records. -/
  | geyserForm (core : Nat)
  /-- REFILL_BATCH_BEGIN (R81): A refill batch begins reading the next B records of a group's spill ring when quota and queue room allow. -/
  | refillBatchBegin (core : Nat)
  /-- SPILL_RECORD_LAND (R81): A record of a refill batch reaches the spawn queue, 40 cycles after the read begins, and becomes landed with its GSLOT and GGEN rewritten. -/
  | spillRecordLand (core : Nat)
  /-- BARRIER_COMPLETION_ARRIVE (R210): Barrier completion reaches a member gang within 12 cycles, or 40 for a cohort barrier, and its waiting splits continue. -/
  | barrierCompletionArrive (core slot bar : Nat)
  /-- BARRIER_STALL_TIMEOUT (R213): A barrier's stall timer expires before completion and the barrier-stall trap falls due in every member gang with a waiting split. -/
  | barrierStallTimeout (core gslot bar : Nat)
  /-- REGANG_COMPLETE (R72): Once every awaited lane has arrived or exited and no register write is in flight, the lanes move into the participating gangs in (gang.id, lane.home) order. -/
  | regangComplete (core gslot : Nat)
  /-- REGANG_TIMEOUT (R71): The rendezvous timer reaches the barrier-stall timeout and the trap falls due in every participant with a split waiting. -/
  | regangTimeout (core gslot : Nat)
  /-- WATCHDOG_EXPIRY (R287): A split waiting on a flag, join, tile, phase barrier, version way or split record reaches LIMIT and takes the watchdog trap. -/
  | watchdogExpiry (core slot split : Nat)
  /-- LONG_LATENCY_COMPLETE (R337): A long-latency operation completes and its completion flag clears once no other operation assigned to it is in flight. -/
  | longLatencyComplete (core slot : Nat)
  /-- ENGINE_FAULT_DELIVERY (R162): A matrix-command or copy fault is delivered as a trap to the placing gang at its next clause boundary. -/
  | engineFaultDelivery (core slot : Nat)
  /-- COPY_ACCEPT (R201): The copy engine accepts the next queued request once its destination tile is empty and source tile ready. -/
  | copyAccept (core : Nat)
  /-- COPY_CHUNK_PERFORMED (R202): A 512-byte chunk of a copy is performed and credits its bytes to the phase barrier when PBV is set. -/
  | copyChunkPerformed (core : Nat)
  /-- MATRIX_CMD_ACCEPT (R155): The matrix engine accepts the next queued command, applying the headroom update or refusal for an mma. -/
  | matrixCmdAccept (core : Nat)
  /-- SCOPE_COMMAND_START (R159): A pair or quad command starts once every follower engine has finished its running commands, slaving the followers. -/
  | scopeCommandStart (core : Nat)
  /-- MMA_RETIRE (R152): An mma whose rows have completed all K steps lands its last products and retires. -/
  | mmaRetire (core : Nat)
  /-- MZERO_DONE (R164): An mzero command finishes zeroing the tile's residues, poison marks and headroom state in 8 cycles. -/
  | mzeroDone (core : Nat)
  /-- DRAIN_COMPLETE (R168): A drain finishes converting and writing every element of the tile and retires. -/
  | drainComplete (core : Nat)
  /-- MSAVE_COMPLETE (R166): An msave finishes writing the tile image and retires. -/
  | msaveComplete (core : Nat)
  /-- MLDC_COMPLETE (R165): An mldc finishes loading the tile from RP8 data or an image and retires. -/
  | mldcComplete (core : Nat)
  /-- IN_LAYER_COMPLETE (R190): An in-layer operation finishes in its sinter layer, writes sd for ncmp and clears its flag. -/
  | inLayerComplete (core : Nat)
  /-- PREEMPT_DEADLINE (R291): preempt.deadline passes and each remaining split stops at its next clause boundary. -/
  | preemptDeadline (ctx : Nat)
  /-- GANG_SAVE (R296): The save engine writes a stopped gang's record to the save area. -/
  | gangSave (core slot : Nat)
  /-- CONTEXT_SAVED (R296): The save engine writes a group's other sections, then the directory and header, and the Vent frees the cores. -/
  | contextSaved (ctx : Nat)
  /-- SAVE_FAILURE (R297): A save-area write fails, the save is abandoned, the gangs resume and pre-emption is retried or the context killed. -/
  | saveFailure (ctx : Nat)
  /-- CONTEXT_RESUME (R298): The Vent restores a saved context's groups, checks CRCs, re-queues records and commands and releases the gangs. -/
  | contextResume (ctx : Nat)
  /-- CONTEXT_KILL (R300): A kill increments GEN, stops the context's gangs, discards its work and versions, and records kill points. -/
  | contextKill (ctx : Nat)
  /-- KILL_COMPLETE (R300): Once every write of the context is performed or dropped, STATE becomes 3, queued launches finish 0x04 and tokens free. -/
  | killComplete (ctx : Nat) (dropped : List Nat)
  /-- QUEUE_SWITCH_OUT (R260): The Vent writes a mapped queue's pointers to its descriptor and switches it out. -/
  | queueSwitchOut (queue : Nat)
  /-- POD_JOIN_TIMEOUT (R274): If not all PODN devices join within 2 s the launch finishes with status 0x05. -/
  | podJoinTimeout (plid : Nat)
  /-- VENT_TAKEOVER (R278): When a Vent core halts on an uncorrectable error the standby cuts it off, repairs the journal, rescans kicks and releases held completions. -/
  | ventTakeover (vcore : Nat)
  /-- SHADOW_COMPARE (R310): Within 64 cycles of both copies reaching a commit point the Vent compares signatures and commits or fails both. -/
  | shadowCompare (core gslot : Nat)
  /-- TASK_DISCARD_RETRY (R307): A failed retryable copy's version is discarded and the task placed again, or the launch fails when retries are used up. -/
  | taskDiscardRetry (core gslot reason : Nat)
  /-- SCOREBOARD_REBUILD (R311): After the squashed gang's in-flight operations drain, both scoreboard copies are rebuilt and the gang reissues. -/
  | scoreboardRebuild (core slot : Nat)
  /-- SCAN_TEST_START (R319): Vent core 3 starts the in-field scan test of an idle core once per INTERVAL. -/
  | scanTestStart (pcore : Nat)
  /-- PEER_LOST (R288): A peer in recovery for 2 s or declared lost completes every wait on it with status peer-lost. -/
  | peerLost (device : Nat)
  /-- BOIL_GOVERNOR_PERIOD (R328): Every 10 µs the boil governor computes the tower and per-die DUTY. -/
  | boilGovernorPeriod (dies : List DieSample)
  /-- WELT_REPOWER (R330): A tripped welt below 95 °C for 10 s is powered again with zero residues. -/
  | weltRepower (welt : Nat)
  /-- LAYER_REPOWER (R330): A lost sinter layer below 80 °C for 10 s is powered again and its cores scan-tested. -/
  | layerRepower (layer : Nat)
  /-- PRS_MAPPED (R250): A PRS response with STATUS 0 makes every waiter walk again and retires the request. -/
  | prsMapped (v : BitVec 64)
  /-- PRS_REFUSED (R250): A PRS response with STATUS 1 gives lane waiters the translation-refused trap and engine waiters a fault. -/
  | prsRefused (v : BitVec 64)
  /-- PRS_DISCARD (R250): A PRS response with no matching request, a stale generation or STATUS 2 or 3 is discarded and PRQ_STALE counts it. -/
  | prsDiscard (v : BitVec 64)
  /-- TLBI_PAGE (R252): A TLBI write of SIZE 0 to 2 queues an invalidation of one page of a context. -/
  | tlbiPage (v : BitVec 64)
  /-- TLBI_CONTEXT (R252): A TLBI write of SIZE 3 queues an invalidation of every entry of a context. -/
  | tlbiContext (v : BitVec 64)
  /-- MIG_CMD (R253): A MIG_CMD write while not busy checks the range and starts migrating a 2 MiB range between tiers. -/
  | migCmd (v : BitVec 128)
  /-- CTX_CMD_SUSPEND (R301): A CTX_CMD write with OP 1 pre-empts a context to resume only on OP 2. -/
  | ctxCmdSuspend (ctx : Nat)
  /-- CTX_CMD_RESUME (R301): A CTX_CMD write with OP 2 resumes a context suspended by the driver. -/
  | ctxCmdResume (ctx : Nat)
  /-- CTX_CMD_KILL (R301): A CTX_CMD write with OP 3 kills a context. -/
  | ctxCmdKill (ctx : Nat)
  /-- QTAIL_WRITE (R260): A QTAIL write sets a host-fed queue's tail and its kick bit. -/
  | qtailWrite (queue : Nat) (v : BitVec 32)
  /-- TOK_REQ_WRITE (R271): A TOK_REQ write arms the lowest free token for a context and reports its index in TOK_RES. -/
  | tokReqWrite (v : BitVec 32)
  /-- POD_LAUNCH_JOIN (R274): A device reading a pod launch record joins the participants found by PLID over UALink. -/
  | podLaunchJoin (plid device : Nat)
  /-- POD_BATCH_CLAIM (R274): A participant claims a batch of up to 64 group indices from the leader. -/
  | podBatchClaim (plid device stage count : Nat)
  /-- POD_LEADER_ELECTION (R275): On the leader's failure the survivors elect the next-lowest device and rebuild the counter. -/
  | podLeaderElection (plid failed : Nat) (batches : List (Nat × Nat × Nat))
  /-- POD_PARTICIPANT_REPORT (R276): A participant whose batches are done and groups retired reports to the leader, which may declare completion. -/
  | podParticipantReport (plid device : Nat)
  /-- QUAR_SCRUB (R313): A QUAR_CMD write with GO starts a scrub of a quarantined granule. -/
  | quarScrub (v : BitVec 64)
  /-- AWL_AUDIT (R315): Once per millisecond the awl audits a link's permits against TOTAL. -/
  | awlAudit (link held occupied returned total : Nat)
  /-- SINTER_LAYER_LOSS (R317): A sinter layer's thermal trip cuts its power, kills contexts with state there, quarantines its granules and closes its cores. -/
  | sinterLayerLoss (layer : Nat)
  /-- SCAN_TEST_END (R319): A scan test ends after 200 µs and its signature is compared, with one rerun on mismatch. -/
  | scanTestEnd (pcore : Nat) (signature : BitVec 64)
  /-- PEER_RECOVERY_NOTICE (R288): A pod peer's report of recovery stops the watchdog of waits on it. -/
  | peerRecoveryNotice (device : Nat)
  /-- POD_REMOTE_ACCESS (R324): A UALink read, write or atomic from a peer arrives for the device's pod window. -/
  | podRemoteAccess (port pa : Nat) (acc : PodAccess)
  /-- POWER_LOSS (R327): The input falls below 700 V and the module removes power. -/
  | powerLoss (millivolts : Nat)
  /-- FIRMWARE_START (R332): Started firmware runs the boot scan, writes the logical core map and reaches state 5. -/
  | firmwareStart (good disabled : List Nat) (expanders : List (Nat × Nat))
  /-- RAIL_TELEMETRY_UPDATE (R326): Every 10 µs each rail's voltage, current, temperature and ILIM are updated. -/
  | railTelemetryUpdate (rail volt curr : Nat) (temp : BitVec 12) (ilim : Bool)
  /-- CURRENT_LIMIT (R327): When rails 0 and 1 would pass 3,600 A the regulators set ILIM and DUTY drops 4 steps. -/
  | currentLimit (milliamps : Nat)
  /-- LAST_TRIP (R330): The Last reaching 125 °C puts the device in viral state with cause 0x6. -/
  | lastTrip (temp : Int)
  /-- WELT_TRIP (R330): A welt reaching 125 °C has its power cut and answers drains with all-ones residues. -/
  | weltTrip (welt : Nat) (temp : Int)
  /-- CONNECTOR_MEASURE (R331): Once per second each connector pin's resistance and margin are measured and TELE set on a bad value. -/
  | connectorMeasure (pins : List PinSample)
  /-- MGMT_MESSAGE (R334): A PCIe vendor-defined management message performs one 32-bit access to an allowed register. -/
  | mgmtMessage (write : Bool) (offset : Nat) (v : BitVec 32)
  /-- POD_CFG_WRITE (R325): A POD_CFG write sets DEVNUM and VALID, after which writes are ignored until reset. -/
  | podCfgWrite (v : BitVec 32)
  /-- MXR_VALID_SET (R186): A write setting VALID of an MX region takes effect only when its ranges are legal and disjoint. -/
  | mxrValidSet (n : Nat) (v : BitVec 64)
  /-- MXR_VALID_CLEAR (R186): A write of 0 to VALID deactivates the region once alias accesses in flight complete. -/
  | mxrValidClear (n : Nat)
  /-- REGISTER_WRITE (R7): A write to a register with no behaviour of its own sets its RW fields and clears its W1C bits. -/
  | registerWrite (offset : Nat) (wide : Bool) (v : BitVec 64)
  /-- BAR2_ACCESS (R322): A host read or write through BAR2 reaches HBM4 physical memory. -/
  | bar2Access (offset len : Nat) (write : Option (List (BitVec 8)))
  /-- EXPANDER_FAILURE (R184): A CXL expander that is removed or fails makes its window absent-memory, and pages mapped there fault. -/
  | expanderFailure (port : Nat)
  /-- PEER_VIRAL_NOTICE (R314): A viral notice received from a pod peer makes this device fence its ports to that peer and treat the peer as lost. -/
  | peerViralNotice (device : Nat)
  /-- UALINK_PORT_TRAINED (R316): A UALink port finishes training, at bring-up or after retraining, and carries traffic again. -/
  | ualinkPortTrained (port : Nat)
  /-- WELT_FAILURE (R137): A welt stops answering, or delivers altered residues, for a reason other than a thermal trip. -/
  | weltFailure (welt : Nat) (mode : WeltMode)
  /-- TLB_WALK_COMPLETE (R242): A page-table walk finishes, fills the TLBs, or finds an invalid, malformed or migrating entry. -/
  | tlbWalkComplete
  /-- PAGE_REQUEST_RECORD_WRITE (R249): The Vent writes a page-request record to the host ring and raises the page-request interrupt. -/
  | pageRequestRecordWrite
  /-- TLBI_COMPLETE (R252): An invalidation completes once every access translated through a removed entry is performed, and TLBI_PEND drops. -/
  | tlbiComplete
  /-- MIGRATION_COMPLETE (R253): After in-flight references drain and the copy finishes, the L1 entry is rewritten, MIG clears and waiting walks wake. -/
  | migrationComplete
  /-- VENT_SCHEDULING_PASS (R265): Vent core 0 scans enabled queues by priority, reads launches whose tokens are signalled and places groups. -/
  | ventSchedulingPass
  /-- LAUNCH_COMPLETION (R259): The Vent journals a finished launch, publishes PROG, writes its completion word and signals or fails its token. -/
  | launchCompletion
  /-- BUDGET_PERIOD (R272): A new 10 µs budget period begins and deferred work of spent levels may run again. -/
  | budgetPeriod
  /-- SCRUB_COMPLETE (R313): A scrub finishes zeroing the granule and lifts its quarantine. -/
  | scrubComplete
  /-- WELT_DEGRADE_SAMPLE (R318): Once per second Vent core 3 samples CONTAIN_WCNT and reports a degraded welt. -/
  | weltDegradeSample
  /-- POWER_ON (R332): At power-up Vent core 0 runs the boot ROM and waits for a firmware image. -/
  | powerOn
  /-- CONVENTIONAL_RESET (R314): A conventional reset of the device ends viral state and returns boot to state 1. -/
  | conventionalReset
  /-- FW_GO (R332): A FW_GO write makes the ROM read, measure and check the firmware image and start it or reject it. -/
  | fwGo
  /-- ATT_CMD_REPORT (R333): An ATT_CMD write of 1 writes a signed attestation report to the host buffer. -/
  | attCmdReport
  /-- ATT_CMD_CERT (R333): An ATT_CMD write of 2 writes the device identity certificate to the host buffer. -/
  | attCmdCert
  /-- CONTAIN_CLR_LOG (R141): Writing CLR_LOG clears the fields of CONTAIN_LOG except UNCORR. -/
  | containClrLog
  /-- CONTAIN_CLR_WCNT (R141): Writing CLR_WCNT sets every CONTAIN_WCNT to 0. -/
  | containClrWcnt
  /-- CEV_CLR_DROP (R305): Writing 1 to CLR_DROP sets DROPPED to 0. -/
  | cevClrDrop
  /-- L2_TAG_UNCORRECTABLE_ERROR (R314): An uncorrectable error in an L2 tag or version tag puts the device in viral state with cause 0x3. -/
  | l2TagUncorrectableError
deriving DecidableEq, Repr

end Sys2Proof
end

