-- ==== Sys2Proof/Machine/State.lean ====
section
/-! DEFINITION. The state of the machine, as plain data, and the machine right after reset. -/

namespace Sys2Proof.Machine

/-! ## Lanes, splits and gangs -/

/-- What a split can wait for (02 R51, 13 R281, R295); a fence waits for in-layer operations, which is no wait of 02 R51
(10 R229). -/
inductive WaitKind where
  | flag | join | tile | phase | version | record | barrier | regang | fence
deriving DecidableEq, Repr

/-- A wait of a split: what it waits for, the object (a mask of flags, or 0 for a link; a barrier and generation; a tile
entry and state; a line plus 1; an offset), the clock at which its timer
started, and the pod device it depends on (13 R287, R288). `acted` holds when the instruction has had
its effect and only waits for its completion; `ended` when the completion has reached the gang (09 R210, 03 R72);
`defines` when the wait is that of a `bdef` (09 R212). -/
structure Wait where
  kind : WaitKind
  obj : Nat
  since : Nat
  acted : Bool := false
  ended : Bool := false
  defines : Bool := false
  peer : Option Nat := none
deriving DecidableEq, Repr

/-- What a trapping split resumes when its handler returns (13 R286): its wait, whether it still stood unissued at its
header, and the lanes of a replay. -/
structure Resume where
  wait : Option Wait := none
  fresh : Bool := false
  replay : Option Mask := none
deriving DecidableEq, Repr

/-- How a split of a pending context stopped (13 R291): at a `phint` with a range, in a wait, or at the deadline. -/
inductive Stop where
  | phint (offset len : Nat)
  | wait
  | deadline
  /-- Several splits that stopped at a `phint` have merged: the ranges of all. -/
  | ranges (all : List (Nat × Nat))
deriving DecidableEq, Repr

/-- A split record (03 R55) with the age of the issue stage (02 R47). `fresh` holds while the split stands at its clause
header and has not issued from the clause (03 R58, R63); `handler` while it runs the trap handler (13 R283). -/
structure Split where
  mask : Mask
  pc : BitVec 52
  slot : Nat := 0
  /-- The words of the clause that the split runs, once they are fetched (11 R244). -/
  clause : List Word := []
  fresh : Bool := true
  trapPend : Bool := false
  starve : Nat := 0
  age : Nat := 0
  handler : Bool := false
  wait : Option Wait := none
  /-- What resumes when the handler returns (13 R286). -/
  resume : Option Resume := none
  stop : Option Stop := none
  /-- On a replay, the lanes whose access is still to be performed (11 R247, R248, R255). -/
  replay : Option Mask := none
  /-- Its fetch has found no page, and the whole split is unfinished (11 R247). -/
  missed : Bool := false
deriving DecidableEq, Repr

/-- What keeps a flag set until it completes (03 R69, 16 R337). -/
inductive OpKind where
  /-- A lane access, already performed (log 6), and whether it writes registers of its gang (02 R44). -/
  | lane (writes : Bool)
  /-- A lane access that has issued and that some lanes of its split, of these, have yet to make (11 R247, 16 R337). -/
  | waiting (lanes : Mask)
  /-- An engine's command, by the number the core gave it. -/
  | engine (id : Nat)
deriving DecidableEq, Repr

/-- An operation in flight and the flag it is assigned to. -/
structure Op where
  flag : Option Nat
  kind : OpKind
deriving DecidableEq, Repr

/-- A held trap (13 R284, R295): the split by a lane of it. -/
structure HeldTrap where
  cause : Nat
  lane : Nat
  tinfo : BitVec 64
  tmask : Mask
  /-- Where the split continues after a trap that continues after its instruction (13 R281). -/
  nextPc : BitVec 52 := 0
  nextSlot : Nat := 0
  /-- An engine's fault that fell due while the gang stood stopped (13 R302). -/
  engine : Bool := false
deriving DecidableEq, Repr

/-- Where a gang's image is (02 R41, R44, 04 R84). -/
inductive Residency where
  | present | lifting | lifted | recalling
  /-- A formed gang that waits for register space. -/
  | waitingRoom
deriving DecidableEq, Repr

/-- What a parked gang waits for (11 R247, R253). -/
inductive Park where
  /-- A page request of a 4 KiB page of the gang's context. -/
  | page (vpn : Nat)
  /-- The end of a migration. -/
  | migration
deriving DecidableEq, Repr

/-- A resident gang (02 R30, R36, R40). -/
structure Gang where
  ctx : Nat
  gslot : Nat
  /-- `gang.id` (02 R33). -/
  id : Nat
  /-- Role: 0 load, 1 store, 2 epilogue, 3 general (02 R39). -/
  role : Nat := 3
  width : Nat := 8
  /-- The register count R (02 R40). -/
  regs : Nat := 8
  /-- First slice (02 R37). -/
  base : Nat := 0
  /-- Vector registers, register n of `lane.home` h at 64 n + h. -/
  v : SMap Word := []
  s : SMap Word := []
  /-- p0 to p6, one bit a lane. -/
  p : SMap Mask := []
  q : BitVec 4 := 0
  /-- w0 to w7 (08 R195). -/
  w : SMap (BitVec 192) := []
  /-- The C bit of the leaf that each window was set from, one bit a window (11 R239, log 88). -/
  wCached : BitVec 8 := 0
  /-- Operations in flight; f0 to f11 are set while one is assigned to them (03 R69). -/
  ops : List Op := []
  /-- Split records in rotation order, the head first (03 R54). -/
  splits : List Split := []
  quantum : Nat := 16
  /-- The current shape request (07 R147); none before a grant. -/
  shape : Option (BitVec 64) := none
  /-- The unfinished mask of the delivered trap (13 R283); that of a split that waits to replay is the split's (11 R247,
  R255). -/
  unfinished : Mask := 0
  tcause : Word := 0
  tpc : BitVec 64 := 0
  tmask : Mask := 0
  tinfo : BitVec 64 := 0
  /-- The cause with which the current trap was delivered (13 R286). -/
  delivered : Nat := 0
  /-- `tpc` was written by `sets` since delivery (13 R286). -/
  tpcWritten : Bool := false
  /-- `tmask` at delivery (13 R286). -/
  tmaskAt : Mask := 0
  /-- Where the split of the delivered trap continues after its instruction (13 R281, R286). -/
  nextPc : BitVec 52 := 0
  nextSlot : Nat := 0
  held : List HeldTrap := []
  /-- Traps that fell due while the gang was lifted; its records do not change before its recall (03 R74). -/
  due : List HeldTrap := []
  peerStatus : Word := 0
  /-- `preempt.deadline` in microseconds (13 R291). -/
  deadline : Nat := 20
  /-- Join addresses of the lanes that have one (04 R85). -/
  join : SMap Nat := []
  /-- Pending marks: barrier 0 to 15 for b, 16 to 19 for k (09 R210). -/
  pend : SMap Mask := []
  parked : Option Park := none
  /-- Clock at which it parked (02 R44). -/
  parkedAt : Nat := 0
  residency : Residency := .present
  /-- Cycle since which the gang is present, or lifted, or waits for room (02 R44). -/
  since : Nat := 0
  /-- Clock of the last issue. -/
  lastIssue : Option Nat := none
  /-- Union of the live sets of the stopped splits (13 R291). -/
  live : BitVec 256 := 0
  /-- The gang issues nothing until its operations drain (14 R311). -/
  squashed : Bool := false
  /-- End of the last rebuild (14 R311). -/
  rebuilt : Option Nat := none
  /-- The save engine has written the stopped gang's record (13 R296). -/
  saved : Bool := false
deriving DecidableEq, Repr

/-! ## Groups and cohorts -/

/-- A named barrier, or this group's part of a cohort barrier (09 R210). -/
structure Barrier where
  gen : Word := 0
  arrived : Nat := 0
  /-- Member mask over `gang.id` (09 R209); all launched gangs at launch. -/
  members : Mask := 0
  /-- The generation has had its first arrival (09 R213). -/
  begun : Bool := false
  /-- Clock at which the stall timer started (09 R213). -/
  timer : Option Nat := none
deriving DecidableEq, Repr

/-- States of a held task copy (14 R306). -/
inductive TaskState where
  | retryable | bound
deriving DecidableEq, Repr

/-- A rendezvous of `regang` (03 R71). -/
structure Rendezvous where
  /-- Gang slots that take part. -/
  parts : List Nat
  pc : BitVec 52
  slot : Nat
  mode : Nat
  live : BitVec 256
  /-- Lanes that have arrived, by gang slot. -/
  arrived : SMap Mask
  timer : Nat
  /-- First word of the instruction (03 R73). -/
  word : Word := 0
  /-- Where the survivors continue. -/
  nextPc : BitVec 52
  nextSlot : Nat
deriving DecidableEq, Repr

/-- A spawn record (04 R77) with the clock at which it landed. -/
structure SpawnRec where
  payload : List Word
  jaddr : Nat := 0
  npay : Nat := 0
  join : Bool := false
  spilled : Bool := false
  gslot : Nat := 0
  ggen : Nat := 0
  seq : Nat := 0
  entry : BitVec 52 := 0
  landed : Option Nat := none
deriving DecidableEq, Repr

/-- A resident group (02 R30, 12 R262 to R264). -/
structure Group where
  ctx : Nat
  /-- The launch, by queue and header slot. -/
  queue : Nat := 0
  lslot : Nat := 0
  /-- Ring slot of the header (14 R304). -/
  ringSlot : Nat := 0
  stage : Nat := 0
  /-- Group index in the stage (12 R265). -/
  index : Nat := 0
  x : Nat := 0
  y : Nat := 0
  z : Nat := 0
  width : Nat := 8
  /-- Launched gangs G. -/
  size : Nat := 1
  roles : Bool := false
  /-- Gangs of load, store, epilogue and general; register counts of the same. -/
  counts : List Nat := []
  regsOf : List Nat := []
  /-- Scratchpad range on the core, in bytes. -/
  sbase : Nat := 0
  ssize : Nat := 0
  /-- Physical accumulator tiles by name (07 R144). -/
  acc : List Nat := []
  /-- Entries of the core's tile table by name (08 R191). -/
  tiles : List Nat := []
  barriers : SMap Barrier := []
  quota : Nat := 0
  /-- Base VA and records of the spill area; ring counters (04 R79). -/
  spillBase : Nat := 0
  spillSize : Nat := 0
  spillHead : Nat := 0
  spillTail : Nat := 0
  /-- The spilled records that no batch has begun to read, as accepted, the oldest first (04 R77, R80). -/
  spilled : List SpawnRec := []
  handler : BitVec 52 := 0
  entry : BitVec 52 := 0
  seed : BitVec 64 := 0
  /-- Barrier-stall timeout in microseconds (09 R213). -/
  bst : Nat := 1000
  pdl : Nat := 20
  quantum : Nat := 16
  held : Bool := false
  shadow : Bool := false
  /-- Shadow copy number and the twin's core and group slot (14 R308). -/
  copy : Nat := 0
  twin : Option (Nat × Nat) := none
  /-- What `core.logical` returns (14 R308). -/
  lcoreSeen : Nat := 0
  retries : Nat := 0
  retryLimit : Nat := 0
  task : TaskState := .retryable
  /-- Bytes of the held version by physical address (08 R182). -/
  version : SMap Byte := []
  /-- The held writes to MX aliases, as they were made, the oldest first (05 R116, R117). -/
  aliasWrites : List (Nat × List Byte) := []
  sign : BitVec 64 := 0
  /-- Commit points passed, and whether the copy waits at one: 0 none, 1 `vcommit`, 2 retirement (14 R310). -/
  commits : Nat := 0
  atCommit : Nat := 0
  rank : Nat := 0
  cohortSize : Nat := 0
  /-- Rendezvous under way, each with its own gangs (03 R70). -/
  rendezvous : List Rendezvous := []
  /-- Merged scratchpad ranges of the `phint` stops (13 R292). -/
  ranges : List (Nat × Nat) := []
  /-- The save engine has written the group's image (13 R296). -/
  imaged : Bool := false
  /-- What stood where the grids that have finished since the group was placed have written (16 R353). -/
  oldCode : List (SMap Byte) := []
deriving DecidableEq, Repr

/-! ## Engines -/

/-- One accumulator element: ten residues and the poison mark (07 R145). -/
structure AccElem where
  res : List Nat
  poison : Bool := false
deriving DecidableEq, Repr

/-- An accumulator tile: elements that differ from the base; the base is zero, or unspecified since a mapping
(07 R144); the headroom state (06 R126) and the status bits (07 R169). -/
structure AccTile where
  unspec : Option Nat := some 0
  elems : SMap AccElem := []
  kacc : Nat := 0
  wmax : Nat := 0
  hb : Nat := 0
  hr : Nat := 0
  cert : Bool := true
  sat : Bool := false
  pois : Bool := false
  ovf : Bool := false
  unc : Bool := false
  hlim : Bool := false
  /-- Welts that were powered again and have not rejoined this tile (15 R330). -/
  stale : List Nat := []
deriving DecidableEq, Repr

/-- A reference of an engine's operation on a leaf page that it has translated (11 R254): the page's virtual and physical
base, log2 of its size, and the offsets in it between which it has bytes yet to read or write. -/
structure PageRef where
  va : Nat
  pa : Nat
  size : Nat
  first : Nat
  last : Nat
deriving DecidableEq, Repr

/-- An operand of `mma`: a tile ring, or an address and a row stride (07 R149, R150). -/
inductive MOperand where
  | ring (first len : Nat)
  | addr (base stride : Nat)
deriving DecidableEq, Repr

/-- A matrix command (07 R154), with what it carries from its issue. -/
inductive MKind where
  | mzero
  | mma (a b : MOperand) (shape : BitVec 64) (sat rel : Bool)
  | mldcRp8 (base stride hb : Nat)
  | mldcImg (base : Nat)
  | mdrain (desc : Nat)
  | msave (base : Nat)
deriving DecidableEq, Repr

/-- Where an `mma` stands in a tile ring (07 R149): the tile's place in the ring, the k-step it begins at, and whether
the engine is its reader. -/
structure RingPos where
  idx : Nat := 0
  start : Nat := 0
  reading : Bool := false
deriving DecidableEq, Repr

/-- A command in the matrix queue or running (07 R154). -/
structure MCommand where
  kind : MKind
  scope : Nat := 0
  /-- The tile's name in the group. -/
  tile : Nat
  slot : Nat
  gslot : Nat
  ctx : Nat
  id : Nat
  /-- k-steps completed of an `mma`, `MROW` (07 R160); the place of the next element or piece of another command, of a drain
in the order of `drainPlace` (07 R161). -/
  row : Nat := 0
  /-- Stopped on a page (07 R161). -/
  onPage : Option Park := none
  /-- References on pages (11 R254). -/
  refs : List PageRef := []
  /-- Drain descriptors as read at acceptance, by core of the scope (07 R167). -/
  descs : List (BitVec 256) := []
  /-- The ring of operand A on each core of the scope, and of operand B on the leader. -/
  ringA : List RingPos := []
  ringB : RingPos := {}
  /-- The drain has written the record of its first uncorrectable element (14 R303). -/
  reported : Bool := false
  /-- Interrupted by a pre-emption after its acceptance (07 R163). -/
  begun : Bool := false
  /-- The pod peer that its next access waits for (13 R288). -/
  peer : Option Nat := none
deriving DecidableEq, Repr

/-- One entry of the copy queue: a request held in registers, or a list in scratchpad (09 R199). -/
structure CopySlot where
  request : BitVec 512 := 0
  /-- Offset and count of a list, 0 of a single request. -/
  listAt : Nat := 0
  count : Nat := 0
  /-- Next entry of the list. -/
  index : Nat := 0
  slot : Nat
  gslot : Nat
  ctx : Nat
  id : Nat
deriving DecidableEq, Repr

/-- An accepted copy request with its next chunk (09 R202). -/
structure CopyRun where
  request : BitVec 512
  slot : Nat
  gslot : Nat
  ctx : Nat
  id : Nat
  chunk : Nat := 0
  /-- Its place in its list. -/
  index : Nat := 0
  /-- Stopped on a page (09 R204). -/
  onPage : Option Park := none
  /-- References on pages (11 R254). -/
  refs : List PageRef := []
  /-- The pod peer that its next access waits for (13 R288). -/
  peer : Option Nat := none
deriving DecidableEq, Repr

/-- An in-layer operation in flight (08 R188): kind 0 `nzero`, 1 `ncopy`, 2 `ncmp`. -/
structure NearOp where
  kind : Nat
  dst : Nat
  src : Nat
  len : Nat
  dreg : Nat
  layer : Nat
  /-- Clock of its arrival at the layer (08 R190). -/
  arrived : Nat
  slot : Nat
  gslot : Nat := 0
  ctx : Nat
  id : Nat
deriving DecidableEq, Repr

/-- A copy engine's or matrix engine's trap that waits for a clause boundary of its gang (07 R162). -/
structure EngineFault where
  slot : Nat
  tinfo : BitVec 64
deriving DecidableEq, Repr

/-- An entry of a TLB: context, virtual page base, log2 of its size, and the leaf (11 R241). -/
structure TlbEntry where
  ctx : Nat
  va : Nat
  size : Nat
  pte : BitVec 64
deriving DecidableEq, Repr

/-! ## Cores -/

/-- A logical core (02 R41). -/
structure Core where
  gangs : SMap Gang := []
  groups : SMap Group := []
  /-- Generations of the group slots (04 R78). -/
  ggen : SMap Nat := []
  /-- Round-robin pointer (02 R47). -/
  rr : Nat := 0
  /-- Scratchpad by core offset (08 R175). -/
  scratch : Memory := []
  /-- Phase barriers, by core offset, that an engine's credit has flipped, with the clock of the flip (20 R519). -/
  flips : SMap Nat := []
  /-- Tile table words (08 R192); an entry not listed is empty with base 0 and size 256. -/
  tileTab : SMap Word := []
  acc : SMap AccTile := []
  mqueue : List MCommand := []
  /-- Commands accepted and running. -/
  mrun : List MCommand := []
  /-- The leader core of a running scope command this engine follows (07 R159). -/
  slaved : Option Nat := none
  copyq : List CopySlot := []
  copyrun : List CopyRun := []
  near : List NearOp := []
  faults : List EngineFault := []
  spawnq : List SpawnRec := []
  /-- Acceptance count (04 R77). -/
  seq : Nat := 0
  /-- Lines of L1, each of 128 bytes (08 R178). -/
  l1 : SMap (BitVec 1024) := []
  tlb : List TlbEntry := []
  /-- Numbers for the operations in flight. -/
  opSeq : Nat := 0
deriving DecidableEq, Repr

/-! ## The device -/

/-- Who waits on a page request (11 R249). -/
inductive Waiter where
  /-- A lane access or a fetch: the gang, and a lane of the split. -/
  | gang (core slot lane : Nat)
  | copy (core id : Nat)
  | matrix (core id : Nat)
  | queue (n : Nat)
deriving DecidableEq, Repr

/-- An outstanding page request (11 R249). -/
structure PageRequest where
  tag : Nat
  ctx : Nat
  gen : Nat
  va : Nat
  lcore : Nat
  src : Nat
  wr : Bool
  ex : Bool
  waiters : List Waiter
  written : Bool := false
deriving DecidableEq, Repr

/-- A queue's pointers in the Vent (12 R258, R260). -/
structure Queue where
  head : Nat := 0
  tail : Nat := 0
  prog : Nat := 0
  mapped : Bool := false
  /-- Stopped until the driver corrects the descriptor (12 R258). -/
  stopped : Bool := false
  /-- The page request the queue waits on. -/
  onPage : Option Nat := none
  /-- Slots received from `lnch` and not yet read (12 R267, R268). -/
  recv : SMap (BitVec 512) := []
deriving DecidableEq, Repr

/-- A group to place again: stage, index in the stage, retries used, core it failed on (14 R307). -/
structure Again where
  stage : Nat
  index : Nat
  retries : Nat
  failedOn : List Nat
deriving DecidableEq, Repr

/-- A launch the Vent has read (12 R259). -/
structure Launch where
  queue : Nat
  slot : Nat
  ctx : Nat
  header : BitVec 512
  stages : List (BitVec 512)
  /-- Next group index of each stage. -/
  next : List Nat := []
  /-- Groups retired of each stage. -/
  retired : List Nat := []
  again : List Again := []
  /-- Largest retry count charged (14 R307). -/
  retries : Nat := 0
  /-- The status it finishes with once its groups are gone; 0 while it goes on. -/
  doom : Nat := 0
  finished : Bool := false
  status : Nat := 0
  /-- Index ranges of a pod launch claimed by this device: stage, first, count (12 R274). -/
  batches : List (Nat × Nat × Nat) := []
  started : Bool := false
  /-- A group of the launch found no room in the last pass (12 R266). -/
  starved : Bool := false
deriving DecidableEq, Repr

/-- A token of the table (12 R269): owner, and 1 armed, 2 signalled, 3 failed; free when not listed. `pod`: its signal is
that of a pod launch (12 R270, 10 R235). -/
structure Token where
  ctx : Nat
  st : Nat
  pod : Bool := false
deriving DecidableEq, Repr

/-- An action of the Vent that its journal records (12 R277). -/
inductive JournalAction where
  /-- A group of a launch is placed: queue, header slot, stage, index in the stage, logical core. -/
  | place (queue slot stage index core : Nat)
  /-- A group has retired on a core: queue, header slot, stage. -/
  | report (queue slot stage : Nat)
  /-- A launch has finished: queue, header slot, status. -/
  | complete (queue slot status : Nat)
  /-- A token's state changes: 0 free, 1 armed, 2 signalled, 3 failed. -/
  | token (index st : Nat)
  /-- A queue is mapped, or switched out. -/
  | switch (queue : Nat) (out : Bool)
  /-- PROG of a queue is published. -/
  | prog (queue value : Nat)
deriving DecidableEq, Repr

/-- An entry of the journal (12 R277): its sequence number, its action, and whether the copies in SRAM and in the mirror
hold it with a good CRC. -/
structure JournalEntry where
  seq : Nat
  action : JournalAction
  sram : Bool := true
  mirror : Bool := true
deriving DecidableEq, Repr

/-- A pre-emption under way (13 R289). -/
structure Preempt where
  since : Nat
  /-- By the driver, so that only OP 2 resumes it (13 R301). -/
  byDriver : Bool
  failures : Nat := 0
  /-- Level that caused it (12 R272). -/
  level : Nat := 0
deriving DecidableEq, Repr

/-- A saved group: the core and the group slot it was on, the group, its gangs and what its sections hold (13 R294). -/
structure SavedGroup where
  core : Nat
  gslot : Nat
  group : Group
  gangs : SMap Gang
  scratch : Memory
  tileWords : List Word
  accTiles : List AccTile
  /-- Merged scratchpad ranges that were saved (13 R292). -/
  ranges : List (Nat × Nat)
  spawn : List SpawnRec
  copies : List CopyRun
  copyWait : List CopySlot
  cmds : List MCommand
  /-- Engine faults of the group's gangs beyond what their records hold (13 R302). -/
  faults : List EngineFault := []
  /-- Offset and length of its image (13 R294). -/
  offset : Nat
  length : Nat
deriving DecidableEq, Repr

/-- A saved context (13 R296). -/
structure Saved where
  gen : Nat
  byDriver : Bool
  /-- Clock of the save. -/
  since : Nat
  groups : List SavedGroup
deriving DecidableEq, Repr

/-- A pod peer (13 R288). -/
structure Peer where
  /-- Clock since which it reports recovery. -/
  recovering : Option Nat := none
  lost : Bool := false
  viral : Bool := false
deriving DecidableEq, Repr

/-- A pod launch known by its identifier (12 R274): devices joined, granted batches by device, counters by stage, who
has reported, the clock of the first arrival. -/
structure PodLaunch where
  joined : List Nat := []
  batches : List (Nat × Nat × Nat × Nat) := []
  counters : List Nat := []
  reported : List Nat := []
  since : Nat := 0
  leader : Option Nat := none
  retries : Nat := 0
  /-- Index ranges of a failed device to grant again: stage, first, count (12 R275). -/
  lost : List (Nat × Nat × Nat) := []
  /-- The leader has declared completion (12 R276). -/
  done : Bool := false
deriving DecidableEq, Repr

/-- What stood, by physical address, where an unfinished grid has written, before its first write there: its queue, header
slot and context (16 R353). -/
structure Overwrite where
  queue : Nat
  lslot : Nat
  ctx : Nat
  old : SMap Byte := []
deriving DecidableEq, Repr

/-- A migration in progress (11 R253). -/
structure Migration where
  ctx : Nat
  va : Nat
  dpa : Nat
  tpa : Nat
  /-- Physical address of the L1 entry. -/
  entry : Nat
  toHbm : Bool
deriving DecidableEq, Repr

/-- A core's place in the slot being issued (02 R47): the split by a lane of it, and what its fetch read. The clause's
header address, the address after the instruction, whether it ends its clause, the flags the clause sets. -/
structure Cursor where
  core : Nat
  slot : Nat
  lane : Nat
  /-- The instruction's first word. -/
  word : Word := 0
  header : BitVec 52 := 0
  next : BitVec 52 := 0
  last : Bool := true
  first : Bool := true
  flagA : Option Nat := none
  flagB : Option Nat := none
  yield : Bool := false
  wait : BitVec 12 := 0
  /-- The instruction ends the retryability of its held group (14 R306, R321). -/
  binds : Bool := false
  /-- The words of the clause, as they were fetched (11 R244). -/
  clause : List Word := []
deriving DecidableEq, Repr

/-- A scan test in progress (14 R319): the physical core, its clock, and whether it is the rerun. -/
structure Scan where
  since : Nat
  rerun : Bool := false
deriving DecidableEq, Repr

/-- The state of the device. -/
structure State where
  /-- Arithmetic clock periods since reset (16 R361). -/
  clock : Nat := 0
  /-- Cycles of the periods in which the die's duty lets the machine work (15 R328). -/
  cycles : Nat := 0
  /-- The device control block's words by offset / 4 (00 R545); a word not listed holds its reset value. -/
  dcb : SMap Word := []
  /-- Physical memory (08 R171). -/
  mem : Memory := []
  /-- Lines held in L2 with their read counts, 0 when uncounted (08 R181). -/
  l2 : SMap Nat := []
  /-- Quarantined granules, by PA / 2 MiB (14 R312); the flag tells those of a lost layer, which do not count. -/
  quarantine : SMap Bool := []
  /-- Logical cores 0 to 127. -/
  cores : SMap Core := []
  /-- L2 TLBs by logical quad (11 R241). -/
  tlb2 : SMap (List TlbEntry) := []
  /-- Page requests (11 R249). -/
  pages : List PageRequest := []
  nextTag : Nat := 0
  /-- Invalidations pending (11 R252). -/
  tlbi : List (BitVec 64) := []
  migration : Option Migration := none
  /-- Context kills under way (13 R300). -/
  killing : List Nat := []
  queues : SMap Queue := []
  /-- `QDESC_BASE` [51:16] as the Vent read it when each queue was enabled, and `CTXT_BASE` [51:16] when each context was
  first placed (12 R261). -/
  queueBase : SMap Nat := []
  ctxBase : SMap Nat := []
  /-- Context records as the Vent read them when it first placed a group of each context (12 R256). -/
  ctxSeen : SMap (BitVec 128) := []
  launches : List Launch := []
  /-- What unfinished grids have overwritten (16 R353). -/
  overwritten : List Overwrite := []
  tokens : SMap Token := []
  /-- Round-robin pointers of the levels (12 R265). -/
  levels : SMap Nat := []
  /-- Budget spent in the period: 2048 activity + 16 core + level (12 R272). -/
  spent : SMap Nat := []
  /-- The Vent's journal, the oldest entry first (12 R277). -/
  journal : List JournalEntry := []
  /-- Reports of retired groups held until the Vent has journalled them (12 R277): queue, header slot, stage. -/
  completions : List (Nat × Nat × Nat) := []
  preempts : SMap Preempt := []
  /-- Contexts killed by a spill fault, as reported to the driver, the oldest first (04 R82). -/
  spillFaults : List Nat := []
  /-- Pre-emptions to request again at the next pass (13 R297). -/
  preemptAgain : SMap Preempt := []
  saved : SMap Saved := []
  /-- OP of the last `CTX_CMD` (13 R301). -/
  ctxOp : Nat := 0
  peers : SMap Peer := []
  pods : SMap PodLaunch := []
  /-- UALink ports that are trained and not disabled (15 R324). -/
  ports : List Nat := []
  /-- Answer of the last read by a pod peer (15 R324). -/
  podAnswer : List Byte := []
  /-- Answer of the last read by the host or a management message (15 R322, R334). -/
  answer : BitVec 64 := 0
  /-- MSI-X vectors sent to the host, the oldest first (15 R323). -/
  msix : List Nat := []
  /-- Clocks at which each bit of `IRQ_STAT` was last set, and at which its message was last sent; clocks at which each
  queue's bit of `CPL_PEND` was last set (15 R323). -/
  irqSet : SMap Nat := []
  irqSent : SMap Nat := []
  cplSet : SMap Nat := []
  /-- Bytes read last through BAR2 (15 R322). -/
  bar2 : List Byte := []
  /-- Welts that do not work (06 R137), by welt. -/
  welts : SMap WeltMode := []
  /-- Welts cut by a thermal trip, with the clock since which they were cool (15 R330). -/
  tripped : SMap (Option Nat) := []
  /-- Sinter layers lost, by number (14 R317), with the clock since which they were cool (15 R330). -/
  layersLost : SMap (Option Nat) := []
  /-- DTEMP of the dies (15 R328), 64 when not listed. -/
  dtemp : SMap Nat := []
  /-- Periods for which some DUTY has been below 64 (15 R328). -/
  dutyLow : Nat := 0
  /-- Scan tests in progress, by physical core (14 R319). -/
  scans : SMap Scan := []
  /-- Clock of the last full scan of each physical core (14 R319). -/
  scanned : SMap Nat := []
  /-- Links whose last audit failed for the first time (14 R316). -/
  suspects : List Nat := []
  /-- UALink ports that have failed and are disabled (14 R316). -/
  deadPorts : List Nat := []
  /-- The granule being scrubbed (14 R313), and whether it has been quarantined again meanwhile (14 R321). -/
  scrub : Option Nat := none
  scrubKeep : Bool := false
  /-- Clocks of the recent resets of each link (14 R316). -/
  linkResets : SMap (List Nat) := []
  /-- First power-up values of the connector's pins, and the last (15 R331). -/
  connFirst : List PinSample := []
  connLast : List PinSample := []
  /-- Welt counts of the last sample (14 R318), and the welts reported. -/
  weltCounts : List Nat := []
  weltReported : List Nat := []
  /-- Capacity of each expander, by port (08 R184). -/
  expanders : SMap Nat := []
  /-- Firmware measurement and version (15 R332, R333). -/
  fwMeasure : BitVec 512 := 0
  fwVersion : BitVec 64 := 0
  fwSvn : Word := 0
  /-- The attestation command in progress: 1 report, 2 certificate, 0 none (15 R333). -/
  attCmd : Nat := 0
  /-- The sensors' last readings of the dies, and the 10 µs period in which the governor last ran (15 R328). -/
  sensors : List DieSample := []
  governed : Nat := 0
  /-- The module has power (15 R327). -/
  powered : Bool := true
  /-- The device runs its firmware (15 R332). -/
  running : Bool := false
  /-- Physical cores in the spare pool (01 R20), in rising order. -/
  spares : List Nat := []
  /-- Physical cores at fault or disabled (01 R20). -/
  gone : List Nat := []
  /-- Vent cores that have halted (12 R278). -/
  ventDead : List Nat := []
  /-- Mappings of accumulator tiles and other uses of a free value (log 2). -/
  free : Nat := 0
  /-- Splits chosen for the slot being issued, in order (02 R47). -/
  issueQ : List Cursor := []
  /-- Steps still to come from the host and the physical world, in order (log 1). -/
  inbox : List Instr := []
  /-- The numbers of the journal's entries that each halt of a Vent core still to come finds bad in SRAM, and of those
  missing from the mirror (12 R278, log 93). -/
  upsets : List (List Nat × List Nat) := []
  /-- Which of the machine's own agents moves next (log 1). -/
  phase : Nat := 0
  /-- The event records of the present cycle, in the order of 14 R321, each with its physical core and KIND as a number, and
  that cycle's clock plus 1. -/
  cevNow : List (Nat × Nat) := []
  cevClock : Nat := 0
deriving DecidableEq, Repr

/-- Reset values of the device control block's words that are not 0 (01 R21, 06 R139, 12 R273, R279, 13 R287, 14 R320,
15 R328, R329, R332). -/
def dcbReset (n : Nat) : Word :=
  if n == 0x0000 then 0x0D710188
  else if n == 0x0404 / 4 then 0x00078000
  else if n == 0x0470 / 4 then 0xC0000018
  else if n == 0x0B10 / 4 then 0x1E800000
  else if n == 0x0B1C / 4 then 0xFFFFFFFF
  else if n == 0x0B28 / 4 then 0x000186A0
  else if 0x0D00 / 4 ≤ n && n < 0x0D00 / 4 + 112 then 0x00002134
  else if 0x1000 / 4 ≤ n && n < 0x1000 / 4 + 136 then 0x0000FF00
  else if 0x2180 / 4 ≤ n && n < 0x2180 / 4 + 26 then (if n % 2 == 0 then 0x08000000 else 0)
  else if n == 0x2200 / 4 then 0x8C000280
  else if n == 0x2204 / 4 then 0x80000000
  else if n == 0x2400 / 4 then 0x20000000
  else 0

/-- The machine right after reset: every register at the value of `dcbReset`, memory and cores with nothing in them,
and nothing under way. Values the spec does not state are those of log 5. -/
def State.reset : State := {}

/-- Why the machine stops with a fault. -/
inductive Fault where
  /-- An instruction is executed while no split has been chosen to issue. Raised by every instruction's meaning; safe:
  the machine never does it, since a step executes an instruction only for the split at the head of its slot. -/
  | noIssuer
deriving DecidableEq, Repr

/-- Why an instruction has no meaning. -/
inductive Refusal where
  /-- The instruction is not modelled. Raised by the arms of `exec` alone; safe. -/
  | notModelled (mnemonic : String)
deriving DecidableEq, Repr

end Sys2Proof.Machine
end

