-- ==== Sys2Proof/Machine/Device.lean ====
section
/-! DEFINITION. The device control block's words and fields, interrupts, containment events, the context table, and
the accessors of cores, groups and gangs. -/

namespace Sys2Proof.Machine

/-! ## Fields of words -/

/-- Bits `hi` to `lo` of a number. -/
def fieldN (x hi lo : Nat) : Nat := x / 2 ^ lo % 2 ^ (hi + 1 - lo)

/-- Bits `hi` to `lo` of a word. -/
def field {n : Nat} (w : BitVec n) (hi lo : Nat) : Nat := fieldN w.toNat hi lo

/-- A number with bits `hi` to `lo` set to a value. -/
def setFieldN (x hi lo v : Nat) : Nat := x - fieldN x hi lo * 2 ^ lo + v % 2 ^ (hi + 1 - lo) * 2 ^ lo

/-- A word with bits `hi` to `lo` set to a value. -/
def setField {n : Nat} (w : BitVec n) (hi lo v : Nat) : BitVec n := BitVec.ofNat n (setFieldN w.toNat hi lo v)

/-- A value kept at or below a bound. -/
def saturate (v hi : Nat) : Nat := min v hi

/-! ## The device control block -/

/-- The 32-bit word at a byte offset. -/
def reg32 (s : State) (off : Nat) : Word := mapGet (dcbReset (off / 4)) s.dcb (off / 4)

/-- The 64-bit register at a byte offset, low word first. -/
def reg64 (s : State) (off : Nat) : BitVec 64 := reg32 s (off + 4) ++ reg32 s off

/-- Sets the 32-bit word at a byte offset. -/
def setReg32 (s : State) (off : Nat) (v : Word) : State :=
  { s with dcb := mapPut (dcbReset (off / 4)) s.dcb (off / 4) v }

/-- Sets the 64-bit register at a byte offset. -/
def setReg64 (s : State) (off : Nat) (v : BitVec 64) : State :=
  setReg32 (setReg32 s off (v.extractLsb' 0 32)) (off + 4) (v.extractLsb' 32 32)

/-- Sets a field of a 32-bit register. -/
def setRegField (s : State) (off hi lo v : Nat) : State := setReg32 s off (setField (reg32 s off) hi lo v)

/-- Sets a field of a 64-bit register. -/
def setReg64Field (s : State) (off hi lo v : Nat) : State := setReg64 s off (setField (reg64 s off) hi lo v)

/-! Offsets of the registers the machine itself uses. -/

def offLcmapStat : Nat := 0x0004
def offLcmap (n : Nat) : Nat := 0x0100 + 4 * n
def offContainLog : Nat := 0x0400
def offWcnt (w : Nat) : Nat := 0x0410 + 4 * w
def offCevBase : Nat := 0x0440
def offCevPtr : Nat := 0x0448
def offQuarStat : Nat := 0x0450
def offAwlStat : Nat := 0x0460
def offViral : Nat := 0x0468
def offScanCfg : Nat := 0x0470
def offQuarCmd : Nat := 0x0458
def offTlbi : Nat := 0x0A00
def offXlatStat : Nat := 0x0A08
def offPrqBase : Nat := 0x0A10
def offPrqPtr : Nat := 0x0A18
def offPrs : Nat := 0x0A20
def offMigCmd : Nat := 0x0A30
def offQdescBase : Nat := 0x0B00
def offCtxtBase : Nat := 0x0B08
def offVentStat : Nat := 0x0B10
def offTokRes : Nat := 0x0B1C
def offCtxCmdStat : Nat := 0x0B24
def offWdogCfg : Nat := 0x0B28
def offKick (j : Nat) : Nat := 0x0C00 + 4 * j
def offBudget (a p : Nat) : Nat := 0x0D00 + 64 * a + 4 * p
def offCoreHealth (p : Nat) : Nat := 0x1000 + 4 * p
def offIrqStat : Nat := 0x2000
def offIrqMask : Nat := 0x2004
def offCplPend (j : Nat) : Nat := 0x2040 + 4 * j
def offRailTel (r : Nat) : Nat := 0x2100 + 8 * r
def offDieTel (d : Nat) : Nat := 0x2180 + 8 * d
def offBoilCfg : Nat := 0x2200
def offBoilStat : Nat := 0x2204
def offConnSel : Nat := 0x2300
def offConnData : Nat := 0x2304
def offBootStat : Nat := 0x2400
def offAttStat : Nat := 0x246C
def offPodCfg : Nat := 0x2480

/-- The lower half of a register whose write acts is recorded with the write, for a later write of the upper half alone
(00 R545). -/
def recordLow (off : Nat) (v : BitVec 64) (s : State) : State := setReg32 s off (v.extractLsb' 0 32)

/-- Microseconds since reset. -/
def micros (s : State) : Nat := s.clock / 850

/-- The device is viral (14 R314). -/
def isViral (s : State) : Bool := field (reg32 s offViral) 31 31 == 1

/-- Sets an interrupt source's bit (15 R323). A bit that was clear and is not masked sends its message; a viral device
sends containment messages alone (14 R314). -/
def raiseIrq (n : Nat) (s : State) : State :=
  let sends := field (reg32 s offIrqStat) n n == 0 && field (reg32 s offIrqMask) n n == 0 && (!isViral s || n == 2)
  { setRegField s offIrqStat n n 1 with
    msix := if sends then s.msix ++ [n] else s.msix,
    irqSet := mapSet s.irqSet n (s.clock + 1),
    irqSent := if sends then mapSet s.irqSent n (s.clock + 1) else s.irqSent }

/-- A W1C write of a bit of `IRQ_STAT`, whose bit and message stay when its source sets it in the same cycle (15 R323). -/
def clearIrq (n : Nat) (s : State) : State :=
  if mapGet 0 s.irqSet n != s.clock + 1 then setRegField s offIrqStat n n 0
  else if mapGet 0 s.irqSent n == s.clock + 1 then s
  else raiseIrq n (setRegField s offIrqStat n n 0)

/-- Physical address of a host physical address (15 R322). -/
def hostAddr (h : Nat) : Nat := 0x8000000000000 + h % 2 ^ 51

/-- Writes bytes at a physical address. -/
def poke (s : State) (pa : Nat) (bs : List Byte) : State := { s with mem := memWriteBytes s.mem pa bs }

/-- Reads a little-endian number of `n` bytes at a physical address. -/
def peek (s : State) (pa n : Nat) : Nat := bytesToNat (memReadBytes s.mem pa n)

/-! ## Cores, gangs and groups -/

/-- A logical core. -/
def getCore (s : State) (n : Nat) : Core := mapGet {} s.cores n

/-- The state with a logical core changed. -/
def setCore (s : State) (n : Nat) (c : Core) : State := { s with cores := mapSet s.cores n c }

/-- A logical core changed by a function. -/
def modCore (s : State) (n : Nat) (f : Core → Core) : State := setCore s n (f (getCore s n))

/-- The gang in a slot of a core. -/
def getGang (s : State) (core slot : Nat) : Option Gang := mapFind (getCore s core).gangs slot

/-- The state with a gang put in a slot. -/
def setGang (s : State) (core slot : Nat) (g : Gang) : State :=
  modCore s core (fun c => { c with gangs := mapSet c.gangs slot g })

/-- A gang changed by a function, if there is one. -/
def modGang (s : State) (core slot : Nat) (f : Gang → Gang) : State :=
  modCore s core (fun c => { c with gangs := mapModify c.gangs slot f })

/-- The group in a group slot of a core. -/
def getGroup (s : State) (core gslot : Nat) : Option Group := mapFind (getCore s core).groups gslot

/-- A group changed by a function, if there is one. -/
def modGroup (s : State) (core gslot : Nat) (f : Group → Group) : State :=
  modCore s core (fun c => { c with groups := mapModify c.groups gslot f })

/-- The logical cores that hold anything. -/
def coreIds (s : State) : List Nat := mapKeys s.cores

/-- Every gang, as core, slot and gang. -/
def allGangs (s : State) : List (Nat × Nat × Gang) :=
  s.cores.flatMap (fun (n, c) => c.gangs.map (fun (k, g) => (n, k, g)))

/-- Every group, as core, slot and group. -/
def allGroups (s : State) : List (Nat × Nat × Group) :=
  s.cores.flatMap (fun (n, c) => c.groups.map (fun (k, g) => (n, k, g)))

/-- Physical core of a logical core (01 R23). -/
def physCore (s : State) (n : Nat) : Nat := field (reg32 s (offLcmap n)) 7 0

/-- The entry of a logical core is valid (01 R23). -/
def lcoreValid (s : State) (n : Nat) : Bool := field (reg32 s (offLcmap n)) 31 31 == 1

/-- All four entries of a logical quad are valid (01 R20). -/
def quadValid (s : State) (q : Nat) : Bool := (List.range 4).all (fun i => lcoreValid s (4 * q + i))

/-! ## The context table (12 R256) -/

/-- Physical address of a context record: `CTXT_BASE` is read when the context is first placed (12 R261). -/
def ctxRecordAddr (s : State) (ctx : Nat) : Nat :=
  ((mapFind s.ctxBase ctx).getD (field (reg64 s offCtxtBase) 51 16)) * 2 ^ 16 + 16 * ctx

/-- A context record. -/
def ctxRecord (s : State) (ctx : Nat) : BitVec 128 := BitVec.ofNat 128 (peek s (ctxRecordAddr s ctx) 16)

/-- A context's record as the Vent has read it (12 R256, log 60): as it stood when a group of the context was first placed,
unless the identifier has since been reused, with another generation; before the first placement as it stands. -/
def ctxRead (s : State) (ctx : Nat) : BitVec 128 :=
  let r := ctxRecord s ctx
  match mapFind s.ctxSeen ctx with
  | none => r
  | some x => if field r 39 38 == 1 && field r 55 40 != field x 55 40 then r else x

/-- `CTXT_BASE` and the record of a context are read when a group of it is first placed (12 R256, R261, log 60). -/
def latchCtx (ctx : Nat) (s : State) : State :=
  let s := if (mapFind s.ctxBase ctx).isSome then s
    else { s with ctxBase := mapSet s.ctxBase ctx (field (reg64 s offCtxtBase) 51 16) }
  { s with ctxSeen := mapSet s.ctxSeen ctx (ctxRead s ctx) }

/-- Physical address of a context's L3 table. -/
def ctxRoot (s : State) (ctx : Nat) : Nat := field (ctxRead s ctx) 127 92 * 2 ^ 16

/-- Physical address of a context's save area. -/
def ctxSave (s : State) (ctx : Nat) : Nat := field (ctxRead s ctx) 91 56 * 2 ^ 16

/-- A context's generation. -/
def ctxGen (s : State) (ctx : Nat) : Nat := field (ctxRecord s ctx) 55 40

/-- A context's STATE: 0 free, 1 active, 2 killing, 3 killed. -/
def ctxState (s : State) (ctx : Nat) : Nat := field (ctxRecord s ctx) 39 38

/-- Writes a context record. -/
def setCtxRecord (s : State) (ctx : Nat) (r : BitVec 128) : State :=
  poke s (ctxRecordAddr s ctx) (natToBytes 16 r.toNat)

/-! ## Containment events (14 R303 to R305) -/

/-- The task a record names: the event concerns a group, or none. -/
def taskFields (g : Option Group) : Nat :=
  match g with
  | none => 0
  | some g =>
    g.ringSlot % 2 ^ 32 * 2 ^ 224 + g.x % 2 ^ 31 * 2 ^ 193 + g.y % 2 ^ 16 * 2 ^ 177 + g.z % 2 ^ 16 * 2 ^ 161 +
      g.stage % 8 * 2 ^ 158 + g.retries % 8 * 2 ^ 155 + g.copy % 2 * 2 ^ 154

/-- Puts a record among those of its cycle, which come by physical core and then by KIND (14 R321). -/
def putRecord (key bits : Nat) : List (Nat × Nat) → List (Nat × Nat)
  | [] => [(key, bits)]
  | e :: rest => if e.1 ≤ key then e :: putRecord key bits rest else (key, bits) :: e :: rest

/-- Writes records to the ring in host memory from a slot on (14 R304). -/
def writeRecords (base : BitVec 64) : Nat → List (Nat × Nat) → State → State
  | _, [], s => s
  | n, e :: rest, s =>
    writeRecords base (n + 1) rest
      (poke s (hostAddr (field base 51 12 * 4096) + 32 * (n % 2 ^ field base 4 0)) (natToBytes 32 e.2))

/-- Counts a record as dropped (14 R305). -/
def dropRecord (s : State) : State :=
  setReg64Field s offCevPtr 47 32 (saturate (field (reg64 s offCevPtr) 47 32 + 1) 0xFFFF)

/-- Adds an event record to the ring in its place among those of its cycle (14 R304, R321); of a full ring the last of them
is dropped (14 R305). -/
def writeEvent (kind pcore info : Nat) (ctx : Nat) (task : Option Group) (s : State) : State :=
  let base := reg64 s offCevBase
  let ptr := reg64 s offCevPtr
  let logn := field base 4 0
  let head := field ptr 15 0
  let tail := field ptr 31 16
  if logn < 4 || 15 < logn then dropRecord s
  else
    let bits := taskFields task + ctx % 2 ^ 16 * 2 ^ 136 + pcore % 256 * 2 ^ 128 + info % 2 ^ 64 * 2 ^ 64 +
      micros s % 2 ^ 48 * 2 ^ 16 + kind % 16
    let old := if s.cevClock == s.clock + 1 then s.cevNow else []
    let all := putRecord (pcore % 256 * 16 + kind % 16) bits old
    let full := 2 ^ logn ≤ (tail + 65536 - head) % 65536
    let kept := if full then all.dropLast else all
    let s := writeRecords base (tail + 65536 - old.length) kept { s with cevNow := kept, cevClock := s.clock + 1 }
    if full then dropRecord s else setReg64Field s offCevPtr 31 16 (tail + 1)

/-- A containment event of KIND 0x3 to 0xE: the log, the interrupt and the record (14 R303). `welt` is 0xF but for
KIND 0xC; `pcore` is 0xFF when there is none. The records of one cycle come in the order of log 103. -/
def containEvent (kind pcore welt info ctx : Nat) (task : Option Group) (s : State) : State :=
  let log := reg64 s offContainLog
  let log := setField log 62 59 kind
  let log := setField log 58 51 pcore
  let log := setField log 50 47 welt
  let log := setField log 46 27 0
  writeEvent kind pcore info ctx task (raiseIrq 2 (setReg64 s offContainLog log))

/-- Enters viral state with a cause (14 R314, R303). -/
def enterViral (cause : Nat) (s : State) : State :=
  if isViral s then s
  else
    let s := setReg32 s offViral (BitVec.ofNat 32 (2 ^ 31 + cause % 16 * 2 ^ 24 + saturate (s.clock / 850000) (2 ^ 24 - 1)))
    containEvent 0xD 0xFF 0xF cause 0 none s

/-- A physical address lies in a quarantined granule (14 R312). -/
def quarantined (s : State) (pa : Nat) : Bool := (mapFind s.quarantine (pa / 2 ^ 21)).isSome

/-! ## The mask of lanes -/

/-- Bit `h` of a mask. -/
def laneIn (m : Mask) (h : Nat) : Bool := m.getLsbD h

/-- The mask of one lane. -/
def laneBit (h : Nat) : Mask := 1#64 <<< h

/-- The lanes of a mask in rising order. -/
def lanesOf (m : Mask) : List Nat := (List.range 64).filter (fun h => laneIn m h)

/-- The number of lanes of a mask. -/
def laneCount (m : Mask) : Nat := popNat 64 m.toNat

/-- The mask of lanes 0 to `n` - 1. -/
def firstLanes (n : Nat) : Mask := BitVec.ofNat 64 (2 ^ n - 1)

/-- The mask of a list of lanes. -/
def maskOf (l : List Nat) : Mask := l.foldl (fun m h => m ||| laneBit h) 0

/-- `lane.rank` of a lane in a split of a mask (03 R65). -/
def rankIn (m : Mask) (h : Nat) : Nat := laneCount (m &&& firstLanes h)

/-- The union of the masks of the splits of a gang: its live lanes (03 R54). -/
def liveLanes (g : Gang) : Mask := g.splits.foldl (fun m sp => m ||| sp.mask) 0

end Sys2Proof.Machine
end

