-- ==== Sys2Proof/Machine/Ranges.lean ====
section
/-! DEFINITION. The ranges of the device physical address map and what has memory behind it (08 R171, R172, R184 to R186). -/

namespace Sys2Proof.Machine

/-- A list in rising order of a measure; equal elements keep their order. -/
def sortBy {α : Type} (f : α → Nat) : List α → List α
  | [] => []
  | x :: l => insertByFirst x (sortBy f l)
where
  /-- Inserts before the first element that is not smaller. -/
  insertByFirst (x : α) : List α → List α
    | [] => [x]
    | y :: l => if f y < f x then y :: insertByFirst x l else x :: y :: l

/-- A rising list without repeats. -/
def distinct : List Nat → List Nat
  | x :: y :: l => if x == y then distinct (y :: l) else x :: distinct (y :: l)
  | l => l

/-- The ranges of the physical address map (08 R171). -/
inductive Tier where
  | hbm
  /-- The near-window slot of a physical core. -/
  | near (pcore : Nat)
  | lpddr
  | mx
  | expander (port : Nat)
  | pod (device : Nat)
  | host
  | hole
deriving DecidableEq, Repr

/-- The range an address lies in (08 R171). -/
def tierOf (pa : Nat) : Tier :=
  if pa < 0x8000000000 then .hbm
  else if pa < 0x8440000000 then .near ((pa - 0x8000000000) / 0x8000000)
  else if 0x10000000000 ≤ pa && pa < 0x30000000000 then .lpddr
  else if 0x38000000000 ≤ pa && pa < 0x40000000000 then .mx
  else if 0x40000000000 ≤ pa && pa < 0x140000000000 then .expander (pa / 0x40000000000 - 1)
  else if 0x4000000000000 ≤ pa && pa < 0x8000000000000 then .pod ((pa - 0x4000000000000) / 0x20000000000)
  else if 0x8000000000000 ≤ pa then .host
  else .hole

/-- log2 of the leaf page size of a range (08 R171). An address in no range has none: a leaf there is taken to be well formed
when it is of 2 MiB, the model's choice (11 R240, log 115). -/
def leafLog2 : Tier → Nat
  | .lpddr | .expander _ => 16
  | .host => 12
  | _ => 21

/-- The second tier: LPDDR-6 and the expanders (08 R184). -/
def secondTier : Tier → Bool
  | .lpddr | .expander _ => true
  | _ => false

/-- Offset of a register of MX region `n` (08 R184): 0 alias, 1 size, 2 elements, 3 scales. -/
def offMxr (n k : Nat) : Nat := 0x0800 + 32 * n + 8 * k

/-- Alias range of region `n`: first byte and size, when it is valid (08 R185). -/
def mxAlias (s : State) (n : Nat) : Option (Nat × Nat) :=
  let a := reg64 s (offMxr n 0)
  if field a 63 63 == 1 then
    some (0x38000000000 + field a 38 21 * 2 ^ 21, field (reg64 s (offMxr n 1)) 18 0 * 2 ^ 21)
  else none

/-- The region whose alias holds an address. -/
def mxRegion (s : State) (pa : Nat) : Option Nat :=
  (List.range 16).find? (fun n => match mxAlias s n with
    | some (b, size) => b ≤ pa && pa < b + size
    | none => false)

/-- A pod window's offset has memory behind it (08 R172). -/
def podPresent (o : Nat) : Bool :=
  match tierOf o with
  | .hbm => true
  | .near _ => (o - 0x8000000000) % 0x8000000 < 0x7000000
  | _ => false

/-- An address has memory behind it (08 R171, R172, R184, R186). -/
def present (s : State) (pa : Nat) : Bool :=
  match tierOf pa with
  | .hbm | .lpddr | .host => true
  | .near _ => (pa - 0x8000000000) % 0x8000000 < 0x7000000
  | .mx => (mxRegion s pa).isSome
  | .expander p => pa % 0x40000000000 < mapGet 0 s.expanders p
  | .pod _ => podPresent (pa % 0x20000000000)
  | .hole => false

end Sys2Proof.Machine
end

