-- ==== Sys2Proof/Machine/Contain.lean ====
section
/-! DEFINITION. Freeing a group, killing a context (13 R300) and failing a held task (14 R306, R307). -/

namespace Sys2Proof.Machine

/-- A value the spec does not state, and the state that has used it (log 2). -/
def takeFree (s : State) : BitVec 64 × State := (Config.freeWord s.free, { s with free := s.free + 1 })

/-- The gang slots of a group. -/
def gangsOfGroup (c : Core) (gslot : Nat) : List Nat :=
  c.gangs.filterMap (fun (k, g) => if g.gslot == gslot then some k else none)

/-- Clears the bytes of a range of scratchpad (08 R176). -/
def zeroRange (m : Memory) (base size : Nat) : Memory := m.filter (fun c => !(base ≤ c.1 && c.1 < base + size))

/-- A waiter belongs to one of some gangs or operations of a core. -/
def Waiter.ofCore (core : Nat) (slots ids : List Nat) : Waiter → Bool
  | .gang c k _ => c == core && slots.contains k
  | .copy c i => c == core && ids.contains i
  | .matrix c i => c == core && ids.contains i
  | .queue _ => false

/-- Drops waiters from every page request. -/
def dropWaiters (p : Waiter → Bool) (l : List PageRequest) : List PageRequest :=
  l.map (fun r => { r with waiters := r.waiters.filter (fun w => !p w) })

/-- A core without a group: gangs, queued and running engine work, spawn records, tile entries and scratchpad are freed, the
accumulator tiles hold what they held (02 R53, 23 R530), and the slot's generation advances (02 R53, 04 R78, 08 R176). -/
def Core.dropGroup (c : Core) (gslot : Nat) (g : Group) : Core :=
  let slots := gangsOfGroup c gslot
  { c with
    gangs := c.gangs.filter (fun e => e.2.gslot != gslot),
    groups := mapErase c.groups gslot,
    ggen := mapPut 0 c.ggen gslot ((mapGet 0 c.ggen gslot + 1) % 256),
    scratch := zeroRange c.scratch g.sbase g.ssize,
    tileTab := c.tileTab.filter (fun e => !g.tiles.contains e.1),
    mqueue := c.mqueue.filter (fun m => m.gslot != gslot),
    mrun := c.mrun.filter (fun m => m.gslot != gslot),
    copyq := c.copyq.filter (fun m => m.gslot != gslot),
    copyrun := c.copyrun.filter (fun m => m.gslot != gslot),
    near := c.near.filter (fun m => m.gslot != gslot),
    faults := c.faults.filter (fun f => !slots.contains f.slot),
    spawnq := c.spawnq.filter (fun r => r.gslot != gslot || r.ggen != mapGet 0 c.ggen gslot) }

/-- Engines that follow a core are free again. -/
def freeFollowers (core : Nat) (s : State) : State :=
  { s with cores := s.cores.map (fun (n, c) => (n, if c.slaved == some core then { c with slaved := none } else c)) }

/-- The state without a group. -/
def dropGroup (core gslot : Nat) (s : State) : State :=
  match getGroup s core gslot with
  | none => s
  | some g =>
    let c := getCore s core
    let slots := gangsOfGroup c gslot
    let ids := (c.mrun.filter (fun m => m.gslot == gslot)).map (·.id) ++
      (c.copyrun.filter (fun m => m.gslot == gslot)).map (·.id)
    let led := c.mrun.any (fun m => m.gslot == gslot && m.scope != 0)
    let s := { s with pages := dropWaiters (Waiter.ofCore core slots ids) s.pages }
    let s := setCore s core (c.dropGroup gslot g)
    if led then freeFollowers core s else s

/-- A launch changed by a function. -/
def modLaunch (queue slot : Nat) (f : Launch → Launch) (s : State) : State :=
  { s with launches := s.launches.map (fun l => if l.queue == queue && l.slot == slot then f l else l) }

/-- A context's save is in progress: the save engine has taken a gang's record (13 R296). -/
def saveInProgress (s : State) (ctx : Nat) : Bool :=
  (mapFind s.preempts ctx).isSome && s.cores.any (fun c => c.2.gangs.any (fun e => e.2.ctx == ctx && e.2.saved))

/-- Bytes of a range of memory become free values. -/
def freeRange (base : Nat) : Nat → State → State
  | 0, s => s
  | n + 1, s =>
    let (v, s) := takeFree s
    freeRange base n (if present s (base + n) then poke s (base + n) [v.setWidth 8] else s)

/-- The save area of a context whose save a kill abandons holds free values (13 R302). -/
def spoilSave (ctx : Nat) (s : State) : State :=
  if saveInProgress s ctx then freeRange (ctxSave s ctx) (peek s (ctxSave s ctx) 8) s else s

/-- The kill of a context (13 R300) up to kill-complete: GEN and STATE in the context record, its gangs, groups and
engine work dropped, its versions discarded with its groups, its page requests and migration ended (11 R253). -/
def killContext (ctx : Nat) (s : State) : State :=
  if s.killing.contains ctx then s
  else
    let r := ctxRecord s ctx
    let s := setCtxRecord (spoilSave ctx s) ctx (setField (setField r 55 40 (field r 55 40 + 1)) 39 38 2)
    let doomed := (allGroups s).filter (fun e => e.2.2.ctx == ctx)
    let s := doomed.foldl (fun s e => dropGroup e.1 e.2.1 s) s
    let s := { s with
      pages := s.pages.filter (fun p => p.ctx != ctx),
      killing := s.killing ++ [ctx],
      preempts := mapErase s.preempts ctx,
      preemptAgain := mapErase s.preemptAgain ctx,
      saved := mapErase s.saved ctx }
    match s.migration with
    | none => s
    | some m =>
      if m.ctx == ctx then
        let e := peek s m.entry 8
        let s := poke s m.entry (natToBytes 8 (setFieldN e 63 63 0))
        let s := setRegField s offXlatStat 22 20 4
        { setRegField s offXlatStat 23 23 0 with migration := none }
      else s

/-- A kill by containment, with its KIND 0x6 event (14 R303, R306). -/
def killByEvent (ctx kind : Nat) (s : State) : State :=
  killContext ctx (containEvent 6 0xFF 0xF kind ctx none s)

/-- The contexts with state on the Last (01 R29): groups on its cores, a save or work of theirs in the Vent's memory
(log 96). -/
def lastContexts (s : State) : List Nat :=
  let all := (allGroups s).map (fun e => e.2.2.ctx) ++ mapKeys s.saved ++ mapKeys s.preemptAgain ++
    (s.launches.filter (fun l => !l.finished)).map (·.ctx) ++ s.tokens.map (fun t => t.2.ctx) ++ s.pages.map (·.ctx)
  (distinct (sortBy id all)).filter (fun ctx => ctxState s ctx == 1 && !s.killing.contains ctx)

/-- A fatal error on the Last: viral state with a cause (14 R314), and the end of every context with state on it
(01 R29). -/
def fatalError (cause : Nat) (s : State) : State :=
  let s := enterViral cause s
  (lastContexts s).foldl (fun s ctx => killByEvent ctx 0xD s) s

/-- Quarantines the granule of a physical address (14 R312): the event once a granule, viral state when the table of
4,096 is full. -/
def quarantineGranule (pa ctx : Nat) (s : State) : State :=
  let g := pa / 2 ^ 21
  match mapFind s.quarantine g with
  | some _ => { s with scrubKeep := s.scrubKeep || s.scrub == some g }
  | none =>
    let count := (s.quarantine.filter (fun e => !e.2)).length
    if 4096 ≤ count then fatalError 4 s
    else
      let s := { s with quarantine := mapSet s.quarantine g false }
      let s := setRegField s offQuarStat 12 0 (count + 1)
      containEvent 7 0xFF 0xF (g * 2 ^ 21) ctx none s

/-- Both copies of a held task: the group itself, and its twin if it has one (14 R308). -/
def taskCopies (core gslot : Nat) (s : State) : List (Nat × Nat × Group) :=
  match getGroup s core gslot with
  | none => []
  | some g =>
    match g.twin with
    | none => [(core, gslot, g)]
    | some (c, k) => match getGroup s c k with
      | none => [(core, gslot, g)]
      | some t => [(core, gslot, g), (c, k, t)]

/-- Copies in the order of their physical cores (14 R321). -/
def inCoreOrder (s : State) : List (Nat × Nat × Group) → List (Nat × Nat × Group)
  | [a, b] => if physCore s b.1 < physCore s a.1 then [b, a] else [a, b]
  | l => l

/-- Copies in the order of their numbers. -/
def inCopyOrder : List (Nat × Nat × Group) → List (Nat × Nat × Group)
  | [a, b] => if b.2.2.copy < a.2.2.copy then [b, a] else [a, b]
  | l => l

/-- Discards task copies, each with its KIND 0x3 record (14 R307). -/
def discardCopies (info : Nat) : List (Nat × Nat × Group) → State → State
  | [], s => s
  | (c, k, g) :: rest, s =>
    discardCopies info rest (dropGroup c k (containEvent 3 (physCore s c) 0xF info g.ctx (some g) s))

/-- An instruction of the group that is about to issue in this cycle binds its copy: the issue wins over a failure (14
R321). -/
def bindsNow (s : State) (core gslot : Nat) : Bool :=
  s.issueQ.any (fun c => c.binds && c.core == core && ((getGang s core c.slot).map (·.gslot)) == some gslot)

/-- A failure of a held task copy (14 R306, R307): reasons 1 trap, 2 signature, 3 core. -/
def failTask (core gslot reason tcause : Nat) (s : State) : State :=
  match getGroup s core gslot with
  | none => s
  | some g =>
    if g.task == .bound || bindsNow s core gslot then
      let (v, s) := takeFree s
      killByEvent g.ctx (if reason == 3 then 5 else v.toNat % 256) s
    else
      let copies := inCoreOrder s (taskCopies core gslot s)
      let s := discardCopies (reason + 256 * tcause) copies s
      if g.retries < g.retryLimit then
        modLaunch g.queue g.lslot (fun l =>
          { l with again := l.again ++ [{ stage := g.stage, index := g.index, retries := g.retries + 1,
                                          failedOn := (inCopyOrder copies).map (·.1) }],
                   retries := max l.retries (g.retries + 1) }) s
      else
        modLaunch g.queue g.lslot (fun l => { l with doom := 6 })
          (containEvent 4 (physCore s core) 0xF reason g.ctx (some g) s)

end Sys2Proof.Machine
end

