-- ==== Sys2Proof/Machine/Legal.lean ====
section
/-! DEFINITION. Which fields an instruction may hold: the opcode map (17 R366 to R372) and the encoding
summaries (18 R375, 19 R431, 20 R479), one row for each major opcode. -/

namespace Sys2Proof.Machine

/-- The register files a kind 2 operand names (16 R345). -/
inductive File where
  | p | q | w | f | a | b | k | t
deriving DecidableEq, Repr

/-- The register a named-register code names (16 R345); none for a code not listed. -/
def namedReg (code : Nat) : Option (File × Nat) :=
  if code < 0x08 then some (.p, code)
  else if code < 0x0C then some (.q, code - 0x08)
  else if code < 0x10 then none
  else if code < 0x18 then some (.w, code - 0x10)
  else if code < 0x20 then none
  else if code < 0x2C then some (.f, code - 0x20)
  else if code < 0x30 then none
  else if code < 0x34 then some (.a, code - 0x30)
  else if code < 0x40 then none
  else if code < 0x50 then some (.b, code - 0x40)
  else if code < 0x54 then some (.k, code - 0x50)
  else if code < 0x80 then none
  else if code < 0xC0 then some (.t, code - 0x80)
  else none

/-- What one operand field may hold: how many vector or scalar registers (0: the kind is not allowed), whether an
immediate, which named files, and whether a group must start at a multiple of its size (18 R374). -/
structure Opnd where
  v : Nat := 0
  s : Nat := 0
  i : Bool := false
  files : List File := []
  aligned : Bool := true
  /-- p7 is allowed (17 R372). -/
  p7 : Bool := true
  /-- Kind 3 with field 0 means no index (18 R374). -/
  noIndex : Bool := false
deriving DecidableEq, Repr

/-- An absent operand: field and kind 0 (16 R350). -/
def Opnd.absent : Opnd := {}
/-- Vector or scalar, a group of `n` registers. -/
def Opnd.r (n : Nat) : Opnd := { v := n, s := n }
/-- Vector, scalar or immediate. -/
def Opnd.ri (n : Nat) : Opnd := { v := n, s := n, i := true }
/-- Vector only. -/
def Opnd.vec (n : Nat) : Opnd := { v := n }
/-- Scalar only. -/
def Opnd.sca (n : Nat) : Opnd := { s := n }
/-- A named register. -/
def Opnd.named (l : List File) : Opnd := { files := l }
/-- The index of a memory operand: a vector register or none (16 R348). -/
def Opnd.index : Opnd := { v := 1, noIndex := true }
/-- No index (18 R374). -/
def Opnd.noIdx : Opnd := { noIndex := true }
/-- The base of a global address of `ld`, `st` and `pref` (19 R454). -/
def Opnd.globalBase : Opnd := { v := 2, s := 2, files := [.w] }
/-- The base of an atomic (18 R381). -/
def Opnd.atomBase : Opnd := { v := 1, s := 2, files := [.w] }

/-- Which instructions carry SEM, AGENT and STOR, and which codes (10 R215). -/
inductive Scopes where
  | none | load | store | loadS | storeS | atomic | fence
deriving DecidableEq, Repr

/-- What IMM is used for when no operand has kind 3 (16 R347). -/
inductive ImmUse where
  /-- Nothing: IMM is 0 and there is no literal. -/
  | none
  /-- A memory offset or a code address: IMM or a literal. -/
  | wide
  /-- The entry's own use, in IMM only. -/
  | own
deriving DecidableEq, Repr

/-- One opcode's row. -/
structure Row where
  d : Opnd := {}
  a : Opnd := {}
  b : Opnd := {}
  c : Opnd := {}
  /-- MINOR, MOD, TYPE and what else the row states. -/
  ok : Bool := true
  /-- RM 0 to 4 is allowed. -/
  rm : Bool := false
  sat : Bool := false
  /-- The instruction is long-latency, so FS is allowed (16 R337). -/
  fs : Bool := false
  scopes : Scopes := .none
  imm : ImmUse := .none
  /-- The row has a memory operand (16 R348). -/
  mem : Bool := false
  /-- The row may write a scalar from vector sources (17 R372). -/
  free : Bool := false
deriving DecidableEq, Repr

/-- TYPE codes 0 to 7 (17 R367). -/
def isInt (t : Nat) : Bool := t < 8
/-- TYPE codes 8 and 9. -/
def isBit (t : Nat) : Bool := t == 8 || t == 9
/-- TYPE codes 10 to 13. -/
def isFlt (t : Nat) : Bool := 10 ≤ t && t ≤ 13
/-- NARROW-MEM. -/
def isNarrowMem (t : Nat) : Bool := t == 1 || t == 2 || t == 5 || t == 6 || t == 8 || t == 9
/-- A 64-bit type (16 R346). -/
def is64 (t : Nat) : Bool := t == 3 || t == 7 || t == 9 || t == 11
/-- A packed pair of 16-bit floats. -/
def isX2 (t : Nat) : Bool := t == 12 || t == 13
/-- Registers of an operand of a type (05 R93). -/
def regsOf (t : Nat) : Nat := if is64 t then 2 else 1

/-- Elements and allowed wide types of a narrow code of `cvt` (18 R402). -/
def narrowCount (md : Nat) : Nat := if md == 1 || md == 2 then 4 else 8

/-- Registers of the wide side beside a narrow code (18 R402). -/
def wideRegs (md typ : Nat) : Nat := if isX2 typ then narrowCount md / 2 else narrowCount md

/-- The wide types a narrow code pairs with (18 R402). -/
def narrowPairs (md typ : Nat) : Bool :=
  if md == 1 || md == 2 then typ == 10 || typ == 12 || typ == 13
  else if md == 3 || md == 4 then typ == 0 || typ == 4 || typ == 10 || typ == 12 || typ == 13
  else false

/-- Registers of the side `t` of a wide conversion whose other side is `u` (18 R402). -/
def cvtRegs (t u : Nat) : Nat := if isX2 t then 1 else if isX2 u then 2 else regsOf t

/-- A wide conversion's type pair is allowed (18 R402). -/
def cvtPair (t u : Nat) : Bool :=
  (isInt t || isFlt t) && (isInt u || isFlt u) && !(isX2 t && is64 u) && !(isX2 u && is64 t)

/-- Selectors of `gets` (16 R361). -/
def getsSelector (n : Nat) : Bool := n ≤ 0x0E || (0x10 ≤ n && n ≤ 0x14)
/-- Selectors of `sets`: those marked Both, and `peer.status` (16 R361). -/
def setsSelector (n : Nat) : Bool := n == 0x0D || n == 0x0E || (0x10 ≤ n && n ≤ 0x14)
/-- The 64-bit system values. -/
def selector64 (n : Nat) : Bool := n == 0x0C || n == 0x11 || n == 0x12 || n == 0x13
/-- The per-lane system values. -/
def selectorPerLane (n : Nat) : Bool := n == 0 || n == 1

/-- The row of an integer opcode (17 R368, 19 R431). -/
def rowInt (op mn t : Nat) : Row :=
  let w := regsOf t
  match op with
  | 0x00 | 0x01 => { d := .r w, a := .r w, b := .ri w, ok := mn == 0 && (isInt t || isBit t), sat := isInt t }
  | 0x02 | 0x03 => { d := .vec w, a := .r w, b := .ri w, ok := mn ≤ 6 && (t == 4 || t == 7) }
  | 0x04 => { d := .r w, a := .r w, b := .ri w, ok := mn ≤ 1 && isInt t, sat := mn == 0 }
  | 0x05 => { d := .r w, a := .r w, b := .ri w, c := .ri w, ok := mn ≤ 1 && isInt t, sat := mn == 0 }
  | 0x06 => { d := .r 2, a := .r 1, b := .ri 1, c := .r 2, ok := mn == 0 && (t == 0 || t == 4) }
  | 0x07 | 0x08 | 0x09 | 0x0A => { d := .r w, a := .r w, b := .ri w, ok := mn == 0 && isInt t }
  | 0x0B | 0x0C => { d := .r w, a := .r w, ok := mn == 0 && t ≤ 3, sat := true }
  | 0x0D => { d := { v := 1, s := 1, files := [.p, .q], p7 := false }, a := .r w, b := .ri w,
              ok := (mn ≤ 5 && isInt t) || (mn ≤ 1 && isBit t) }
  | 0x0E => { d := .r w, a := .r w, b := .ri w, c := .named [.p, .q], ok := mn == 0 && (isInt t || isBit t) }
  | 0x0F => { d := .r 1, a := .r 1, b := .ri 1, c := .ri 1, ok := mn ≤ 3 && (t == 0 || t == 4), sat := true }
  | _ => { d := .r 1, a := .r 1, b := .ri 1, c := .r 1, ok := mn == 0 && t == 4 }

/-- The row of a bit or logic opcode (17 R368, 18 R375, 19 R431, 20 R479). -/
def rowBit (op mn t imm : Nat) : Row :=
  let w := regsOf t
  match op with
  | 0x11 | 0x12 | 0x13 => { d := .r w, a := .r w, b := .ri w, ok := mn == 0 && isBit t }
  | 0x14 | 0x20 => { d := .r w, a := .r w, ok := mn == 0 && isBit t }
  | 0x15 => { d := .r w, a := .r w, b := .r w, c := .r w,
              ok := mn == 0 && isBit t && imm != 0 && imm < 256, imm := .own }
  | 0x16 | 0x17 | 0x18 | 0x19 => { d := .r w, a := .r w, b := .ri 1, ok := mn == 0 && isBit t }
  | 0x1A => { d := .r 1, a := .r 1, b := .ri 1, c := .r 1, ok := mn == 0 && t == 8 }
  | 0x1B => { d := .r w, a := .r w, b := .ri 1, ok := mn ≤ 1 && isBit t }
  | 0x1C => { d := .r w, a := .r w, b := .ri 1, c := .r w, ok := mn == 0 && isBit t }
  | 0x1D | 0x1E | 0x1F => { d := .r 1, a := .r w, ok := mn == 0 && isBit t }
  | _ => { d := .r 1, a := .r 1, b := .ri 1, c := .r 1, ok := mn ≤ 1 && t == 8 }

/-- The row of a float opcode (17 R369, 18 R375). -/
def rowFloat (op mn t : Nat) : Row :=
  let w := regsOf t
  match op with
  | 0x22 | 0x23 | 0x24 | 0x2C => { d := .r w, a := .r w, b := .ri w, ok := mn == 0 && isFlt t, rm := true }
  | 0x25 => { d := .r w, a := .r w, b := .ri w, c := .ri w, ok := mn == 0 && isFlt t, rm := true }
  | 0x26 | 0x27 => { d := .r w, a := .r w, b := .ri w, ok := mn == 0 && isFlt t }
  | 0x28 => { d := { v := 1, s := 1, files := if isX2 t then [] else [.p, .q], p7 := false }, a := .r w, b := .ri w,
              ok := mn ≤ 7 && isFlt t }
  | 0x29 | 0x2A | 0x2B | 0x33 => { d := .r w, a := .r w, ok := mn == 0 && isFlt t, rm := true }
  | 0x32 => { d := .r 1, a := .r w, ok := mn == 0 && isFlt t }
  | _ => { d := .r 1, a := .r 1, ok := mn == 0 && (t == 10 || t == 12 || t == 13) }

/-- The row of a convert opcode (17 R369, 18 R402, R405, 20 R479). -/
def rowConvert (op mn t md : Nat) : Row :=
  match op with
  | 0x34 =>
    if md == 0 then { d := .r (cvtRegs t mn), a := .r (cvtRegs mn t), ok := mn < 16 && cvtPair t mn, rm := true, sat := isInt t }
    else if mn == 0 then
      { d := .r 1, a := .r (wideRegs md t), ok := narrowPairs md t, rm := true, sat := md == 3 || md == 4 }
    else { d := .r (wideRegs md t), a := .r 1, ok := mn == 32 && narrowPairs md t, rm := true, sat := isInt t }
  | 0x35 =>
    if md == 0 then { d := .vec (cvtRegs t mn), a := .vec (cvtRegs mn t), c := .vec 1,
                      ok := (t == 10 && mn == 11) || (isX2 t && mn == 10) }
    else { d := .vec 1, a := .vec (wideRegs md t), c := .vec 1,
           ok := mn == 0 && (md == 1 || md == 2) && narrowPairs md t }
  | 0x36 => { d := .r 2, a := .r 8, ok := mn == 0 && t == 10 }
  | 0x37 => { d := .r 8, a := .r 2, ok := mn == 0 && t == 10 }
  | _ => { d := .r 1, a := .r 1, ok := mn == 0 && (t == 10 || t == 13) }

/-- The row of a residue opcode (17 R369, 20 R479). -/
def rowResidue (op mn t : Nat) : Row :=
  match op with
  | 0x39 => { d := .r 1, a := .r (if t == 3 then 2 else 1), ok := mn ≤ 9 && (t == 8 || t == 3) }
  | 0x3A => { d := .r 2, a := .r 2, ok := mn == 0 && t == 3 }
  | 0x3E => { d := .r 2, a := .r 2, b := .r 1, ok := mn == 0 && t == 8 }
  | _ => { d := .r 1, a := .r 1, b := .ri 1, ok := mn ≤ 9 && t == 8 }

/-- The row of a move, system, gang or spawn opcode (17 R370, 19 R431, 20 R479). -/
def rowGang (op mn t md imm : Nat) : Row :=
  let w := regsOf t
  match op with
  | 0x3F => { d := { v := w, s := w, files := [.p, .q], p7 := false }, a := { v := w, s := w, files := [.p, .q] },
              ok := mn == 0 && isBit t }
  | 0x40 => { d := .r w, a := { i := true }, ok := mn == 0 && t ≤ 13 }
  | 0x41 => { d := if selectorPerLane imm then .vec 1 else .r (if selector64 imm then 2 else 1),
              ok := mn == 0 && t == 0 && getsSelector imm, imm := .own, free := true }
  | 0x42 => { a := .sca (if selector64 imm then 2 else 1), ok := mn == 0 && t == 0 && setsSelector imm, imm := .own }
  | 0x43 =>
    let d : Opnd := if mn == 0 then .r 2 else if mn == 2 then .r 1
      else { v := 1, s := 1, files := [.p, .q], p7 := false }
    { d := d, a := .named [.p], ok := mn ≤ 3 && t == 0 && (imm == 0 || (mn == 1 && imm ≤ 64)), imm := .own, free := true }
  | 0x44 => { d := .vec w, a := .vec w, b := .ri 1, ok := isBit t && mn ≤ 3 && (md == 0 || (md == 1 && mn == 1)) }
  | 0x45 => { d := if mn == 0 then .vec 2 else if mn == 2 then .r 1 else .vec 1, a := .r w,
              ok := mn ≤ 3 && isBit t, free := true }
  | 0x46 => { d := .r w, a := .vec w,
              ok := (mn ≤ 2 && (isInt t || isFlt t)) || (3 ≤ mn && mn ≤ 5 && isBit t),
              sat := mn == 0 && isInt t, rm := mn == 0 && isFlt t, free := true }
  | 0x47 => { d := .r 2, ok := mn == 0 && t == 0, free := true }
  | 0x48 => { a := .sca 8, ok := mn ≤ 4 && t == 0 }
  | 0x49 => { d := .named [.p], a := { v := mn, aligned := false }, b := if md == 1 then .vec 1 else .absent,
              c := { s := 2, i := true }, ok := mn ≤ 4 && t == 0 && md ≤ 1 }
  | 0x4A => { a := .r 1, b := .index, c := .r 1, ok := mn == 0 && t == 0, imm := .wide, mem := true }
  | 0x4B => { a := .r 1, b := .index, ok := mn == 0 && t == 0, imm := .wide, mem := true }
  | 0x4D => { d := .sca 1, a := .sca 1, b := .sca 1, ok := mn == 0 && t == 0 }
  | 0x4E => { d := .sca 1, a := if mn == 0 then .absent else .sca 1, ok := mn ≤ 2 && t == 0 }
  | _ => { ok := mn == 0 && t == 0 }

/-- The row of a control opcode (17 R370, 18 R375, 20 R479). -/
def rowControl (op mn t imm : Nat) : Row :=
  let z := mn == 0 && t == 0
  match op with
  | 0x4F => { ok := z, imm := .wide }
  | 0x50 | 0x53 => { a := .r 2, ok := z }
  | 0x51 => { d := .r 2, ok := z, imm := .wide }
  | 0x52 => { d := .r 2, a := .r 2, ok := z }
  | 0x54 => { d := .r 1, ok := z, imm := .wide }
  | 0x58 => { ok := z, imm := .own }
  | 0x5A => { ok := z && imm < 4096, imm := .own }
  | 0x5B => { a := .sca 8, b := .sca 2, ok := z }
  | _ => { ok := z }

/-- The row of a memory opcode (17 R371, 18 R375, 19 R431, 20 R479). -/
def rowMemory (op mn t md : Nat) : Row :=
  let w := regsOf t
  match op with
  | 0x5D => { d := .r w, a := .globalBase, b := .index, ok := mn == 0 && isNarrowMem t && md < 16, fs := true,
              scopes := .load, imm := .wide, mem := true }
  | 0x5E => { a := .globalBase, b := .index, c := .r w, ok := mn == 0 && isNarrowMem t && md ≤ 1, fs := true,
              scopes := .store, imm := .wide, mem := true }
  | 0x5F => { d := .r w, a := .r 1, b := .index, ok := mn == 0 && isNarrowMem t && md == 0,
              scopes := .loadS, imm := .wide, mem := true }
  | 0x60 => { a := .r 1, b := .index, c := .r w, ok := mn == 0 && isNarrowMem t && md == 0,
              scopes := .storeS, imm := .wide, mem := true }
  | 0x61 => { d := .named [.w], a := .sca 2, b := .sca 1, ok := mn == 0 && t == 0 && md == 0 }
  | 0x62 => { d := .vec w, a := .atomBase, b := if mn == 7 then .r w else .index, c := .r w,
              ok := md == 0 && ((mn ≤ 2 && (t == 0 || t == 3 || t == 4 || t == 7)) || (3 ≤ mn && mn ≤ 7 && isBit t)
                || (mn == 0 && t == 10)),
              fs := true, scopes := .atomic, imm := .wide, mem := true }
  | 0x63 => { d := .vec 8, a := .atomBase, b := .index, c := .vec 8, ok := md == 0 && mn ≤ 3 && t == 8,
              fs := true, scopes := .atomic, imm := .wide, mem := true }
  | 0x64 => { a := .atomBase, b := .index, c := .vec 2, ok := md == 0 && mn == 0 && t == 8,
              fs := true, scopes := .atomic, imm := .wide, mem := true }
  | 0x65 => { ok := mn == 0 && t == 0 && md == 0, scopes := .fence }
  | 0x66 => { a := .globalBase, b := .index, ok := mn == 0 && t == 0 && md == 0, imm := .wide, mem := true }
  | 0x67 => { a := { s := 2, files := [.w] }, b := .noIdx, c := .sca 1, ok := mn == 0 && t == 0 && md == 0,
              fs := true, imm := .wide, mem := true }
  | 0x68 => { a := .sca 2, c := .sca 1, ok := mn == 0 && t == 0 && md == 0, fs := true }
  | 0x69 => { d := .sca 2, a := .sca 2, c := .sca 1, ok := mn == 0 && t == 0 && md == 0, fs := true }
  | 0x6A => { d := .sca 1, a := .sca 2, b := .sca 2, c := .sca 1, ok := mn == 0 && t == 0 && md == 0, fs := true }
  | _ => { ok := mn == 0 && t == 0 && md == 0 }

/-- The row of a copy, tile, barrier or matrix opcode (17 R371, 18 R375, 19 R431, 20 R479); `msave` at scope 0 alone (19 R467,
log 37). -/
def rowEngine (op mn t md imm : Nat) : Row :=
  let z := t == 0 && mn == 0 && md == 0
  match op with
  | 0x6C => { a := .sca 16, ok := z, fs := true }
  | 0x6D => { a := .sca 1, b := .noIdx, c := .sca 1, ok := z, fs := true, imm := .wide, mem := true }
  | 0x6E => { d := .named [.t], a := .sca 1, b := .sca 1, ok := z }
  | 0x6F => { d := .sca 1, a := .named [.t], ok := z }
  | 0x70 => { d := .named [.t], ok := z }
  | 0x71 | 0x72 | 0x74 => { a := .sca 1, b := .noIdx, c := .sca 1, ok := z, imm := .wide, mem := true }
  | 0x73 => { a := .sca 1, b := .noIdx, ok := t == 0 && mn ≤ 1 && md == 0, imm := .wide, mem := true }
  | 0x75 => { a := .named [.b, .k], b := .sca 2, ok := z }
  | 0x76 | 0x77 | 0x78 => { a := .named [.b, .k], ok := z }
  | 0x79 => { d := .sca 1, a := .sca 2, ok := t == 0 && mn ≤ 2 && md == 0 }
  | 0x7A => { d := .named [.a], ok := t == 0 && mn ≤ 2 && md == 0, fs := true }
  | 0x7B => { d := .named [.a], a := { s := 2, files := [.t] }, b := { s := 2, files := [.t] },
              ok := t == 0 && mn ≤ 2 && md ≤ 1 && imm < 256, sat := true, fs := true, imm := .own }
  | 0x7C => { d := .named [.a], a := .sca 2,
              ok := t == 0 && mn ≤ 2 && ((md == 0 && imm ≤ 63) || (md == 1 && imm == 0 && mn == 0)), fs := true, imm := .own }
  | 0x7D => { d := .named [.a], a := .sca 1, ok := t == 0 && mn ≤ 2 && md == 0, fs := true }
  | 0x7E => { d := .named [.a], a := .sca 2, ok := z, fs := true }
  | _ => { d := .sca 1, ok := t == 0 && mn == 0 && md ≤ 1 &&
             ((md == 0 && imm ≤ 1) || (4 ≤ imm && imm ≤ 7) || (md == 0 && 8 ≤ imm && imm ≤ 11)), imm := .own }

/-- The row of a major opcode for given variants (17 R366). MOD is 0 but where a row uses it. -/
def row (op : Nat) (e : Ext) : Row :=
  let mn := e.minor.toNat
  let t := e.typ.toNat
  let md := e.md.toNat
  let imm := e.imm.toNat
  if op ≤ 0x10 then { rowInt op mn t with ok := (rowInt op mn t).ok && md == 0 }
  else if op ≤ 0x21 then { rowBit op mn t imm with ok := (rowBit op mn t imm).ok && md == 0 }
  else if op ≤ 0x33 then { rowFloat op mn t with ok := (rowFloat op mn t).ok && md == 0 }
  else if op ≤ 0x38 then
    { rowConvert op mn t md with ok := (rowConvert op mn t md).ok && (md == 0 || op == 0x34 || op == 0x35) }
  else if op ≤ 0x3E then { rowResidue op mn t with ok := (rowResidue op mn t).ok && md == 0 }
  else if op ≤ 0x4E then
    { rowGang op mn t md imm with ok := (rowGang op mn t md imm).ok && (md == 0 || op == 0x44 || op == 0x49) }
  else if op ≤ 0x5C then { rowControl op mn t imm with ok := (rowControl op mn t imm).ok && md == 0 }
  else if op ≤ 0x6B then rowMemory op mn t md
  else rowEngine op mn t md imm

/-- The major opcodes with a base form (16 R342). -/
def hasBase (op : Nat) : Bool := op ≤ 0x33 || (0x39 ≤ op && op ≤ 0x3F)

/-- The opcodes with a third source c, which a base word takes from d (16 R342). -/
def hasThird (op : Nat) : Bool :=
  op == 0x25 || op == 0x05 || op == 0x06 || op == 0x0F || op == 0x1C || op == 0x1A || op == 0x21

/-- The family's default TYPE (16 R342). -/
def defaultType (op : Nat) : BitVec 4 :=
  if op ≤ 0x10 then 0 else if 0x22 ≤ op && op ≤ 0x33 then 10 else 8

/-- The extended form whose fields are all 0 and whose guard is always. -/
def Ext.zero : Ext :=
  { gn := false, minor := 0, a := 0, d := 0, b := 0, c := 0, gp := 7, kd := 0, ka := 0, kb := 0, kc := 0, typ := 0,
    sat := false, rm := 0, sem := 0, agent := 0, stor := 0, md := 0, fs := false, imm := 0 }

/-- The extended equivalent of a base word (16 R342). -/
def expandBase (op : Nat) (w : Base) : Ext :=
  { Ext.zero with
    a := w.a.setWidth 8, d := w.d.setWidth 8, b := w.b.setWidth 8,
    c := if hasThird op then w.d.setWidth 8 else 0,
    gp := if w.g == 0 then 7 else if w.g == 2 then 1 else 0,
    gn := w.g == 3, typ := defaultType op }

/-- The fields of an instruction of a base word. -/
def fieldsOfBase (op : Nat) (w : Base) : Fields := { op := op, e := expandBase op w, lit := none }

/-- The fields of an instruction of more than one word (16 R339, R342). -/
def fieldsOfForm (op : Nat) (f : Form) : Fields :=
  match f with
  | .ext e => { op := op, e := e, lit := none }
  | .extLit e l => { op := op, e := e, lit := some l }
  | .baseLit w l => { op := op, e := { expandBase op w with kb := 3 }, lit := some l }

/-- One operand field is one the row allows (16 R345, R352, 18 R374). -/
def opndOk (o : Opnd) (kind field : Nat) : Bool :=
  match kind with
  | 0 => if o.v == 0 then (o.s == 0 && !o.i && o.files.isEmpty && !o.noIndex && field == 0)
         else (!o.aligned || field % o.v == 0) && field + o.v ≤ 256
  | 1 => o.s != 0 && field % o.s == 0 && field + o.s ≤ 128
  | 2 => match namedReg field with
         | some (f, n) => o.files.contains f && (o.p7 || !(f == .p && n == 7))
         | none => false
  | _ => field == 0 && (o.i || o.noIndex)

/-- The scope fields are those 10 R215 allows. -/
def scopesOk (k : Scopes) (sem agent stor : Nat) : Bool :=
  let plain := sem != 0 || (agent == 0 && stor == 0)
  match k with
  | .none => sem == 0 && agent == 0 && stor == 0
  | .load => sem ≤ 1 && agent ≤ 5 && plain
  | .store => (sem == 0 || sem == 2) && agent ≤ 5 && plain
  | .loadS => sem ≤ 1 && agent ≤ 5 && stor ≤ 1 && plain
  | .storeS => (sem == 0 || sem == 2) && agent ≤ 5 && stor ≤ 1 && plain
  | .atomic => agent ≤ 5 && plain
  | .fence => agent ≤ 5

/-- A register source of a vector kind (17 R372). -/
def vectorSource (o : Opnd) (kind : Nat) : Bool := kind == 0 && o.v != 0

/-- The rules on scalar destinations (17 R372, 19 R439, R450, R454, R456, 18 R411, 19 R465). -/
def scalarOk (op : Nat) (e : Ext) (r : Row) : Bool :=
  let vs := vectorSource r.a e.ka.toNat || vectorSource r.b e.kb.toNat || vectorSource r.c e.kc.toNat
  let file (k f : Nat) := if k == 2 then (namedReg f).map (·.1) else none
  let dq := file e.kd.toNat e.d.toNat == some .q
  let dp := file e.kd.toNat e.d.toNat == some .p
  let aq := file e.ka.toNat e.a.toNat == some .q
  let ap := file e.ka.toNat e.a.toNat == some .p
  let cp := file e.kc.toNat e.c.toNat == some .p
  if op == 0x3F then
    if e.kd.toNat == 2 || e.ka.toNat == 2 then e.typ.toNat == 8 && ((dp && (ap || aq)) || (dq && aq))
    else e.kd.toNat == 0 || e.ka.toNat == 1
  else if r.free then true
  else if op == 0x0E then e.kd.toNat == 0 || (!vs && !cp)
  else if e.kd.toNat == 1 || dq then !vs
  else true

/-- What else an entry asks (20 R464, R463: ring lengths of `mma`, the third register of `mldc.rp8`;
18 R381: `.cas` has no index). -/
def extraOk (op : Nat) (e : Ext) : Bool :=
  if op == 0x7B then
    let lenA := e.imm.toNat % 16
    let lenB := e.imm.toNat / 16
    (e.ka.toNat == 2 || (lenA == 0 && e.a.toNat ≤ 124)) && (e.kb.toNat == 2 || (lenB == 0 && e.b.toNat ≤ 124)) &&
      (e.md.toNat == 0 || e.ka.toNat == 2 || e.kb.toNat == 2)
  else if op == 0x7C then e.md.toNat == 1 || e.a.toNat ≤ 124
  else true

/-- The number of operands of kind 3, the code for no index left out (16 R352, 18 R374). -/
def kind3Count (e : Ext) (r : Row) : Nat :=
  (if e.ka.toNat == 3 then 1 else 0) + (if e.kb.toNat == 3 && !r.b.noIndex then 1 else 0) +
    (if e.kc.toNat == 3 then 1 else 0)

/-- IMM and the literal are used as 16 R347 and R352 say. -/
def immOk (f : Fields) (r : Row) : Bool :=
  let k3 := kind3Count f.e r
  match f.lit with
  | some _ => f.e.imm == 0 && (k3 == 1 || r.imm == .wide)
  | none => f.e.imm == 0 || k3 == 1 || r.imm == .wide || r.imm == .own

/-- The first reason, in the order of the checks, why fields are not an instruction; none when they are one. -/
def illegalReason (f : Fields) : Option IllegalReason :=
  let e := f.e
  let r := row f.op e
  if e.gp == 7 && e.gn then some .badGuard
  else if !(r.ok && extraOk f.op e && (e.rm == 0 || (r.rm && e.rm.toNat ≤ 4)) && (!e.sat || r.sat)) then some .badVariant
  else if !(!e.fs || r.fs) then some .badFlagSelect
  else if !scopesOk r.scopes e.sem.toNat e.agent.toNat e.stor.toNat then some .badScope
  else if !(e.kd.toNat != 3 && opndOk r.d e.kd.toNat e.d.toNat && opndOk r.a e.ka.toNat e.a.toNat &&
      opndOk r.b e.kb.toNat e.b.toNat && opndOk r.c e.kc.toNat e.c.toNat && kind3Count e r ≤ 1) then some .badOperand
  else if !scalarOk f.op e r then some .badScalar
  else if !immOk f r then some .badImmediate
  else none

/-- Why a base word is not an instruction (16 R342). -/
def illegalBase (op : Nat) (w : Base) : Option IllegalReason :=
  if hasBase op then illegalReason (fieldsOfBase op w) else some .noBaseForm

/-- Why an instruction of more than one word is not one (16 R342, R352). -/
def illegalForm (op : Nat) (f : Form) : Option IllegalReason :=
  match f with
  | .baseLit w _ =>
    if !hasBase op then some .noBaseForm
    else if w.b != 0 || !(row op (expandBase op w)).b.i then some .badBaseLiteral
    else illegalReason (fieldsOfForm op f)
  | .ext _ => illegalReason (fieldsOfForm op f)
  | .extLit _ _ => illegalReason (fieldsOfForm op f)

end Sys2Proof.Machine
end

