-- ==== Sys2Proof/Machine/Ops.lean ====
section
/-! DEFINITION. The operations every instruction shares: registers, the issuing context, completion and merging,
divergence, waits, taking a trap and returning from one. -/

namespace Sys2Proof.Machine

/-! ## Registers -/

/-- A vector register of a lane (01 R27). -/
def vreg (g : Gang) (n lane : Nat) : Word := mapGet 0 g.v (64 * n + lane)

/-- Writes a vector register of a lane. -/
def setVreg (g : Gang) (n lane : Nat) (x : Word) : Gang := { g with v := mapPut 0 g.v (64 * n + lane) x }

/-- A scalar register. -/
def sreg (g : Gang) (n : Nat) : Word := mapGet 0 g.s n

/-- Writes a scalar register. -/
def setSreg (g : Gang) (n : Nat) (x : Word) : Gang := { g with s := mapPut 0 g.s n x }

/-- A lane predicate; p7 reads true (01 R27). -/
def preg (g : Gang) (n : Nat) : Mask := if n == 7 then BitVec.allOnes 64 else mapGet 0 g.p n

/-- Writes a lane predicate in some lanes; a write of p7 is discarded (01 R27). -/
def setPreg (g : Gang) (n : Nat) (lanes x : Mask) : Gang :=
  if n == 7 then g else { g with p := mapPut 0 g.p n ((preg g n &&& ~~~lanes) ||| (x &&& lanes)) }

/-- A scalar predicate. -/
def qreg (g : Gang) (n : Nat) : Bool := g.q.getLsbD n

/-- Writes a scalar predicate. -/
def setQreg (g : Gang) (n : Nat) (b : Bool) : Gang :=
  { g with q := (g.q &&& ~~~(1#4 <<< n)) ||| (if b then 1#4 <<< n else 0) }

/-- Consecutive vector registers of a lane as one number, the first the least significant. -/
def vregs (g : Gang) (lane : Nat) : Nat → Nat → Nat
  | 0, _ => 0
  | k + 1, n => (vreg g n lane).toNat + 2 ^ 32 * vregs g lane k (n + 1)

/-- Writes consecutive vector registers of a lane. -/
def setVregs (lane : Nat) : Nat → Nat → Nat → Gang → Gang
  | 0, _, _, g => g
  | k + 1, n, x, g => setVregs lane k (n + 1) (x / 2 ^ 32) (setVreg g n lane (BitVec.ofNat 32 x))

/-- Consecutive scalar registers as one number. -/
def sregs (g : Gang) : Nat → Nat → Nat
  | 0, _ => 0
  | k + 1, n => (sreg g n).toNat + 2 ^ 32 * sregs g k (n + 1)

/-- Writes consecutive scalar registers. -/
def setSregs : Nat → Nat → Nat → Gang → Gang
  | 0, _, _, g => g
  | k + 1, n, x, g => setSregs k (n + 1) (x / 2 ^ 32) (setSreg g n (BitVec.ofNat 32 x))

/-- The flags that are set: those with an operation in flight (03 R69, 16 R337). -/
def flagsSet (g : Gang) : BitVec 12 :=
  g.ops.foldl (fun m o => match o.flag with | some n => m ||| (1#12 <<< n) | none => m) 0

/-! ## Splits -/

/-- The split a lane belongs to. -/
def splitOf (g : Gang) (lane : Nat) : Option Split := g.splits.find? (fun sp => laneIn sp.mask lane)

/-- The split of a lane changed by a function. -/
def modSplit (lane : Nat) (f : Split → Split) (g : Gang) : Gang :=
  { g with splits := g.splits.map (fun sp => if laneIn sp.mask lane then f sp else sp) }

/-- Lowest lane of a mask; 64 when there is none. -/
def lowestLane (m : Mask) : Nat := ctzNat 64 m.toNat

/-- The split stands at a clause header, SLOT 0, and has not issued from the clause (03 R58, R63). -/
def Split.atHeader (sp : Split) : Bool := sp.slot == 0 && sp.fresh && !sp.trapPend && sp.replay.isNone

/-- A change of a split's wait, and of the wait that it resumes after its handler. -/
def Split.onWaits (f : Wait → Wait) (sp : Split) : Split :=
  { sp with wait := sp.wait.map f, resume := sp.resume.map (fun r => { r with wait := r.wait.map f }) }

/-- The head of the rotation moves to the next record (03 R61). -/
def rotateHead (g : Gang) : Gang :=
  match g.splits with
  | sp :: rest => { g with splits := rest ++ [sp] }
  | [] => g

/-- With quantum 0 the head moves to the next record when the head split, of a lane, begins a wait (03 R61). -/
def rotateFrom (lane : Nat) (g : Gang) : Gang :=
  if g.quantum == 0 && (g.splits.head?.map (fun sp => laneIn sp.mask lane)).getD false then rotateHead g else g

/-- The records with the first that meets a test replaced and the others that meet it freed. -/
def keepFirst (p : Split → Bool) (x : Split) : List Split → List Split
  | [] => []
  | sp :: rest => if p sp then x :: rest.filter (fun t => !p t) else sp :: keepFirst p x rest

/-- How a split stopped that two stopped splits merge into: with the live sets and ranges of both, or with everything
(13 R291, R302). -/
def Stop.join : Stop → Stop → Stop
  | .phint a b, .phint c d => .ranges [(a, b), (c, d)]
  | .phint a b, .ranges l => .ranges ((a, b) :: l)
  | .ranges l, .phint a b => .ranges (l ++ [(a, b)])
  | .ranges l, .ranges m => .ranges (l ++ m)
  | .wait, _ => .wait
  | .deadline, _ => .deadline
  | _, y => y

/-- The split that a split becomes when another joins it at its header (03 R58, R63): the union of the masks, the oldest
age and STARVE 0. It waits as one of them did, runs the handler if one of them did, and has stopped for a pre-emption only
if both have (log 56). -/
def Split.join (x y : Split) : Split :=
  { x with mask := x.mask ||| y.mask, age := max x.age y.age, starve := 0, wait := x.wait.or y.wait,
           handler := x.handler || y.handler, resume := x.resume.or y.resume,
           stop := match x.stop, y.stop with
             | some a, some b => some (a.join b)
             | _, _ => none }

/-- The split stands at a clause header at an address, where others merge with it (03 R63). -/
def Split.mergesAt (pc : BitVec 52) (sp : Split) : Bool := sp.pc == pc && sp.atHeader

/-- The records with those that stand at one clause header merged in the first of them (03 R63). -/
def mergedSplits (pc : BitVec 52) (l : List Split) : List Split :=
  match l.filter (Split.mergesAt pc) with
  | first :: second :: more => keepFirst (Split.mergesAt pc) (more.foldl Split.join (first.join second)) l
  | _ => l

/-- Splits that stand at one clause header merge in the record first in rotation order (03 R63). With quantum 0 the head
moves when the head merges (03 R61). -/
def mergeAt (pc : BitVec 52) (g : Gang) : Gang :=
  let merged := { g with splits := mergedSplits pc g.splits }
  let headMerged := (g.splits.head?.map (Split.mergesAt pc)).getD false
  if g.quantum == 0 && headMerged && 2 ≤ (g.splits.filter (Split.mergesAt pc)).length then rotateHead merged else merged

/-- The gang's age becomes 0 when a clause with the yield hint completes (02 R47). -/
def yieldAges (c : Cursor) (g : Gang) : Gang :=
  if c.yield && c.last then { g with splits := g.splits.map (fun sp => { sp with age := 0 }) } else g

/-- A replay that completes leaves no lane unfinished (11 R248); while a handler runs the trapped instruction's lanes stay
(13 R283). -/
def endReplay (lane : Nat) (g : Gang) : Gang :=
  let ends := g.splits.any (fun sp => laneIn sp.mask lane && sp.replay.isSome) && !g.tcause.getLsbD 31
  { g with unfinished := if ends then 0 else g.unfinished }

/-- The issuing split moves past its instruction (16 R335); at the end of a clause it reaches the next header. -/
def advanceSplit (c : Cursor) (g : Gang) : Gang :=
  if c.last then
    mergeAt c.next (yieldAges c (modSplit c.lane (fun sp =>
      { sp with pc := c.next, slot := 0, clause := [], fresh := true, wait := none, replay := none }) (endReplay c.lane g)))
  else modSplit c.lane (fun sp => { sp with slot := sp.slot + 1, wait := none, replay := none }) (endReplay c.lane g)

/-- Lanes leave their splits and the gang (03 R59). -/
def dropLanes (m : Mask) (g : Gang) : Gang :=
  { g with splits := (g.splits.map (fun sp => { sp with mask := sp.mask &&& ~~~m })).filter (fun sp => sp.mask != 0) }

/-- Where the lanes of a split continue: groups by header, by ascending lowest lane (03 R58). -/
def groupMoves (target : Nat → BitVec 52) : List Nat → List (Mask × BitVec 52)
  | [] => []
  | h :: rest =>
    let others := groupMoves target rest
    let pc := target h
    let same := (others.filter (fun e => e.2 == pc)).foldl (fun m e => m ||| e.1) 0
    (laneBit h ||| same, pc) :: others.filter (fun e => e.2 != pc)

/-- What a branch does with a split: groups that join a sibling, groups that take records, and lanes that stay. -/
structure Plan where
  joins : List (Mask × BitVec 52)
  records : List (Mask × BitVec 52)
  stay : Mask
deriving DecidableEq, Repr

/-- The division of 03 R58 of the split of a lane. A split whose lanes all leave for one header does not divide. -/
def planBranch (g : Gang) (sp : Split) (target : Nat → BitVec 52) : Plan :=
  let groups := groupMoves target (lanesOf sp.mask)
  if groups.length ≤ 1 then { joins := [], records := groups, stay := 0 }
  else
    let sibling (pc : BitVec 52) := g.splits.any (fun x => x.mask != sp.mask && x.pc == pc && x.atHeader)
    let joins := groups.filter (fun e => sibling e.2)
    let need := groups.filter (fun e => !sibling e.2)
    let free := 8 - g.splits.length
    if need.length ≤ free + 1 then { joins := joins, records := need, stay := 0 }
    else { joins := joins, records := need.take free, stay := (need.drop free).foldl (fun m e => m ||| e.1) 0 }

/-- A record that a branch creates from an existing one (03 R58). -/
def movedSplit (sp : Split) (m : Mask) (pc : BitVec 52) : Split :=
  { sp with mask := m, pc := pc, slot := 0, clause := [], fresh := true, wait := none, replay := none }

/-- The records that replace a branching split. -/
def branchRecords (sp : Split) (p : Plan) (clock : Nat) : List Split :=
  let remainder : List Split :=
    if p.stay == 0 then [] else [{ sp with mask := p.stay, age := 0, starve := 0, wait := none }]
  match p.records with
  | [] => if p.stay == 0 then []
    else [{ sp with mask := p.stay, wait := some { kind := .record, obj := 0, since := clock } }]
  | (m, pc) :: more =>
    movedSplit sp m pc :: (more.map (fun e => { movedSplit sp e.1 e.2 with age := 0, starve := 0 }) ++ remainder)

/-- The records with a group of the branching split in the first sibling that stands at the group's header, and the others
there merged with it (03 R58, R63). -/
def joinSibling (sp : Split) (l : List Split) (e : Mask × BitVec 52) : List Split :=
  let rec put : List Split → List Split
    | [] => []
    | x :: rest =>
      if x.mask != sp.mask && x.mergesAt e.2 then x.join { movedSplit sp e.1 e.2 with stop := none } :: rest
      else x :: put rest
  mergedSplits e.2 (put l)

/-- A split divides or moves (03 R58), and merges where it arrives (03 R63). With quantum 0 the head moves when a group
joins the head (03 R61). -/
def branchGang (sp : Split) (p : Plan) (clock : Nat) (g : Gang) : Gang :=
  let rec replace : List Split → List Split
    | [] => []
    | x :: rest => if x.mask == sp.mask then branchRecords sp p clock ++ rest else x :: replace rest
  let headJoined := ((g.splits.head?).map (fun x =>
    x.mask != sp.mask && p.joins.any (fun e => x.mergesAt e.2))).getD false
  let g := { endReplay (lowestLane sp.mask) g with splits := replace (p.joins.foldl (joinSibling sp) g.splits) }
  let g := if headJoined && g.quantum == 0 then rotateHead g else g
  p.records.foldl (fun g e => mergeAt e.2 g) g

/-! ## The issuing context -/

/-- What an instruction issues with: its cursor, the gang and the split as they stand at issue, its fields, and the
lanes in which it acts: active, guard true, and not already performed (16 R344, 11 R248). -/
structure Ctx where
  cur : Cursor
  gang : Gang
  sp : Split
  f : Fields
  act : Mask
deriving DecidableEq, Repr

/-- The guard's lanes (16 R344). -/
def guardMask (g : Gang) (e : Ext) : Mask :=
  if e.gn then ~~~(preg g e.gp.toNat) else preg g e.gp.toNat

/-- The context of an issue. -/
def mkCtx (c : Cursor) (g : Gang) (sp : Split) (f : Fields) : Ctx :=
  { cur := c, gang := g, sp := sp, f := f,
    act := sp.mask &&& guardMask g f.e &&& sp.replay.getD (BitVec.allOnes 64) }

/-- The group of an issuing gang. -/
def Ctx.group (c : Ctx) (s : State) : Group :=
  (getGroup s c.cur.core c.gang.gslot).getD { ctx := c.gang.ctx }

/-- The immediate value (16 R347). -/
def immediateOf (f : Fields) : BitVec 64 :=
  match f.lit with
  | some l => l
  | none => if 4 ≤ f.e.typ.toNat && f.e.typ.toNat ≤ 7 then f.e.imm.setWidth 64 else f.e.imm.signExtend 64

/-- The gang of a context changed by a function. -/
def onGang (c : Ctx) (f : Gang → Gang) (s : State) : State := modGang s c.cur.core c.cur.slot f

/-- The instruction completes. -/
def complete (c : Ctx) (s : State) : State := onGang c (advanceSplit c.cur) s

/-- The instruction completes after it changes its gang. -/
def completeWith (c : Ctx) (f : Gang → Gang) (s : State) : State := onGang c (fun g => advanceSplit c.cur (f g)) s

/-- The operation of a lane access that has issued and that a lane has yet to make. -/
def OpKind.waitsFor (lane : Nat) : OpKind → Bool
  | .waiting m => laneIn m lane
  | _ => false

/-- The operation of a lane access that waits for some of its lanes, so that nothing of it is in flight. -/
def OpKind.waits : OpKind → Bool
  | .waiting _ => true
  | _ => false

/-- The operation is the issuing instruction's own, which has waited since its issue and replays (11 R248). -/
def Ctx.resumes (c : Ctx) (o : Op) : Bool := c.sp.replay.isSome && o.kind.waitsFor c.cur.lane

/-- A long-latency operation begins: it is assigned to flag A or B of its clause (16 R337). One that has waited since its
issue has its place and its flag already. -/
def startOp (c : Ctx) (kind : OpKind) (g : Gang) : Gang :=
  if g.ops.any c.resumes then { g with ops := g.ops.map (fun o => if c.resumes o then { o with kind := kind } else o) }
  else { g with ops := g.ops ++ [{ flag := if c.f.e.fs then c.cur.flagB else c.cur.flagA, kind := kind }] }

/-- The waits with whose beginning the head of the rotation moves (03 R61): not a fence, a commit point or a link. -/
def movesHead (kind : WaitKind) (obj : Nat) : Bool :=
  kind != .fence && ((kind != .version && kind != .flag) || obj != 0)

/-- The split waits at its instruction (02 R51); a wait of the same kind keeps its timer. With quantum 0 the head moves
when the head split begins to wait (03 R61). -/
def waitAt (c : Ctx) (kind : WaitKind) (obj : Nat) (acted : Bool) (s : State) : State :=
  let begins := match c.sp.wait with
    | some w => w.kind != kind
    | none => true
  let since := match c.sp.wait with
    | some w => if w.kind == kind then w.since else s.clock
    | none => s.clock
  onGang c (fun g =>
    let g := modSplit c.cur.lane (fun sp =>
      { sp with wait := some { kind := kind, obj := obj, since := since, acted := acted } }) g
    if begins && movesHead kind obj then rotateFrom c.cur.lane g else g) s

/-- Another split of the gang has its first turn in this slot still to come. -/
def siblingIssues (c : Ctx) (s : State) : Bool :=
  s.issueQ.any (fun x => x.core == c.cur.core && x.slot == c.cur.slot && x.clause.isEmpty)

/-- A division issues after the other splits of its gang in the slot: a record that a merge frees in the cycle is
available (03 R74). -/
def branchLast (c : Ctx) (s : State) : State := { s with issueQ := s.issueQ ++ [c.cur] }

/-! ## Traps (13 R281 to R286) -/

/-- A trap of a split: cause, `tinfo`, the lanes that trapped, the lanes not performed (causes 2 to 5), and where the
split continues after its instruction. -/
structure TrapInfo where
  cause : Nat
  tinfo : BitVec 64
  tmask : Mask
  unfinished : Mask := 0
  nextPc : BitVec 52 := 0
  nextSlot : Nat := 0
deriving DecidableEq, Repr

/-- The trap registers and the split after delivery (13 R283): it stands at the handler's header, SLOT 0, and merges with
none there (log 23); the other splits run no handler. -/
def deliverTrap (handler : BitVec 52) (lane : Nat) (t : TrapInfo) (g : Gang) : Gang :=
  match splitOf g lane with
  | none => g
  | some sp =>
    let g := { g with splits := g.splits.map (fun x => { x with handler := false }) }
    let g := modSplit lane (fun x =>
      { x with pc := handler, slot := 0, clause := [], fresh := true, trapPend := false, handler := true,
               resume := some { wait := x.wait, fresh := x.fresh, replay := x.replay }, wait := none, replay := none }) g
    { g with
      tcause := BitVec.ofNat 32 (0x80000000 + t.cause),
      tpc := BitVec.ofNat 64 (sp.pc.toNat / 4 * 2 ^ 14 + sp.slot * 2 ^ 11),
      tmask := t.tmask, tinfo := t.tinfo, delivered := t.cause, tpcWritten := false, tmaskAt := t.tmask,
      unfinished := if 2 ≤ t.cause && t.cause ≤ 5 then t.unfinished else g.unfinished,
      nextPc := t.nextPc, nextSlot := t.nextSlot }

/-- A trap is held with its split (13 R284); the lanes not performed stay with the split. -/
def holdTrap (lane : Nat) (t : TrapInfo) (g : Gang) : Gang :=
  let g := { g with held := g.held ++ [{ cause := t.cause, lane := lane, tinfo := t.tinfo, tmask := t.tmask,
                                         nextPc := t.nextPc, nextSlot := t.nextSlot }] }
  modSplit lane (fun x => { x with trapPend := true,
                                   replay := if 2 ≤ t.cause && t.cause ≤ 5 then some t.unfinished else x.replay }) g

/-- The handler is running (13 R282). -/
def trapActive (g : Gang) : Bool := g.tcause.getLsbD 31

/-- The hardware rule (13 R285): a held task fails, any other context is killed. -/
def hardwareRule (core gslot ctx cause : Nat) (held : Bool) (s : State) : State :=
  if held then failTask core gslot 1 cause s else killContext ctx s

/-- Taking a trap of the split of a lane (13 R283 to R285): by the hardware rule, held, or delivered. -/
def takeTrap (core slot lane : Nat) (t : TrapInfo) (s : State) : State :=
  match getGang s core slot with
  | none => s
  | some g =>
    let grp := (getGroup s core g.gslot).getD { ctx := g.ctx }
    let running := trapActive g && ((splitOf g lane).map (·.handler)).getD false
    if grp.handler == 0 || grp.held || t.cause == 0x0A || running then
      hardwareRule core g.gslot g.ctx t.cause grp.held s
    else if trapActive g then modGang s core slot (holdTrap lane t)
    else modGang s core slot (deliverTrap grp.handler lane t)

/-- A trap of the split of a lane that falls due by itself. A lifted gang takes it when it is recalled: until then its
records do not change (03 R74). -/
def trapWhenPresent (core slot lane : Nat) (t : TrapInfo) (s : State) : State :=
  match getGang s core slot with
  | none => s
  | some g =>
    if g.residency == .present || g.residency == .waitingRoom then takeTrap core slot lane t s
    else modGang s core slot (fun g => { g with due := g.due ++ [{ cause := t.cause, lane := lane, tinfo := t.tinfo, tmask := t.tmask }] })

/-- The traps that fell due while a gang was lifted, the oldest first, when it is recalled (03 R74). -/
def takeDue (core slot : Nat) (s : State) : State :=
  match getGang s core slot with
  | none => s
  | some g => g.due.foldl (fun s h =>
      takeTrap core slot h.lane { cause := h.cause, tinfo := h.tinfo, tmask := h.tmask, unfinished := h.tmask } s)
      (modGang s core slot (fun g => { g with due := [] }))

/-- A trap after which the program continues after the instruction (13 R281). -/
def goesOn (cause : Nat) : Bool := cause == 0x01 || cause == 0x06 || cause == 0x0B || cause == 0x0C

/-- A trap of the instruction that a cursor issues. A clause with the yield hint that ends in an instruction after which
the program continues completes with it (02 R47). -/
def raiseAt (cur : Cursor) (sp : Split) (cause : Nat) (tinfo : BitVec 64) (tmask unfinished : Mask) (s : State) : State :=
  takeTrap cur.core cur.slot cur.lane
    { cause := cause, tinfo := tinfo, tmask := tmask, unfinished := unfinished,
      nextPc := if cur.last then cur.next else sp.pc,
      nextSlot := if cur.last then 0 else sp.slot + 1 }
    (if goesOn cause then modGang s cur.core cur.slot (yieldAges cur) else s)

/-- A trap of the issuing instruction. -/
def raise (c : Ctx) (cause : Nat) (tinfo : BitVec 64) (tmask unfinished : Mask) (s : State) : State :=
  raiseAt c.cur c.sp cause tinfo tmask unfinished s

/-- Illegal-instruction (13 R281): `tinfo` holds the first word; every lane of the split is named (log 11). -/
def raiseIllegal (c : Ctx) (s : State) : State := raise c 0x01 (c.cur.word.setWidth 64) c.sp.mask 0 s

/-- Delivers the oldest held trap of a gang (13 R284, R286). -/
def deliverHeld (core slot : Nat) (s : State) : State :=
  match getGang s core slot with
  | none => s
  | some g => match g.held with
    | [] => s
    | h :: rest =>
      let grp := (getGroup s core g.gslot).getD { ctx := g.ctx }
      let unf := ((splitOf g h.lane).bind (·.replay)).getD 0
      modGang s core slot (fun g => deliverTrap grp.handler h.lane
        { cause := h.cause, tinfo := h.tinfo, tmask := h.tmask, unfinished := unf,
          nextPc := h.nextPc, nextSlot := h.nextSlot } { g with held := rest })

/-- The split of a lane after the return from its handler (13 R286): where it stands and what it resumes. At SLOT 0 it
stands unissued at a clause header, but for an instruction that replays or a wait of an instruction that has issued. -/
def returnSplit (clock : Nat) (g : Gang) (sp : Split) : Split :=
  let pc := BitVec.ofNat 52 (field g.tpc 63 14 * 4)
  let slot := field g.tpc 13 11
  let old := sp.resume.getD {}
  let back := { sp with pc := pc, slot := slot, clause := [], fresh := slot == 0, handler := false, wait := none,
                        replay := none, resume := none }
  if g.tpcWritten then back
  else if 2 ≤ g.delivered && g.delivered ≤ 5 then
    { back with fresh := false, replay := some (g.unfinished &&& ~~~(g.tmaskAt &&& ~~~g.tmask)) }
  else if g.delivered == 0x08 then { back with slot := 0, fresh := true }
  else if goesOn g.delivered then { back with pc := g.nextPc, slot := g.nextSlot, fresh := g.nextSlot == 0 }
  else if g.delivered == 0x09 then
    { back with wait := old.wait.map (fun w => { w with since := clock }), fresh := old.fresh, replay := old.replay }
  else { back with wait := old.wait, fresh := old.fresh, replay := old.replay }

/-- The return from a trap handler (13 R286): ACTIVE is cleared and the split of a lane continues by the cause with
which the trap was delivered, merging at a header it stands at (03 R63); then the oldest held trap is delivered. -/
def returnFromTrap (core slot lane : Nat) (s : State) : State :=
  let back (g : Gang) : Gang :=
    let g' := modSplit lane (returnSplit s.clock g) g
    let g' := { g' with tcause := g.tcause &&& 0x7FFFFFFF,
                        unfinished := if g.tpcWritten then 0 else g.unfinished }
    match splitOf g' lane with
    | some sp => if sp.atHeader then mergeAt sp.pc g' else g'
    | none => g'
  deliverHeld core slot (modGang s core slot back)

/-! ## Issue -/

/-- The cursor, gang and split that issue next (02 R47). -/
def issuer (s : State) : Option (Cursor × Gang × Split) :=
  match s.issueQ with
  | [] => none
  | c :: _ => match getGang s c.core c.slot with
    | none => none
    | some g => match splitOf g c.lane with
      | none => none
      | some sp => some (c, g, sp)

/-- The state once the head of the slot has been taken to issue: its split has issued from its clause, also when it then
waits in the first instruction (log 99), and keeps its words (11 R244). -/
def taken (c : Cursor) (s : State) : State :=
  modGang { s with issueQ := s.issueQ.tail } c.core c.slot (fun g =>
    { modSplit c.lane (fun sp => { sp with fresh := false, clause := c.clause }) g with lastIssue := some s.clock })

/-- Every vector register the instruction names is below the gang's count (02 R40). -/
def regsInRange (g : Gang) (f : Fields) : Bool :=
  let r := row f.op f.e
  let ok (o : Opnd) (kind field : Nat) := kind != 0 || o.v == 0 || field + o.v ≤ g.regs
  ok r.d f.e.kd.toNat f.e.d.toNat && ok r.a f.e.ka.toNat f.e.a.toNat && ok r.b f.e.kb.toNat f.e.b.toNat &&
    ok r.c f.e.kc.toNat f.e.c.toNat

/-- Issues an instruction (16 R352, 17 R366): illegal-instruction before any effect, or its body. -/
def issueFields (f : Fields) (bad : Option IllegalReason) (body : Ctx → State → State) (s : State) :
    Host.Outcome State Fault Refusal :=
  match issuer s with
  | none => .fault .noIssuer
  | some (c, g, sp) =>
    let s := taken c s
    let x := mkCtx c g sp f
    if bad.isSome || !regsInRange g f then .next (raiseIllegal x s) else .next (body x s)

/-- Issues an instruction of a base word. -/
def issueBase (op : Nat) (w : Base) (body : Ctx → State → State) (s : State) : Host.Outcome State Fault Refusal :=
  issueFields (fieldsOfBase op w) (illegalBase op w) body s

/-- Issues an instruction of more than one word. -/
def issueForm (op : Nat) (f : Form) (body : Ctx → State → State) (s : State) : Host.Outcome State Fault Refusal :=
  issueFields (fieldsOfForm op f) (illegalForm op f) body s

end Sys2Proof.Machine
end

