-- ==== Sys2Proof/Machine/Operands.lean ====
section
/-! DEFINITION. Every operand form (16 R345 to R348): register and immediate operands, results, and the addresses of
memory operands. -/

namespace Sys2Proof.Machine

/-- The value of an operand of `n` registers in a lane (16 R345, R347): a vector group, a scalar group, a predicate as
0 or 1, or the immediate. -/
def readOpnd (g : Gang) (imm : BitVec 64) (kind field n lane : Nat) : Nat :=
  match kind with
  | 0 => vregs g lane n field
  | 1 => sregs g n field
  | 2 => match namedReg field with
    | some (.p, k) => if laneIn (preg g k) lane then 1 else 0
    | some (.q, k) => if qreg g k then 1 else 0
    | _ => 0
  | _ => imm.toNat

/-- Registers of an operand of a kind under its row. -/
def Opnd.count (o : Opnd) (kind : Nat) : Nat := if kind == 1 then o.s else o.v

/-- The operand row of the issuing instruction. -/
def Ctx.row (c : Ctx) : Row := Machine.row c.f.op c.f.e

/-- Operand a in a lane. -/
def Ctx.a (c : Ctx) (lane : Nat) : Nat :=
  readOpnd c.gang (immediateOf c.f) c.f.e.ka.toNat c.f.e.a.toNat (c.row.a.count c.f.e.ka.toNat) lane

/-- Operand b in a lane. -/
def Ctx.b (c : Ctx) (lane : Nat) : Nat :=
  readOpnd c.gang (immediateOf c.f) c.f.e.kb.toNat c.f.e.b.toNat (c.row.b.count c.f.e.kb.toNat) lane

/-- Operand c in a lane. -/
def Ctx.c (c : Ctx) (lane : Nat) : Nat :=
  readOpnd c.gang (immediateOf c.f) c.f.e.kc.toNat c.f.e.c.toNat (c.row.c.count c.f.e.kc.toNat) lane

/-- Operand d, as a source, in a lane. -/
def Ctx.d (c : Ctx) (lane : Nat) : Nat :=
  readOpnd c.gang (immediateOf c.f) c.f.e.kd.toNat c.f.e.d.toNat (c.row.d.count c.f.e.kd.toNat) lane

/-- The lanes in which the instruction acts, in rising order. -/
def Ctx.lanes (c : Ctx) : List Nat := lanesOf c.act

/-- The lowest acting lane, in which an instruction that acts once per issue reads its operands. -/
def Ctx.lane0 (c : Ctx) : Nat := lowestLane c.act

/-- TYPE, MINOR, MOD, RM and IMM as numbers. -/
def Ctx.t (c : Ctx) : Nat := c.f.e.typ.toNat
def Ctx.mn (c : Ctx) : Nat := c.f.e.minor.toNat
def Ctx.md (c : Ctx) : Nat := c.f.e.md.toNat
def Ctx.rm (c : Ctx) : Nat := c.f.e.rm.toNat
def Ctx.immN (c : Ctx) : Nat := c.f.e.imm.toNat

/-- Writes a group of `n` vector registers in each of some lanes. -/
def putLanes (n field : Nat) (val : Nat → Nat) : List Nat → Gang → Gang
  | [], g => g
  | h :: rest, g => putLanes n field val rest (setVregs h n field (val h) g)

/-- Writes a result to an operand (16 R344, R345, 17 R372): each acting lane of a vector register or lane predicate; a
scalar register or predicate once, when some lane acts. -/
def writeOpnd (kind field n : Nat) (act : Mask) (val : Nat → Nat) (g : Gang) : Gang :=
  match kind with
  | 0 => putLanes n field val (lanesOf act) g
  | 1 => if act == 0 then g else setSregs n field (val (lowestLane act)) g
  | _ => match namedReg field with
    | some (.p, k) => setPreg g k act (maskOf ((lanesOf act).filter (fun h => val h != 0)))
    | some (.q, k) => if act == 0 then g else setQreg g k (val (lowestLane act) != 0)
    | _ => g

/-- Writes operand d. -/
def Ctx.putD (c : Ctx) (val : Nat → Nat) (g : Gang) : Gang :=
  writeOpnd c.f.e.kd.toNat c.f.e.d.toNat (c.row.d.count c.f.e.kd.toNat) c.act val g

/-- A 64-bit pattern of a number. -/
def b64 (x : Nat) : BitVec 64 := BitVec.ofNat 64 x

/-- An instruction that writes to d a value of its sources, lane by lane (18 R374: every source is read first). -/
def compute (val : Ctx → Nat → Nat) (c : Ctx) (s : State) : State := completeWith c (c.putD (val c)) s

/-- The same for sources of at most 64 bits. -/
def arith (val : Ctx → BitVec 64 → BitVec 64 → BitVec 64 → BitVec 64) : Ctx → State → State :=
  compute (fun c h => (val c (b64 (c.a h)) (b64 (c.b h)) (b64 (c.c h))).toNat)

/-! ## Memory operands (16 R348) -/

/-- The signed offset of a memory operand. -/
def Ctx.offset (c : Ctx) : Int := (immediateOf c.f).toInt

/-- The index of a memory operand in a lane: an unsigned 32-bit offset, 0 for none. -/
def Ctx.index (c : Ctx) (lane : Nat) : Nat := if c.f.e.kb.toNat == 0 then (vreg c.gang c.f.e.b.toNat lane).toNat else 0

/-- A scratchpad address: the low 32 bits of base + index + offset. -/
def Ctx.scratchAddr (c : Ctx) (lane : Nat) (indexed : Bool) : Nat :=
  modInt (((c.a lane : Nat) : Int) % 2 ^ 32 + (if indexed then (c.index lane : Int) else 0) + c.offset) (2 ^ 32)

/-- A window register's fields (08 R195). -/
def wreg (g : Gang) (n : Nat) : BitVec 192 := mapGet 0 g.w n

/-- A global address: its virtual address, and the physical address and write permission when a window gives them
(08 R197). -/
structure GAddr where
  va : Nat
  direct : Option (Nat × Bool) := none
  /-- C of the window's leaf (11 R239). -/
  cached : Bool := false
deriving DecidableEq, Repr

/-- The global address of a memory operand in a lane (16 R348, 08 R197). -/
def Ctx.globalAddr (c : Ctx) (lane : Nat) (indexed : Bool) : GAddr :=
  let idx : Int := if indexed then (c.index lane : Int) else 0
  if c.f.e.ka.toNat == 2 then
    let w := wreg c.gang (c.f.e.a.toNat % 8)
    let o := idx + c.offset
    let va := modInt ((field w 51 0 : Int) + o) (2 ^ 52)
    if field w 191 191 == 1 && 0 ≤ o && o < (field w 149 128 : Int) then
      { va := va, direct := some (field w 115 64 + o.toNat, field w 190 190 == 1),
        cached := c.gang.wCached.getLsbD (c.f.e.a.toNat % 8) }
    else { va := va }
  else { va := modInt (((c.a lane : Nat) : Int) + idx + c.offset) (2 ^ 52) }

/-- A code address given as a count of words from the header of the instruction's clause (16 R349), modulo 2^52
(18 R376). -/
def Ctx.codeTarget (c : Ctx) : BitVec 52 :=
  BitVec.ofInt 52 ((c.cur.header.toNat : Int) + 4 * (immediateOf c.f).toInt)

end Sys2Proof.Machine
end

