-- ==== Sys2Proof/Machine/Bits.lean ====
section
/-! DEFINITION. The bit and logic instructions (18, 19, 20). -/

namespace Sys2Proof.Machine

/-- `and` (18 R380), base word. -/
def execAndB (w : Base) (s : State) : Host.Outcome State Fault Refusal :=
  issueBase 0x11 w (arith (fun x a b _ => andVal x.t a b)) s

/-- `and` (18 R380). -/
def execAndBExt (f : Form) (s : State) : Host.Outcome State Fault Refusal :=
  issueForm 0x11 f (arith (fun x a b _ => andVal x.t a b)) s

/-- `or` (20 R480), base word. -/
def execOrB (w : Base) (s : State) : Host.Outcome State Fault Refusal :=
  issueBase 0x12 w (arith (fun x a b _ => orVal x.t a b)) s

/-- `or` (20 R480). -/
def execOrBExt (f : Form) (s : State) : Host.Outcome State Fault Refusal :=
  issueForm 0x12 f (arith (fun x a b _ => orVal x.t a b)) s

/-- `xor` (20 R480), base word. -/
def execXorB (w : Base) (s : State) : Host.Outcome State Fault Refusal :=
  issueBase 0x13 w (arith (fun x a b _ => xorVal x.t a b)) s

/-- `xor` (20 R480). -/
def execXorBExt (f : Form) (s : State) : Host.Outcome State Fault Refusal :=
  issueForm 0x13 f (arith (fun x a b _ => xorVal x.t a b)) s

/-- `not` (19 R476), base word. -/
def execNotB (w : Base) (s : State) : Host.Outcome State Fault Refusal :=
  issueBase 0x14 w (arith (fun x a _ _ => notVal x.t a)) s

/-- `not` (19 R476). -/
def execNotBExt (f : Form) (s : State) : Host.Outcome State Fault Refusal :=
  issueForm 0x14 f (arith (fun x a _ _ => notVal x.t a)) s

/-- `lop3` (19 R459). -/
def execLop3 (f : Form) (s : State) : Host.Outcome State Fault Refusal :=
  issueForm 0x15 f (arith (fun x a b c => lop3Val x.t x.immN a b c)) s

/-- `shl` (20 R480), base word. -/
def execShl (w : Base) (s : State) : Host.Outcome State Fault Refusal :=
  issueBase 0x16 w (arith (fun x a b _ => shlVal x.t a b)) s

/-- `shl` (20 R480). -/
def execShlExt (f : Form) (s : State) : Host.Outcome State Fault Refusal :=
  issueForm 0x16 f (arith (fun x a b _ => shlVal x.t a b)) s

/-- `shr` (20 R480), base word. -/
def execShr (w : Base) (s : State) : Host.Outcome State Fault Refusal :=
  issueBase 0x17 w (arith (fun x a b _ => shrVal x.t a b)) s

/-- `shr` (20 R480). -/
def execShrExt (f : Form) (s : State) : Host.Outcome State Fault Refusal :=
  issueForm 0x17 f (arith (fun x a b _ => shrVal x.t a b)) s

/-- `sar` (20 R480), base word. -/
def execSar (w : Base) (s : State) : Host.Outcome State Fault Refusal :=
  issueBase 0x18 w (arith (fun x a b _ => sarVal x.t a b)) s

/-- `sar` (20 R480). -/
def execSarExt (f : Form) (s : State) : Host.Outcome State Fault Refusal :=
  issueForm 0x18 f (arith (fun x a b _ => sarVal x.t a b)) s

/-- `rotl` (20 R480), base word. -/
def execRotl (w : Base) (s : State) : Host.Outcome State Fault Refusal :=
  issueBase 0x19 w (arith (fun x a b _ => rotlVal x.t a b)) s

/-- `rotl` (20 R480). -/
def execRotlExt (f : Form) (s : State) : Host.Outcome State Fault Refusal :=
  issueForm 0x19 f (arith (fun x a b _ => rotlVal x.t a b)) s

/-- `funl` (18 R428), base word. -/
def execFunl (w : Base) (s : State) : Host.Outcome State Fault Refusal :=
  issueBase 0x1A w (arith (fun _ a b c => funlVal a b c)) s

/-- `funl` (18 R428). -/
def execFunlExt (f : Form) (s : State) : Host.Outcome State Fault Refusal :=
  issueForm 0x1A f (arith (fun _ a b c => funlVal a b c)) s

/-- `bfx` (18 R388, R389), base word. -/
def execBfx (w : Base) (s : State) : Host.Outcome State Fault Refusal :=
  issueBase 0x1B w (arith (fun x a b _ => bfxVal x.t x.mn a b)) s

/-- `bfx` (18 R388, R389). -/
def execBfxExt (f : Form) (s : State) : Host.Outcome State Fault Refusal :=
  issueForm 0x1B f (arith (fun x a b _ => bfxVal x.t x.mn a b)) s

/-- `bfi` (18 R388), base word. -/
def execBfi (w : Base) (s : State) : Host.Outcome State Fault Refusal :=
  issueBase 0x1C w (arith (fun x a b c => bfiVal x.t a b c)) s

/-- `bfi` (18 R388). -/
def execBfiExt (f : Form) (s : State) : Host.Outcome State Fault Refusal :=
  issueForm 0x1C f (arith (fun x a b c => bfiVal x.t a b c)) s

/-- `popc` (20 R480), base word. -/
def execPopc (w : Base) (s : State) : Host.Outcome State Fault Refusal :=
  issueBase 0x1D w (arith (fun x a _ _ => popcVal x.t a)) s

/-- `popc` (20 R480). -/
def execPopcExt (f : Form) (s : State) : Host.Outcome State Fault Refusal :=
  issueForm 0x1D f (arith (fun x a _ _ => popcVal x.t a)) s

/-- `clz` (18 R398), base word. -/
def execClz (w : Base) (s : State) : Host.Outcome State Fault Refusal :=
  issueBase 0x1E w (arith (fun x a _ _ => clzVal x.t a)) s

/-- `clz` (18 R398). -/
def execClzExt (f : Form) (s : State) : Host.Outcome State Fault Refusal :=
  issueForm 0x1E f (arith (fun x a _ _ => clzVal x.t a)) s

/-- `ctz` (18 R401), base word. -/
def execCtz (w : Base) (s : State) : Host.Outcome State Fault Refusal :=
  issueBase 0x1F w (arith (fun x a _ _ => ctzVal x.t a)) s

/-- `ctz` (18 R401). -/
def execCtzExt (f : Form) (s : State) : Host.Outcome State Fault Refusal :=
  issueForm 0x1F f (arith (fun x a _ _ => ctzVal x.t a)) s

/-- `brev` (18 R392), base word. -/
def execBrev (w : Base) (s : State) : Host.Outcome State Fault Refusal :=
  issueBase 0x20 w (arith (fun x a _ _ => brevVal x.t a)) s

/-- `brev` (18 R392). -/
def execBrevExt (f : Form) (s : State) : Host.Outcome State Fault Refusal :=
  issueForm 0x20 f (arith (fun x a _ _ => brevVal x.t a)) s

/-- `perm` (20 R489), base word. -/
def execPerm (w : Base) (s : State) : Host.Outcome State Fault Refusal :=
  issueBase 0x21 w (arith (fun x a b c => permVal x.mn a b c)) s

/-- `perm` (20 R489). -/
def execPermExt (f : Form) (s : State) : Host.Outcome State Fault Refusal :=
  issueForm 0x21 f (arith (fun x a b c => permVal x.mn a b c)) s

end Sys2Proof.Machine
end

