-- ==== Sys2Proof/Machine/Scratch.lean ====
section
/-! DEFINITION. Scratchpad accesses (08 R175 to R177), the checks of one instruction's lanes (13 R544), and its end when
some of them trap (13 R283, 11 R247). -/

namespace Sys2Proof.Machine

/-- Reads `n` bytes at an offset of a group's scratchpad. -/
def scratchRead (s : State) (core : Nat) (g : Group) (off n : Nat) : Nat :=
  bytesToNat (memReadBytes (getCore s core).scratch (g.sbase + off) n)

/-- Writes bytes at an offset of a group's scratchpad. -/
def scratchWrite (core : Nat) (g : Group) (off : Nat) (bs : List Byte) (s : State) : State :=
  modCore s core (fun c => { c with scratch := memWriteBytes c.scratch (g.sbase + off) bs })

/-- A trap of one lane. -/
structure LaneTrap where
  lane : Nat
  cause : Nat
  tinfo : Nat
deriving DecidableEq, Repr

/-- The check of a scratchpad access: misaligned-address, then scratchpad-range (08 R177, 13 R544). -/
def scratchTrap (g : Group) (align size lane off : Nat) : Option LaneTrap :=
  if off % align != 0 then some { lane := lane, cause := 0x02, tinfo := off }
  else if g.ssize < off + size then some { lane := lane, cause := 0x03, tinfo := off % 2 ^ 19 }
  else none

/-- The lanes of a list of traps. -/
def trapLanes (l : List LaneTrap) : Mask := maskOf (l.map (·.lane))

/-- Raises the traps of an instruction's lanes: `tmask` names them all, the cause and `tinfo` are those of the lowest
(13 R283). -/
def raiseLanes (c : Ctx) (traps : List LaneTrap) (unfinished : Mask) (s : State) : State :=
  match traps with
  | [] => s
  | t :: _ => raise c t.cause (b64 t.tinfo) (trapLanes traps) unfinished s

/-- The end of an instruction some of whose lanes may have trapped; the others have acted. -/
def endLanes (c : Ctx) (traps : List LaneTrap) (s : State) : State :=
  match traps with
  | [] => complete c s
  | t :: rest => raiseLanes c (t :: rest) (trapLanes (t :: rest)) s

/-- A trap of an instruction that acts once per issue (13 R283): every acting lane is named and stays unfinished. -/
def raiseOnce (c : Ctx) (cause tinfo : Nat) (s : State) : State := raise c cause (b64 tinfo) c.act c.act s

/-- An instruction that acts once per issue at a scratchpad offset: its checks, then its effect. -/
def onceAt (c : Ctx) (align size off : Nat) (effect : State → State) (s : State) : State :=
  match scratchTrap (c.group s) align size c.lane0 off with
  | some t => raiseOnce c t.cause t.tinfo s
  | none => effect s

/-- Drops every line of a core's L1: an acquire beyond the group (10 R226). -/
def dropL1 (core : Nat) (s : State) : State := modCore s core (fun c => { c with l1 := [] })

end Sys2Proof.Machine
end

