-- ==== Sys2Proof/Machine/Barriers.lean ====
section
/-! DEFINITION. Named and cohort barriers (09 R209 to R213) and phase barriers (09 R206 to R208). -/

namespace Sys2Proof.Machine

/-! ## Named and cohort barriers -/

/-- The groups of a group's cohort, itself among them (02 R52). -/
def cohortOf (s : State) (core gslot : Nat) : List (Nat × Nat × Group) :=
  match getGroup s core gslot with
  | none => []
  | some g =>
    if g.cohortSize ≤ 1 then [(core, gslot, g)]
    else (allGroups s).filter (fun e =>
      e.1 / 4 == core / 4 && e.2.2.queue == g.queue && e.2.2.lslot == g.lslot && e.2.2.stage == g.stage &&
        e.2.2.copy == g.copy && e.2.2.index / g.cohortSize == g.index / g.cohortSize)

/-- The groups that share a barrier: the group for b0 to b15, the cohort for k0 to k3 (09 R209). -/
def barrierGroups (s : State) (core gslot bar : Nat) : List (Nat × Nat × Group) :=
  if bar < 16 then (getGroup s core gslot).toList.map (fun g => (core, gslot, g)) else cohortOf s core gslot

/-- A group's part of a barrier. -/
def Group.barrier (g : Group) (bar : Nat) : Barrier := mapGet {} g.barriers bar

/-- A gang is a member of its group's part of a barrier (09 R209); spawned gangs are members of none (04 R86). -/
def isMember (g : Group) (gang : Gang) (bar : Nat) : Bool := gang.id < 64 && laneIn (g.barrier bar).members gang.id

/-- The expected count of a barrier (09 R210): live lanes of its member gangs. -/
def barrierExpected (s : State) (core gslot bar : Nat) : Nat :=
  (barrierGroups s core gslot bar).foldl (fun n (c, k, g) =>
    (getCore s c).gangs.foldl (fun n e => if e.2.gslot == k && isMember g e.2 bar then n + laneCount (liveLanes e.2) else n) n) 0

/-- The arrival count of a barrier (09 R210). -/
def barrierArrived (s : State) (core gslot bar : Nat) : Nat :=
  (barrierGroups s core gslot bar).foldl (fun n e => n + (e.2.2.barrier bar).arrived) 0

/-- Every group's part of a barrier changed by a function. -/
def modBarrier (core gslot bar : Nat) (f : Barrier → Barrier) (s : State) : State :=
  (barrierGroups s core gslot bar).foldl (fun s (c, k, _) =>
    modGroup s c k (fun g => { g with barriers := mapSet g.barriers bar (f (g.barrier bar)) })) s

/-- The pending marks of a barrier cleared in every gang of a group (09 R210). -/
def clearPending (core gslot bar : Nat) (s : State) : State :=
  modCore s core (fun c => { c with gangs := c.gangs.map (fun (k, g) =>
    (k, if g.gslot == gslot then { g with pend := mapErase g.pend bar } else g)) })

/-- A generation completes when A = E and A > 0 (09 R210). -/
def settleBarrier (core gslot bar : Nat) (s : State) : State :=
  let a := barrierArrived s core gslot bar
  if a == barrierExpected s core gslot bar && 0 < a then
    let groups := barrierGroups s core gslot bar
    let s := modBarrier core gslot bar (fun b => { b with gen := b.gen + 1, arrived := 0, begun := false, timer := none }) s
    groups.foldl (fun s (c, k, _) => clearPending c k bar s) s
  else s

/-- Guard-true lanes arrive (09 R210); the first arrival of a generation starts its timer (09 R213). -/
def arrive (c : Ctx) (bar : Nat) (s : State) : State :=
  let core := c.cur.core
  let gslot := c.gang.gslot
  let first := !((c.group s).barrier bar).begun
  let s := modGroup s core gslot (fun g =>
    let b := g.barrier bar
    { g with barriers := mapSet g.barriers bar { b with arrived := b.arrived + laneCount c.act } })
  let s := if first then modBarrier core gslot bar (fun b => { b with begun := true, timer := some s.clock }) s else s
  let s := onGang c (fun g => { g with pend := mapPut 0 g.pend bar (mapGet 0 g.pend bar ||| c.act) }) s
  settleBarrier core gslot bar s

/-- The barrier operand a names: 0 to 15 for b, 16 to 19 for k (16 R345). -/
def barrierName (field : Nat) : Nat :=
  match namedReg field with
  | some (.k, n) => 16 + n
  | some (_, n) => n
  | none => 0

/-- The object of a wait at a barrier: its number and its generation. -/
def barrierObj (g : Group) (bar : Nat) : Nat := bar + 32 * (g.barrier bar).gen.toNat

/-- The split's wait at a barrier after it has arrived, if it has one. -/
def barrierWait (c : Ctx) : Option Wait :=
  match c.sp.wait with
  | some w => if w.kind == .barrier && w.acted then some w else none
  | none => none

/-- The split begins or keeps its wait at a barrier; a stopped timer starts again (09 R211, R213). -/
def awaitBarrier (c : Ctx) (bar : Nat) (obj : Nat) (s : State) : State :=
  let core := c.cur.core
  let gslot := c.gang.gslot
  let s := waitAt c .barrier obj true s
  let b := (c.group s).barrier bar
  if b.begun && b.timer.isNone then modBarrier core gslot bar (fun b => { b with timer := some s.clock }) s else s

/-- The completion a `bwait` observes is an acquire: at cohort scope for k0 to k3 (09 R211, 10 R226). -/
def barrierAcquire (c : Ctx) (bar : Nat) (s : State) : State := if bar < 16 then s else dropL1 c.cur.core s

/-- What every use of a barrier checks: a spawned gang is illegal, a gang that is no member traps (04 R86, 09 R209). A
`bdef` that applies once a split's generation has completed does not undo the completion that the split waits for (09 R211,
R212). -/
def withBarrier (c : Ctx) (member : Bool) (k : Nat → State → State) (s : State) : State :=
  let bar := barrierName c.f.e.a.toNat
  if 128 ≤ c.gang.id then raiseIllegal c s
  else if c.act == 0 then complete c s
  else if member && (barrierWait c).isNone && !isMember (c.group s) c.gang bar then raiseOnce c 0x06 0x4 s
  else k bar s

/-- Nothing of its gang keeps a split from issuing (02 R46, 03 R68, 13 R283, R291, 14 R311). -/
def mayIssue (g : Gang) (sp : Split) : Bool :=
  g.parked.isNone && !g.squashed && sp.stop.isNone && !sp.trapPend && (!trapActive g || sp.handler)

/-- A wait of `bdef` at a barrier. -/
def defineWait (bar : Nat) (w : Wait) : Bool := w.kind == .barrier && w.defines && w.obj % 32 == bar

/-- The splits whose `bdef` has come to its generation boundary and has yet to issue, whatever keeps it from issuing, as
core, gang slot, gang and split in slot order (09 R212). -/
def definesDue (s : State) (core gslot bar : Nat) : List (Nat × Nat × Gang × Split) :=
  if barrierArrived s core gslot bar != 0 then []
  else (barrierGroups s core gslot bar).flatMap (fun (c, k, _) =>
    (getCore s c).gangs.flatMap (fun e =>
      if e.2.gslot == k then
        (e.2.splits.filter (fun sp => (sp.wait.map (defineWait bar)).getD false)).map (fun sp => (c, e.1, e.2, sp))
      else []))

/-- The acting lanes that are pending already, and so not ready to arrive (09 R210). -/
def Ctx.late (c : Ctx) (bar : Nat) : Mask := mapGet 0 c.gang.pend bar &&& c.act

/-- No acting lane of the split can arrive yet: each is already pending (09 R210), or a `bdef` goes first (09 R212). -/
def cannotArrive (c : Ctx) (bar : Nat) (s : State) : Bool :=
  c.late bar == c.act || !(definesDue s c.cur.core c.gang.gslot bar).isEmpty

/-- The acting lanes that are not pending arrive, then the split goes on; while others of its lanes are pending, it waits
until those may arrive in their turn (09 R210). -/
def arriveThen (c : Ctx) (bar : Nat) (go : State → State) (s : State) : State :=
  let obj := barrierObj (c.group s) bar
  if cannotArrive c bar s then waitAt c .barrier obj false s
  else if c.late bar == 0 then go (arrive c bar s)
  else
    waitAt c .barrier obj false (onGang c (modSplit c.cur.lane (fun sp => { sp with replay := some (c.late bar) }))
      (arrive { c with act := c.act &&& ~~~(c.late bar) } bar s))

/-- `barv` (18 R386). -/
def barvOp (c : Ctx) : State → State := withBarrier c true (fun bar s => arriveThen c bar (complete c) s)

/-- `bwait` (18 R395). -/
def bwaitOp (c : Ctx) : State → State := withBarrier c true (fun bar s =>
  match barrierWait c with
  | some w => if w.ended then complete c (barrierAcquire c bar s) else awaitBarrier c bar w.obj s
  | none => awaitBarrier c bar (barrierObj (c.group s) bar) s)

/-- `bsync` (18 R394). -/
def bsyncOp (c : Ctx) : State → State := withBarrier c true (fun bar s =>
  match barrierWait c with
  | some w => if w.ended then complete c (barrierAcquire c bar s) else awaitBarrier c bar w.obj s
  | none => arriveThen c bar (awaitBarrier c bar (barrierObj (c.group s) bar)) s)

/-- `bdef`: at a generation boundary (18 R387, 09 R209, R212). -/
def bdefOp (c : Ctx) : State → State := withBarrier c false (fun bar s =>
  if barrierArrived s c.cur.core c.gang.gslot bar != 0 then
    let s := waitAt c .barrier (barrierObj (c.group s) bar) false s
    onGang c (modSplit c.cur.lane (fun sp => { sp with wait := sp.wait.map (fun w => { w with defines := true }) })) s
  else
    let mask := BitVec.ofNat 64 (c.b c.lane0) &&& firstLanes (c.group s).size
    complete c (modGroup s c.cur.core c.gang.gslot (fun g =>
      { g with barriers := mapSet g.barriers bar { g.barrier bar with members := mask } })))

/-- Lanes of a gang exit: a pending lane takes its arrival back, and the barriers' expected counts fall (09 R210). -/
def exitBarriers (core slot : Nat) (lanes : Mask) (s : State) : State :=
  match getGang s core slot with
  | none => s
  | some g =>
    let s := modGroup s core g.gslot (fun grp =>
      { grp with barriers := grp.barriers.map (fun (n, b) =>
          (n, { b with arrived := b.arrived - laneCount (mapGet 0 g.pend n &&& lanes) })) })
    modGang s core slot (fun g =>
      { g with pend := (g.pend.map (fun (n, m) => (n, m &&& ~~~lanes))).filter (fun e => e.2 != 0) })

/-- The barriers of a group that now complete (09 R210). -/
def settleBarriers (core gslot : Nat) (s : State) : State :=
  (List.range 20).foldl (fun s bar => settleBarrier core gslot bar s) s

/-! ## Phase barriers -/

/-- A phase barrier's fields (09 R206). -/
structure Phase where
  due : Nat
  got : Nat
  gen : Nat
  arrived : Nat
  count : Nat
  /-- Bits [31:16]. -/
  rsv : Nat
deriving DecidableEq, Repr

/-- The phase barrier at an offset. -/
def readPhase (s : State) (core : Nat) (g : Group) (off : Nat) : Phase :=
  let x := scratchRead s core g off 16
  { due := fieldN x 127 96, got := fieldN x 95 64, gen := fieldN x 63 48, arrived := fieldN x 47 32,
    count := fieldN x 15 0, rsv := fieldN x 31 16 }

/-- The flip (09 R207). -/
def Phase.flip (p : Phase) : Phase :=
  if p.arrived == p.count && p.got == p.due then
    { p with gen := (p.gen + 1) % 2 ^ 16, due := 0, got := 0, arrived := 0 }
  else p

/-- Writes the 16 bytes of a phase barrier. -/
def storePhase (core : Nat) (g : Group) (off : Nat) (p : Phase) (s : State) : State :=
  scratchWrite core g off (natToBytes 16
    (p.due * 2 ^ 96 + p.got * 2 ^ 64 + p.gen * 2 ^ 48 + p.arrived * 2 ^ 32 + p.rsv * 2 ^ 16 + p.count)) s

/-- Writes a phase barrier after an update, with the flip when it is due (09 R207). -/
def writePhase (core : Nat) (g : Group) (off : Nat) (p : Phase) (s : State) : State := storePhase core g off p.flip s

/-- The offset of a phase-barrier instruction: the scalar base and its immediate offset. -/
def Ctx.phaseAt (c : Ctx) : Nat := c.scratchAddr c.lane0 false

/-- A phase-barrier instruction: once per issue, with its checks (09 R207). -/
def phaseOp (c : Ctx) (effect : Nat → Phase → State → State) (s : State) : State :=
  if c.act == 0 then complete c s
  else onceAt c 16 16 c.phaseAt (fun s => effect c.phaseAt (readPhase s c.cur.core (c.group s) c.phaseAt) s) s

/-- `pbinit` (20 R487): the check of its count comes first (13 R544). -/
def pbinitOp (c : Ctx) (s : State) : State :=
  let n := c.c c.lane0
  if c.act != 0 && (n == 0 || 65535 < n) then raiseIllegal c s
  else phaseOp c (fun off p s => complete c (writePhase c.cur.core (c.group s) off
    { p with due := 0, got := 0, gen := 0, arrived := 0, count := n, rsv := 0 } s)) s

/-- `pbexp` (20 R486). -/
def pbexpOp (c : Ctx) : State → State := phaseOp c (fun off p s =>
  if 2 ^ 32 ≤ p.due + c.c c.lane0 then raiseOnce c 0x06 0x3 s
  else complete c (writePhase c.cur.core (c.group s) off { p with due := p.due + c.c c.lane0 } s))

/-- An engine's credit has flipped a phase barrier in this cycle: an arrival of the cycle flips it no second time
(20 R519). -/
def justFlipped (c : Ctx) (off : Nat) (s : State) : Bool :=
  mapFind (getCore s c.cur.core).flips ((c.group s).sbase + off) == some s.clock

/-- `pbarv` and `pbarv.lane` (20 R485). -/
def pbarvOp (c : Ctx) : State → State := phaseOp c (fun off p s =>
  let n := if c.mn == 0 then 1 else laneCount c.act
  if p.count < p.arrived + n then raiseOnce c 0x06 0x2 s
  else if justFlipped c off s then complete c (storePhase c.cur.core (c.group s) off { p with arrived := p.arrived + n } s)
  else complete c (writePhase c.cur.core (c.group s) off { p with arrived := p.arrived + n } s))

/-- `pbwait` (20 R488). -/
def pbwaitOp (c : Ctx) : State → State := phaseOp c (fun off p s =>
  if p.gen == c.c c.lane0 % 2 ^ 16 then waitAt c .phase off false s else complete c s)

end Sys2Proof.Machine
end

