-- ==== Sys2Proof/Machine/Collect.lean ====
section
/-! DEFINITION. The collectives (20 R483, R497, R502, R514, R516, 19 R460) and `regang` (03 R70 to R73). -/

namespace Sys2Proof.Machine

/-! ## Ranks -/

/-- The lanes of the issuing split in rank order (03 R65). -/
def Ctx.ranks (c : Ctx) : List Nat := lanesOf c.sp.mask

/-- The rank of a lane in the issuing split. -/
def Ctx.rank (c : Ctx) (lane : Nat) : Nat := rankIn c.sp.mask lane

/-- A mask over ranks of some lanes. -/
def Ctx.rankMask (c : Ctx) (lanes : List Nat) : Nat := (maskOf (lanes.map c.rank)).toNat

/-! ## `vote`, `shfl`, `match`, `redx`, `width` -/

/-- The value of `vote` (20 R514); a predicate destination takes nonzero for true. -/
def voteVal (c : Ctx) : Nat :=
  let p := match namedReg c.f.e.a.toNat with
    | some (_, n) => preg c.gang n
    | none => 0
  let t := c.lanes.filter (laneIn p)
  let n := t.length
  let g := c.lanes.length
  match c.mn with
  | 0 => c.rankMask t
  | 1 => if c.f.e.kd.toNat == 2 then (if (if c.immN == 0 then g else c.immN) ≤ n then 1 else 0) else n
  | 2 => match t with
    | h :: _ => c.rank h
    | [] => 0xFFFFFFFF
  | _ => if n == 0 || n == g then 0xFFFFFFFF else 0

/-- `vote` (20 R514). -/
def voteOp : Ctx → State → State := compute (fun c _ => voteVal c)

/-- The rank `shfl` reads for a lane (20 R502). -/
def shflSource (c : Ctx) (lane : Nat) : Int :=
  let w := laneCount c.sp.mask
  let r := c.rank lane
  let k := c.b lane % 2 ^ 32
  let ks := intOf 32 true (b64 k)
  match c.mn with
  | 0 => k
  | 1 => if c.md == 1 then (r : Int) + ks else modInt ((r : Int) + ks) w
  | 2 => r ^^^ k
  | _ => ks - r

/-- `shfl` (20 R502). -/
def shflOp : Ctx → State → State := compute (fun c h =>
  let k := shflSource c h
  if 0 ≤ k && k < (laneCount c.sp.mask : Int) then c.a (c.ranks.getD k.toNat h) else c.a h)

/-- A lane's class: the acting lanes whose a equals its own (19 R460). -/
def matchClass (c : Ctx) (lane : Nat) : List Nat := c.lanes.filter (fun k => c.a k == c.a lane)

/-- `match` (19 R460). -/
def matchOpBody : Ctx → State → State := compute (fun c h =>
  match c.mn with
  | 0 => c.rankMask (matchClass c h)
  | 1 => c.rank (lowestLane (maskOf (matchClass c h)))
  | 2 => (c.lanes.filter (fun k => lowestLane (maskOf (matchClass c k)) == k)).length
  | _ => ((matchClass c h).filter (fun k => k < h)).length)

/-- One level of the tree of 03 R67: positions 2 i and 2 i + 1 combine. -/
def treeLevel (f : Nat → Nat → Nat) : List (Option Nat) → List (Option Nat)
  | some x :: some y :: rest => some (f x y) :: treeLevel f rest
  | some x :: none :: rest => some x :: treeLevel f rest
  | none :: y :: rest => y :: treeLevel f rest
  | [x] => [x]
  | [] => []

/-- The tree of 03 R67, in as many levels as are given. -/
def treeReduce (f : Nat → Nat → Nat) : Nat → List (Option Nat) → Option Nat
  | 0, l => l.head?.bind id
  | k + 1, l => treeReduce f k (treeLevel f l)

/-- The value of `redx` (20 R497). What a lane contributes to a sum, a minimum or a maximum is a value of the type, extended
to its register, or the canonical NaN, when no other lane contributes as well (05 R93, R97). -/
def redxVal (c : Ctx) : Nat :=
  let t := c.t
  let xs := c.lanes.map c.a
  let alike (x : BitVec 64) : BitVec 64 := if 3 ≤ c.mn then x else if isFlt t then fminVal t x x else iminVal t x x
  let leaves := c.ranks.map (fun h => if laneIn c.act h then some (alike (b64 (c.a h))).toNat else none)
  let tree (f : BitVec 64 → BitVec 64 → BitVec 64) : Nat :=
    (treeReduce (fun x y => (f (b64 x) (b64 y)).toNat) (clog2 leaves.length) leaves).getD 0
  match c.mn with
  | 0 =>
    if isFlt t then tree (faddVal t c.rm)
    else (writeInt t c.f.e.sat (xs.foldl (fun n x => n + readInt t (b64 x)) 0)).toNat
  | 1 => tree (if isFlt t then fminVal t else iminVal t)
  | 2 => tree (if isFlt t then fmaxVal t else imaxVal t)
  | 3 => tree (andVal t)
  | 4 => tree (orVal t)
  | _ => tree (xorVal t)

/-- `redx` (20 R497). -/
def redxOp (c : Ctx) (s : State) : State :=
  let x := if c.act == 0 then 0 else redxVal c
  compute (fun _ _ => x) c s

/-- `width` (20 R516). -/
def widthBody : Ctx → State → State := compute (fun c _ => laneCount c.sp.mask + 2 ^ 32 * c.gang.width)

/-! ## `regang` (03 R70 to R73, 20 R498) -/

/-- First launched `gang.id` of a role (02 R39). -/
def roleBase (g : Group) (role : Nat) : Nat := (g.counts.take role).foldl (· + ·) 0

/-- The role a gang counts under: spawned gangs, and gangs of a group without roles, are general (03 R70). -/
def roleOf (g : Group) (gang : Gang) : Nat := if 128 ≤ gang.id || !g.roles then 3 else gang.role

/-- The gang slots that meet at a `regang` (03 R70). -/
def regangSet (s : State) (core : Nat) (g : Group) (slot : Nat) (me : Gang) (mode : Nat) : List Nat :=
  let all := (getCore s core).gangs.filter (fun e => e.2.gslot == me.gslot && roleOf g e.2 == roleOf g me)
  let idx (x : Gang) := x.id - roleBase g (roleOf g me)
  let k := 2 ^ mode
  if mode == 0 then [slot]
  else if mode == 4 then all.map (·.1)
  else (all.filter (fun e => e.2.id < 128 && idx e.2 / k == idx me / k)).map (·.1)

/-- Some barrier counts some of these gangs and not others (03 R73). -/
def mixedMembers (s : State) (core : Nat) (g : Group) (slots : List Nat) : Bool :=
  let gangs := slots.filterMap (getGang s core)
  (List.range 20).any (fun bar => gangs.any (fun x => isMember g x bar) && gangs.any (fun x => !isMember g x bar))

/-- The guard-false lanes of a split leave it as a new split after the instruction (03 R71, R58 rule 2). -/
def leaveBehind (c : Ctx) (g : Gang) : Gang :=
  let rest := c.sp.mask &&& ~~~c.act
  let after := if c.cur.last then
      { c.sp with mask := rest, pc := c.cur.next, slot := 0, clause := [], fresh := true, age := 0, starve := 0, wait := none }
    else
      { c.sp with mask := rest, slot := c.sp.slot + 1, clause := c.cur.clause, fresh := false, age := 0, starve := 0,
                  wait := none }
  let rec put : List Split → List Split
    | [] => []
    | x :: l => if x.mask == c.sp.mask then { x with mask := c.act } :: after :: l else x :: put l
  let g := yieldAges c.cur { g with splits := put g.splits }
  if c.cur.last then mergeAt c.cur.next g else g

/-- The lanes of a split arrive at a rendezvous and wait (03 R71). -/
def joinRendezvous (c : Ctx) (r : Rendezvous) (s : State) : State :=
  let r' := { r with arrived := mapSet r.arrived c.cur.slot (mapGet 0 r.arrived c.cur.slot ||| c.act) }
  let s := modGroup s c.cur.core c.gang.gslot (fun g =>
    { g with rendezvous := if g.rendezvous.any (fun x => x.parts == r.parts)
        then g.rendezvous.map (fun x => if x.parts == r.parts then r' else x) else g.rendezvous ++ [r'] })
  let c := { c with cur := { c.cur with lane := c.lane0 } }
  waitAt c .regang 0 true s

/-- A wait of lanes that have arrived at a `regang`. -/
def Wait.atRegang (w : Wait) : Bool := w.kind == .regang && w.acted

/-- The splits of a gang that wait at a `regang`, by a lane and the mask of each. -/
def regangWaiters (g : Gang) : List (Nat × Mask) :=
  (g.splits.filter (fun sp => !sp.trapPend && g.residency == .present && (sp.wait.map Wait.atRegang).getD false)).map (fun sp =>
    (lowestLane sp.mask, sp.mask))

/-- The waits of a gang at a `regang` have ended, so that its splits take the trap when they issue next. -/
def endRegangs (g : Gang) : Gang :=
  { g with splits := g.splits.map (Split.onWaits (fun w => if w.atRegang then { w with ended := true } else w)) }

/-- A rendezvous whose barriers count some participants and not others ends: every split that waits at it takes
illegal-instruction (03 R73). A split that runs the stall handler, holds a trap or is lifted takes it when it comes back
to its `regang`. -/
def trapRendezvous (core gslot : Nat) (r : Rendezvous) (s : State) : State :=
  let s := modGroup s core gslot (fun g => { g with rendezvous := g.rendezvous.filter (fun x => x.parts != r.parts) })
  let s := r.parts.foldl (fun s k => modGang s core k endRegangs) s
  let waiters := r.parts.flatMap (fun k => match getGang s core k with
    | some g => (regangWaiters g).map (fun e => (k, e.1, e.2))
    | none => [])
  waiters.foldl (fun s e => takeTrap core e.1 e.2.1
    { cause := 0x01, tinfo := r.word.setWidth 64, tmask := e.2.2, nextPc := r.nextPc, nextSlot := r.nextSlot } s) s

/-- `regang` (20 R498): the lanes that pass stay awaited; a split of both kinds divides, when a record is free. -/
def regangOp (c : Ctx) (s : State) : State :=
  let g := c.group s
  let mode := c.mn
  let live := BitVec.ofNat 256 (c.a c.lane0)
  let waits := (c.sp.wait.map Wait.atRegang).getD false
  if waits then (if (c.sp.wait.map (·.ended)).getD false then raiseIllegal c s else s)
  else if 128 ≤ c.gang.id && 1 ≤ mode && mode ≤ 3 then raiseIllegal c s
  else if c.act == 0 then complete c s
  else
    let known := g.rendezvous.find? (fun r => r.parts.contains c.cur.slot)
    let parts := match known with
      | some r => r.parts
      | none => regangSet s c.cur.core g c.cur.slot c.gang mode
    let differs := match known with
      | some r => r.pc != c.sp.pc || r.slot != c.sp.slot || r.mode != mode || r.live != live
      | none => false
    if differs then raiseIllegal c s
    else if mixedMembers s c.cur.core g parts then
      raiseIllegal c (match known with
        | some r => trapRendezvous c.cur.core c.gang.gslot r s
        | none => s)
    else
      let r := known.getD { parts := parts, pc := c.sp.pc, slot := c.sp.slot, mode := mode, live := live,
                            arrived := [], timer := s.clock, word := c.cur.word,
                            nextPc := if c.cur.last then c.cur.next else c.sp.pc,
                            nextSlot := if c.cur.last then 0 else c.sp.slot + 1 }
      if c.act == c.sp.mask then joinRendezvous c r s
      else if 8 ≤ c.gang.splits.length && siblingIssues c s then branchLast c s
      else if 8 ≤ c.gang.splits.length then waitAt c .record 0 false s
      else joinRendezvous { c with cur := { c.cur with lane := c.lane0 } } r (onGang c (leaveBehind c) s)

/-- Lanes of the participants that have not arrived and have not exited (03 R71), by gang slot. -/
def missingLanes (s : State) (core : Nat) (r : Rendezvous) : SMap Mask :=
  r.parts.filterMap (fun k => (getGang s core k).map (fun g => (k, liveLanes g &&& ~~~(mapGet 0 r.arrived k))))

/-- A rendezvous is complete (03 R71). -/
def rendezvousDone (s : State) (core : Nat) (r : Rendezvous) : Bool :=
  (missingLanes s core r).all (fun e => e.2 == 0)

/-- Vector footprint of a gang, and its image (02 R40). -/
def footprint (width regs : Nat) : Nat := width * regs * 4
def Gang.image (g : Gang) : Nat := footprint g.width g.regs + 1280 + 8 * g.width

/-- Register count rounded up (02 R40). -/
def roundRegs (r : Nat) : Nat := min 256 (max 8 (ceilDiv r 8 * 8))

/-- The register count of a group's general role (02 R39). -/
def Group.generalRegs (g : Group) : Nat := roundRegs (g.regsOf.getD 3 8)

/-- The spawn floor of a core (02 R42). -/
def spawnFloor (c : Core) : Nat :=
  c.groups.foldl (fun n e => if e.2.quota == 0 then n else max n (2 * footprint e.2.width e.2.generalRegs)) 0

/-- Bytes of the file. -/
def fileSize : Nat := 196608

/-- The images of the participants of a rendezvous fit the file together, beside the spawn floor. -/
def regangFits (c : Core) (r : Rendezvous) : Bool :=
  r.parts.foldl (fun n k => n + ((mapFind c.gangs k).map Gang.image).getD 0) (spawnFloor c) ≤ fileSize

/-- The participants of a rendezvous are all present. -/
def regangPresent (c : Core) (r : Rendezvous) : Bool :=
  r.parts.all (fun k => ((mapFind c.gangs k).map (fun g => g.residency == .present)).getD true)

/-- Where a lane stood before a `regang`. -/
structure Mover where
  slot : Nat
  lane : Nat
deriving DecidableEq, Repr

/-- The registers of the live set of a lane, kept in its new place (03 R72). -/
def moveVregs (live : BitVec 256) (old : Gang) (oldLane newLane : Nat) (v : SMap Word) : SMap Word :=
  (old.v.filter (fun e => e.1 % 64 == oldLane && live.getLsbD (e.1 / 64))).foldl
    (fun v e => mapSet v (e.1 / 64 * 64 + newLane) e.2) v

/-- A surviving gang's lane takes the state of the lane that moves to it (03 R72, 04 R88, 09 R212). -/
def moveLane (live : BitVec 256) (old : Gang) (oldLane newLane : Nat) (g : Gang) : Gang :=
  let bit := laneBit newLane
  let g := { g with v := moveVregs live old oldLane newLane g.v }
  let g := (List.range 7).foldl (fun g n => if laneIn (preg old n) oldLane then setPreg g n bit bit else g) g
  let marks := old.pend.filter (fun e => laneIn e.2 oldLane)
  let g := { g with pend := marks.foldl (fun p e => mapPut 0 p e.1 (mapGet 0 p e.1 ||| bit)) g.pend }
  match mapFind old.join oldLane with
  | some j => { g with join := mapSet g.join newLane j }
  | none => g

/-- A participant rebuilt with the lanes that move to it (03 R72): one split after the `regang`. -/
def rebuildGang (r : Rendezvous) (olds : SMap Gang) (movers : List Mover)
    (g : Gang) : Gang :=
  let empty := { g with v := [], p := [], pend := [], join := [], splits := [] }
  let g := (movers.zip (List.range movers.length)).foldl (fun g (m, n) =>
    match mapFind olds m.slot with
    | some old => moveLane r.live old m.lane n g
    | none => g) empty
  if movers.isEmpty then g
  else { g with splits := [{ mask := firstLanes movers.length, pc := r.nextPc, slot := r.nextSlot, fresh := r.nextSlot == 0 }] }

/-- Cuts a list into pieces of `w`, at most `k` of them. -/
def chunksOf {α : Type} (w : Nat) : Nat → List α → List (List α)
  | 0, _ => []
  | k + 1, l => l.take w :: chunksOf w k (l.drop w)

/-- The migration of 03 R72 for a rendezvous. -/
def migrateLanes (core gslot : Nat) (r : Rendezvous) (s : State) : State :=
  let gangs := r.parts.filterMap (fun k => (getGang s core k).map (fun g => (k, g)))
  let gangs := sortBy (fun e => e.2.id) gangs
  let lanes : List Mover := gangs.flatMap (fun (k, g) => (lanesOf (liveLanes g)).map (fun h => { slot := k, lane := h }))
  let w := match gangs with
    | (_, g) :: _ => g.width
    | [] => 8
  let pieces := chunksOf w gangs.length lanes
  let s := (gangs.zip pieces).foldl (fun s (e, ms) =>
    modGang s core e.1 (rebuildGang r gangs ms)) s
  modGroup s core gslot (fun g => { g with rendezvous := g.rendezvous.filter (fun x => x.parts != r.parts) })

/-- `vote` (20 R514). -/
def execVote (f : Form) (s : State) : Host.Outcome State Fault Refusal :=
  issueForm 0x43 f voteOp s

/-- `shfl` (20 R502). -/
def execShfl (f : Form) (s : State) : Host.Outcome State Fault Refusal :=
  issueForm 0x44 f shflOp s

/-- `match` (19 R460). -/
def execMatchOp (f : Form) (s : State) : Host.Outcome State Fault Refusal :=
  issueForm 0x45 f matchOpBody s

/-- `redx` (20 R497). -/
def execRedx (f : Form) (s : State) : Host.Outcome State Fault Refusal :=
  issueForm 0x46 f redxOp s

/-- `width` (20 R516). -/
def execWidthOp (f : Form) (s : State) : Host.Outcome State Fault Refusal :=
  issueForm 0x47 f widthBody s

/-- `regang` (20 R498). -/
def execRegang (f : Form) (s : State) : Host.Outcome State Fault Refusal :=
  issueForm 0x48 f regangOp s

end Sys2Proof.Machine
end

