-- ==== Sys2Proof/Machine/Opcode.lean ====
section
/-! DEFINITION. The major opcode of each instruction (16 R351), both ways. -/

namespace Sys2Proof.Machine

/-- How an instruction is written: a base word, a longer form, or no word at all (a device step). -/
inductive Enc where
  | base (op : Nat) (w : Base)
  | form (op : Nat) (f : Form)
  | step
deriving DecidableEq, Repr

/-- The opcode and the fields of an instruction. -/
def encOf : Instr → Enc
  | .iadd w => .base 0x00 w
  | .iaddExt f => .form 0x00 f
  | .isub w => .base 0x01 w
  | .isubExt f => .form 0x01 f
  | .iaddc f => .form 0x02 f
  | .isubb f => .form 0x03 f
  | .imul w => .base 0x04 w
  | .imulExt f => .form 0x04 f
  | .imad w => .base 0x05 w
  | .imadExt f => .form 0x05 f
  | .imadw w => .base 0x06 w
  | .imadwExt f => .form 0x06 f
  | .idiv w => .base 0x07 w
  | .idivExt f => .form 0x07 f
  | .irem w => .base 0x08 w
  | .iremExt f => .form 0x08 f
  | .imin w => .base 0x09 w
  | .iminExt f => .form 0x09 f
  | .imax w => .base 0x0A w
  | .imaxExt f => .form 0x0A f
  | .iabs w => .base 0x0B w
  | .iabsExt f => .form 0x0B f
  | .ineg w => .base 0x0C w
  | .inegExt f => .form 0x0C f
  | .icmp w => .base 0x0D w
  | .icmpExt f => .form 0x0D f
  | .isel f => .form 0x0E f
  | .idot4 w => .base 0x0F w
  | .idot4Ext f => .form 0x0F f
  | .isad f => .form 0x10 f
  | .andB w => .base 0x11 w
  | .andBExt f => .form 0x11 f
  | .orB w => .base 0x12 w
  | .orBExt f => .form 0x12 f
  | .xorB w => .base 0x13 w
  | .xorBExt f => .form 0x13 f
  | .notB w => .base 0x14 w
  | .notBExt f => .form 0x14 f
  | .lop3 f => .form 0x15 f
  | .shl w => .base 0x16 w
  | .shlExt f => .form 0x16 f
  | .shr w => .base 0x17 w
  | .shrExt f => .form 0x17 f
  | .sar w => .base 0x18 w
  | .sarExt f => .form 0x18 f
  | .rotl w => .base 0x19 w
  | .rotlExt f => .form 0x19 f
  | .funl w => .base 0x1A w
  | .funlExt f => .form 0x1A f
  | .bfx w => .base 0x1B w
  | .bfxExt f => .form 0x1B f
  | .bfi w => .base 0x1C w
  | .bfiExt f => .form 0x1C f
  | .popc w => .base 0x1D w
  | .popcExt f => .form 0x1D f
  | .clz w => .base 0x1E w
  | .clzExt f => .form 0x1E f
  | .ctz w => .base 0x1F w
  | .ctzExt f => .form 0x1F f
  | .brev w => .base 0x20 w
  | .brevExt f => .form 0x20 f
  | .perm w => .base 0x21 w
  | .permExt f => .form 0x21 f
  | .fadd w => .base 0x22 w
  | .faddExt f => .form 0x22 f
  | .fsub w => .base 0x23 w
  | .fsubExt f => .form 0x23 f
  | .fmul w => .base 0x24 w
  | .fmulExt f => .form 0x24 f
  | .ffma w => .base 0x25 w
  | .ffmaExt f => .form 0x25 f
  | .fmin w => .base 0x26 w
  | .fminExt f => .form 0x26 f
  | .fmax w => .base 0x27 w
  | .fmaxExt f => .form 0x27 f
  | .fcmp w => .base 0x28 w
  | .fcmpExt f => .form 0x28 f
  | .frcp w => .base 0x29 w
  | .frcpExt f => .form 0x29 f
  | .frsq w => .base 0x2A w
  | .frsqExt f => .form 0x2A f
  | .fsqrt w => .base 0x2B w
  | .fsqrtExt f => .form 0x2B f
  | .fdiv w => .base 0x2C w
  | .fdivExt f => .form 0x2C f
  | .fex2 w => .base 0x2D w
  | .fex2Ext f => .form 0x2D f
  | .flg2 w => .base 0x2E w
  | .flg2Ext f => .form 0x2E f
  | .fsin w => .base 0x2F w
  | .fsinExt f => .form 0x2F f
  | .fcos w => .base 0x30 w
  | .fcosExt f => .form 0x30 f
  | .ftanh w => .base 0x31 w
  | .ftanhExt f => .form 0x31 f
  | .fclass w => .base 0x32 w
  | .fclassExt f => .form 0x32 f
  | .frnd w => .base 0x33 w
  | .frndExt f => .form 0x33 f
  | .cvt f => .form 0x34 f
  | .cvtsr f => .form 0x35 f
  | .packf4 f => .form 0x36 f
  | .unpkf4 f => .form 0x37 f
  | .qblk f => .form 0x38 f
  | .rsplit w => .base 0x39 w
  | .rsplitExt f => .form 0x39 f
  | .rmerge f => .form 0x3A f
  | .radd w => .base 0x3B w
  | .raddExt f => .form 0x3B f
  | .rsub w => .base 0x3C w
  | .rsubExt f => .form 0x3C f
  | .rmul w => .base 0x3D w
  | .rmulExt f => .form 0x3D f
  | .rchk w => .base 0x3E w
  | .rchkExt f => .form 0x3E f
  | .mov w => .base 0x3F w
  | .movExt f => .form 0x3F f
  | .movi f => .form 0x40 f
  | .gets f => .form 0x41 f
  | .sets f => .form 0x42 f
  | .vote f => .form 0x43 f
  | .shfl f => .form 0x44 f
  | .matchOp f => .form 0x45 f
  | .redx f => .form 0x46 f
  | .widthOp f => .form 0x47 f
  | .regang f => .form 0x48 f
  | .spawn f => .form 0x49 f
  | .jinit f => .form 0x4A f
  | .jwait f => .form 0x4B f
  | .exitOp f => .form 0x4C f
  | .lnch f => .form 0x4D f
  | .qtokNew f => .form 0x4E f
  | .qtokTest f => .form 0x4E f
  | .qtokFree f => .form 0x4E f
  | .bra f => .form 0x4F f
  | .brx f => .form 0x50 f
  | .callOp f => .form 0x51 f
  | .callx f => .form 0x52 f
  | .retOp f => .form 0x53 f
  | .loopOp f => .form 0x54 f
  | .yieldOp f => .form 0x55 f
  | .nop f => .form 0x56 f
  | .bkpt f => .form 0x57 f
  | .trapOp f => .form 0x58 f
  | .tret f => .form 0x59 f
  | .waitf f => .form 0x5A f
  | .phint f => .form 0x5B f
  | .vcommit f => .form 0x5C f
  | .ld f => .form 0x5D f
  | .st f => .form 0x5E f
  | .lds f => .form 0x5F f
  | .sts f => .form 0x60 f
  | .win f => .form 0x61 f
  | .atom f => .form 0x62 f
  | .atomw f => .form 0x63 f
  | .ratom f => .form 0x64 f
  | .fence f => .form 0x65 f
  | .pref f => .form 0x66 f
  | .discard f => .form 0x67 f
  | .nzero f => .form 0x68 f
  | .ncopy f => .form 0x69 f
  | .ncmp f => .form 0x6A f
  | .nfence f => .form 0x6B f
  | .cpy f => .form 0x6C f
  | .cpyl f => .form 0x6D f
  | .tdef f => .form 0x6E f
  | .tstat f => .form 0x6F f
  | .trel f => .form 0x70 f
  | .pbinit f => .form 0x71 f
  | .pbexp f => .form 0x72 f
  | .pbarv f => .form 0x73 f
  | .pbwait f => .form 0x74 f
  | .bdef f => .form 0x75 f
  | .barv f => .form 0x76 f
  | .bwait f => .form 0x77 f
  | .bsync f => .form 0x78 f
  | .mshape f => .form 0x79 f
  | .mzero f => .form 0x7A f
  | .mma f => .form 0x7B f
  | .mldcRp8 f => .form 0x7C f
  | .mldcImg f => .form 0x7C f
  | .mdrain f => .form 0x7D f
  | .msave f => .form 0x7E f
  | .mstat f => .form 0x7F f
  | .issueCycle _ _ => .step
  | .liftRecallDecision _ => .step
  | .gangLiftComplete _ _ => .step
  | .gangRecallComplete _ _ => .step
  | .gangRetire _ _ => .step
  | .geyserForm _ => .step
  | .refillBatchBegin _ => .step
  | .spillRecordLand _ => .step
  | .barrierCompletionArrive _ _ _ => .step
  | .barrierStallTimeout _ _ _ => .step
  | .regangComplete _ _ => .step
  | .regangTimeout _ _ => .step
  | .watchdogExpiry _ _ _ => .step
  | .longLatencyComplete _ _ => .step
  | .engineFaultDelivery _ _ => .step
  | .copyAccept _ => .step
  | .copyChunkPerformed _ => .step
  | .matrixCmdAccept _ => .step
  | .scopeCommandStart _ => .step
  | .mmaRetire _ => .step
  | .mzeroDone _ => .step
  | .drainComplete _ => .step
  | .msaveComplete _ => .step
  | .mldcComplete _ => .step
  | .inLayerComplete _ => .step
  | .preemptDeadline _ => .step
  | .gangSave _ _ => .step
  | .contextSaved _ => .step
  | .saveFailure _ => .step
  | .contextResume _ => .step
  | .contextKill _ => .step
  | .killComplete _ _ => .step
  | .queueSwitchOut _ => .step
  | .podJoinTimeout _ => .step
  | .ventTakeover _ => .step
  | .shadowCompare _ _ => .step
  | .taskDiscardRetry _ _ _ => .step
  | .scoreboardRebuild _ _ => .step
  | .scanTestStart _ => .step
  | .prsMapped _ => .step
  | .prsRefused _ => .step
  | .prsDiscard _ => .step
  | .tlbiPage _ => .step
  | .tlbiContext _ => .step
  | .migCmd _ => .step
  | .ctxCmdSuspend _ => .step
  | .ctxCmdResume _ => .step
  | .ctxCmdKill _ => .step
  | .qtailWrite _ _ => .step
  | .tokReqWrite _ => .step
  | .podLaunchJoin _ _ => .step
  | .podBatchClaim _ _ _ _ => .step
  | .podLeaderElection _ _ _ => .step
  | .podParticipantReport _ _ => .step
  | .quarScrub _ => .step
  | .awlAudit _ _ _ _ _ => .step
  | .sinterLayerLoss _ => .step
  | .scanTestEnd _ _ => .step
  | .peerLost _ => .step
  | .peerRecoveryNotice _ => .step
  | .podRemoteAccess _ _ _ => .step
  | .powerLoss _ => .step
  | .firmwareStart _ _ _ => .step
  | .railTelemetryUpdate _ _ _ _ _ => .step
  | .currentLimit _ => .step
  | .boilGovernorPeriod _ => .step
  | .lastTrip _ => .step
  | .weltTrip _ _ => .step
  | .weltRepower _ => .step
  | .layerRepower _ => .step
  | .connectorMeasure _ => .step
  | .mgmtMessage _ _ _ => .step
  | .podCfgWrite _ => .step
  | .mxrValidSet _ _ => .step
  | .mxrValidClear _ => .step
  | .registerWrite _ _ _ => .step
  | .bar2Access _ _ _ => .step
  | .expanderFailure _ => .step
  | .peerViralNotice _ => .step
  | .ualinkPortTrained _ => .step
  | .weltFailure _ _ => .step
  | .tlbWalkComplete => .step
  | .pageRequestRecordWrite => .step
  | .tlbiComplete => .step
  | .migrationComplete => .step
  | .ventSchedulingPass => .step
  | .launchCompletion => .step
  | .budgetPeriod => .step
  | .scrubComplete => .step
  | .weltDegradeSample => .step
  | .powerOn => .step
  | .conventionalReset => .step
  | .fwGo => .step
  | .attCmdReport => .step
  | .attCmdCert => .step
  | .containClrLog => .step
  | .containClrWcnt => .step
  | .cevClrDrop => .step
  | .l2TagUncorrectableError => .step

/-- The instruction a base word of a major opcode stands for. -/
def ofBase (op : Nat) (w : Base) : Option Instr :=
  match op with
  | 0x00 => some (.iadd w)
  | 0x01 => some (.isub w)
  | 0x04 => some (.imul w)
  | 0x05 => some (.imad w)
  | 0x06 => some (.imadw w)
  | 0x07 => some (.idiv w)
  | 0x08 => some (.irem w)
  | 0x09 => some (.imin w)
  | 0x0A => some (.imax w)
  | 0x0B => some (.iabs w)
  | 0x0C => some (.ineg w)
  | 0x0D => some (.icmp w)
  | 0x0F => some (.idot4 w)
  | 0x11 => some (.andB w)
  | 0x12 => some (.orB w)
  | 0x13 => some (.xorB w)
  | 0x14 => some (.notB w)
  | 0x16 => some (.shl w)
  | 0x17 => some (.shr w)
  | 0x18 => some (.sar w)
  | 0x19 => some (.rotl w)
  | 0x1A => some (.funl w)
  | 0x1B => some (.bfx w)
  | 0x1C => some (.bfi w)
  | 0x1D => some (.popc w)
  | 0x1E => some (.clz w)
  | 0x1F => some (.ctz w)
  | 0x20 => some (.brev w)
  | 0x21 => some (.perm w)
  | 0x22 => some (.fadd w)
  | 0x23 => some (.fsub w)
  | 0x24 => some (.fmul w)
  | 0x25 => some (.ffma w)
  | 0x26 => some (.fmin w)
  | 0x27 => some (.fmax w)
  | 0x28 => some (.fcmp w)
  | 0x29 => some (.frcp w)
  | 0x2A => some (.frsq w)
  | 0x2B => some (.fsqrt w)
  | 0x2C => some (.fdiv w)
  | 0x2D => some (.fex2 w)
  | 0x2E => some (.flg2 w)
  | 0x2F => some (.fsin w)
  | 0x30 => some (.fcos w)
  | 0x31 => some (.ftanh w)
  | 0x32 => some (.fclass w)
  | 0x33 => some (.frnd w)
  | 0x39 => some (.rsplit w)
  | 0x3B => some (.radd w)
  | 0x3C => some (.rsub w)
  | 0x3D => some (.rmul w)
  | 0x3E => some (.rchk w)
  | 0x3F => some (.mov w)
  | _ => none

/-- MINOR of a form, 0 in a base word. -/
def minorOf : Form → Nat
  | .ext e => e.minor.toNat
  | .extLit e _ => e.minor.toNat
  | .baseLit _ _ => 0

/-- MOD of a form, 0 in a base word. -/
def modOf : Form → Nat
  | .ext e => e.md.toNat
  | .extLit e _ => e.md.toNat
  | .baseLit _ _ => 0

/-- The instruction a longer form of a major opcode stands for. Two opcodes are several rows of the opcode table:
`qtok` by MINOR (20 R493), `mldc` by MOD (19 R463). -/
def ofForm (op : Nat) (f : Form) : Option Instr :=
  match op with
  | 0x00 => some (.iaddExt f)
  | 0x01 => some (.isubExt f)
  | 0x02 => some (.iaddc f)
  | 0x03 => some (.isubb f)
  | 0x04 => some (.imulExt f)
  | 0x05 => some (.imadExt f)
  | 0x06 => some (.imadwExt f)
  | 0x07 => some (.idivExt f)
  | 0x08 => some (.iremExt f)
  | 0x09 => some (.iminExt f)
  | 0x0A => some (.imaxExt f)
  | 0x0B => some (.iabsExt f)
  | 0x0C => some (.inegExt f)
  | 0x0D => some (.icmpExt f)
  | 0x0E => some (.isel f)
  | 0x0F => some (.idot4Ext f)
  | 0x10 => some (.isad f)
  | 0x11 => some (.andBExt f)
  | 0x12 => some (.orBExt f)
  | 0x13 => some (.xorBExt f)
  | 0x14 => some (.notBExt f)
  | 0x15 => some (.lop3 f)
  | 0x16 => some (.shlExt f)
  | 0x17 => some (.shrExt f)
  | 0x18 => some (.sarExt f)
  | 0x19 => some (.rotlExt f)
  | 0x1A => some (.funlExt f)
  | 0x1B => some (.bfxExt f)
  | 0x1C => some (.bfiExt f)
  | 0x1D => some (.popcExt f)
  | 0x1E => some (.clzExt f)
  | 0x1F => some (.ctzExt f)
  | 0x20 => some (.brevExt f)
  | 0x21 => some (.permExt f)
  | 0x22 => some (.faddExt f)
  | 0x23 => some (.fsubExt f)
  | 0x24 => some (.fmulExt f)
  | 0x25 => some (.ffmaExt f)
  | 0x26 => some (.fminExt f)
  | 0x27 => some (.fmaxExt f)
  | 0x28 => some (.fcmpExt f)
  | 0x29 => some (.frcpExt f)
  | 0x2A => some (.frsqExt f)
  | 0x2B => some (.fsqrtExt f)
  | 0x2C => some (.fdivExt f)
  | 0x2D => some (.fex2Ext f)
  | 0x2E => some (.flg2Ext f)
  | 0x2F => some (.fsinExt f)
  | 0x30 => some (.fcosExt f)
  | 0x31 => some (.ftanhExt f)
  | 0x32 => some (.fclassExt f)
  | 0x33 => some (.frndExt f)
  | 0x34 => some (.cvt f)
  | 0x35 => some (.cvtsr f)
  | 0x36 => some (.packf4 f)
  | 0x37 => some (.unpkf4 f)
  | 0x38 => some (.qblk f)
  | 0x39 => some (.rsplitExt f)
  | 0x3A => some (.rmerge f)
  | 0x3B => some (.raddExt f)
  | 0x3C => some (.rsubExt f)
  | 0x3D => some (.rmulExt f)
  | 0x3E => some (.rchkExt f)
  | 0x3F => some (.movExt f)
  | 0x40 => some (.movi f)
  | 0x41 => some (.gets f)
  | 0x42 => some (.sets f)
  | 0x43 => some (.vote f)
  | 0x44 => some (.shfl f)
  | 0x45 => some (.matchOp f)
  | 0x46 => some (.redx f)
  | 0x47 => some (.widthOp f)
  | 0x48 => some (.regang f)
  | 0x49 => some (.spawn f)
  | 0x4A => some (.jinit f)
  | 0x4B => some (.jwait f)
  | 0x4C => some (.exitOp f)
  | 0x4D => some (.lnch f)
  | 0x4E => if minorOf f == 0 then some (.qtokNew f) else if minorOf f == 1 then some (.qtokTest f) else some (.qtokFree f)
  | 0x4F => some (.bra f)
  | 0x50 => some (.brx f)
  | 0x51 => some (.callOp f)
  | 0x52 => some (.callx f)
  | 0x53 => some (.retOp f)
  | 0x54 => some (.loopOp f)
  | 0x55 => some (.yieldOp f)
  | 0x56 => some (.nop f)
  | 0x57 => some (.bkpt f)
  | 0x58 => some (.trapOp f)
  | 0x59 => some (.tret f)
  | 0x5A => some (.waitf f)
  | 0x5B => some (.phint f)
  | 0x5C => some (.vcommit f)
  | 0x5D => some (.ld f)
  | 0x5E => some (.st f)
  | 0x5F => some (.lds f)
  | 0x60 => some (.sts f)
  | 0x61 => some (.win f)
  | 0x62 => some (.atom f)
  | 0x63 => some (.atomw f)
  | 0x64 => some (.ratom f)
  | 0x65 => some (.fence f)
  | 0x66 => some (.pref f)
  | 0x67 => some (.discard f)
  | 0x68 => some (.nzero f)
  | 0x69 => some (.ncopy f)
  | 0x6A => some (.ncmp f)
  | 0x6B => some (.nfence f)
  | 0x6C => some (.cpy f)
  | 0x6D => some (.cpyl f)
  | 0x6E => some (.tdef f)
  | 0x6F => some (.tstat f)
  | 0x70 => some (.trel f)
  | 0x71 => some (.pbinit f)
  | 0x72 => some (.pbexp f)
  | 0x73 => some (.pbarv f)
  | 0x74 => some (.pbwait f)
  | 0x75 => some (.bdef f)
  | 0x76 => some (.barv f)
  | 0x77 => some (.bwait f)
  | 0x78 => some (.bsync f)
  | 0x79 => some (.mshape f)
  | 0x7A => some (.mzero f)
  | 0x7B => some (.mma f)
  | 0x7C => if modOf f == 0 then some (.mldcRp8 f) else some (.mldcImg f)
  | 0x7D => some (.mdrain f)
  | 0x7E => some (.msave f)
  | 0x7F => some (.mstat f)
  | _ => none

end Sys2Proof.Machine
end

