-- ==== Sys2Proof/WellFormed.lean ====
section
/-! DEFINITION. Which terms of the syntax are instructions of the machine. -/

namespace Sys2Proof

open Machine in
/-- The parameters of a device step are in range: logical cores 0 to 127 (01 R20), gang slots 0 to 47 and group
slots 0 to 7 (02 R41), barriers 0 to 19 (09 R209), splits 0 to 7 (03 R54), contexts of 16 bits, pod launches of 32, links
as 14 R316 numbers them. -/
def Instr.stepOk : Instr → Bool
  | .issueCycle core _ => decide (core < 128)
  | .liftRecallDecision core => decide (core < 128)
  | .gangLiftComplete core slot => decide (core < 128) && decide (slot < 48)
  | .gangRecallComplete core slot => decide (core < 128) && decide (slot < 48)
  | .gangRetire core slot => decide (core < 128) && decide (slot < 48)
  | .geyserForm core => decide (core < 128)
  | .refillBatchBegin core => decide (core < 128)
  | .spillRecordLand core => decide (core < 128)
  | .barrierCompletionArrive core slot bar => decide (core < 128) && decide (slot < 48) && decide (bar < 20)
  | .barrierStallTimeout core gslot bar => decide (core < 128) && decide (gslot < 8) && decide (bar < 20)
  | .regangComplete core gslot => decide (core < 128) && decide (gslot < 8)
  | .regangTimeout core gslot => decide (core < 128) && decide (gslot < 8)
  | .watchdogExpiry core slot split => decide (core < 128) && decide (slot < 48) && decide (split < 8)
  | .longLatencyComplete core slot => decide (core < 128) && decide (slot < 48)
  | .engineFaultDelivery core slot => decide (core < 128) && decide (slot < 48)
  | .copyAccept core => decide (core < 128)
  | .copyChunkPerformed core => decide (core < 128)
  | .matrixCmdAccept core => decide (core < 128)
  | .scopeCommandStart core => decide (core < 128)
  | .mmaRetire core => decide (core < 128)
  | .mzeroDone core => decide (core < 128)
  | .drainComplete core => decide (core < 128)
  | .msaveComplete core => decide (core < 128)
  | .mldcComplete core => decide (core < 128)
  | .inLayerComplete core => decide (core < 128)
  | .preemptDeadline ctx => decide (ctx < 65536)
  | .gangSave core slot => decide (core < 128) && decide (slot < 48)
  | .contextSaved ctx => decide (ctx < 65536)
  | .saveFailure ctx => decide (ctx < 65536)
  | .contextResume ctx => decide (ctx < 65536)
  | .contextKill ctx => decide (ctx < 65536)
  | .killComplete ctx _ => decide (ctx < 65536)
  | .queueSwitchOut queue => decide (queue < 1024)
  | .podJoinTimeout plid => decide (plid < 4294967296)
  | .ventTakeover vcore => decide (vcore < 4)
  | .shadowCompare core gslot => decide (core < 128) && decide (gslot < 8)
  | .taskDiscardRetry core gslot _ => decide (core < 128) && decide (gslot < 8)
  | .scoreboardRebuild core slot => decide (core < 128) && decide (slot < 48)
  | .scanTestStart pcore => decide (pcore < 136)
  | .prsMapped _ => true
  | .prsRefused _ => true
  | .prsDiscard _ => true
  | .tlbiPage _ => true
  | .tlbiContext _ => true
  | .migCmd _ => true
  | .ctxCmdSuspend ctx => decide (ctx < 65536)
  | .ctxCmdResume ctx => decide (ctx < 65536)
  | .ctxCmdKill ctx => decide (ctx < 65536)
  | .qtailWrite queue _ => decide (queue < 1024)
  | .tokReqWrite _ => true
  | .podLaunchJoin plid device => decide (plid < 4294967296) && decide (device < 512)
  | .podBatchClaim plid device _ _ => decide (plid < 4294967296) && decide (device < 512)
  | .podLeaderElection plid failed _ => decide (plid < 4294967296) && decide (failed < 512)
  | .podParticipantReport plid device => decide (plid < 4294967296) && decide (device < 512)
  | .quarScrub _ => true
  | .awlAudit link _ _ _ _ => decide (link < 0x1198) || (decide (0x2000 ≤ link) && decide (link < 0x2010))
  | .sinterLayerLoss layer => decide (layer < 2)
  | .scanTestEnd pcore _ => decide (pcore < 136)
  | .peerLost device => decide (device < 512)
  | .peerRecoveryNotice device => decide (device < 512)
  | .podRemoteAccess port _ _ => decide (port < 16)
  | .powerLoss _ => true
  | .firmwareStart _ _ _ => true
  | .railTelemetryUpdate rail _ _ _ _ => decide (rail < 7)
  | .currentLimit _ => true
  | .boilGovernorPeriod _ => true
  | .lastTrip _ => true
  | .weltTrip welt _ => decide (welt < 10)
  | .weltRepower welt => decide (welt < 10)
  | .layerRepower layer => decide (layer < 2)
  | .connectorMeasure _ => true
  | .mgmtMessage _ _ _ => true
  | .podCfgWrite _ => true
  | .mxrValidSet n _ => decide (n < 16)
  | .mxrValidClear n => decide (n < 16)
  | .registerWrite _ _ _ => true
  | .bar2Access _ _ _ => true
  | .expanderFailure port => decide (port < 4)
  | .peerViralNotice device => decide (device < 512)
  | .ualinkPortTrained port => decide (port < 16)
  | .weltFailure welt _ => decide (welt < 10)
  | .tlbWalkComplete => true
  | .pageRequestRecordWrite => true
  | .tlbiComplete => true
  | .migrationComplete => true
  | .ventSchedulingPass => true
  | .launchCompletion => true
  | .budgetPeriod => true
  | .scrubComplete => true
  | .weltDegradeSample => true
  | .powerOn => true
  | .conventionalReset => true
  | .fwGo => true
  | .attCmdReport => true
  | .attCmdCert => true
  | .containClrLog => true
  | .containClrWcnt => true
  | .cevClrDrop => true
  | .l2TagUncorrectableError => true
  | _ => true

open Machine in
/-- Why an instruction is not well formed; none when it is. An instruction of several opcode-table rows must hold
the variant of its own row. -/
def Instr.illegal (i : Instr) : Option IllegalReason :=
  match encOf i with
  | .base op w => if ofBase op w = some i then illegalBase op w else some .badVariant
  | .form op f => if ofForm op f = some i then illegalForm op f else some .badVariant
  | .step => if i.stepOk then none else some .badOperand

/-- The well-formed instructions: every field holds what the opcode map allows (17 R366, 16 R352). -/
def Instr.WellFormed (i : Instr) : Prop := i.illegal = none

/-- The well-formed instructions that have words. -/
def Instr.hasWords (i : Instr) : Bool :=
  match Machine.encOf i with
  | .step => false
  | _ => true

end Sys2Proof
end

