-- ==== Sys2Proof/Decode.lean ====
section
/-! DEFINITION. The decoder and the encoder of instructions (16 R339 to R347, 17 R366), and the decoder of
clause headers (16 R336). -/

namespace Sys2Proof

open Machine

/-- A Bool from a one-bit field. -/
def bitOf (b : BitVec 1) : Bool := b == 1#1

/-- A one-bit field from a Bool. -/
def ofBit (b : Bool) : BitVec 1 := if b then 1#1 else 0#1

/-- The base fields of a first word (16 R341). -/
def decodeBaseWord (w : Word) : Base :=
  { g := w.extractLsb' 30 2, b := w.extractLsb' 23 7, a := w.extractLsb' 16 7, d := w.extractLsb' 9 7 }

/-- The extended fields of three words (16 R343). -/
def decodeExtWords (w0 w1 w2 : Word) : Ext :=
  { gn := bitOf (w0.extractLsb' 31 1), minor := w0.extractLsb' 25 6, a := w0.extractLsb' 17 8, d := w0.extractLsb' 9 8,
    sat := bitOf (w1.extractLsb' 31 1), typ := w1.extractLsb' 27 4, kc := w1.extractLsb' 25 2, kb := w1.extractLsb' 23 2,
    ka := w1.extractLsb' 21 2, kd := w1.extractLsb' 19 2, gp := w1.extractLsb' 16 3, c := w1.extractLsb' 8 8,
    b := w1.extractLsb' 0 8,
    imm := w2.extractLsb' 16 16, fs := bitOf (w2.extractLsb' 15 1), md := w2.extractLsb' 10 5, stor := w2.extractLsb' 8 2,
    agent := w2.extractLsb' 5 3, sem := w2.extractLsb' 3 2, rm := w2.extractLsb' 0 3 }

/-- A candidate instruction is accepted when it is well formed (17 R366). -/
def accept (i : Option Instr) (n : Nat) : Except IllegalReason (Instr × Nat) :=
  match i with
  | none => .error .noBaseForm
  | some i => match i.illegal with
    | none => .ok (i, n)
    | some r => .error r

/-- Decode the instruction at the head of a list of words, with its length in words (16 R339); what is not an
instruction is rejected by its reason. -/
def decodeWords (ws : List Word) : Except IllegalReason (Instr × Nat) :=
  match ws with
  | [] => .error .tooShort
  | w0 :: rest =>
    let op := (w0.extractLsb' 2 7).toNat
    let len := (w0.extractLsb' 0 2).toNat
    match len, rest with
    | 0, _ => accept (ofBase op (decodeBaseWord w0)) 1
    | 1, w1 :: w2 :: _ => accept (ofForm op (.ext (decodeExtWords w0 w1 w2))) 3
    | 2, l0 :: l1 :: _ =>
      if hasBase op then accept (ofForm op (.baseLit (decodeBaseWord w0) (l1 ++ l0))) 3 else .error .noBaseForm
    | 3, w1 :: w2 :: l0 :: l1 :: _ => accept (ofForm op (.extLit (decodeExtWords w0 w1 w2) (l1 ++ l0))) 5
    | _, _ => .error .tooShort

/-- The little-endian words of a list of bytes (00 R6, 16 R340); a last incomplete word is dropped. -/
def wordsOfBytes : List Byte → List Word
  | b0 :: b1 :: b2 :: b3 :: rest => (b3 ++ b2 ++ b1 ++ b0) :: wordsOfBytes rest
  | _ => []

/-- The bytes of a word, the least significant first (00 R6). -/
def bytesOfWord (w : Word) : List Byte :=
  [w.extractLsb' 0 8, w.extractLsb' 8 8, w.extractLsb' 16 8, w.extractLsb' 24 8]

/-- Decode the instruction at the head of a list of bytes. -/
def decodeBytes (bs : List Byte) : Except IllegalReason (Instr × Nat) := decodeWords (wordsOfBytes bs)

/-- The first `k` words of a number whose bit 0 is the least significant bit of the first word. -/
def wordsOfNat : Nat → Nat → List Word
  | 0, _ => []
  | k + 1, n => BitVec.ofNat 32 n :: wordsOfNat k (n / 2 ^ 32)

/-- The five words of a row of the opcode table, the bits above `nbits` zero. -/
def tableWords (nbits w : Nat) : List Word := wordsOfNat 5 (w % 2 ^ nbits)

/-- The instruction this decoder reads from a word of the opcode table. -/
def decodeTableWord (nbits w : Nat) : Option Instr :=
  match decodeBytes ((tableWords nbits w).flatMap bytesOfWord) with
  | .ok (i, _) => some i
  | .error _ => none

/-- A clause header's fields (16 R336). -/
structure Header where
  yield : Bool
  count : Nat
  flagA : Option Nat
  flagB : Option Nat
  wait : BitVec 12
deriving DecidableEq, Repr

/-- Decode a clause header; none where 16 R336 makes it illegal. -/
def decodeHeader (w : Word) : Option Header :=
  let fa := (w.extractLsb' 12 4).toNat
  let av := bitOf (w.extractLsb' 16 1)
  let fb := (w.extractLsb' 17 4).toNat
  let bv := bitOf (w.extractLsb' 21 1)
  if w.extractLsb' 26 6 != 0 || (av && 12 ≤ fa) || (bv && 12 ≤ fb) || (!av && fa != 0) || (!bv && fb != 0) ||
      (av && bv && fa == fb) then none
  else some { yield := bitOf (w.extractLsb' 25 1), count := (w.extractLsb' 22 3).toNat + 1,
              flagA := if av then some fa else none, flagB := if bv then some fb else none, wait := w.extractLsb' 0 12 }

/-! The encoder, from the same layouts. -/

/-- The base word of an opcode with a length code (16 R341). -/
def encodeBaseWord (op len : Nat) (w : Base) : Word :=
  w.g ++ w.b ++ w.a ++ w.d ++ BitVec.ofNat 7 op ++ BitVec.ofNat 2 len

/-- The first word of the extended form (16 R343). -/
def encodeExt0 (op len : Nat) (e : Ext) : Word :=
  ofBit e.gn ++ e.minor ++ e.a ++ e.d ++ BitVec.ofNat 7 op ++ BitVec.ofNat 2 len

/-- The second word of the extended form (16 R343). -/
def encodeExt1 (e : Ext) : Word :=
  ofBit e.sat ++ e.typ ++ e.kc ++ e.kb ++ e.ka ++ e.kd ++ e.gp ++ e.c ++ e.b

/-- The third word of the extended form (16 R343). -/
def encodeExt2 (e : Ext) : Word :=
  e.imm ++ ofBit e.fs ++ e.md ++ e.stor ++ e.agent ++ e.sem ++ e.rm

/-- The words of a longer form. -/
def encodeForm (op : Nat) : Form → List Word
  | .ext e => [encodeExt0 op 1 e, encodeExt1 e, encodeExt2 e]
  | .extLit e l => [encodeExt0 op 3 e, encodeExt1 e, encodeExt2 e, l.extractLsb' 0 32, l.extractLsb' 32 32]
  | .baseLit w l => [encodeBaseWord op 2 w, l.extractLsb' 0 32, l.extractLsb' 32 32]

/-- The words of an instruction; a device step has none. -/
def encode (i : Instr) : List Word :=
  match encOf i with
  | .base op w => [encodeBaseWord op 0 w]
  | .form op f => encodeForm op f
  | .step => []

/-- A clause header's word (16 R336). -/
def encodeHeader (h : Header) : Word :=
  0#6 ++ ofBit h.yield ++ BitVec.ofNat 3 (h.count - 1) ++ ofBit h.flagB.isSome ++ BitVec.ofNat 4 (h.flagB.getD 0) ++
    ofBit h.flagA.isSome ++ BitVec.ofNat 4 (h.flagA.getD 0) ++ h.wait

end Sys2Proof
end

