-- ==== Sys2Proof/Machine/Space.lean ====
section
/-! DEFINITION. The device physical address map (08 R171 to R174) on top of its ranges, MX-backed regions (05 R114 to R118, 08 R185), and
plain reads and writes of physical memory. -/

namespace Sys2Proof.Machine

/-- The pod window of this device itself is served locally (08 R172). -/
def localPa (s : State) (pa : Nat) : Nat :=
  match tierOf pa with
  | .pod d =>
    let cfg := reg32 s offPodCfg
    if field cfg 31 31 == 1 && field cfg 8 0 == d then pa - 0x4000000000000 - d * 0x20000000000 else pa
  | _ => pa

/-! ## MX regions -/

/-- Base of the element array and of the scale array of region `n` (08 R185). -/
def mxElem (s : State) (n : Nat) : Nat := field (reg64 s (offMxr n 2)) 38 12 * 4096
def mxScale (s : State) (n : Nat) : Nat := field (reg64 s (offMxr n 3)) 38 12 * 4096

/-- An address lies in the backing of a valid region (08 R186). -/
def mxBacking (s : State) (pa : Nat) : Bool :=
  (List.range 16).any (fun n => match mxAlias s n with
    | some (_, size) =>
      (mxElem s n ≤ pa && pa < mxElem s n + size / 4) || (mxScale s n ≤ pa && pa < mxScale s n + size / 16)
    | none => false)

/-- A block of a region: its eight element codes and its scale (05 R107, R114). -/
def mxBlock (s : State) (n b : Nat) : List Nat × Nat :=
  let w := peek s (mxElem s n + 4 * b) 4
  (unpackElems 4 4 8 w, (memRead s.mem (mxScale s n + b)).toNat)

/-- BF16 of an element under a scale (05 R115). -/
def mxDecode (code scale : Nat) : Nat := bf16.ofVal 0 (blockValue code scale)

/-- The 16 alias bytes of a block (05 R115). -/
def mxBlockBytes (s : State) (n b : Nat) : List Byte :=
  let (es, sc) := mxBlock s n b
  es.flatMap (fun e => natToBytes 2 (mxDecode e sc))

/-- Two finite values are equal, signs of zeros included. -/
def sameValue (x y : FVal) : Bool :=
  match x, y with
  | .fin sx _ _, .fin sy _ _ => sx == sy && magAt x (-400) == magAt y (-400)
  | _, _ => false

/-- The E2M1 code of a value under a scale, when there is one (05 R117). -/
def exactCode (scale : Nat) (x : FVal) : Option Nat := (List.range 16).find? (fun c => sameValue (blockValue c scale) x)

/-- A block after its alias bytes are written where given (05 R116, R117); a poisoned block stays poisoned under any
partial write. -/
def mxMerge (old : List Nat × Nat) (new : List (Option Byte)) : List Nat × Nat :=
  let bytes := old.1.flatMap (fun e => natToBytes 2 (mxDecode e old.2))
  let merged := (List.range 16).map (fun k => (new.getD k none).getD (bytes.getD k 0))
  let vals := (List.range 8).map (fun k => bf16.decode (bytesToNat ((merged.drop (2 * k)).take 2)))
  let written (k : Nat) : Bool := (new.getD (2 * k) none).isSome || (new.getD (2 * k + 1) none).isSome
  let ks := (List.range 8).filter written
  let full := new.all (·.isSome)
  if full then encodeBlock vals
  else if old.2 == 0xFF then (List.replicate 8 0, 0xFF)
  else
    let codes := ks.map (fun k => (k, exactCode old.2 (vals.getD k .nan)))
    if codes.all (fun e => e.2.isSome) then
      ((List.range 8).map (fun k => match (codes.find? (fun e => e.1 == k)) with
        | some (_, some c) => if old.2 == 0 then (if (vals.getD k .nan).sign then 8 else 0) else c
        | _ => old.1.getD k 0), old.2)
    else encodeBlock vals

/-- Writes bytes of one block of a region's alias, from byte `o` of the block. -/
def mxWriteBlock (n b o : Nat) (bs : List Byte) (s : State) : State :=
  let new := (List.range 16).map (fun k => if o ≤ k then bs[k - o]? else none)
  let (es, sc) := mxMerge (mxBlock s n b) new
  let s := poke s (mxElem s n + 4 * b) (natToBytes 4 (packElems (.int 4 false) 4 es))
  poke s (mxScale s n + b) [BitVec.ofNat 8 sc]

/-- Writes bytes of a region's alias at an offset, block by block, in at most `fuel` blocks. -/
def mxWrite (n : Nat) : Nat → Nat → List Byte → State → State
  | 0, _, _, s => s
  | fuel + 1, o, bs, s =>
    let here := 16 - o % 16
    if bs.isEmpty then s
    else mxWrite n fuel (o + here) (bs.drop here) (mxWriteBlock n (o / 16) (o % 16) (bs.take here) s)

/-! ## Plain reads and writes -/

/-- The byte of memory or of an MX alias at a physical address. -/
def physByte (s : State) (pa : Nat) : Byte :=
  match tierOf pa with
  | .mx => match mxRegion s pa with
    | some n =>
      let o := pa - ((mxAlias s n).map (·.1)).getD 0
      (mxBlockBytes s n (o / 16)).getD (o % 16) 0
    | none => 0
  | _ => memRead s.mem pa

/-- The bytes at a physical address as a task copy sees them: its own version over the base (08 R182). -/
def physRead (s : State) (g : Option Group) (pa n : Nat) : List Byte :=
  (List.range n).map (fun k => match (g.bind (fun g => mapFind g.version (pa + k))) with
    | some b => b
    | none => physByte s (pa + k))

/-- Writes bytes to memory or an MX alias. -/
def physWrite (pa : Nat) (bs : List Byte) (s : State) : State :=
  match tierOf pa with
  | .mx => match mxRegion s pa with
    | some n => mxWrite n (bs.length / 16 + 2) (pa - ((mxAlias s n).map (·.1)).getD 0) bs s
    | none => s
  | _ => poke s pa bs

/-! ## What is behind an address -/

/-- The pod peer an address belongs to. -/
def peerOf (pa : Nat) : Option Nat :=
  match tierOf pa with
  | .pod d => some d
  | _ => none

/-- A sinter layer is lost (14 R317). -/
def layerLost (s : State) (layer : Nat) : Bool := (mapFind s.layersLost layer).isSome

/-- A peer is lost (13 R288, 15 R324, R325, 14 R314). -/
def peerLostNow (s : State) (d : Nat) : Bool :=
  let p := mapGet {} s.peers d
  p.lost || p.viral || s.ports.isEmpty || field (reg32 s offPodCfg) 31 31 == 0

/-- A peer is in recovery (13 R288). -/
def peerRecovering (s : State) (d : Nat) : Bool :=
  let p := mapGet {} s.peers d
  p.recovering.isSome && !peerLostNow s d

/-- The device is viral and the address lies beyond it (14 R314). -/
def viralBlocks (s : State) (pa : Nat) : Bool :=
  isViral s && (match tierOf pa with
    | .host | .pod _ | .expander _ => true
    | _ => false)

end Sys2Proof.Machine
end

