-- ==== Sys2Proof/Machine/Translate.lean ====
section
/-! DEFINITION. Address translation (11 R237 to R249): the page-table walk, the TLBs, page requests, and what a lane or
an engine finds at a virtual address. -/

namespace Sys2Proof.Machine

/-- What a walk or a lookup gives (11 R240, R242, R247, R253). -/
inductive Xlat where
  | leaf (e : TlbEntry)
  /-- An access-fault cause of 11 R245. -/
  | fault (cause : Nat)
  /-- An entry with V = 0. -/
  | invalid
  /-- An entry with MIG = 1. -/
  | migrating
deriving DecidableEq, Repr

/-- Index of a virtual address in the table of a level (11 R238); `wide` is the 64 KiB granule of L0. -/
def tableIndex (level : Nat) (wide : Bool) (va : Nat) : Nat :=
  match level with
  | 3 => fieldN va 51 39
  | 2 => fieldN va 38 30
  | 1 => fieldN va 29 21
  | _ => if wide then fieldN va 20 16 else fieldN va 20 12

/-- log2 of the page of a leaf at a level (11 R238). -/
def leafSize (level : Nat) (wide : Bool) : Nat := if level == 1 then 21 else if wide then 16 else 12

/-- An entry of a level is malformed (11 R240). -/
def malformedEntry (level : Nat) (wide : Bool) (e : Nat) : Bool :=
  let kind := fieldN e 3 2
  let pa := fieldN e 51 8 * 256
  let leaf := kind == 2
  let size := leafSize level wide
  fieldN e 58 52 != 0 || fieldN e 7 4 != 0 || fieldN e 1 1 != 0 || kind == 3 ||
    (level == 3 && kind != 0) || (level == 2 && kind != 0) || (level == 0 && kind != 2) ||
    (kind != 1 && fieldN e 11 8 != 0) || (leaf && pa % 2 ^ size != 0) ||
    (!leaf && tierOf pa != .hbm && tierOf pa != .lpddr) || (leaf && leafLog2 (tierOf pa) != size)

/-- The walk from a table on (11 R238 to R242): `level` + 1 reads. `held`: the walk is for work that holds a reference
on the range, which an entry with MIG = 1 does not stop (11 R254). -/
def walkFrom (s : State) (ctx va : Nat) (held : Bool) : Nat → Bool → Nat → Xlat
  | level, wide, table =>
    let at_ := table + 8 * tableIndex level wide va
    if quarantined s at_ then .fault 0x5
    else if !present s at_ then .fault 0x2
    else
      let e := peek s at_ 8
      if e % 2 == 0 then .invalid
      else if malformedEntry level wide e then .fault 0x4
      else if fieldN e 63 63 == 1 && !held then .migrating
      else if fieldN e 3 2 == 2 then
        let size := leafSize level wide
        .leaf { ctx := ctx, va := va / 2 ^ size * 2 ^ size, size := size, pte := BitVec.ofNat 64 e }
      else match level with
        | 0 => .fault 0x4
        | l + 1 => walkFrom s ctx va held l (fieldN e 3 2 == 1) (fieldN e 51 8 * 256)

/-- The walk of a context's table (11 R238). -/
def walk (s : State) (ctx va : Nat) : Xlat := walkFrom s ctx va false 3 false (ctxRoot s ctx)

/-- A TLB entry covers an address of a context. -/
def TlbEntry.covers (e : TlbEntry) (ctx va : Nat) : Bool := e.ctx == ctx && e.va ≤ va && va < e.va + 2 ^ e.size

/-- The set of an entry of the L2 TLB (11 R241). -/
def TlbEntry.set (e : TlbEntry) : Nat := e.va / 2 ^ e.size % 1024

/-- A TLB without the entry that a fill replaces among those of a set; which one is open (11 R241, log 8). -/
def evictTlb (clock place : Nat) (e : TlbEntry) (same l : List TlbEntry) : List TlbEntry :=
  match same[Config.tlbVictim clock place e.ctx e.va (same.map (·.va)) % same.length]? with
  | some old => l.erase old
  | none => l

/-- An L1 TLB of 64 entries with one added (11 R241). -/
def fillTlb1 (clock core : Nat) (e : TlbEntry) (l : List TlbEntry) : List TlbEntry :=
  (if l.length < 64 then l else evictTlb clock core e l l) ++ [e]

/-- An L2 TLB of 8 ways with one entry added (11 R241). -/
def fillTlb2 (clock quad : Nat) (e : TlbEntry) (l : List TlbEntry) : List TlbEntry :=
  let same := l.filter (fun x => x.set == e.set)
  (if same.length < 8 then l else evictTlb clock (128 + quad) e same l) ++ [e]

/-- Translates a virtual address of a context on a core (11 R241, R242): L1 TLB, L2 TLB, walk; a leaf fills the TLBs. -/
def translate (core ctx va : Nat) (s : State) : Xlat × State :=
  match (getCore s core).tlb.find? (fun e => e.covers ctx va) with
  | some e => (.leaf e, s)
  | none =>
    let l2 := mapGet [] s.tlb2 (core / 4)
    let fill1 (e : TlbEntry) (s : State) := modCore s core (fun c => { c with tlb := fillTlb1 s.clock core e c.tlb })
    match l2.find? (fun e => e.covers ctx va) with
    | some e => (.leaf e, fill1 e s)
    | none => match walk s ctx va with
      | .leaf e => (.leaf e, fill1 e { s with tlb2 := mapSet s.tlb2 (core / 4) (fillTlb2 s.clock (core / 4) e l2) })
      | .fault k => (.fault k, s)
      | .invalid => (.invalid, s)
      | .migrating => (.migrating, s)

/-- Physical address of a virtual address under a leaf. -/
def TlbEntry.phys (e : TlbEntry) (va : Nat) : Nat := field e.pte 51 8 * 256 + (va - e.va)

/-- W, X and C of a leaf (11 R239). -/
def TlbEntry.writable (e : TlbEntry) : Bool := field e.pte 59 59 == 1
def TlbEntry.executable (e : TlbEntry) : Bool := field e.pte 60 60 == 1
def TlbEntry.cacheable (e : TlbEntry) : Bool := field e.pte 61 61 == 1

/-- The kinds of access that 11 R243 and the attribute rules tell apart. -/
structure AccessKind where
  write : Bool := false
  fetch : Bool := false
  /-- The references under which the access is made (11 R254). -/
  refs : List PageRef := []
  /-- The access is not supported on a range (10 R227, 08 R189). -/
  unsupported : Tier → Bool := fun _ => false
  /-- The access is not supported on an MX-backed region, alias or backing (05 R118, 09 R204). -/
  noMx : Bool := false

/-- The access-fault cause of an access at a physical address (11 R243, R245), in the order of the codes (log 12). The
last TiB of a pod window has no memory behind it, of this device's own window too (08 R172). -/
def accessCause (s : State) (pa : Nat) (w x : Bool) (k : AccessKind) : Option Nat :=
  let at_ := localPa s pa
  if (k.write && !w) || (k.fetch && !x) then some 0x1
  else if !present s pa || !present s at_ then some 0x2
  else if k.unsupported (tierOf at_) || (k.noMx && (tierOf at_ == .mx || mxBacking s at_)) then some 0x3
  else if quarantined s at_ then some 0x5
  else none

/-- What an access finds at an address. -/
inductive Reach where
  /-- Memory, at a physical address. -/
  | ok (pa : Nat)
  /-- A trap: cause and `tinfo`. -/
  | trap (cause tinfo : Nat)
  /-- An entry with V = 0. -/
  | invalid
  /-- An entry with MIG = 1. -/
  | migrating
  /-- A peer in recovery, or the viral device's links: the access waits. -/
  | hold (peer : Option Nat)
  /-- A lost peer (13 R288). -/
  | lost (device : Nat)
deriving DecidableEq, Repr

/-- `tinfo` of an access fault (11 R245). -/
def faultInfo (cause va : Nat) : Nat := cause + va % 2 ^ 52 / 4096 * 2 ^ 24

/-- What lies behind a physical address for an access. -/
def reachPhys (s : State) (va pa : Nat) (w x : Bool) (k : AccessKind) : Reach :=
  match accessCause s pa w x k with
  | some cause => .trap 0x04 (faultInfo cause va)
  | none =>
    let pa := localPa s pa
    if viralBlocks s pa then .hold none
    else match peerOf pa with
      | none => .ok pa
      | some d => if peerLostNow s d then .lost d else if peerRecovering s d then .hold (some d) else .ok pa

/-- A reference covers a virtual address. -/
def PageRef.covers (r : PageRef) (va : Nat) : Bool := r.va ≤ va && va < r.va + 2 ^ r.size

/-- The leaf of an address, for work that may pass an entry with MIG = 1. -/
def leafOf (s : State) (ctx va : Nat) : Option TlbEntry :=
  match walkFrom s ctx va true 3 false (ctxRoot s ctx) with
  | .leaf e => some e
  | _ => none

/-- A reference with the offsets between which some ranges of virtual addresses lie in its page; none when none does. -/
def trimRef (todo : List (Nat × Nat)) (r : PageRef) : Option PageRef :=
  let here := todo.filter (fun t => r.va < t.1 + t.2 && t.1 < r.va + 2 ^ r.size)
  match here with
  | [] => none
  | _ => some { r with
      first := here.foldl (fun n t => min n (max t.1 r.va - r.va)) (2 ^ r.size),
      last := here.foldl (fun n t => max n (min (t.1 + t.2) (r.va + 2 ^ r.size) - r.va)) 0 }

/-- A range of virtual addresses as ranges below 2^52, where the addresses wrap (11 R237). -/
def wrapRange (t : Nat × Nat) : List (Nat × Nat) :=
  let a := t.1 % 2 ^ 52
  if a + t.2 ≤ 2 ^ 52 then [(a, t.2)] else [(a, 2 ^ 52 - a), (0, t.2 - (2 ^ 52 - a))]

/-- What an operation has translated of some ranges, in their order, when it stops at an address. -/
def beforeMiss (va : Nat) : List (Nat × Nat) → List (Nat × Nat)
  | [] => []
  | (a, n) :: rest =>
    if a ≤ va && va < a + n then (if a < va then [(a, va - a)] else []) else (a, n) :: beforeMiss va rest

/-- The references of an operation that has now accessed some ranges and has others to go (11 R254): each page it has
translated and has not yet finished with. -/
def pageRefs (s : State) (ctx : Nat) (old : List PageRef) (done todo : List (Nat × Nat)) : List PageRef :=
  let pages := ((done.flatMap wrapRange).flatMap (fun t => [t.1 / 4096, (t.1 + t.2 - 1) / 4096])).eraseDups
  let refs := pages.foldl (fun (l : List PageRef) p =>
    if l.any (fun r => r.covers (4096 * p)) then l
    else match leafOf s ctx (4096 * p) with
      | some e => l ++ [{ va := e.va, pa := localPa s (e.phys e.va), size := e.size, first := 0, last := 0 }]
      | none => l) old
  refs.filterMap (trimRef (todo.flatMap wrapRange))

/-- The reference under which spill accesses are made: on every page (04 R82, log 53). -/
def spillRef : PageRef := { va := 0, pa := 0, size := 52, first := 0, last := 0 }

/-- What an access finds at a virtual address. -/
def reachVirt (core ctx va : Nat) (k : AccessKind) (s : State) : Reach × State :=
  match translate core ctx va s with
  | (.leaf e, s) => (reachPhys s va (e.phys va) e.writable e.executable k, s)
  | (.fault c, s) => (.trap 0x04 (faultInfo c va), s)
  | (.invalid, s) => (.invalid, s)
  | (.migrating, s) =>
    if k.refs.any (·.covers va) then match walkFrom s ctx va true 3 false (ctxRoot s ctx) with
      | .leaf e => (reachPhys s va (e.phys va) e.writable e.executable k, s)
      | _ => (.migrating, s)
    else (.migrating, s)

/-- C of the page of a global address that has been translated (11 R239): of its window, or of its entry in the TLB. -/
def pageCached (s : State) (core ctx : Nat) (a : GAddr) : Bool :=
  match a.direct with
  | some _ => a.cached
  | none => (((getCore s core).tlb.find? (fun e => e.covers ctx a.va)).map (·.cacheable)).getD false

/-- What an access finds at a global address, through its window or by translation (08 R197). -/
def reach (core ctx : Nat) (a : GAddr) (k : AccessKind) (s : State) : Reach × State :=
  match a.direct with
  | some (pa, w) => (reachPhys s a.va pa w false k, s)
  | none => reachVirt core ctx a.va k s

/-! ## Page requests (11 R249) -/

/-- A tag that no outstanding request has, from a first candidate on. -/
def freeTag (l : List PageRequest) : Nat → Nat → Nat
  | 0, t => t
  | fuel + 1, t => if l.any (fun r => r.tag == t % 65536) then freeTag l fuel (t + 1) else t % 65536

/-- A waiter joins the request for its page, or makes one while fewer than 4,096 are outstanding (11 R249). -/
def requestPage (ctx va core src : Nat) (wr ex : Bool) (w : Waiter) (s : State) : State :=
  if s.pages.any (fun r => r.ctx == ctx && r.va / 4096 == va / 4096) then
    { s with pages := s.pages.map (fun r =>
        if r.ctx == ctx && r.va / 4096 == va / 4096 then
          { r with wr := r.wr || wr, ex := r.ex || ex,
                   waiters := if r.waiters.contains w then r.waiters else r.waiters ++ [w] }
        else r) }
  else if 4096 ≤ s.pages.length then s
  else
    let t := freeTag s.pages s.pages.length s.nextTag
    { s with
      nextTag := (t + 1) % 65536,
      pages := s.pages ++ [{ tag := t, ctx := ctx, gen := ctxGen s ctx, va := va, lcore := core, src := src, wr := wr,
                             ex := ex, waiters := [w] }] }

/-- The gang of the split of a lane parks on a page (11 R247); with quantum 0 the head moves when it is the head's wait that
begins (03 R61). -/
def parkGang (core slot lane va : Nat) (why : Xlat) (s : State) : State :=
  modGang s core slot (fun g =>
    { rotateFrom lane g with
      parked := some (match why with
        | .migrating => .migration
        | _ => .page (va / 4096)),
      parkedAt := s.clock })

end Sys2Proof.Machine
end

