-- ==== Sys2Proof/Machine/Access.lean ====
section
/-! DEFINITION. Accesses to global memory: L1 lines (08 R178), read counts of L2 (08 R181), held versions (08 R182,
R183, 10 R231 to R234, 14 R309), and the loops over an instruction's lanes (11 R247). -/

namespace Sys2Proof.Machine

/-! ## Caches -/

/-- A range is cached in the L1 of a core (08 R171, R178). -/
def cachedL1 (s : State) (core pa : Nat) : Bool :=
  !mxBacking s pa && (match tierOf pa with
    | .hbm | .lpddr | .expander _ => true
    | .near k => lcoreValid s core && physCore s core == k
    | _ => false)

/-- A range is cached in L2; host and pod pages only when cacheable (08 R171). -/
def cachedL2 (s : State) (pa : Nat) (cacheable : Bool) : Bool :=
  !mxBacking s pa && (match tierOf pa with
    | .hbm | .lpddr | .expander _ => true
    | .pod _ | .host => cacheable
    | _ => false)

/-- Home slice and set of a line (08 R179) as one number. -/
def homeSet (line : Nat) : Nat :=
  let f (hi lo : Nat) := fieldN line hi lo
  (f 4 0 ^^^ f 9 5 ^^^ f 14 10 ^^^ f 19 15) * 2048 + f 15 5

/-- The lines of a version. -/
def versionLines (g : Group) : List Nat := distinct (g.version.map (fun e => e.1 / 128))

/-- The lines of a list whose home is the set of a line. -/
def inSetOf (line : Nat) (l : List Nat) : List Nat := l.filter (fun x => homeSet x == homeSet line)

/-- The ways of a line's set that hold version lines, those of saved copies too (08 R182, 13 R293). -/
def versionWays (s : State) (line : Nat) : Nat :=
  (allGroups s).foldl (fun n e => n + (inSetOf line (versionLines e.2.2)).length)
    (s.saved.foldl (fun n e => e.2.groups.foldl (fun n x => n + (inSetOf line (versionLines x.group)).length) n) 0)

/-- A transfer has yet to read or write the line (11 R254). -/
def pinnedLine (s : State) (line : Nat) : Bool :=
  let hit (r : PageRef) : Bool := r.pa + r.first < (line + 1) * 128 && line * 128 < r.pa + r.last
  s.cores.any (fun e => e.2.copyrun.any (fun r => r.refs.any hit) || e.2.mrun.any (fun m => m.refs.any hit))

/-- A way of a line's set is free for it (08 R179, R182): while all 24 are taken, an ordinary line that no transfer pins
leaves; which one is open (log 8). -/
def freeWay (line : Nat) (s : State) : State :=
  let same := inSetOf line (mapKeys s.l2)
  if same.length + versionWays s line < 24 then s
  else
    let old := same.filter (fun x => !pinnedLine s x)
    match old[Config.l2Victim s.clock line old % old.length]? with
    | some x => { s with l2 := mapErase s.l2 x }
    | none => s

/-- L2 takes a line with a read count, when a way is free for it (11 R254, log 8). A lane's access waits for one
(`fillWaits`). -/
def fillL2 (line reads : Nat) (s : State) : State :=
  let s := freeWay line s
  if (inSetOf line (mapKeys s.l2)).length + versionWays s line < 24 then { s with l2 := mapSet s.l2 line reads } else s

/-- A lane's access to a line must wait for a way (11 R254): its fill finds every way of its set pinned by a transfer or
holding a version. -/
def fillWaits (s : State) (pa : Nat) (cacheable : Bool) : Bool :=
  let same := inSetOf (pa / 128) (mapKeys s.l2)
  cachedL2 s pa cacheable && (mapFind s.l2 (pa / 128)).isNone &&
    24 ≤ same.length + versionWays s (pa / 128) && same.all (pinnedLine s)

/-- A read of a line at L2 (08 R181): a fill takes the read count; a counted line loses one and leaves at zero. -/
def readL2 (pa reads : Nat) (s : State) : State :=
  let line := pa / 128
  match mapFind s.l2 line with
  | none => if reads == 1 then s else fillL2 line (reads - 1) s
  | some 0 => s
  | some 1 => { s with l2 := mapErase s.l2 line }
  | some (n + 2) => { s with l2 := mapSet s.l2 line (n + 1) }

/-- A line has a read count (08 R181). -/
def countedL2 (s : State) (pa : Nat) : Bool := 0 < mapGet 0 s.l2 (pa / 128)

/-- A write of bytes clears the read count of its lines (08 R181). -/
def clearCounts (pa n : Nat) (s : State) : State :=
  { s with l2 := s.l2.map (fun e => if pa / 128 ≤ e.1 && e.1 ≤ (pa + n - 1) / 128 then (e.1, 0) else e) }

/-- A write of bytes at L2 (08 R181, R178): its lines are ordinary lines of L2, where the range is cached. -/
def writeL2 (pa n : Nat) (cacheable : Bool) (s : State) : State :=
  (List.range (ceilDiv (pa % 128 + n) 128)).foldl (fun s k =>
    let line := pa / 128 + k
    if (mapFind s.l2 line).isNone && cachedL2 s (line * 128) cacheable then fillL2 line 0 s else s) (clearCounts pa n s)

/-- Lines an L1 holds in one set: 512 sets, the ways that scratchpad does not take (08 R175, R178). The ways of
scratchpad reach to the end of the last range of a resident group: where retired groups have left gaps, the ranges end
beyond 64 KiB x ceil(T / 64 KiB), and what S is then the spec does not say (log 108). -/
def l1Ways (c : Core) : Nat := 8 - ceilDiv (c.groups.foldl (fun n e => max n (e.2.sbase + e.2.ssize)) 0) 65536

/-- An L1 with a line filled; which line of a full set makes room is open (08 R178, log 7). -/
def fillL1 (clock core : Nat) (c : Core) (line : Nat) (x : BitVec 1024) : Core :=
  let same := c.l1.filter (fun e => e.1 % 512 == line % 512)
  let lines := same.map (·.1)
  if l1Ways c == 0 then c
  else if same.length < l1Ways c then { c with l1 := mapSet c.l1 line x }
  else match lines[Config.l1Victim clock core line lines % lines.length]? with
    | some old => { c with l1 := mapSet (mapErase c.l1 old) line x }
    | none => c

/-- An acquire at pod or system scope (10 R226): the core's L1 and the pod-window lines of L2 are dropped. -/
def acquirePod (core : Nat) (s : State) : State :=
  let s := dropL1 core s
  { s with l2 := s.l2.filter (fun e => (peerOf (e.1 * 128)).isNone) }

/-- The acquire that a token's signal meets (10 R235): at pod scope for a signal across the pod, else at device scope. -/
def acquireSignal (core : Nat) (pod : Bool) (s : State) : State := if pod then acquirePod core s else dropL1 core s

/-- Bytes of a line from a byte offset. -/
def lineBytes (x : BitVec 1024) (o n : Nat) : List Byte := natToBytes n (x.toNat / 256 ^ o)

/-- A line with bytes replaced from a byte offset. -/
def lineWrite (x : BitVec 1024) (o : Nat) (bs : List Byte) : BitVec 1024 :=
  let size := 256 ^ bs.length
  BitVec.ofNat 1024 (x.toNat - x.toNat / 256 ^ o % size * 256 ^ o + bytesToNat bs * 256 ^ o)

/-- A store updates the L1 line it hits (08 R178). -/
def updateL1 (core pa : Nat) (bs : List Byte) (s : State) : State :=
  modCore s core (fun c => { c with l1 := mapModify c.l1 (pa / 128) (fun x => lineWrite x (pa % 128) bs) })

/-- Drops the L1 lines of a core that a range touches (08 R178). -/
def dropLines (core pa n : Nat) (s : State) : State :=
  modCore s core (fun c => { c with l1 := c.l1.filter (fun e => !(pa / 128 ≤ e.1 && e.1 ≤ (pa + n - 1) / 128)) })

/-- A load by a core at a physical address: its own version's bytes, else an L1 line, else memory, which fills L1
(08 R178, R181, R182). `cacheable`: the C bit of its page (11 R239); `again`: the instruction has read the line at L2 in
another lane, so that this is no further read of it (08 R181, log 89). -/
def loadPhys (core : Nat) (g : Group) (pa n reads : Nat) (cacheable again : Bool) (s : State) : List Byte × State :=
  let atL2 := cachedL2 s pa cacheable && !again
  if !cachedL1 s core pa then
    let s' := if atL2 then readL2 pa reads s else s
    (physRead s (some g) pa n, s')
  else
    let overlay (l : List Byte) : List Byte :=
      (List.range n).map (fun k => match mapFind g.version (pa + k) with
        | some b => b
        | none => l.getD k 0)
    match mapFind (getCore s core).l1 (pa / 128) with
    | some x => (overlay (lineBytes x (pa % 128) n), s)
    | none =>
      let counted := cachedL2 s pa cacheable && (countedL2 s pa || ((mapFind s.l2 (pa / 128)).isNone && 0 < reads))
      let s' := if atL2 then readL2 pa reads s else s
      let x := BitVec.ofNat 1024 (peek s (pa / 128 * 128) 128)
      let s' := if counted || again then s' else modCore s' core (fun c => fillL1 s.clock core c (pa / 128) x)
      (physRead s (some g) pa n, s')

/-- An ordinary write of a core's lanes: written through, and to the L1 line it hits (08 R178). -/
def storePhys (core pa : Nat) (cacheable : Bool) (bs : List Byte) (s : State) : State :=
  updateL1 core pa bs (writeL2 pa bs.length cacheable (physWrite pa bs s))

/-- A write of an engine, or an atomic, of a core: the line leaves the core's L1 (08 R178). -/
def enginePhys (core pa : Nat) (cacheable : Bool) (bs : List Byte) (s : State) : State :=
  dropLines core pa bs.length (writeL2 pa bs.length cacheable (physWrite pa bs s))

/-! ## What running grids overwrite (16 R353) -/

/-- What stood at some bytes that now change, where nothing is noted yet. -/
def noteOld (mem : Memory) : Nat → List Byte → SMap Byte → SMap Byte
  | _, [], m => m
  | pa, b :: bs, m =>
    let x := memRead mem pa
    noteOld mem (pa + 1) bs (if x == b || (mapFind m pa).isSome then m else mapSet m pa x)

/-- A grid is about to write bytes: a fetch of its context may give what stands there now until it finishes, and then to
the groups that were placed before (16 R353, log 26). -/
def overwrite (core gslot pa : Nat) (bs : List Byte) (s : State) : State :=
  match getGroup s core gslot with
  | none => s
  | some g =>
    let mine (o : Overwrite) : Bool := o.queue == g.queue && o.lslot == g.lslot && o.ctx == g.ctx
    if tierOf pa == .mx then s
    else if s.overwritten.any mine then
      { s with overwritten := s.overwritten.map (fun o => if mine o then { o with old := noteOld s.mem pa bs o.old } else o) }
    else { s with overwritten := s.overwritten ++ [{ queue := g.queue, lslot := g.lslot, ctx := g.ctx, old := noteOld s.mem pa bs [] }] }

/-- What stood at some addresses is forgotten: they have been written from outside. -/
def forgetOld (pa n : Nat) (s : State) : State :=
  let keep (m : SMap Byte) : SMap Byte := m.filter (fun e => e.1 < pa || pa + n ≤ e.1)
  { s with
    overwritten := s.overwritten.map (fun o => { o with old := keep o.old }),
    cores := s.cores.map (fun e => (e.1, { e.2 with groups := e.2.groups.map (fun g => (g.1, { g.2 with oldCode := g.2.oldCode.map keep })) })),
    saved := s.saved.map (fun e => (e.1, { e.2 with groups := e.2.groups.map (fun x =>
      { x with group := { x.group with oldCode := x.group.oldCode.map keep } }) })) }

/-! ## Held versions -/

/-- What a held write of a line may do (08 R182): go on, overflow, or wait for a way. -/
inductive VersionRoom where
  | room | overflow | full
deriving DecidableEq, Repr

/-- The room of a task copy for a line (08 R182): 8 lines of a copy and 16 in all in one set; the version of a saved
copy stays (13 R293). -/
def versionRoom (s : State) (g : Group) (line : Nat) : VersionRoom :=
  let own := versionLines g
  if own.contains line then .room
  else if 8 ≤ (inSetOf line own).length then .overflow
  else if 16 ≤ versionWays s line then .full
  else .room

/-- F of 14 R309. -/
def signMix (z : BitVec 64) : BitVec 64 :=
  let z := (z ^^^ (z >>> 30)) * 0xBF58476D1CE4E5B9#64
  let z := (z ^^^ (z >>> 27)) * 0x94D049BB133111EB#64
  z ^^^ (z >>> 31)

/-- The largest aligned piece of at most 8 bytes at an address (14 R309). -/
def pieceSize (a left : Nat) : Nat :=
  if a % 8 == 0 && 8 ≤ left then 8 else if a % 4 == 0 && 4 ≤ left then 4 else if a % 2 == 0 && 2 ≤ left then 2 else 1

/-- SIGN after a held write of bytes at a virtual address, in at most `fuel` pieces (14 R309). -/
def signWrite : Nat → Nat → List Byte → BitVec 64 → BitVec 64
  | 0, _, _, sign => sign
  | fuel + 1, a, bs, sign =>
    if bs.isEmpty then sign
    else
      let n := pieceSize a bs.length
      let x := b64 (bytesToNat (bs.take n))
      signWrite fuel (a + n) (bs.drop n) (sign + signMix (signMix (b64 (a + n * 2 ^ 52)) ^^^ x))

/-- A version with bytes written. -/
def versionWrite (pa : Nat) : List Byte → SMap Byte → SMap Byte
  | [], v => v
  | b :: bs, v => versionWrite (pa + 1) bs (mapSet v pa b)

/-- A write to an MX alias joins the writes that a commit makes (05 R116, R117). -/
def noteAlias (pa : Nat) (bs : List Byte) (g : Group) : Group :=
  if tierOf pa == .mx then { g with aliasWrites := g.aliasWrites ++ [(pa, bs)] } else g

/-- New version lines take the ways of ordinary lines (08 R182). -/
def versionSpace (core gslot pa n : Nat) (s : State) : State :=
  let own := ((getGroup s core gslot).map versionLines).getD []
  (List.range (ceilDiv (pa % 128 + n) 128)).foldl (fun s k =>
    if own.contains (pa / 128 + k) then s else freeWay (pa / 128 + k) s) s

/-- A held write (10 R231, 08 R182, 14 R309): into the version and the signature of its task copy. -/
def heldWrite (core gslot va pa : Nat) (bs : List Byte) (s : State) : State :=
  modGroup (versionSpace core gslot pa bs.length (clearCounts pa bs.length s)) core gslot (fun g =>
    noteAlias pa bs { g with version := versionWrite pa bs g.version, sign := signWrite bs.length va bs g.sign })

/-- A write that bypasses the version of a held task updates the bytes the version holds as well (10 R232). -/
def bypassVersion (core gslot pa : Nat) (bs : List Byte) (s : State) : State :=
  modGroup s core gslot (fun g =>
    let held (k : Nat) : Bool := (mapFind g.version (pa + k)).isSome
    let g' := { g with version := (List.range bs.length).foldl (fun v k =>
      if held k then mapSet v (pa + k) (bs.getD k 0) else v) g.version }
    if (List.range bs.length).any held then noteAlias pa bs g' else g')

/-- The task copy of a group is bound (14 R306). -/
def bindTask (core gslot : Nat) (s : State) : State :=
  modGroup s core gslot (fun g => if g.held && g.task == .retryable then { g with task := .bound } else g)

/-- The version of a task copy is discarded (08 R183). -/
def discardVersion (core gslot : Nat) (s : State) : State :=
  modGroup s core gslot (fun g => { g with version := [], aliasWrites := [], sign := 0 })

/-- Bytes of a version that commits go to memory and their line to L2, and the base line leaves the core's L1 (08 R183);
what a viral device keeps from going out is not written (14 R314). -/
def commitBytes (core pa : Nat) (bs : List Byte) (s : State) : State :=
  if viralBlocks s pa then s else enginePhys core pa false bs s

/-- The version of a task copy turns into ordinary lines (08 R183, 10 R234), the writes to MX aliases as they were made
(05 R116, R117); its signature returns to 0 (14 R309). A viral device sends none of them out (14 R314). -/
def commitVersion (core gslot : Nat) (s : State) : State :=
  match getGroup s core gslot with
  | none => s
  | some g =>
    let plain := g.version.filter (fun e => tierOf e.1 != .mx && !viralBlocks s e.1)
    let s := plain.foldl (fun s e => commitBytes core e.1 [e.2] (overwrite core gslot e.1 [e.2] s)) (discardVersion core gslot s)
    g.aliasWrites.foldl (fun s w => commitBytes core w.1 w.2 s) s

/-! ## The lanes of one instruction -/

/-- What is left of an instruction's lanes: traps, lanes that reached V = 0, lanes that wait. -/
structure LaneEnd where
  traps : List LaneTrap := []
  pages : Mask := 0
  /-- Why the lanes of `pages` wait, from the first of them. -/
  why : Xlat := .invalid
  va : Nat := 0
  holds : Mask := 0
  /-- Lines that the instruction has read at L2 (08 R181). -/
  read : List Nat := []
  hold : WaitKind := .flag
  obj : Nat := 0
  peer : Option Nat := none
deriving DecidableEq, Repr

/-- A lane traps. -/
def LaneEnd.trap (e : LaneEnd) (lane cause tinfo : Nat) : LaneEnd :=
  { e with traps := e.traps ++ [{ lane := lane, cause := cause, tinfo := tinfo }] }

/-- A lane reaches an entry that is not there. -/
def LaneEnd.page (e : LaneEnd) (lanes : Mask) (va : Nat) (why : Xlat) : LaneEnd :=
  if e.pages == 0 then { e with pages := lanes, va := va, why := why } else { e with pages := e.pages ||| lanes }

/-- A lane waits. -/
def LaneEnd.wait (e : LaneEnd) (lanes : Mask) (kind : WaitKind) (obj : Nat) (peer : Option Nat) : LaneEnd :=
  if e.holds == 0 then { e with holds := lanes, hold := kind, obj := obj, peer := peer }
  else { e with holds := e.holds ||| lanes }

/-- Records the peer lost in `peer.status` (13 R288). -/
def notePeer (core slot d : Nat) (s : State) : State :=
  modGang s core slot (fun g => { g with peerStatus := setField (setField g.peerStatus 31 31 1) 9 0 d })

/-- What keeps the access of some lanes from being made, put into the end of the instruction; a missing page makes its
request (11 R247, R249). -/
def missed (c : Ctx) (lanes : Mask) (lane va src : Nat) (wr : Bool) (r : Reach) (e : LaneEnd) (s : State) :
    LaneEnd × State :=
  match r with
  | .trap k i => (e.trap lane k i, s)
  | .invalid => (e.page lanes va .invalid,
      requestPage c.gang.ctx va c.cur.core src wr false (.gang c.cur.core c.cur.slot c.cur.lane) s)
  | .migrating => (e.page lanes va .migrating, s)
  | .hold peer => (e.wait lanes .flag 0 peer, s)
  | _ => (e, s)

/-- The lanes of the split of a lane whose access is not performed (11 R247), each split's its own (11 R255). -/
def leaveUnfinished (lane : Nat) (left : Mask) (g : Gang) : Gang := modSplit lane (fun sp => { sp with replay := some left }) g

/-- A long-latency access has issued and waits for some of its lanes: its flag is set since its issue (16 R337). -/
def holdOp (c : Ctx) (long : Bool) (g : Gang) : Gang := if long then startOp c (.waiting c.sp.mask) g else g

/-- A gang waits on no page request any longer (11 R250, log 38). -/
def dropGangWaiters (core slot : Nat) (s : State) : State :=
  { s with pages := dropWaiters (Waiter.ofCore core [slot] []) s.pages }

/-- The end of an instruction (11 R247, 13 R283): traps first, then the gang parks on missing pages, then the split
waits; the lanes not performed stay. With nothing left it completes, as a long-latency operation when it is one. -/
def endAccess (c : Ctx) (e : LaneEnd) (once : Bool) (long : Bool) (s : State) : State :=
  let left := e.pages ||| e.holds ||| trapLanes e.traps
  if !e.traps.isEmpty then
    let s := if e.pages == 0 then s else dropGangWaiters c.cur.core c.cur.slot s
    if once then
      match e.traps with
      | t :: _ => raiseOnce c t.cause t.tinfo s
      | [] => s
    else raiseLanes c e.traps left s
  else if e.pages != 0 then
    parkGang c.cur.core c.cur.slot c.cur.lane e.va e.why (onGang c (fun g => holdOp c long (leaveUnfinished c.cur.lane left g)) s)
  else if e.holds != 0 then
    let s := waitAt c e.hold e.obj false (onGang c (fun g => holdOp c long (leaveUnfinished c.cur.lane left g)) s)
    onGang c (modSplit c.cur.lane (fun sp => { sp with wait := sp.wait.map (fun w => { w with peer := e.peer }) })) s
  else if long then completeWith c (startOp c (.lane (c.row.d.v != 0 || c.row.d.s != 0))) s
  else complete c s

/-- One lane's access: its lane, the end so far and the state. -/
abbrev LaneStep := Nat → LaneEnd × State → LaneEnd × State

/-- Runs an access in some lanes in ascending rank. -/
def overLanes (f : LaneStep) : List Nat → LaneEnd × State → LaneEnd × State
  | [], x => x
  | h :: rest, x => overLanes f rest (f h x)

/-- An instruction that accesses memory in each acting lane. -/
def laneAccess (c : Ctx) (long : Bool) (f : LaneStep) (s : State) : State :=
  if c.act == 0 then complete c s
  else
    let (e, s) := overLanes f c.lanes ({}, s)
    endAccess c e false long s

/-- An instruction that accesses memory once per issue, when some lane acts. -/
def onceAccess (c : Ctx) (long : Bool) (f : LaneStep) (s : State) : State :=
  if c.act == 0 then complete c s
  else
    let (e, s) := f c.lane0 ({}, s)
    let all (m : Mask) : Mask := if m == 0 then 0 else c.act
    endAccess c { e with pages := all e.pages, holds := all e.holds } true long s

end Sys2Proof.Machine
end

