-- ==== Sys2Proof/Machine/Memory.lean ====
section
/-! DEFINITION. Loads, stores, windows, atomics, fences, `pref` and `discard` (18, 19, 20; 08, 10, 11). -/

namespace Sys2Proof.Machine

/-! ## Common parts -/

/-- Bytes of an access of a type. -/
def accessBytes (t : Nat) : Nat := typeWidth t / 8

/-- A loaded value, extended for 8- and 16-bit types (05 R93). -/
def loadedVal (t : Nat) (x : Nat) : Nat := if isInt t then (wrapInt t (readInt t (b64 x))).toNat else x

/-- An acquire (10 R226): at cohort or device scope it drops the core's L1, when its storage scope covers global memory; at
pod or system scope it drops the pod-window lines of L2 as well, whatever its storage scope. -/
def acquire (core agent stor : Nat) (s : State) : State :=
  if 4 ≤ agent then acquirePod core s
  else if 2 ≤ agent && (stor == 0 || stor == 3) then dropL1 core s
  else s

/-- The acquire of an access whose SEM is one (10 R215). -/
def Ctx.acquire (c : Ctx) (s : State) : State :=
  if c.f.e.sem.toNat % 2 == 1 && c.act != 0 then Machine.acquire c.cur.core c.f.e.agent.toNat c.f.e.stor.toNat s else s

/-- The instruction is made once per issue: the base is no vector, and there is no index (19 R454, 20 R505). -/
def Ctx.uniform (c : Ctx) (data : Nat) : Bool := data == 1 && c.f.e.ka.toNat != 0 && c.f.e.kb.toNat == 3

/-- The end of a lane at a misaligned address (13 R544). -/
def misaligned (lane a : Nat) (x : LaneEnd × State) : LaneEnd × State := (x.1.trap lane 0x02 a, x.2)

/-! ## Loads and stores -/

/-- Writes a loaded value to d: of one lane, or once to a scalar. -/
def Ctx.putLoaded (c : Ctx) (lane v : Nat) (s : State) : State :=
  let n := c.row.d.count c.f.e.kd.toNat
  onGang c (fun g => if c.f.e.kd.toNat == 1 then setSregs n c.f.e.d.toNat v g else setVregs lane n c.f.e.d.toNat v g) s

/-- A load of a line must wait for a way of L2 (11 R254): it fills the line there, which L1 does not hold and the instruction
has not read. -/
def loadWaits (c : Ctx) (pa : Nat) (cached : Bool) (e : LaneEnd) (s : State) : Bool :=
  (mapFind (getCore s c.cur.core).l1 (pa / 128)).isNone && !e.read.contains (pa / 128) && c.md % 16 != 1 && fillWaits s pa cached

/-- `ld` in one lane (19 R454, R455). -/
def ldLane (c : Ctx) : LaneStep := fun lane (e, s) =>
  let n := accessBytes c.t
  let a := c.globalAddr lane true
  if a.va % n != 0 then misaligned lane a.va (e, s)
  else match reach c.cur.core c.gang.ctx a {} s with
    | (.ok pa, s) =>
      let cached := pageCached s c.cur.core c.gang.ctx a
      if loadWaits c pa cached e s then (e.wait (laneBit lane) .fence 0 none, s)
      else
        let (bs, s) := loadPhys c.cur.core (c.group s) pa n (c.md % 16) cached (e.read.contains (pa / 128)) s
        ({ e with read := pa / 128 :: e.read }, c.putLoaded lane (loadedVal c.t (bytesToNat bs)) s)
    | (.lost d, s) => (e, c.putLoaded lane (loadedVal c.t (2 ^ (8 * n) - 1)) (notePeer c.cur.core c.cur.slot d s))
    | (r, s) => missed c (laneBit lane) lane a.va 0 false r e s

/-- `ld` (19 R454). -/
def ldOp (c : Ctx) (s : State) : State :=
  if c.f.e.kd.toNat == 1 && !c.uniform 1 then raiseIllegal c s
  else if c.f.e.kd.toNat == 1 then onceAccess c true (ldLane c) (c.acquire s)
  else laneAccess c true (ldLane c) (c.acquire s)

/-- A write of a lane to memory: held, or ordinary (10 R231, R232). -/
def writeLane (c : Ctx) (direct : Bool) (lane va pa : Nat) (cached : Bool) (bs : List Byte) (e : LaneEnd) (s : State) :
    LaneEnd × State :=
  let g := c.group s
  if g.held && !direct then
    match versionRoom s g (pa / 128) with
    | .overflow => (e.trap lane 0x0A va, s)
    | .full => (e.wait (laneBit lane) .version (pa / 128 + 1) none, s)
    | .room => (e, heldWrite c.cur.core c.gang.gslot va pa bs s)
  else if fillWaits s pa cached then (e.wait (laneBit lane) .fence 0 none, s)
  else
    let s := overwrite c.cur.core c.gang.gslot pa bs s
    (e, storePhys c.cur.core pa cached bs (if g.held then bypassVersion c.cur.core c.gang.gslot pa bs s else s))

/-- `st` in one lane (20 R505). -/
def stLane (c : Ctx) : LaneStep := fun lane (e, s) =>
  let n := accessBytes c.t
  let a := c.globalAddr lane true
  if a.va % n != 0 then misaligned lane a.va (e, s)
  else match reach c.cur.core c.gang.ctx a { write := true } s with
    | (.ok pa, s) =>
      writeLane c (c.md == 1) lane a.va pa (pageCached s c.cur.core c.gang.ctx a) (natToBytes n (c.c lane)) e s
    | (.lost d, s) => (e, notePeer c.cur.core c.cur.slot d s)
    | (r, s) => missed c (laneBit lane) lane a.va 0 true r e s

/-- `st` (20 R505, R506). -/
def stOp (c : Ctx) (s : State) : State :=
  if c.md == 1 && (c.group s).shadow then raiseIllegal c s
  else
    let s := if c.md == 1 && c.act != 0 then bindTask c.cur.core c.gang.gslot s else s
    if c.uniform c.f.e.kc.toNat then onceAccess c true (stLane c) s
    else laneAccess c true (stLane c) s

/-- `lds` in one lane (19 R456). -/
def ldsLane (c : Ctx) : LaneStep := fun lane (e, s) =>
  let n := accessBytes c.t
  let off := c.scratchAddr lane true
  match scratchTrap (c.group s) n n lane off with
  | some t => (e.trap lane t.cause t.tinfo, s)
  | none => (e, c.putLoaded lane (loadedVal c.t (scratchRead s c.cur.core (c.group s) off n)) s)

/-- `lds` (19 R456). -/
def ldsOp (c : Ctx) (s : State) : State :=
  if c.f.e.kd.toNat == 1 && !c.uniform 1 then raiseIllegal c s
  else if c.f.e.kd.toNat == 1 then onceAccess c false (ldsLane c) (c.acquire s)
  else laneAccess c false (ldsLane c) (c.acquire s)

/-- The copy requests of a group that are queued or accepted (09 R201, R202). -/
def heldRequests (s : State) (core gslot : Nat) : List (BitVec 512) :=
  let c := getCore s core
  let g := (getGroup s core gslot).getD { ctx := 0 }
  (c.copyq.filter (fun q => q.gslot == gslot)).flatMap (fun q =>
    if q.count == 0 then [q.request]
    else (List.range (q.count - q.index)).map (fun k =>
      BitVec.ofNat 512 (scratchRead s core g (q.listAt + 64 * (q.index + k)) 64))) ++
  (c.copyrun.filter (fun r => r.gslot == gslot)).map (fun r => r.request)

/-- The phase barriers of a group with an operation pending: a copy that will credit it, or a wait at it (09 R206). -/
def pendingPhases (s : State) (core gslot : Nat) : List Nat :=
  let g := (getGroup s core gslot).getD { ctx := 0 }
  let waits := (getCore s core).gangs.flatMap (fun e => if e.2.gslot != gslot then [] else e.2.splits.filterMap (fun sp =>
    sp.wait.bind (fun w => if w.kind == .phase then some w.obj else none)))
  (((heldRequests s core gslot).filter (fun r => field r 243 243 == 1)).map (fun r => field r 242 224) ++ waits).filter
    (fun o => o % 16 == 0 && o + 16 ≤ g.ssize)

/-- A plain store of `n` bytes at an offset leaves each phase barrier it meets, of those with operations pending, with a
free value (09 R206). -/
def spoilPhases (core : Nat) (g : Group) (off n : Nat) : List Nat → State → State
  | [], s => s
  | o :: rest, s =>
    spoilPhases core g off n rest (if o < off + n && off < o + 16 then
      { scratchWrite core g o (natToBytes 8 (Config.freeWord s.free).toNat ++
          natToBytes 8 (Config.freeWord (s.free + 1)).toNat) s with free := s.free + 2 }
    else s)

/-- `sts` in one lane (20 R507), `os` the phase barriers with operations pending. -/
def stsLane (c : Ctx) (os : List Nat) : LaneStep := fun lane (e, s) =>
  let n := accessBytes c.t
  let off := c.scratchAddr lane true
  match scratchTrap (c.group s) n n lane off with
  | some t => (e.trap lane t.cause t.tinfo, s)
  | none =>
    (e, spoilPhases c.cur.core (c.group s) off n os (scratchWrite c.cur.core (c.group s) off (natToBytes n (c.c lane)) s))

/-- `sts` (20 R507). -/
def stsOp (c : Ctx) (s : State) : State :=
  let os := pendingPhases s c.cur.core c.gang.gslot
  if c.uniform c.f.e.kc.toNat then onceAccess c false (stsLane c os) s else laneAccess c false (stsLane c os) s

/-! ## `win` -/

/-- The tier code of a window (08 R195). -/
def tierCode (t : Tier) : Nat :=
  match t with
  | .lpddr | .expander _ => 1
  | .host => 2
  | .pod _ => 3
  | _ => 0

/-- The window of a leaf (08 R196). -/
def windowOf (vbase bytes : Nat) (e : TlbEntry) : BitVec 192 :=
  let pa := e.phys vbase
  let t := tierOf pa
  let near := match t with | .near _ => 1 | _ => 0
  let limit := min bytes (e.va + 2 ^ e.size - vbase)
  BitVec.ofNat 192 (2 ^ 191 + (if e.writable then 2 ^ 190 else 0) + (if t == .mx then 2 ^ 189 else 0) + near * 2 ^ 188 +
    tierCode t * 2 ^ 186 + limit * 2 ^ 128 + pa * 2 ^ 64 + vbase)

/-- `win`, once per issue (08 R196, 20 R517). -/
def winOp (c : Ctx) (s : State) : State :=
  let n := match namedReg c.f.e.d.toNat with
    | some (_, k) => k
    | none => 0
  let setW (f : BitVec 192 → BitVec 192) (g : Gang) : Gang := { g with w := mapPut 0 g.w n (f (wreg g n)) }
  if c.act == 0 then complete c s
  else if c.b c.lane0 == 0 then completeWith c (setW (fun w => setField w 191 191 0)) s
  else
    let va := c.a c.lane0 % 2 ^ 52
    match translate c.cur.core c.gang.ctx va s with
    | (.leaf e, s) =>
      let bit := 1#8 <<< n
      completeWith c (fun g => { setW (fun _ => windowOf va (c.b c.lane0) e) g with
        wCached := (g.wCached &&& ~~~bit) ||| (if e.cacheable then bit else 0) }) s
    | (.fault k, s) => raiseOnce c 0x04 (faultInfo k va) s
    | (.invalid, s) =>
      let (e, s) := missed c c.act c.lane0 va 5 false .invalid {} s
      endAccess c e true false s
    | (.migrating, s) =>
      let (e, s) := missed c c.act c.lane0 va 5 false .migrating {} s
      endAccess c e true false s

/-! ## Atomics -/

/-- The value an atomic stores (18 R382). -/
def atomVal (mn t : Nat) (x b c : Nat) : Nat :=
  let X := b64 x
  let C := b64 c
  let n := typeWidth t
  match mn with
  | 0 => if t == 10 then (faddVal 10 0 X C).toNat else (x + c) % 2 ^ n
  | 1 => lowBits n (iminVal t X C)
  | 2 => lowBits n (imaxVal t X C)
  | 3 => lowBits n (X &&& C)
  | 4 => lowBits n (X ||| C)
  | 5 => lowBits n (X ^^^ C)
  | 6 => c % 2 ^ n
  | _ => if x == b % 2 ^ n then c % 2 ^ n else x

/-- The access of an atomic (18 R383, R385, 05 R118, 10 R227): none on an MX-backed region, and on host memory those that
PCIe has. -/
def atomAccess (pcie : Bool) : AccessKind :=
  { write := true, noMx := true, unsupported := fun t => t == .host && !pcie }

/-- An atomic on `n` bytes at one address: the function of the old value gives the new one, and what d takes. -/
def atomicAt (c : Ctx) (n align : Nat) (pcie indexed : Bool) (f : Nat → Nat → Nat) (put : Nat → Nat → State → State) :
    LaneStep := fun lane (e, s) =>
  let g := c.group s
  if c.f.e.ka.toNat == 0 then
    let off := c.scratchAddr lane indexed
    match scratchTrap g align n lane off with
    | some t => (e.trap lane t.cause t.tinfo, s)
    | none =>
      let x := scratchRead s c.cur.core g off n
      (e, put lane x (scratchWrite c.cur.core g off (natToBytes n (f lane x)) s))
  else
    let a := c.globalAddr lane indexed
    if a.va % align != 0 then misaligned lane a.va (e, s)
    else match reach c.cur.core c.gang.ctx a (atomAccess pcie) s with
      | (.ok pa, s) =>
        let cached := pageCached s c.cur.core c.gang.ctx a
        let x := bytesToNat (physRead s none pa n)
        let bs := natToBytes n (f lane x)
        if fillWaits s pa cached then (e.wait (laneBit lane) .fence 0 none, s)
        else (e, put lane x (bypassVersion c.cur.core c.gang.gslot pa bs (enginePhys c.cur.core pa cached bs
          (overwrite c.cur.core c.gang.gslot pa bs s))))
      | (.lost d, s) => (e, put lane (2 ^ (8 * n) - 1) (notePeer c.cur.core c.cur.slot d s))
      | (r, s) => missed c (laneBit lane) lane a.va 0 true r e s

/-- Every atomic: illegal in a shadow group (10 R232), it binds a held task, and orders by its fields. -/
def atomicOp (c : Ctx) (f : LaneStep) (s : State) : State :=
  if (c.group s).shadow then raiseIllegal c s
  else
    let s := if c.act == 0 then s else bindTask c.cur.core c.gang.gslot s
    laneAccess c true f (c.acquire s)

/-- `atom` (18 R381 to R383). -/
def atomOp (c : Ctx) : State → State :=
  let n := accessBytes c.t
  let pcie := (c.mn == 0 && c.t != 10) || c.mn == 6 || c.mn == 7
  atomicOp c (atomicAt c n n pcie (c.mn != 7)
    (fun lane x => atomVal c.mn c.t x (if c.mn == 7 then c.b lane else 0) (c.c lane)) (fun lane x => c.putLoaded lane x))

/-- The words of `atomw`: old and operand combined (18 R384). -/
def atomwVal (mn : Nat) (x y : Nat) : Nat :=
  match mn with
  | 0 => x ||| y
  | 1 => x &&& y
  | 2 => x ^^^ y
  | _ => y

/-- `atomw` (18 R384, R385). -/
def atomwOp (c : Ctx) : State → State :=
  atomicOp c (atomicAt c 32 32 false true (fun lane x => atomwVal c.mn x (c.c lane))
    (fun lane x => onGang c (setVregs lane 8 c.f.e.d.toNat x)))

/-- The bytes of an element of an RP8 unit: plane j at 64 j + e (05 R119). -/
def rp8Bytes (unit e : Nat) : List Nat := (List.range 8).map (fun j => unit + 64 * j + e)

/-- The element's residues after `ratom` (20 R494). -/
def ratomVal (x r : List Nat) : List Nat :=
  let at_ (l : List Nat) (j : Nat) := l.getD j 0
  let bad := (List.range 8).any (fun j => !residueValid j (at_ r j) || !residueValid j (at_ x j))
  (List.range 8).map (fun j => if bad then 0xFF else (at_ x j + at_ r j) % modulus j)

/-- `ratom` in one lane (20 R494, R495). -/
def ratomLane (c : Ctx) : LaneStep := fun lane (e, s) =>
  let g := c.group s
  let r := (workingOf (b64 (c.c lane)))
  if c.f.e.ka.toNat == 0 then
    let off := c.scratchAddr lane true
    if 64 ≤ off % 512 then misaligned lane off (e, s)
    else match scratchTrap g 1 512 lane (off / 512 * 512) with
      | some t => (e.trap lane t.cause (off % 2 ^ 19), s)
      | none =>
        let places := rp8Bytes (off / 512 * 512) (off % 512)
        let x := places.map (fun p => scratchRead s c.cur.core g p 1)
        (e, (places.zip (ratomVal x r)).foldl (fun s p => scratchWrite c.cur.core g p.1 [BitVec.ofNat 8 p.2] s) s)
  else
    let a := c.globalAddr lane true
    if 64 ≤ a.va % 512 then misaligned lane a.va (e, s)
    else match reach c.cur.core c.gang.ctx a (atomAccess false) s with
      | (.ok pa, s) =>
        let cached := pageCached s c.cur.core c.gang.ctx a
        let places := rp8Bytes (pa / 512 * 512) (pa % 512)
        let x := places.map (fun p => bytesToNat (physRead s none p 1))
        if places.any (fun p => fillWaits s p cached) then (e.wait (laneBit lane) .fence 0 none, s)
        else (e, (places.zip (ratomVal x r)).foldl (fun s p =>
          let bs := [BitVec.ofNat 8 p.2]
          bypassVersion c.cur.core c.gang.gslot p.1 bs (enginePhys c.cur.core p.1 cached bs
            (overwrite c.cur.core c.gang.gslot p.1 bs s))) s)
      | (.lost d, s) => (e, notePeer c.cur.core c.cur.slot d s)
      | (r, s) => missed c (laneBit lane) lane a.va 0 true r e s

/-- `ratom` (20 R494, R495). -/
def ratomOp (c : Ctx) : State → State := atomicOp c (ratomLane c)

/-! ## `fence`, `pref`, `discard` -/

/-- An in-layer operation belongs to the gang in a slot. -/
def NearOp.ofGang (o : NearOp) (slot : Nat) (g : Gang) : Bool :=
  o.slot == slot && g.ops.any (fun x => x.kind == .engine o.id)

/-- An in-layer operation that a gang issued before the operation of a number is in flight (10 R229). -/
def nearBefore (s : State) (core slot : Nat) (g : Gang) (id : Nat) : Bool :=
  (getCore s core).near.any (fun o => o.ofGang slot g && o.id < id)

/-- The number of the core's next operation when the issuing fence began: it waits for those before. -/
def Ctx.fenceFrom (c : Ctx) (s : State) : Nat :=
  match c.sp.wait with
  | some w => if w.kind == .fence then w.obj else (getCore s c.cur.core).opSeq
  | none => (getCore s c.cur.core).opSeq

/-- In-layer operations that the issuing gang issued before its fence are in flight; those that sibling splits issue after
it do not delay it (10 R229, 18 R414). -/
def nearBusy (c : Ctx) (s : State) : Bool := nearBefore s c.cur.core c.cur.slot c.gang (c.fenceFrom s)

/-- Drops the L1 lines of near windows (10 R229). -/
def dropNearLines (core : Nat) (s : State) : State :=
  modCore s core (fun c => { c with l1 := c.l1.filter (fun e => match tierOf (e.1 * 128) with
    | .near _ => false
    | _ => true) })

/-- A fence of given fields (10 R223, R226, R229): with in-layer scope it waits for the gang's in-layer operations. -/
def fenceWith (c : Ctx) (sem agent stor : Nat) (s : State) : State :=
  let layer := stor == 2 || stor == 3
  if c.act == 0 then complete c s
  else if layer && nearBusy c s then waitAt c .fence (c.fenceFrom s) false s
  else
    let s := if layer then dropNearLines c.cur.core s else s
    complete c (if sem == 2 then s else acquire c.cur.core agent stor s)

/-- `fence` (18 R414). -/
def fenceOp (c : Ctx) : State → State := fenceWith c c.f.e.sem.toNat c.f.e.agent.toNat c.f.e.stor.toNat

/-- `nfence`: the effect of `fence.ar.device.nr` (19 R474). -/
def nfenceOp (c : Ctx) : State → State := fenceWith c 3 3 2

/-- The leaf of an address that the TLBs hold, without a walk. -/
def tlbOnly (s : State) (core ctx va : Nat) : Option TlbEntry :=
  match (getCore s core).tlb.find? (fun e => e.covers ctx va) with
  | some e => some e
  | none => (mapGet [] s.tlb2 (core / 4)).find? (fun e => e.covers ctx va)

/-- `pref` in one lane (20 R491): fills where the line is cached, and nothing else. -/
def prefLane (c : Ctx) (s : State) (lane : Nat) : State :=
  let a := c.globalAddr lane true
  let target := match a.direct with
    | some (pa, _) => some (pa, a.cached)
    | none => (tlbOnly s c.cur.core c.gang.ctx a.va).map (fun (e : TlbEntry) => (e.phys a.va, e.cacheable))
  match target with
  | none => s
  | some (p, cacheable) =>
    let pa := localPa s p
    if !present s p || !present s pa || quarantined s pa || tierOf pa == Tier.mx || viralBlocks s pa then s
    else
      let line := pa / 128
      let s := if cachedL2 s pa cacheable && (mapFind s.l2 line).isNone then fillL2 line 0 s else s
      if cachedL1 s c.cur.core pa && !countedL2 s pa && (mapFind (getCore s c.cur.core).l1 line).isNone then
        modCore s c.cur.core (fun k => fillL1 s.clock c.cur.core k line (BitVec.ofNat 1024 (peek s (line * 128) 128)))
      else s

/-- `pref` (20 R491). -/
def prefOp (c : Ctx) (s : State) : State := complete c (c.lanes.foldl (prefLane c) s)

/-- Zeros the lines of a range that the free choice of 18 R406 zeros. -/
def discardLines (core gslot use pa : Nat) : Nat → State → State
  | 0, s => s
  | k + 1, s =>
    let line := pa / 128 + k
    let zeros := List.replicate 128 0
    let s := if Config.discardZero use line then physWrite (line * 128) zeros (overwrite core gslot (line * 128) zeros s) else s
    discardLines core gslot use pa k s

/-- A global address that has been translated lies in a pod window, this device's own among them (08 R172, 18 R407). -/
def podPage (s : State) (core ctx : Nat) (a : GAddr) : Bool :=
  let pod (pa : Nat) : Bool := match tierOf pa with
    | .pod _ => true
    | _ => false
  match a.direct with
  | some (pa, _) => pod pa
  | none => (((getCore s core).tlb.find? (fun e => e.covers ctx a.va)).map (fun e => pod (e.phys a.va))).getD false

/-- `discard` (18 R406, R407): the copies of the range in L1 and L2 are dropped, also where its bytes stay. -/
def discardStep (c : Ctx) (len : Nat) : LaneStep := fun lane (e, s) =>
  let a := c.globalAddr lane false
  let mx (t : Tier) : Bool := t == .mx
  if a.va % 128 != 0 then misaligned lane a.va (e, s)
  else match reach c.cur.core c.gang.ctx a { write := true, unsupported := mx } s with
    | (.ok pa, s) =>
      let page := 2 ^ leafLog2 (tierOf pa)
      if page < pa % page + len then (e.trap lane 0x04 (faultInfo 0x3 a.va), s)
      else
        let keeps := tierOf pa == .host || podPage s c.cur.core c.gang.ctx a || (c.group s).held
        let s := coreIds s |>.foldl (fun s n => dropLines n pa len s) s
        let s := { s with l2 := s.l2.filter (fun x => !(pa / 128 ≤ x.1 && x.1 < (pa + len) / 128)) }
        (e, if keeps then s else discardLines c.cur.core c.gang.gslot s.free pa (len / 128) { s with free := s.free + 1 })
    | (.lost d, s) => (e, notePeer c.cur.core c.cur.slot d s)
    | (r, s) => missed c c.act lane a.va 0 true r e s

/-- `discard`, once per issue; its length is checked first (18 R407, 13 R544). -/
def discardOp (c : Ctx) (s : State) : State :=
  let len := c.c c.lane0
  if c.act != 0 && (len % 128 != 0 || len == 0 || 2 ^ 21 < len) then raiseIllegal c s
  else onceAccess c true (discardStep c len) s

/-- `ld` (19 R454, R455). -/
def execLd (f : Form) (s : State) : Host.Outcome State Fault Refusal :=
  issueForm 0x5D f ldOp s

/-- `st` (20 R505, R506). -/
def execSt (f : Form) (s : State) : Host.Outcome State Fault Refusal :=
  issueForm 0x5E f stOp s

/-- `lds` (19 R456). -/
def execLds (f : Form) (s : State) : Host.Outcome State Fault Refusal :=
  issueForm 0x5F f ldsOp s

/-- `sts` (20 R507). -/
def execSts (f : Form) (s : State) : Host.Outcome State Fault Refusal :=
  issueForm 0x60 f stsOp s

/-- `win` (20 R517). -/
def execWin (f : Form) (s : State) : Host.Outcome State Fault Refusal :=
  issueForm 0x61 f winOp s

/-- `atom` (18 R381 to R383). -/
def execAtom (f : Form) (s : State) : Host.Outcome State Fault Refusal :=
  issueForm 0x62 f atomOp s

/-- `atomw` (18 R384, R385). -/
def execAtomw (f : Form) (s : State) : Host.Outcome State Fault Refusal :=
  issueForm 0x63 f atomwOp s

/-- `ratom` (20 R494, R495). -/
def execRatom (f : Form) (s : State) : Host.Outcome State Fault Refusal :=
  issueForm 0x64 f ratomOp s

/-- `fence` (18 R414). -/
def execFence (f : Form) (s : State) : Host.Outcome State Fault Refusal :=
  issueForm 0x65 f fenceOp s

/-- `pref` (20 R491). -/
def execPref (f : Form) (s : State) : Host.Outcome State Fault Refusal :=
  issueForm 0x66 f prefOp s

/-- `discard` (18 R406, R407). -/
def execDiscard (f : Form) (s : State) : Host.Outcome State Fault Refusal :=
  issueForm 0x67 f discardOp s

end Sys2Proof.Machine
end

