-- ==== Sys2Proof/Machine/Near.lean ====
section
/-! DEFINITION. In-layer operations (08 R188 to R190, 19 R471 to R477). -/

namespace Sys2Proof.Machine

/-- The sinter layer of a near window's address (01 R14, 08 R173). -/
def nearLayer (pa : Nat) : Option Nat :=
  match tierOf pa with
  | .near k => some (k % 2)
  | _ => none

/-- Lifts the quarantine of a granule (14 R312, R313); those of a lost layer are not counted. -/
def liftQuarantine (gran : Nat) (s : State) : State :=
  let s := { s with quarantine := mapErase s.quarantine gran }
  setRegField s offQuarStat 12 0 (s.quarantine.filter (fun e => !e.2)).length

/-- One range of an in-layer operation: its virtual address, and whether it is written. -/
structure NearRange where
  va : Nat
  write : Bool
deriving DecidableEq, Repr

/-- Whether a range at a physical address may not be used, as an access-fault cause (08 R189, 19 R473, R477). -/
def nearCause (s : State) (pa len : Nat) (writable : Bool) (r : NearRange) (zeroes : Bool) : Option Nat :=
  let whole := zeroes && pa % 2 ^ 21 == 0 && len == 2 ^ 21
  if r.write && !writable then some 0x1
  else if (nearLayer pa).isNone || mxBacking s pa then some 0x3
  else if !present s pa then some 0x2
  else if quarantined s pa && !whole then some 0x5
  else none

/-- The physical addresses of an operation's ranges, or what stops it at issue (08 R189). -/
def nearReach (c : Ctx) (len : Nat) (zeroes : Bool) : List NearRange → List Nat → State → (List Nat ⊕ Reach × Nat) × State
  | [], pas, s => (.inl pas.reverse, s)
  | r :: rest, pas, s =>
    match translate c.cur.core c.gang.ctx r.va s with
    | (.leaf e, s) =>
      let pa := localPa s (e.phys r.va)
      match nearCause s pa len e.writable r zeroes with
      | some k => (.inr (.trap 0x04 (faultInfo k r.va), r.va), s)
      | none => nearReach c len zeroes rest (pa :: pas) s
    | (.fault k, s) => (.inr (.trap 0x04 (faultInfo k r.va), r.va), s)
    | (.invalid, s) => (.inr (.invalid, r.va), s)
    | (.migrating, s) => (.inr (.migrating, r.va), s)

/-- Queues an in-layer operation at its physical addresses (08 R190); it binds a held task unless it writes no memory. -/
def nearStart (c : Ctx) (kind len dreg : Nat) (pas : List Nat) (s : State) : State :=
  let core := c.cur.core
  let id := (getCore s core).opSeq
  let op : NearOp := { kind := kind, dst := pas.headD 0, src := pas.getD 1 0, len := len, dreg := dreg,
                       layer := (nearLayer (pas.headD 0)).getD 0, slot := c.cur.slot, gslot := c.gang.gslot, ctx := c.gang.ctx, id := id,
                       arrived := s.clock }
  let s := modCore s core (fun k => { k with near := k.near ++ [op], opSeq := id + 1 })
  let s := if kind == 2 then s else bindTask core c.gang.gslot s
  completeWith c (startOp c (.engine id)) s

/-- An in-layer operation at issue (08 R189, R190, 19 R471): kind 0 `nzero`, 1 `ncopy`, 2 `ncmp`. -/
def nearIssue (c : Ctx) (kind dreg : Nat) (ranges : List NearRange) (len : Nat) (s : State) : State :=
  let layers (pas : List Nat) : Bool := pas.all (fun pa => nearLayer pa == nearLayer (pas.headD 0))
  let first := ((ranges.head?).map (fun r => r.va)).getD 0
  let unsupported (va : Nat) (s : State) : State := raiseOnce c 0x04 (faultInfo 0x3 va) s
  if kind != 2 && (c.group s).shadow then raiseIllegal c s
  else if c.act == 0 then complete c s
  else match ranges.find? (fun r => r.va % 64 != 0) with
    | some r => raiseOnce c 0x02 r.va s
    | none =>
      if len % 64 != 0 then raiseOnce c 0x02 first s
      else if len == 0 || 2 ^ 21 < len then unsupported first s
      else match ranges.find? (fun r => 2 ^ 21 < r.va % 2 ^ 21 + len) with
        | some r => unsupported r.va s
        | none => match nearReach c len (kind == 0) ranges [] s with
          | (.inl pas, s) =>
            if !layers pas then unsupported first s
            else if 4 ≤ (getCore s c.cur.core).near.length then s
            else nearStart c kind len dreg pas s
          | (.inr (r, va), s) =>
            let writes := ((ranges.find? (fun x => x.va == va)).map (·.write)).getD false
            let (e, s) := missed c c.act c.lane0 va 4 writes r {} s
            endAccess c e true true s

/-- A 52-bit address of a scalar pair. -/
def va52 (x : Nat) : Nat := x % 2 ^ 52

/-- `nzero` (19 R477). -/
def nzeroOp (c : Ctx) : State → State := nearIssue c 0 0 [{ va := va52 (c.a c.lane0), write := true }] (c.c c.lane0)

/-- `ncopy` (19 R473). -/
def ncopyOp (c : Ctx) : State → State :=
  nearIssue c 1 0 [{ va := va52 (c.d c.lane0), write := true }, { va := va52 (c.a c.lane0), write := false }] (c.c c.lane0)

/-- `ncmp` (19 R472). -/
def ncmpOp (c : Ctx) : State → State :=
  nearIssue c 2 c.f.e.d.toNat
    [{ va := va52 (c.a c.lane0), write := false }, { va := va52 (c.b c.lane0), write := false }] (c.c c.lane0)

/-! ## Completion -/

/-- Offset of the first byte at which two ranges differ, or 0xFFFF_FFFF (08 R188). -/
def firstDiff : Nat → List Byte → List Byte → Nat
  | n, x :: xs, y :: ys => if x == y then firstDiff (n + 1) xs ys else n
  | _, _, _ => 0xFFFFFFFF

/-- The operation of an engine is over in its gang (03 R69). -/
def endOp (core slot id : Nat) (s : State) : State :=
  modGang s core slot (fun g => { g with ops := g.ops.filter (fun o => o.kind != .engine id) })

/-- The oldest in-layer operation of a core is performed (08 R188, R190). -/
def performNear (core : Nat) (s : State) : State :=
  match (getCore s core).near with
  | [] => s
  | o :: rest =>
    let s := modCore s core (fun c => { c with near := rest })
    let mine := ((getGang s core o.slot).map (fun g => g.ops.any (fun x => x.kind == .engine o.id))).getD false
    let write (bs : List Byte) (s : State) : State := bypassVersion core o.gslot o.dst bs
      (physWrite o.dst bs (overwrite core o.gslot o.dst bs s))
    let s := match o.kind with
      | 0 =>
        let s := write (List.replicate o.len 0) s
        if o.dst % 2 ^ 21 == 0 && o.len == 2 ^ 21 then liftQuarantine (o.dst / 2 ^ 21) s else s
      | 1 => write (memReadBytes s.mem o.src o.len) s
      | _ =>
        let v := firstDiff 0 (memReadBytes s.mem o.dst o.len) (memReadBytes s.mem o.src o.len)
        if mine then modGang s core o.slot (fun g => setSreg g o.dreg (BitVec.ofNat 32 v)) else s
    endOp core o.slot o.id s

/-- `nzero` (19 R477). -/
def execNzero (f : Form) (s : State) : Host.Outcome State Fault Refusal :=
  issueForm 0x68 f nzeroOp s

/-- `ncopy` (19 R473). -/
def execNcopy (f : Form) (s : State) : Host.Outcome State Fault Refusal :=
  issueForm 0x69 f ncopyOp s

/-- `ncmp` (19 R472). -/
def execNcmp (f : Form) (s : State) : Host.Outcome State Fault Refusal :=
  issueForm 0x6A f ncmpOp s

/-- `nfence` (19 R474). -/
def execNfence (f : Form) (s : State) : Host.Outcome State Fault Refusal :=
  issueForm 0x6B f nfenceOp s

end Sys2Proof.Machine
end

