-- ==== Sys2Proof/Machine/Engine.lean ====
section
/-! DEFINITION. What the copy, matrix and spill engines share: accesses to virtual addresses (07 R161, 09 R204), their
operations and their faults (07 R162). -/

namespace Sys2Proof.Machine

/-- Bytes from an address to the end of its leaf page. -/
def pageRest (pa : Nat) : Nat := 2 ^ leafLog2 (tierOf pa) - pa % 2 ^ leafLog2 (tierOf pa)

/-- What an engine's read gives: bytes, or what it meets and where. -/
abbrev EngineRead := List Byte ⊕ Reach × Nat

/-- An engine reads `n` bytes at a virtual address, page by page, in at most `fuel` pieces; it sees the version of the
group it works for (08 R182). -/
def engineRead (core ctx : Nat) (g : Option Group) (k : AccessKind) : Nat → Nat → Nat → State → EngineRead × State
  | 0, _, _, s => (.inl [], s)
  | fuel + 1, va, n, s =>
    if n == 0 then (.inl [], s)
    else match reachVirt core ctx va k s with
      | (.ok pa, s) =>
        let m := min n (pageRest pa)
        match engineRead core ctx g k fuel ((va + m) % 2 ^ 52) (n - m) s with
        | (.inl bs, s) => (.inl (physRead s g pa m ++ bs), s)
        | r => r
      | (r, s) => (.inr (r, va), s)

/-- Pieces of a range of virtual addresses: address, physical address and length. -/
abbrev EngineSpan := List (Nat × Nat × Nat) ⊕ Reach × Nat

/-- The physical places of a range that an engine will write. -/
def engineSpan (core ctx : Nat) (k : AccessKind) : Nat → Nat → Nat → State → EngineSpan × State
  | 0, _, _, s => (.inl [], s)
  | fuel + 1, va, n, s =>
    if n == 0 then (.inl [], s)
    else match reachVirt core ctx va k s with
      | (.ok pa, s) =>
        let m := min n (pageRest pa)
        match engineSpan core ctx k fuel ((va + m) % 2 ^ 52) (n - m) s with
        | (.inl l, s) => (.inl ((va, pa, m) :: l), s)
        | r => r
      | (r, s) => (.inr (r, va), s)

/-- A split of a context on a core has not stopped. -/
def splitsRun (s : State) (core ctx : Nat) : Bool :=
  (getCore s core).gangs.any (fun e => e.2.ctx == ctx && e.2.splits.any (fun sp => sp.stop.isNone))

/-- An engine begins and goes on with no work of a context that is to be pre-empted (07 R163, 09 R205), but while its full
queue may hold back a split of the context that has yet to reach a clause boundary (13 R291). -/
def heldForSave (s : State) (core ctx queued : Nat) : Bool :=
  (mapFind s.preempts ctx).isSome && !(32 ≤ queued && splitsRun s core ctx)

/-- A read of an engine counts at L2 (08 R181): the line of a virtual address that it has translated. -/
def engineCount (core ctx va : Nat) (s : State) : State :=
  match (getCore s core).tlb.find? (fun e => e.covers ctx va) with
  | some e =>
    let pa := localPa s (e.phys va)
    if cachedL2 s pa e.cacheable then readL2 pa 0 s else s
  | none => s

/-- A write of an engine for a group: held in its version, or to memory (10 R231, R232); either way the line leaves the
core's L1 (08 R178). -/
def engineStore (core gslot va pa : Nat) (direct : Bool) (bs : List Byte) (s : State) : State :=
  match getGroup s core gslot with
  | none => enginePhys core pa false bs s
  | some g =>
    let cached := pageCached s core g.ctx { va := va }
    if g.held && !direct then dropLines core pa bs.length (heldWrite core gslot va pa bs s)
    else
      let s := overwrite core gslot pa bs s
      enginePhys core pa cached bs (if g.held then bypassVersion core gslot pa bs s else s)

/-- The room in the version of a group for a range (08 R182): the worst of its lines. -/
def rangeRoom (s : State) (g : Group) (pa n : Nat) : VersionRoom :=
  let rooms := (List.range (ceilDiv (pa % 128 + n) 128)).map (fun k => versionRoom s g (pa / 128 + k))
  if rooms.contains .overflow then .overflow else if rooms.contains .full then .full else .room

/-- The gang in a slot has placed an engine's operation: the slot has not been given to another since (02 R53). -/
def ownsOp (s : State) (core slot id : Nat) : Bool :=
  ((getGang s core slot).map (fun g => g.ops.any (fun o => o.kind == .engine id))).getD false

/-- A fault of an engine's work for a gang waits for a clause boundary (07 R162); a gang with no live lane, or one that has
retired, loses its context, or its task. -/
def engineFault (core slot gslot ctx id tinfo : Nat) (s : State) : State :=
  if ownsOp s core slot id && ((getGang s core slot).map (fun g => !g.splits.isEmpty)).getD false then
    modCore s core (fun c => { c with faults := c.faults ++ [{ slot := slot, tinfo := b64 tinfo }] })
  else hardwareRule core gslot ctx 0x08 (((getGroup s core gslot).map (·.held)).getD false) s

/-- `peer.status` of the gang that placed an engine's operation records the peer lost (13 R288). -/
def noteOpPeer (core slot id d : Nat) (s : State) : State := if ownsOp s core slot id then notePeer core slot d s else s

/-- `tinfo` of an engine fault (07 R162, 09 R204): kind, reason, and for an access fault its cause and address. -/
def engineInfo (kind reason : Nat) : Nat := kind * 16 + reason

/-- `tinfo` of an engine's access fault, from the `tinfo` of 11 R245. -/
def engineAccessInfo (kind reason access : Nat) : Nat :=
  kind * 16 + reason + access % 16 * 256 + access / 2 ^ 24 * 2 ^ 24

end Sys2Proof.Machine
end

