-- ==== Sys2Proof/Machine/Fetch.lean ====
section
/-! DEFINITION. Fetching a clause header and the instruction of a split (16 R335 to R340, R353), and where a word of the
opcode table is placed to be fetched. -/

namespace Sys2Proof.Machine

/-- A cursor names a split of a gang that is present (02 R46). -/
def liveCursor (s : State) (c : Cursor) : Bool :=
  match getGang s c.core c.slot with
  | some g => g.residency == .present && (splitOf g c.lane).isSome
  | none => false

/-- The slot being issued without the cursors whose gang or split is gone. -/
def prune (s : State) : State := { s with issueQ := s.issueQ.filter (liveCursor s) }

/-- The kind of access of a fetch (11 R244). -/
def fetchKind : AccessKind := { fetch := true }

/-- An address some words on, modulo 2^52. -/
def codeAfter (pc : BitVec 52) (words : Nat) : BitVec 52 := pc + BitVec.ofNat 52 (4 * words)

/-- What stood, for a gang, where grids of its context have written while it could not yet see their writes (16 R353): the
unfinished grids, and those that have finished since its group was placed. -/
def oldCode (s : State) (core slot ctx : Nat) : List (SMap Byte) :=
  (((getGang s core slot).bind (fun g => getGroup s core g.gslot)).map (·.oldCode)).getD [] ++
    (s.overwritten.filter (fun o => o.ctx == ctx)).map (·.old)

/-- A word of code at a physical address as a fetch gives it: as it stands, or with what stood there before the writes of
one grid; which is free (16 R353, log 26). -/
def pickWord (clock : Nat) (old : List (SMap Byte)) (pa : Nat) (cur : List Byte) : List Byte :=
  match old.filter (fun m => (List.range 4).any (fun k => (mapFind m (pa + k)).isSome)) with
  | [] => cur
  | l => match l[Config.fetchPick clock pa % (l.length + 1)]? with
    | some m => (List.range 4).map (fun k => (mapFind m (pa + k)).getD (cur.getD k 0))
    | none => cur

/-- The bytes of words of code at physical addresses. -/
def pickWords (clock : Nat) (old : List (SMap Byte)) : List Nat → List Byte → List Byte
  | [], bs => bs
  | pa :: rest, bs => pickWord clock old pa (bs.take 4) ++ pickWords clock old rest (bs.drop 4)

/-- The physical addresses of words of code that has been read. -/
def wordPlaces (core ctx : Nat) (pc : BitVec 52) (n : Nat) (s : State) : List Nat :=
  match (engineSpan core ctx fetchKind (n + 1) pc.toNat (4 * n) s).1 with
  | .inl l => l.flatMap (fun p => (List.range (p.2.2 / 4)).map (fun k => p.2.1 + 4 * k))
  | .inr _ => []

/-- Reads words of code, for a gang that may see old ones. -/
def fetchWords (core ctx : Nat) (old : List (SMap Byte)) (pc : BitVec 52) (n : Nat) (s : State) :
    (List Word ⊕ Reach × Nat) × State :=
  match engineRead core ctx none fetchKind (n + 1) pc.toNat (4 * n) s with
  | (.inl bs, s) => (.inl (wordsOfBytes (if old.isEmpty then bs else pickWords s.clock old (wordPlaces core ctx pc n s) bs)), s)
  | (.inr e, s) => (.inr e, s)

/-- Words of an instruction by the length code of its first word (16 R339). -/
def lengthOf (w : Word) : Nat := [1, 3, 3, 5].getD (w.toNat % 4) 1

/-- Reads the words of `k` instructions, the first of them `n` words on from `pc`. -/
def readInstrs (core ctx : Nat) (old : List (SMap Byte)) (pc : BitVec 52) : Nat → Nat → State → (List Word ⊕ Reach × Nat) × State
  | 0, _, s => (.inl [], s)
  | k + 1, n, s => match fetchWords core ctx old (codeAfter pc n) 1 s with
    | (.inr e, s) => (.inr e, s)
    | (.inl ws, s) =>
      let m := lengthOf (ws.headD 0)
      match fetchWords core ctx old (codeAfter pc n) m s with
      | (.inr e, s) => (.inr e, s)
      | (.inl ws, s) => match readInstrs core ctx old pc k (n + m) s with
        | (.inl rest, s) => (.inl (ws ++ rest), s)
        | r => r

/-- Reads the clause of a split: its header and, when that is a header, its instructions, as far as the next one of the
split at least (log 57). -/
def readClause (core ctx : Nat) (old : List (SMap Byte)) (sp : Split) (s : State) : (List Word ⊕ Reach × Nat) × State :=
  match fetchWords core ctx old sp.pc 1 s with
  | (.inr e, s) => (.inr e, s)
  | (.inl ws, s) =>
    match decodeHeader (ws.headD 0) with
    | none => (.inl ws, s)
    | some h => match readInstrs core ctx old sp.pc (max h.count (sp.slot + 1)) 1 s with
      | (.inl rest, s) => (.inl (ws ++ rest), s)
      | r => r

/-- The words from the `k`-th instruction of a list on, and how many stand before them. -/
def instrAt : Nat → List Word → Nat → Nat × List Word
  | 0, ws, n => (n, ws)
  | _ + 1, [], n => (n, [])
  | k + 1, w :: ws, n => instrAt k (ws.drop (lengthOf w - 1)) (n + lengthOf w)

/-- What a fetch gives for a cursor. -/
inductive Fetched where
  /-- A cursor with what was read latched, and the instruction. -/
  | instr (c : Cursor) (i : Instr)
  /-- A word that is not an instruction (16 R352, 17 R366). -/
  | illegal (c : Cursor)
  /-- A word that is not a clause header (16 R336). -/
  | header (w : Word)
  /-- Code that cannot be read. -/
  | miss (r : Reach) (va : Nat)
deriving DecidableEq, Repr

/-- A cursor with the clause and the instruction's place latched. -/
def latch (c : Cursor) (sp : Split) (h : Header) (clause : List Word) (w : Word) (at_ : Nat) : Cursor :=
  { c with word := w, clause := clause, header := sp.pc, next := codeAfter sp.pc (at_ + lengthOf w), last := h.count ≤ sp.slot + 1,
           first := sp.slot == 0, flagA := h.flagA, flagB := h.flagB, yield := h.yield, wait := h.wait }

/-- What the words of a clause give a split at its SLOT. -/
def fetched (c : Cursor) (sp : Split) (clause : List Word) : Fetched :=
  let hw := clause.headD 0
  match decodeHeader hw with
  | none => .header hw
  | some h =>
    let (at_, ws) := instrAt sp.slot (clause.drop 1) 1
    let w := ws.headD 0
    match decodeWords (ws.take (lengthOf w)) with
    | .ok (i, _) => .instr (latch c sp h clause w at_) i
    | .error _ => .illegal (latch c sp h clause w at_)

/-- Fetches the next instruction of a split. Its whole clause is translated and read before the first instruction of it
that the split issues (11 R244); the later ones are those words. -/
def fetch (c : Cursor) (ctx : Nat) (sp : Split) (s : State) : Fetched × State :=
  if !sp.clause.isEmpty then (fetched c sp sp.clause, s)
  else match readClause c.core ctx (oldCode s c.core c.slot ctx) sp s with
    | (.inl ws, s) => (fetched c sp ws, s)
    | (.inr (r, va), s) => (.miss r va, s)

/-- Illegal-instruction of a word that is no instruction: the split has issued, and every lane is named (log 11). -/
def illegalWord (c : Cursor) (sp : Split) (s : State) : State :=
  raiseAt c sp 0x01 (c.word.setWidth 64) sp.mask 0 (taken c s)

/-- Illegal-instruction of a clause header, with `tpc` at the header and SLOT 0 (16 R336); it continues after the word
that would be its first instruction (log 13). -/
def illegalHeader (c : Cursor) (sp : Split) (w : Word) (s : State) : State :=
  let s := modGang (taken c s) c.core c.slot (modSplit c.lane (fun x => { x with slot := 0 }))
  takeTrap c.core c.slot c.lane
    { cause := 0x01, tinfo := w.setWidth 64, tmask := sp.mask, nextPc := sp.pc, nextSlot := 1 } s

/-- A fetch that cannot be made (11 R247): an access-fault trap, or the gang parks with the whole split unfinished,
standing at the clause header. -/
def fetchMiss (c : Cursor) (g : Gang) (sp : Split) (r : Reach) (va : Nat) (s : State) : State :=
  let stand (s : State) : State := modGang s c.core c.slot
    (modSplit c.lane (fun x => { x with fresh := x.slot == 0 && x.replay.isNone, missed := true }))
  let s := { s with issueQ := s.issueQ.tail }
  match r with
  | .trap k i => takeTrap c.core c.slot c.lane { cause := k, tinfo := b64 i, tmask := sp.mask, unfinished := sp.mask } s
  | .invalid =>
    parkGang c.core c.slot c.lane va .invalid (requestPage g.ctx va c.core 1 false true (.gang c.core c.slot c.lane) (stand s))
  | .migrating => parkGang c.core c.slot c.lane va .migrating (stand s)
  | .lost d => illegalHeader c sp 0xFFFFFFFF (notePeer c.core c.slot d { s with issueQ := c :: s.issueQ })
  | _ => s

/-! ## A word of the opcode table, placed to be fetched -/

/-- The place of the instruction that a cursor fetches next, when its code is readable. -/
def fetchPlace (c : Cursor) (s : State) : Option Nat :=
  match getGang s c.core c.slot with
  | none => none
  | some g => match splitOf g c.lane with
    | none => none
    | some sp => match readInstrs c.core g.ctx (oldCode s c.core c.slot g.ctx) sp.pc sp.slot 1 s with
      | (.inl ws, s) => match reachVirt c.core g.ctx (codeAfter sp.pc (1 + ws.length)).toNat fetchKind s with
        | (.ok pa, _) => some pa
        | _ => none
      | _ => none

/-- The leaf that a loaded program runs from: a 2 MiB page of HBM4 at virtual and physical address 0 (log 3). -/
def loaderLeaf : TlbEntry := { ctx := 0, va := 0, size := 21, pte := 0x1800000000000009#64 }

/-- The gang that a loaded program runs in (log 3). -/
def loaderGang : Gang := { ctx := 0, gslot := 0, id := 0, regs := 256, splits := [{ mask := 0xFF#64, pc := 0 }] }

/-- The state with a one-gang group on logical core 0, about to issue the clause at address 0 (log 3): a launch as the
Vent would place it, with one instruction in its clause. -/
def loadProgram (s : State) : State :=
  let core := getCore s 0
  let core := { core with
    groups := mapSet core.groups 0 { ctx := 0, acc := [0, 1, 2, 3], tiles := List.range 64, ssize := 458752, quota := 2048,
                                          barriers := (List.range 20).map (fun b => (b, { members := 1 })) },
    gangs := mapSet core.gangs 0 loaderGang,
    tlb := [loaderLeaf] }
  { setCore s 0 core with issueQ := [{ core := 0, slot := 0, lane := 0 }] }

/-- Places the bytes of an instruction where the head of the slot is fetched; where no split is about to issue, loads a
program first. -/
def placeBytes (bs : List Byte) (s : State) : State :=
  let loaded (s : State) : State := poke (poke (loadProgram s) 0 [0, 0, 0, 0]) 4 bs
  match s.issueQ with
  | [] => loaded s
  | c :: _ => match fetchPlace c s with
    | some pa => forgetOld pa bs.length (poke (modGang s c.core c.slot (modSplit c.lane (fun sp => { sp with clause := [] }))) pa bs)
    | none => loaded s

end Sys2Proof.Machine
end

