-- ==== Sys2Proof/Machine/Control.lean ====
section
/-! DEFINITION. Branches, traps and the other control instructions (18, 19, 20; 03 R56 to R58, 13). -/

namespace Sys2Proof.Machine

/-- An instruction that must end its clause; elsewhere it is illegal (18 R376, 20 R511). -/
def atClauseEnd (k : Ctx → State → State) (c : Ctx) (s : State) : State :=
  if c.cur.last then k c s else raiseIllegal c s

/-- A branch (18 R376, 03 R58): each acting lane continues at its target, the others after the clause. A register that
the branch writes is written in the issue at which the lane leaves. -/
def branchTo (c : Ctx) (target : Nat → BitVec 52) (effect : Mask → Gang → Gang) (s : State) : State :=
  let plan := planBranch c.gang c.sp (fun h => if laneIn c.act h then target h else c.cur.next)
  if plan.stay != 0 && siblingIssues c s then branchLast c s
  else if plan.joins.isEmpty && plan.records.isEmpty then waitAt c .record 0 false s
  else onGang c (fun g =>
    let g' := branchGang { c.sp with clause := c.cur.clause, fresh := false } plan s.clock (effect (c.act &&& ~~~plan.stay) g)
    yieldAges c.cur (if plan.records.isEmpty && plan.stay != 0 then rotateFrom (lowestLane plan.stay) g' else g')) s

/-- A branch to the code address of its immediate. -/
def immediateBranch (effect : Ctx → Mask → Gang → Gang) : Ctx → State → State := atClauseEnd (fun c s =>
  if c.act == 0 then complete c s else branchTo c (fun _ => c.codeTarget) (effect c) s)

/-- A branch to the addresses in its pair a; a misaligned one traps and no lane branches (18 R376). -/
def registerBranch (effect : Ctx → Mask → Gang → Gang) : Ctx → State → State := atClauseEnd (fun c s =>
  let target (h : Nat) : BitVec 52 := BitVec.ofNat 52 (c.a h)
  let bad := c.lanes.filter (fun h => c.a h % 4 != 0)
  if c.act == 0 then complete c s
  else match bad with
    | h :: _ => raise c 0x02 (b64 (c.a h % 2 ^ 52)) (maskOf bad) c.act s
    | [] => branchTo c target (effect c) s)

/-- No register is written. -/
def noEffect (_ : Ctx) (_ : Mask) (g : Gang) : Gang := g

/-- The link of `call`: the header after the clause, in the pair d (18 R396). -/
def writeLink (c : Ctx) (lanes : Mask) (g : Gang) : Gang :=
  writeOpnd c.f.e.kd.toNat c.f.e.d.toNat 2 lanes (fun _ => c.cur.next.toNat) g

/-- The counter of `loop` less one, in a lane (19 R458). -/
def loopCount (c : Ctx) (lane : Nat) : Nat := (c.d lane + 2 ^ 32 - 1) % 2 ^ 32

/-- `loop` (19 R458). -/
def loopBody : Ctx → State → State := atClauseEnd (fun c s =>
  if c.act == 0 then complete c s
  else branchTo c (fun h => if loopCount c h != 0 then c.codeTarget else c.cur.next)
    (fun lanes => writeOpnd c.f.e.kd.toNat c.f.e.d.toNat 1 lanes (loopCount c)) s)

/-- `nop` (19 R475). -/
def nopOp (c : Ctx) (s : State) : State := complete c s

/-- The cursor of an instruction that ends its clause wherever it stands in it: the next is that after the clause. -/
def Cursor.ended (c : Cursor) : Cursor :=
  { c with last := true, next := if c.last then c.next else codeAfter c.header c.clause.length }

/-- `yield` (20 R518): it ends its clause, also one whose count goes on after it (log 104). -/
def yieldOp (c : Ctx) (s : State) : State := complete { c with cur := c.cur.ended } s

/-- `bkpt` and `trap`: a trap of the acting lanes that continues after the instruction (18 R390, 20 R509). -/
def softTrap (cause : Nat) (info : Ctx → Nat) (c : Ctx) (s : State) : State :=
  if c.act == 0 then complete c s else raise c cause (b64 (info c)) c.act 0 s

/-- `tret` (20 R511, 13 R286); it ignores its guard. -/
def tretOp : Ctx → State → State := atClauseEnd (fun c s =>
  if trapActive c.gang then returnFromTrap c.cur.core c.cur.slot c.cur.lane (onGang c (yieldAges c.cur) s)
  else raiseIllegal c s)

/-- `waitf` (20 R515): its header has held the clause until the flags are clear. -/
def waitfOp (c : Ctx) (s : State) : State :=
  let mask := BitVec.ofNat 12 c.immN
  if c.cur.first && mask &&& ~~~c.cur.wait == 0 then complete c s else raiseIllegal c s

/-- The context of a gang is to be pre-empted (13 R289). -/
def preemptPending (s : State) (ctx : Nat) : Bool := (mapFind s.preempts ctx).isSome

/-- `phint` (13 R290, R291, 20 R490): with a pre-emption pending the split stops after it. -/
def phintOp (c : Ctx) (s : State) : State :=
  let live := BitVec.ofNat 256 (c.a c.lane0)
  let off := c.b c.lane0 % 2 ^ 32
  let len := c.b c.lane0 / 2 ^ 32
  if c.act == 0 then complete c s
  else if off % 16 != 0 then raiseOnce c 0x02 off s
  else if len % 16 != 0 then raiseOnce c 0x02 len s
  else if len != 0 && (c.group s).ssize < off + len then raiseOnce c 0x03 (off % 2 ^ 19) s
  else if preemptPending s c.gang.ctx then
    completeWith c (fun g =>
      modSplit c.cur.lane (fun sp => { sp with stop := some (.phint off len) }) { g with live := g.live ||| live }) s
  else complete c s

/-- `vcommit` (20 R513, 14 R310): a shadow group waits for its twin at the commit point. -/
def vcommitOp (c : Ctx) (s : State) : State :=
  let g := c.group s
  let acted := (c.sp.wait.map (fun w => w.kind == .version && w.acted)).getD false
  let ended := (c.sp.wait.map (fun w => w.ended)).getD false
  if c.act == 0 || !g.held then complete c s
  else if !g.shadow then complete c (commitVersion c.cur.core c.gang.gslot s)
  else if acted then (if ended then complete c s else waitAt c .version 0 true s)
  else if g.atCommit == 0 then
    waitAt c .version 0 true (modGroup s c.cur.core c.gang.gslot (fun g => { g with atCommit := 1 }))
  else waitAt c .version 0 false s

/-- `bra` (18 R391). -/
def execBra (f : Form) (s : State) : Host.Outcome State Fault Refusal :=
  issueForm 0x4F f (immediateBranch noEffect) s

/-- `brx` (18 R393). -/
def execBrx (f : Form) (s : State) : Host.Outcome State Fault Refusal :=
  issueForm 0x50 f (registerBranch noEffect) s

/-- `call` (18 R396). -/
def execCallOp (f : Form) (s : State) : Host.Outcome State Fault Refusal :=
  issueForm 0x51 f (immediateBranch writeLink) s

/-- `callx` (18 R397). -/
def execCallx (f : Form) (s : State) : Host.Outcome State Fault Refusal :=
  issueForm 0x52 f (registerBranch writeLink) s

/-- `ret` (20 R499). -/
def execRetOp (f : Form) (s : State) : Host.Outcome State Fault Refusal :=
  issueForm 0x53 f (registerBranch noEffect) s

/-- `loop` (19 R458). -/
def execLoopOp (f : Form) (s : State) : Host.Outcome State Fault Refusal :=
  issueForm 0x54 f loopBody s

/-- `yield` (20 R518). -/
def execYieldOp (f : Form) (s : State) : Host.Outcome State Fault Refusal :=
  issueForm 0x55 f yieldOp s

/-- `nop` (19 R475). -/
def execNop (f : Form) (s : State) : Host.Outcome State Fault Refusal :=
  issueForm 0x56 f nopOp s

/-- `bkpt` (18 R390). -/
def execBkpt (f : Form) (s : State) : Host.Outcome State Fault Refusal :=
  issueForm 0x57 f (softTrap 0x0C (fun _ => 0)) s

/-- `trap` (20 R509). -/
def execTrapOp (f : Form) (s : State) : Host.Outcome State Fault Refusal :=
  issueForm 0x58 f (softTrap 0x0B (fun c => c.immN)) s

/-- `tret` (20 R511). -/
def execTret (f : Form) (s : State) : Host.Outcome State Fault Refusal :=
  issueForm 0x59 f tretOp s

/-- `waitf` (20 R515). -/
def execWaitf (f : Form) (s : State) : Host.Outcome State Fault Refusal :=
  issueForm 0x5A f waitfOp s

/-- `phint` (20 R490). -/
def execPhint (f : Form) (s : State) : Host.Outcome State Fault Refusal :=
  issueForm 0x5B f phintOp s

/-- `vcommit` (20 R513). -/
def execVcommit (f : Form) (s : State) : Host.Outcome State Fault Refusal :=
  issueForm 0x5C f vcommitOp s

end Sys2Proof.Machine
end

