-- ==== Sys2Proof/Machine/Convert.lean ====
section
/-! DEFINITION. The convert instructions (18 R402 to R405, 20 R484, R492, R542). -/

namespace Sys2Proof.Machine

/-- `cvtsr`: the random words come from the launch's seed and the lane's counter (18 R405, 05 R105). -/
def cvtsrOp (c : Ctx) (s : State) : State :=
  let seed := (c.group s).seed
  compute (fun c h => cvtVal c.t (c.mn) c.md 0 false (fun k => some (randomWord seed (c.c h) k)) (c.a h)) c s

/-- `qblk`: the band exponent over the acting lanes (20 R492). -/
def qblkOp (c : Ctx) (s : State) : State :=
  let x := (BitVec.ofInt 32 (bandExponent (c.lanes.flatMap (fun h => qblkElems c.t (b64 (c.a h)))))).toNat
  compute (fun _ _ => x) c s

/-- `cvt` (18 R402, R403). -/
def execCvt (f : Form) (s : State) : Host.Outcome State Fault Refusal :=
  issueForm 0x34 f (compute (fun c h => cvtVal c.t c.mn c.md c.rm c.f.e.sat (fun _ => none) (c.a h))) s

/-- `cvtsr` (18 R405). -/
def execCvtsr (f : Form) (s : State) : Host.Outcome State Fault Refusal :=
  issueForm 0x35 f cvtsrOp s

/-- `packf4` (20 R484). -/
def execPackf4 (f : Form) (s : State) : Host.Outcome State Fault Refusal :=
  issueForm 0x36 f (compute (fun c h => packf4Val (c.a h))) s

/-- `unpkf4` (20 R542). -/
def execUnpkf4 (f : Form) (s : State) : Host.Outcome State Fault Refusal :=
  issueForm 0x37 f (compute (fun c h => unpkf4Val (c.a h))) s

/-- `qblk` (20 R492). -/
def execQblk (f : Form) (s : State) : Host.Outcome State Fault Refusal :=
  issueForm 0x38 f qblkOp s

end Sys2Proof.Machine
end

