-- ==== Sys2Proof/Machine/Queues.lean ====
section
/-! DEFINITION. Queue descriptors and pointers (12 R258 to R261), queue tokens (12 R269 to R271) and budgets
(12 R272, R273). -/

namespace Sys2Proof.Machine

/-! ## The journal (12 R277) -/

/-- An action of the Vent is journalled in both copies; 1 MiB holds the last 16,384 entries. -/
def journal (a : JournalAction) (s : State) : State :=
  let n := ((s.journal.getLast?).map (fun e => e.seq + 1)).getD 0
  let kept := if 16384 ≤ s.journal.length then s.journal.tail else s.journal
  { s with journal := kept ++ [{ seq := n, action := a }] }

/-! ## Queues -/

/-- Physical address of a queue's descriptor (12 R258): `QDESC_BASE` is read when the queue is enabled (R261). -/
def queueDescAddr (s : State) (q : Nat) : Nat :=
  ((mapFind s.queueBase q).getD (field (reg64 s offQdescBase) 51 16)) * 2 ^ 16 + 64 * q

/-- A queue's descriptor in memory. -/
def queueDesc (s : State) (q : Nat) : BitVec 512 := BitVec.ofNat 512 (peek s (queueDescAddr s q) 64)

/-- A queue's descriptor written. -/
def setQueueDesc (q : Nat) (d : BitVec 512) (s : State) : State := poke s (queueDescAddr s q) (natToBytes 64 d.toNat)

/-- The fields of a descriptor (12 R258). -/
def qRing (d : BitVec 512) : Nat := field d 511 460
def qCtx (d : BitVec 512) : Nat := field d 459 444
def qPrio (d : BitVec 512) : Nat := field d 443 440
def qLogN (d : BitVec 512) : Nat := field d 439 436
def qTail (d : BitVec 512) : Nat := field d 431 400
def qProg (d : BitVec 512) : Nat := field d 399 368
def qHead (d : BitVec 512) : Nat := field d 367 336
def qCpl (d : BitVec 512) : Nat := field d 335 284
def qIrq (d : BitVec 512) : Bool := field d 283 283 == 1
def qDev (d : BitVec 512) : Bool := field d 282 282 == 1

/-- The queue is enabled: EN, and LOG2N in its range (12 R258). -/
def qEnabled (d : BitVec 512) : Bool := field d 435 435 == 1 && 6 ≤ qLogN d && qLogN d ≤ 15

/-- A mapped queue's pointers, or none (12 R260). -/
def mappedQueue (s : State) (q : Nat) : Option Queue :=
  match mapFind s.queues q with
  | some m => if m.mapped then some m else none
  | none => none

/-- TAIL of a queue: from the Vent's SRAM when mapped, else from the descriptor (12 R260). -/
def queueTail (s : State) (q : Nat) : Nat :=
  match mappedQueue s q with
  | some m => m.tail
  | none => qTail (queueDesc s q)

/-- HEAD of a queue. -/
def queueHead (s : State) (q : Nat) : Nat :=
  match mappedQueue s q with
  | some m => m.head
  | none => qHead (queueDesc s q)

/-- PROG of a queue. -/
def queueProg (s : State) (q : Nat) : Nat :=
  match mappedQueue s q with
  | some m => m.prog
  | none => qProg (queueDesc s q)

/-- A queue's tail moves: in the SRAM, or in the descriptor of a queue that is switched out (12 R260). -/
def setQueueTail (q t : Nat) (s : State) : State :=
  match mappedQueue s q with
  | some m => { s with queues := mapSet s.queues q { m with tail := t % 2 ^ 32 } }
  | none => setQueueDesc q (setField (queueDesc s q) 431 400 t) s

/-- The kick bit of a queue is set or cleared. -/
def setKick (q b : Nat) (s : State) : State := setRegField s (offKick (q / 32)) (q % 32) (q % 32) b

/-- The pointers of a queue as the Vent maps it, from its descriptor, while fewer than 256 are mapped (12 R260). -/
def mapQueue (q : Nat) (s : State) : State :=
  match mappedQueue s q with
  | some _ => s
  | none =>
    if 256 ≤ (s.queues.filter (fun e => e.2.mapped)).length then s
    else
      let d := queueDesc s q
      let m := mapGet {} s.queues q
      journal (.switch q false)
        { s with queues := mapSet s.queues q { m with head := qHead d, tail := qTail d, prog := qProg d, mapped := true } }

/-- Keeps the slots that `lnch` brings until the Vent reads them (12 R267, R268). -/
def keepSlots (q : Nat) (slots : List (Nat × BitVec 512)) (s : State) : State :=
  let s := mapQueue q s
  let m := mapGet {} s.queues q
  { s with queues := mapSet s.queues q { m with recv := slots.foldl (fun r e => mapSet r e.1 e.2) m.recv } }

/-! ## Tokens -/

/-- The lowest key from `n` on that a map does not list. -/
def lowestGap {α : Type} : SMap α → Nat → Nat
  | [], n => n
  | (k, _) :: m, n => if k == n then lowestGap m (n + 1) else n

/-- Arms the lowest free token for a context: its index, or 0xFFFF_FFFF (12 R271). -/
def newToken (ctx : Nat) (s : State) : Nat × State :=
  let t := lowestGap s.tokens 0
  if t < 4096 then (t, journal (.token t 1) { s with tokens := mapSet s.tokens t { ctx := ctx, st := 1 } })
  else (0xFFFFFFFF, s)

/-- The state a context reads of a token (12 R271). -/
def testToken (ctx t : Nat) (s : State) : Nat :=
  if 4096 ≤ t then 4
  else match mapFind s.tokens t with
    | none => 0
    | some k => if k.ctx == ctx then k.st else 4

/-- Frees a signalled or failed token of a context (12 R271). -/
def freeToken (ctx t : Nat) (s : State) : Nat × State :=
  match mapFind s.tokens t with
  | some k =>
    if t < 4096 && k.ctx == ctx && 2 ≤ k.st then (1, journal (.token t 0) { s with tokens := mapErase s.tokens t })
    else (0, s)
  | none => (0, s)

/-- The signal of a token is one across the pod (10 R235). -/
def podToken (s : State) (t : Nat) : Bool := ((mapFind s.tokens t).map (·.pod)).getD false

/-- An armed token is signalled, 2, or fails, 3 (12 R269), at pod scope or not (12 R270). -/
def settleToken (t st : Nat) (pod : Bool) (s : State) : State :=
  match mapFind s.tokens t with
  | some k =>
    if k.st == 1 then journal (.token t st) { s with tokens := mapSet s.tokens t { k with st := st, pod := pod } } else s
  | none => s

/-! ## Budgets -/

/-- The level of a group's work: that of its queue (12 R272). -/
def levelOf (s : State) (g : Group) : Nat := qPrio (queueDesc s g.queue)

/-- Where the spent budget of an activity of a core and level is kept. -/
def spentKey (activity core level : Nat) : Nat := 2048 * activity + 16 * core + level

/-- CYC of a level's budget for an activity (12 R273). -/
def budgetCycles (s : State) (activity level : Nat) : Nat := field (reg32 s (offBudget activity level)) 13 0

/-- The level has budget left for an activity (12 R272, R273). -/
def hasBudget (s : State) (activity core level : Nat) : Bool :=
  let cyc := budgetCycles s activity level
  8500 ≤ cyc || mapGet 0 s.spent (spentKey activity core level) < cyc

/-- Charges busy cycles to a level (12 R272). -/
def chargeBudget (activity core level cycles : Nat) (s : State) : State :=
  let k := spentKey activity core level
  { s with spent := mapSet s.spent k (mapGet 0 s.spent k + cycles) }

end Sys2Proof.Machine
end

