-- ==== Sys2Proof/Machine/Tiles.lean ====
section
/-! DEFINITION. The tile table and its instructions (08 R191 to R194, 20 R508 to R512). -/

namespace Sys2Proof.Machine

/-! ## The tile table (08 R191 to R194) -/

/-- The core's table entry of a group's tile. -/
def Group.tileEntry (g : Group) (n : Nat) : Option Nat := g.tiles[n]?

/-- An entry's word. -/
def tileWord (s : State) (core entry : Nat) : Word := mapGet 0 (getCore s core).tileTab entry

/-- An entry's word written. -/
def setTileWord (core entry : Nat) (w : Word) (s : State) : State :=
  modCore s core (fun c => { c with tileTab := mapPut 0 c.tileTab entry w })

/-- Fields of an entry's word (08 R192): state, readers, base and size in bytes. -/
def tileState (w : Word) : Nat := field w 31 30
def tileReaders (w : Word) : Nat := field w 29 25
def tileBase (w : Word) : Nat := field w 24 14 * 256
def tileSize (w : Word) : Nat := (field w 13 6 + 1) * 256

/-- A draining tile without readers is empty (08 R193). -/
def settleTile (w : Word) : Word := if tileState w == 3 && tileReaders w == 0 then setField w 31 30 0 else w

/-- An entry's state changes. -/
def setTileState (core entry st : Nat) (s : State) : State :=
  setTileWord core entry (settleTile (setField (tileWord s core entry) 31 30 st)) s

/-- A reader of a tile begins or finishes (08 R193). -/
def beginReader (core entry : Nat) (s : State) : State :=
  let w := tileWord s core entry
  setTileWord core entry (setField w 29 25 (tileReaders w + 1)) s
def endReader (core entry : Nat) (s : State) : State :=
  let w := tileWord s core entry
  setTileWord core entry (settleTile (setField w 29 25 (tileReaders w - 1))) s

/-- A tile is released: ready to draining, and empty at once without readers (08 R193, 20 R510). -/
def releaseTile (core entry : Nat) (s : State) : State := setTileState core entry 3 s

/-- An instruction that names a tile: illegal at or above the group's count (08 R191), once per issue. -/
def withTile (c : Ctx) (code : Nat) (k : Nat → State → State) (s : State) : State :=
  match (namedReg code).bind (fun r => (c.group s).tileEntry r.2) with
  | none => raiseIllegal c s
  | some e => if c.act == 0 then complete c s else k e s

/-- The split waits until an entry has a state (08 R193). -/
def needTile (c : Ctx) (entry st : Nat) (k : State → State) (s : State) : State :=
  if tileState (tileWord s c.cur.core entry) == st then k s else waitAt c .tile (8 * entry + st) false s

/-- `tdef` (20 R508, 08 R192). -/
def tdefOp (c : Ctx) : State → State := withTile c c.f.e.d.toNat (fun e s => needTile c e 0 (fun s =>
  let off := c.a c.lane0
  let size := c.b c.lane0
  if off % 256 != 0 || size % 256 != 0 || size < 256 || 65536 < size then raiseOnce c 0x02 off s
  else if (c.group s).ssize < off + size then raiseOnce c 0x03 (off % 2 ^ 19) s
  else complete c (setTileWord c.cur.core e
    (setField (setField (tileWord s c.cur.core e) 24 14 (off / 256)) 13 6 (size / 256 - 1)) s)) s)

/-- `tstat` (20 R512). -/
def tstatOp (c : Ctx) : State → State := withTile c c.f.e.a.toNat (fun e s =>
  completeWith c (c.putD (fun _ => (tileWord s c.cur.core e).toNat)) s)

/-- `trel` (20 R510). -/
def trelOp (c : Ctx) : State → State := withTile c c.f.e.d.toNat (fun e s =>
  needTile c e 2 (fun s => complete c (releaseTile c.cur.core e s)) s)

/-- `tdef` (20 R508). -/
def execTdef (f : Form) (s : State) : Host.Outcome State Fault Refusal :=
  issueForm 0x6E f tdefOp s

/-- `tstat` (20 R512). -/
def execTstat (f : Form) (s : State) : Host.Outcome State Fault Refusal :=
  issueForm 0x6F f tstatOp s

/-- `trel` (20 R510). -/
def execTrel (f : Form) (s : State) : Host.Outcome State Fault Refusal :=
  issueForm 0x70 f trelOp s

end Sys2Proof.Machine
end

