-- ==== Sys2Proof/Machine/Copy.lean ====
section
/-! DEFINITION. The copy engine (09 R199 to R205, 18 R399, R400). -/

namespace Sys2Proof.Machine

/-! ## Copy requests (09 R199, R200) -/

/-- The fields of a request. -/
structure Copy where
  src : Nat
  dst : Nat
  scl : Nat
  sstride : Nat
  dstride : Nat
  cstride : Nat
  rowb : Nat
  rows : Nat
  conv : Nat
  sexp : Int
  rm : Nat
  pbv : Bool
  pboff : Nat
  ssp : Bool
  dsp : Bool
  stile : Bool
  dtile : Bool
  stn : Nat
  dtn : Nat
  tr : Bool
  direct : Bool
  rsv : Nat
deriving DecidableEq, Repr

/-- The request of 512 bits. -/
def copyOf (r : BitVec 512) : Copy :=
  { src := field r 511 460, dst := field r 459 408, scl := field r 407 356, sstride := field r 355 336,
    dstride := field r 335 316, cstride := field r 315 296, rowb := field r 295 276, rows := field r 275 260 + 1,
    conv := field r 259 256, sexp := (r.extractLsb' 247 9).toInt, rm := field r 246 244, pbv := field r 243 243 == 1,
    pboff := field r 242 224, ssp := field r 223 223 == 1 || field r 221 221 == 1,
    dsp := field r 222 222 == 1 || field r 220 220 == 1, stile := field r 221 221 == 1, dtile := field r 220 220 == 1,
    stn := field r 219 214, dtn := field r 213 208, tr := field r 207 207 == 1, direct := field r 206 206 == 1,
    rsv := field r 205 0 }

/-- Source bytes and written bytes of one element, or of one unit of 64 (09 R200). -/
def Copy.srcElem (r : Copy) : Nat := [1, 2, 4, 256, 512].getD r.conv 1
def Copy.dstElem (r : Copy) : Nat := [1, 4, 32, 512, 512].getD r.conv 1

/-- What ROWB is a multiple of (09 R200). -/
def Copy.rowUnit (r : Copy) : Nat := r.srcElem

/-- Elements of a row, and of the request. -/
def Copy.perRow (r : Copy) : Nat := r.rowb / r.srcElem
def Copy.elems (r : Copy) : Nat := r.rows * r.perRow

/-- Bytes the request writes. -/
def Copy.written (r : Copy) : Nat := r.elems * r.dstElem

/-- Where the source begins: its tile's base, or SRC. -/
def Copy.srcBase (r : Copy) (s : State) (core : Nat) (g : Group) : Nat :=
  if r.stile then ((g.tileEntry r.stn).map (fun e => tileBase (tileWord s core e))).getD 0 else r.src

/-- Where the destination begins. -/
def Copy.dstBase (r : Copy) (s : State) (core : Nat) (g : Group) : Nat :=
  if r.dtile then ((g.tileEntry r.dtn).map (fun e => tileBase (tileWord s core e))).getD 0 else r.dst

/-- Offset of an element in the source and in the destination, by row and place in it (09 R200). -/
def Copy.srcOff (r : Copy) (i j : Nat) : Nat := i * r.sstride + j * r.srcElem
def Copy.dstOff (r : Copy) (i j : Nat) : Nat :=
  if r.tr then j * r.dstride + i * r.dstElem else i * r.dstride + j * r.dstElem

/-- Bytes from the first to the last that the source and the destination take. -/
def Copy.srcSpan (r : Copy) : Nat := r.srcOff (r.rows - 1) (r.perRow - 1) + r.srcElem
def Copy.dstSpan (r : Copy) : Nat := r.dstOff (r.rows - 1) (r.perRow - 1) + r.dstElem
def Copy.sclSpan (r : Copy) : Nat := (r.rows - 1) * r.cstride + r.perRow

/-- A malformed request (09 R204, reason 0x2). -/
def Copy.malformed (r : Copy) (s : State) (core : Nat) (g : Group) : Bool :=
  let tileSize (n : Nat) : Nat := ((g.tileEntry n).map (fun e => tileSize (tileWord s core e))).getD 0
  r.rsv != 0 || 5 ≤ r.conv || r.rowb == 0 || 4 < r.rm || r.sexp < -128 ||
    (r.stile && g.tiles.length ≤ r.stn) || (r.dtile && g.tiles.length ≤ r.dtn) ||
    (r.stile && r.src != 0) || (r.dtile && r.dst != 0) || (r.dtile && tileSize r.dtn < r.dstSpan) ||
    (r.ssp && (2 ^ 19 ≤ r.src || 2 ^ 19 ≤ r.scl)) || (r.dsp && 2 ^ 19 ≤ r.dst) ||
    (r.conv != 2 && (r.scl != 0 || r.cstride != 0))

/-- A request that breaks the alignment of 09 R200 (reason 0x3), PBOFF's with or without PBV (log 54). -/
def Copy.misaligned (r : Copy) (s : State) (core : Nat) (g : Group) : Bool :=
  let dst := r.dstBase s core g
  r.rowb % r.rowUnit != 0 || r.pboff % 16 != 0 ||
    (if 3 ≤ r.conv then dst % 512 != 0 || r.tr
     else r.srcBase s core g % r.srcElem != 0 || r.sstride % r.srcElem != 0 || dst % r.dstElem != 0 ||
       r.dstride % r.dstElem != 0)

/-- A scratchpad range, or PBOFF, outside the group's range (reason 0x5): the 16 bytes of the phase barrier with PBV set,
the offset alone, where it is not 0, without (log 54). -/
def Copy.outside (r : Copy) (s : State) (core : Nat) (g : Group) : Bool :=
  (r.ssp && g.ssize < r.srcBase s core g + r.srcSpan) || (r.dsp && g.ssize < r.dstBase s core g + r.dstSpan) ||
    (r.ssp && r.conv == 2 && g.ssize < r.scl + r.sclSpan) ||
    (if r.pbv then g.ssize < r.pboff + 16 else r.pboff != 0 && g.ssize ≤ r.pboff)

/-- The reason a request is refused when the engine reads it (09 R204), in the order of the codes (log 12). -/
def Copy.reason (r : Copy) (s : State) (core : Nat) (g : Group) : Option Nat :=
  if r.malformed s core g then some 2
  else if r.misaligned s core g then some 3
  else if r.outside s core g then some 5
  else if r.direct && g.shadow then some 6
  else none

/-! ## Conversions -/

/-- A short operand in its 4-byte container (05 R110, R111). -/
def shortBytes (q : Int) : List Byte := natToBytes 4 (modInt (max (-524287) (min 524287 q)) (2 ^ 32))

/-- The poison code in its container (05 R111). -/
def poisonBytes : List Byte := natToBytes 4 0xFFF80000

/-- A value times 2^`e`, rounded to a short operand. -/
def shortOf (rm : Nat) (e : Int) : FVal → List Byte
  | .fin neg n x => shortBytes (roundToInt rm neg n (x + e))
  | _ => poisonBytes

/-- The bytes an element becomes (09 R200); `scale` is the block scale of CONV 0x2. -/
def Copy.convert (r : Copy) (src : List Byte) (scale : Nat) : List Byte :=
  match r.conv with
  | 0 => src
  | 1 => shortOf r.rm r.sexp (bf16.decode (bytesToNat src))
  | 2 => (unpackElems 4 4 8 (bytesToNat src)).flatMap (fun e => shortOf 0 8 (blockValue e scale))
  | c =>
    let w := if c == 3 then 4 else 8
    let vals := (List.range 64).map (fun k => intOf (8 * w) true (b64 (bytesToNat ((src.drop (w * k)).take w))))
    let res (j : Nat) (v : Int) : Byte :=
      if -((bigM / 2 : Nat) : Int) ≤ v && v < ((bigM / 2 : Nat) : Int) then BitVec.ofNat 8 (residueOf j v) else 0xFF
    (List.range 8).flatMap (fun j => vals.map (res j))

/-! ## Issue (09 R199, R201) -/

/-- Queues a slot of the copy queue; while 32 are queued the instruction is not ready (09 R201). -/
def queueCopy (c : Ctx) (slot : Nat → CopySlot) (s : State) : State :=
  let k := getCore s c.cur.core
  if 32 ≤ k.copyq.length then s
  else
    let s := setCore s c.cur.core { k with copyq := k.copyq ++ [slot k.opSeq], opSeq := k.opSeq + 1 }
    completeWith c (startOp c (.engine k.opSeq)) s

/-- `cpy` (18 R399). -/
def cpyOp (c : Ctx) (s : State) : State :=
  if c.act == 0 then complete c s
  else queueCopy c (fun id => { request := BitVec.ofNat 512 (c.a c.lane0), slot := c.cur.slot, gslot := c.gang.gslot,
                                ctx := c.gang.ctx, id := id }) s

/-- `cpyl` (18 R400, 09 R199). -/
def cpylOp (c : Ctx) (s : State) : State :=
  let off := c.scratchAddr c.lane0 false
  let n := c.c c.lane0
  if c.act == 0 then complete c s
  else if n == 0 || 256 < n then raiseIllegal c s
  else onceAt c 64 (64 * n) off (queueCopy c (fun id =>
    { listAt := off, count := n, slot := c.cur.slot, gslot := c.gang.gslot, ctx := c.gang.ctx, id := id })) s

/-! ## Acceptance (09 R201) -/

/-- The request the engine would accept next: not from a list one of whose entries waits on a page (09 R202). -/
def nextCopy (c : Core) : Option CopySlot :=
  c.copyq.find? (fun q => !c.copyrun.any (fun r => r.id == q.id && r.onPage.isSome))

/-- The request at the head of a slot. -/
def slotRequest (s : State) (core : Nat) (g : Group) (q : CopySlot) : BitVec 512 :=
  if q.count == 0 then q.request else BitVec.ofNat 512 (scratchRead s core g (q.listAt + 64 * q.index) 64)

/-- The queue after the head entry of an operation's first slot is accepted; its last entry frees it (09 R201). -/
def advanceSlot (id : Nat) : List CopySlot → List CopySlot
  | [] => []
  | q :: l =>
    if q.id != id then q :: advanceSlot id l
    else if q.count ≤ q.index + 1 then l
    else { q with index := q.index + 1 } :: l

/-- An operation is over, and its flag clears once the cycle's instructions have issued (16 R338): until then it stands as
a lane's that is made. -/
def closeOp (core slot id : Nat) (s : State) : State :=
  modGang s core slot (fun g => { g with ops := g.ops.map (fun o => if o.kind == .engine id then { o with kind := .lane false } else o) })

/-- Every request of a `cpy` or `cpyl` has completed or been abandoned: its flag clears (09 R202). -/
def copyEnds (core slot id : Nat) (s : State) : State :=
  let c := getCore s core
  if c.copyq.any (fun q => q.id == id) || c.copyrun.any (fun r => r.id == id) then s else closeOp core slot id s

/-- An accepted request leaves its tiles (09 R202, R204): its destination tile takes a state, and its source tile loses the
reader. -/
def leaveTiles (core st : Nat) (run : CopyRun) (s : State) : State :=
  match getGroup s core run.gslot with
  | none => s
  | some g =>
    let r := copyOf run.request
    let s := if r.dtile then ((g.tileEntry r.dtn).map (fun e => setTileState core e st s)).getD s else s
    if r.stile then ((g.tileEntry r.stn).map (fun e => endReader core e s)).getD s else s

/-- A request faults and is abandoned with the later entries of its list (09 R204): the destination tiles of those accepted
are empty. -/
def copyFault (core slot gslot ctx id index tinfo : Nat) (s : State) : State :=
  let (gone, stay) := (getCore s core).copyrun.partition (fun r => r.id == id && index ≤ r.index)
  let s := modCore s core (fun c => { c with copyq := c.copyq.filter (fun q => q.id != id), copyrun := stay })
  let s := gone.foldl (fun s r => leaveTiles core 0 r s) s
  copyEnds core slot id (engineFault core slot gslot ctx id tinfo s)

/-- The copy engine accepts its next request (09 R201). It checks the request for reasons 0x2, 0x3, 0x5 and 0x6 before it
waits for the request's tiles, so that the destination tile of a bad request keeps its state: the spec does not say when
these checks are made, and this is the model's choice (log 109). -/
def copyAccept (core : Nat) (s : State) : State :=
  let c := getCore s core
  match nextCopy c with
  | none => s
  | some q => match getGroup s core q.gslot with
    | none => s
    | some g =>
      if !hasBudget s 0 core (levelOf s g) || heldForSave s core q.ctx c.copyq.length then s
      else
        let r := slotRequest s core g q
        let x := copyOf r
        match x.reason s core g with
        | some reason => copyFault core q.slot q.gslot q.ctx q.id q.index (engineInfo 0xC reason) s
        | none =>
          let de := if x.dtile then g.tileEntry x.dtn else none
          let se := if x.stile then g.tileEntry x.stn else none
          let dOk := (de.map (fun e => tileState (tileWord s core e) == 0)).getD true
          let sOk := (se.map (fun e => tileState (tileWord s core e) == 2 && tileReaders (tileWord s core e) < 31)).getD true
          if !dOk || !sOk then s
          else
            let s := (de.map (fun e => setTileState core e 1 s)).getD s
            let s := (se.map (fun e => beginReader core e s)).getD s
            let s := if x.direct then bindTask core q.gslot s else s
            modCore s core (fun c => { c with
              copyq := advanceSlot q.id c.copyq,
              copyrun := c.copyrun ++ [{ request := r, slot := q.slot, gslot := q.gslot, ctx := q.ctx, id := q.id,
                                         index := q.index }] })

/-! ## Chunks (09 R202) -/

/-- Row and place of the `n`-th element in order of destination offset. -/
def Copy.place (r : Copy) (n : Nat) : Nat × Nat :=
  let (major, minor) := if r.tr then (r.perRow, r.rows) else (r.rows, r.perRow)
  let plain (n : Nat) : Nat × Nat := if r.tr then (n % minor, n / minor) else (n / minor, n % minor)
  if minor * r.dstElem ≤ r.dstride || major == 1 then plain n
  else (sortBy (fun p => r.dstOff p.1 p.2) ((List.range r.elems).map plain)).getD n (0, 0)

/-- The elements of a chunk of 512 destination bytes. -/
def Copy.chunkElems (r : Copy) (k : Nat) : List (Nat × Nat) :=
  let per := 512 / r.dstElem
  (List.range (min per (r.elems - k * per))).map (fun n => r.place (k * per + n))

/-- The chunks of a request. -/
def Copy.chunks (r : Copy) : Nat := ceilDiv r.written 512

/-- The kind of access of a request: MX-backed regions take CONV 0x0 only (09 R204). -/
def Copy.access (r : Copy) (write : Bool) : AccessKind :=
  { write := write, noMx := r.conv != 0 }

/-- Reads bytes of the source's space. -/
def copyRead (run : CopyRun) (r : Copy) (core : Nat) (g : Group) (a n : Nat) (s : State) : EngineRead × State :=
  if r.ssp then (.inl (natToBytes n (scratchRead s core g a n)), s)
  else engineRead core run.ctx (some g) { r.access false with refs := run.refs } (n + 1) (a % 2 ^ 52) n s

/-- Reads and converts the elements of a chunk: pairs of destination offset and bytes. -/
def gatherChunk (run : CopyRun) (r : Copy) (core : Nat) (g : Group) :
    List (Nat × Nat) → List (Nat × List Byte) → State → (List (Nat × List Byte) ⊕ Reach × Nat) × State
  | [], out, s => (.inl out.reverse, s)
  | (i, j) :: rest, out, s =>
    match copyRead run r core g (r.srcBase s core g + r.srcOff i j) r.srcElem s with
    | (.inr e, s) => (.inr e, s)
    | (.inl bs, s) =>
      if r.conv == 2 then
        match copyRead run r core g (r.scl + i * r.cstride + j) 1 s with
        | (.inr e, s) => (.inr e, s)
        | (.inl sc, s) => gatherChunk run r core g rest ((r.dstOff i j, r.convert bs (bytesToNat sc)) :: out) s
      else gatherChunk run r core g rest ((r.dstOff i j, r.convert bs 0) :: out) s

/-- Joins pieces that follow one another. -/
def joinPieces : List (Nat × List Byte) → List (Nat × List Byte)
  | [] => []
  | (a, x) :: rest => match joinPieces rest with
    | (b, y) :: more => if a + x.length == b then (a, x ++ y) :: more else (a, x) :: (b, y) :: more
    | [] => [(a, x)]

/-- The physical places of a chunk's writes: virtual address, physical address and bytes. -/
def placeChunk (run : CopyRun) (r : Copy) (core base : Nat) :
    List (Nat × List Byte) → List (Nat × Nat × List Byte) → State → (List (Nat × Nat × List Byte) ⊕ Reach × Nat) × State
  | [], out, s => (.inl out.reverse, s)
  | (o, bs) :: rest, out, s =>
    match engineSpan core run.ctx { r.access true with refs := run.refs } (bs.length + 1) ((base + o) % 2 ^ 52) bs.length s with
    | (.inr e, s) => (.inr e, s)
    | (.inl pieces, s) =>
      let cut := pieces.foldl (fun (acc : List (Nat × Nat × List Byte) × List Byte) p =>
        ((p.1, p.2.1, acc.2.take p.2.2) :: acc.1, acc.2.drop p.2.2)) (out, bs)
      placeChunk run r core base rest cut.1 s

/-- An accepted request changed by a function. -/
def modRun (core : Nat) (run : CopyRun) (f : CopyRun → CopyRun) (s : State) : State :=
  modCore s core (fun c => { c with copyrun := c.copyrun.map (fun x => if x = run then f x else x) })

/-- The engine credits bytes to the request's phase barrier (09 R207), which is noted where it flips it (20 R519); beyond 32
bits the context is killed. -/
def creditPhase (core gslot ctx : Nat) (r : Copy) (n : Nat) (s : State) : State :=
  match getGroup s core gslot with
  | none => s
  | some g =>
    if !r.pbv then s
    else
      let p := readPhase s core g r.pboff
      let p' := { p with got := p.got + n }
      let note (c : Core) : Core := if p'.flip.gen == p.gen then c
        else { c with flips := mapSet (c.flips.filter (fun e => e.2 == s.clock)) (g.sbase + r.pboff) s.clock }
      if 2 ^ 32 ≤ p.got + n then killContext ctx s else modCore (writePhase core g r.pboff p' s) core note

/-- A request completes (09 R202): its destination tile is ready, its source tile loses the reader. Nothing is done for a
request that a kill has discarded (09 R205). -/
def copyDone (core : Nat) (run : CopyRun) (s : State) : State :=
  if (getCore s core).copyrun.contains run then
    copyEnds core run.slot run.id (leaveTiles core 2 run
      (modCore s core (fun c => { c with copyrun := c.copyrun.filter (fun x => x ≠ run) })))
  else s

/-- Bytes a request has yet to read or write from its `n`-th element on, by extent: its source, scales and destination in
global memory. -/
def Copy.rest (r : Copy) (s : State) (core : Nat) (g : Group) (n : Nat) : List (Nat × Nat) :=
  let (i, j) := r.place n
  let next : Nat × Nat := if r.tr then (0, j + 1) else (i + 1, 0)
  let more : Bool := if r.tr then j + 1 < r.perRow else i + 1 < r.rows
  let folded : Bool := r.dstride < (if r.tr then r.rows else r.perRow) * r.dstElem
  let at_ (off : Nat → Nat → Nat) : Nat :=
    if folded then 0 else if more then min (off i j) (off next.1 next.2) else off i j
  let part (base span : Nat) (off : Nat → Nat → Nat) : Nat × Nat := (base + at_ off, span - at_ off)
  (if r.ssp then [] else [part (r.srcBase s core g) r.srcSpan r.srcOff]) ++
    (if r.dsp then [] else [part (r.dstBase s core g) r.dstSpan r.dstOff]) ++
    (if r.ssp || r.conv != 2 then [] else [part r.scl r.sclSpan (fun i j => i * r.cstride + j)])

/-- The bytes that the elements of a chunk read and write in global memory, in the order in which they are translated. -/
def Copy.touched (r : Copy) (s : State) (core : Nat) (g : Group) (l : List (Nat × Nat)) : List (Nat × Nat) :=
  l.flatMap (fun (i, j) =>
    (if r.ssp then [] else [(r.srcBase s core g + r.srcOff i j, r.srcElem)]) ++
    (if r.ssp || r.conv != 2 then [] else [(r.scl + i * r.cstride + j, 1)])) ++
  (if r.dsp then [] else l.map (fun (i, j) => (r.dstBase s core g + r.dstOff i j, r.dstElem)))

/-- The references of a request once the elements of its chunk have been copied (11 R254, log 39). -/
def copyRefs (run : CopyRun) (r : Copy) (s : State) (core : Nat) (g : Group) (l : List (Nat × Nat)) : List PageRef :=
  if r.chunks ≤ run.chunk + 1 then []
  else
    let n := (run.chunk + 1) * (512 / r.dstElem)
    pageRefs s run.ctx run.refs (r.touched s core g l) (r.rest s core g n)

/-- Some bytes of global memory that a chunk takes lie in a peer's window: work of the UALink (12 R272, log 69). -/
def podChunk (s : State) (ctx : Nat) (l : List (Nat × Nat)) : Bool :=
  (((l.flatMap wrapRange).map (fun t => t.1 / 4096)).eraseDups).any (fun p =>
    ((leafOf s ctx (4096 * p)).map (fun e => (peerOf (localPa s (e.phys e.va))).isSome)).getD false)

/-- The budgets of a chunk's level leave room for it (12 R272). -/
def chunkBudget (core : Nat) (run : CopyRun) (r : Copy) (g : Group) (l : List (Nat × Nat)) (s : State) : Bool :=
  let level := levelOf s g
  hasBudget s 0 core level && (hasBudget s 5 0 level || !podChunk s run.ctx (r.touched s core g l))

/-- A chunk's busy cycles (12 R272): 256 bytes a cycle, and those of the UALink (log 69). -/
def chargeChunk (core : Nat) (run : CopyRun) (r : Copy) (g : Group) (l : List (Nat × Nat)) (s : State) : State :=
  let level := levelOf s g
  let t := chargeBudget 0 core level (ceilDiv (l.length * r.dstElem) 256) s
  if podChunk s run.ctx (r.touched s core g l) then chargeBudget 5 0 level (Config.podCycles s.clock) t else t

/-- The bytes of a chunk are performed: credited, and the request goes on or completes. -/
def chunkDone (core : Nat) (run : CopyRun) (r : Copy) (g : Group) (l : List (Nat × Nat)) (s : State) : State :=
  let n := l.length * r.dstElem
  let s := chargeChunk core run r g l s
  let next := { run with chunk := run.chunk + 1, refs := copyRefs run r s core g l, peer := none }
  let s := modRun core run (fun _ => next) s
  let s := creditPhase core run.gslot run.ctx r n s
  if next.chunk < r.chunks then s else copyDone core next s

/-- A request that stops at an address keeps its references on the pages that it has translated (11 R254). -/
def copySeen (core : Nat) (run : CopyRun) (r : Copy) (s : State) (va : Nat) : List PageRef :=
  match getGroup s core run.gslot with
  | none => run.refs
  | some g => pageRefs s run.ctx run.refs
      (beforeMiss va ((r.touched s core g (r.chunkElems run.chunk)).flatMap wrapRange))
      (r.rest s core g (run.chunk * (512 / r.dstElem)))

/-- What keeps a chunk from being performed (09 R204, 13 R288). -/
def copyMissed (core : Nat) (run : CopyRun) (r : Copy) (write : Bool) (e : Reach × Nat) (s : State) : State :=
  match e.1 with
  | .invalid =>
    let s := modRun core run (fun x => { x with onPage := some (.page (e.2 / 4096)), refs := copySeen core run r s e.2 }) s
    requestPage run.ctx e.2 core 3 write false (.copy core run.id) s
  | .migrating => modRun core run (fun x => { x with onPage := some .migration, refs := copySeen core run r s e.2 }) s
  | .trap _ info => copyFault core run.slot run.gslot run.ctx run.id run.index (engineAccessInfo 0xC 4 info) s
  | .lost d =>
    let left := r.written - 512 * run.chunk
    copyDone core run (creditPhase core run.gslot run.ctx r left (noteOpPeer core run.slot run.id d s))
  | .hold d => modRun core run (fun x => { x with peer := d }) s
  | .ok _ => s

/-- Lines of global memory that some reads of a chunk touch. -/
def readLines (l : List (Nat × Nat)) : List Nat :=
  distinct (sortBy id ((l.flatMap wrapRange).flatMap (fun t => (List.range (ceilDiv (t.1 % 128 + t.2) 128)).map (fun k => t.1 / 128 + k))))

/-- The lines that a chunk reads at L2, those of its elements and those of its scales (08 R181, 09 R200). -/
def chunkLines (r : Copy) (l : List (Nat × Nat)) (base : Nat) : List Nat :=
  readLines (l.map (fun p => (base + r.srcOff p.1 p.2, r.srcElem))) ++
    (if r.conv == 2 then readLines (l.map (fun p => (r.scl + p.1 * r.cstride + p.2, 1))) else [])

/-- The room for a chunk's held writes (08 R182). -/
def chunkRoom (s : State) (g : Group) (direct : Bool) (l : List (Nat × Nat × List Byte)) : VersionRoom :=
  if !g.held || direct then .room
  else
    let rooms := l.map (fun p => rangeRoom s g p.2.1 p.2.2.length)
    if rooms.contains .overflow then .overflow else if rooms.contains .full then .full else .room

/-- The reads of a chunk count at L2 (08 R181). -/
def countChunk (core : Nat) (run : CopyRun) (r : Copy) (g : Group) (l : List (Nat × Nat)) (s : State) : State :=
  if r.ssp then s
  else (chunkLines r l (r.srcBase s core g)).foldl (fun s n => engineCount core run.ctx (n * 128) s) s

/-- The request the engine works on: the first accepted that is not stopped, and that no stopped entry of its list stands
before (09 R202). -/
def workingCopy (l : List CopyRun) : Option CopyRun :=
  l.find? (fun r => r.onPage.isNone && !l.any (fun x => x.id == r.id && x.index < r.index))

/-- The bytes from a virtual address on have some in the window of a pod peer, leaf by leaf. -/
def spanOnPeer (s : State) (ctx d : Nat) : Nat → Nat → Nat → Bool
  | 0, _, _ => false
  | fuel + 1, va, n =>
    if n == 0 then false
    else match leafOf s ctx va with
      | some e =>
        let m := min n (e.va + 2 ^ e.size - va)
        peerOf (localPa s (e.phys va)) == some d || spanOnPeer s ctx d fuel (va + m) (n - m)
      | none =>
        let m := min n (4096 - va % 4096)
        spanOnPeer s ctx d fuel (va + m) (n - m)

/-- Some bytes of a context's memory lie in the window of a pod peer (13 R288). -/
def rangesOnPeer (s : State) (ctx d : Nat) (l : List (Nat × Nat)) : Bool :=
  (l.flatMap wrapRange).any (fun t => spanOnPeer s ctx d (t.2 / 4096 + 2) t.1 t.2)

/-- A request yet to be performed, from a chunk on, reads or writes the window of a peer. -/
def copyOnPeer (s : State) (core ctx gslot d : Nat) (request : BitVec 512) (chunk : Nat) : Bool :=
  match getGroup s core gslot with
  | none => false
  | some g =>
    let r := copyOf request
    rangesOnPeer s ctx d (r.rest s core g (chunk * (512 / max r.dstElem 1)))

/-- A copy operation of a number has a request, running or queued, that does so (13 R288). -/
def copyOpOnPeer (s : State) (core id d : Nat) : Bool :=
  (getCore s core).copyrun.any (fun r => r.id == id && copyOnPeer s core r.ctx r.gslot d r.request r.chunk) ||
    (getCore s core).copyq.any (fun q => q.id == id && (match getGroup s core q.gslot with
      | none => false
      | some g => (List.range (max 1 (q.count - q.index))).any (fun k =>
          copyOnPeer s core q.ctx q.gslot d (slotRequest s core g { q with index := q.index + k }) 0)))

/-- A chunk of a request (09 R202): it stops before a chunk that misses (09 R204). -/
def copyChunk (core : Nat) (s : State) : State :=
  match workingCopy (getCore s core).copyrun with
  | none => s
  | some run => match getGroup s core run.gslot with
    | none => s
    | some g =>
      let r := copyOf run.request
      let elems := r.chunkElems run.chunk
      if !chunkBudget core run r g elems s then s
      else match gatherChunk run r core g elems [] s with
        | (.inr e, s) => copyMissed core run r false e s
        | (.inl out, s) =>
          let base := r.dstBase s core g
          let pieces := joinPieces out
          if r.dsp then
            let s := pieces.foldl (fun s p => scratchWrite core g (base + p.1) p.2 s) s
            chunkDone core run r g elems (countChunk core run r g elems s)
          else match placeChunk run r core base pieces [] s with
            | (.inr e, s) => copyMissed core run r true e s
            | (.inl writes, s) =>
              match chunkRoom s g r.direct writes with
              | .overflow => failTask core run.gslot 1 0x0A s
              | .full => s
              | .room =>
                let s := writes.foldl (fun s p => engineStore core run.gslot p.1 p.2.1 r.direct p.2.2 s) s
                chunkDone core run r g elems (countChunk core run r g elems s)

/-- `cpy` (18 R399). -/
def execCpy (f : Form) (s : State) : Host.Outcome State Fault Refusal :=
  issueForm 0x6C f cpyOp s

/-- `cpyl` (18 R400). -/
def execCpyl (f : Form) (s : State) : Host.Outcome State Fault Refusal :=
  issueForm 0x6D f cpylOp s

end Sys2Proof.Machine
end

