-- ==== Sys2Proof/Machine/Float.lean ====
section
/-! DEFINITION. The float instructions (18 R377 to R427). -/

namespace Sys2Proof.Machine

/-- `fadd` (18 R409), base word. -/
def execFadd (w : Base) (s : State) : Host.Outcome State Fault Refusal :=
  issueBase 0x22 w (arith (fun x a b _ => faddVal x.t x.rm a b)) s

/-- `fadd` (18 R409). -/
def execFaddExt (f : Form) (s : State) : Host.Outcome State Fault Refusal :=
  issueForm 0x22 f (arith (fun x a b _ => faddVal x.t x.rm a b)) s

/-- `fsub` (18 R426), base word. -/
def execFsub (w : Base) (s : State) : Host.Outcome State Fault Refusal :=
  issueBase 0x23 w (arith (fun x a b _ => fsubVal x.t x.rm a b)) s

/-- `fsub` (18 R426). -/
def execFsubExt (f : Form) (s : State) : Host.Outcome State Fault Refusal :=
  issueForm 0x23 f (arith (fun x a b _ => fsubVal x.t x.rm a b)) s

/-- `fmul` (18 R420), base word. -/
def execFmul (w : Base) (s : State) : Host.Outcome State Fault Refusal :=
  issueBase 0x24 w (arith (fun x a b _ => fmulVal x.t x.rm a b)) s

/-- `fmul` (18 R420). -/
def execFmulExt (f : Form) (s : State) : Host.Outcome State Fault Refusal :=
  issueForm 0x24 f (arith (fun x a b _ => fmulVal x.t x.rm a b)) s

/-- `ffma` (18 R416), base word. -/
def execFfma (w : Base) (s : State) : Host.Outcome State Fault Refusal :=
  issueBase 0x25 w (arith (fun x a b c => ffmaVal x.t x.rm a b c)) s

/-- `ffma` (18 R416). -/
def execFfmaExt (f : Form) (s : State) : Host.Outcome State Fault Refusal :=
  issueForm 0x25 f (arith (fun x a b c => ffmaVal x.t x.rm a b c)) s

/-- `fmin` (18 R419), base word. -/
def execFmin (w : Base) (s : State) : Host.Outcome State Fault Refusal :=
  issueBase 0x26 w (arith (fun x a b _ => fminVal x.t a b)) s

/-- `fmin` (18 R419). -/
def execFminExt (f : Form) (s : State) : Host.Outcome State Fault Refusal :=
  issueForm 0x26 f (arith (fun x a b _ => fminVal x.t a b)) s

/-- `fmax` (18 R418), base word. -/
def execFmax (w : Base) (s : State) : Host.Outcome State Fault Refusal :=
  issueBase 0x27 w (arith (fun x a b _ => fmaxVal x.t a b)) s

/-- `fmax` (18 R418). -/
def execFmaxExt (f : Form) (s : State) : Host.Outcome State Fault Refusal :=
  issueForm 0x27 f (arith (fun x a b _ => fmaxVal x.t a b)) s

/-- `fcmp` (18 R411), base word. -/
def execFcmp (w : Base) (s : State) : Host.Outcome State Fault Refusal :=
  issueBase 0x28 w (arith (fun x a b _ => fcmpVal x.t x.mn a b)) s

/-- `fcmp` (18 R411). -/
def execFcmpExt (f : Form) (s : State) : Host.Outcome State Fault Refusal :=
  issueForm 0x28 f (arith (fun x a b _ => fcmpVal x.t x.mn a b)) s

/-- `frcp` (18 R421), base word. -/
def execFrcp (w : Base) (s : State) : Host.Outcome State Fault Refusal :=
  issueBase 0x29 w (arith (fun x a _ _ => frcpVal x.t x.rm a)) s

/-- `frcp` (18 R421). -/
def execFrcpExt (f : Form) (s : State) : Host.Outcome State Fault Refusal :=
  issueForm 0x29 f (arith (fun x a _ _ => frcpVal x.t x.rm a)) s

/-- `frsq` (18 R423), base word. -/
def execFrsq (w : Base) (s : State) : Host.Outcome State Fault Refusal :=
  issueBase 0x2A w (arith (fun x a _ _ => frsqVal x.t x.rm a)) s

/-- `frsq` (18 R423). -/
def execFrsqExt (f : Form) (s : State) : Host.Outcome State Fault Refusal :=
  issueForm 0x2A f (arith (fun x a _ _ => frsqVal x.t x.rm a)) s

/-- `fsqrt` (18 R425), base word. -/
def execFsqrt (w : Base) (s : State) : Host.Outcome State Fault Refusal :=
  issueBase 0x2B w (arith (fun x a _ _ => fsqrtVal x.t x.rm a)) s

/-- `fsqrt` (18 R425). -/
def execFsqrtExt (f : Form) (s : State) : Host.Outcome State Fault Refusal :=
  issueForm 0x2B f (arith (fun x a _ _ => fsqrtVal x.t x.rm a)) s

/-- `fdiv` (18 R413), base word. -/
def execFdiv (w : Base) (s : State) : Host.Outcome State Fault Refusal :=
  issueBase 0x2C w (arith (fun x a b _ => fdivVal x.t x.rm a b)) s

/-- `fdiv` (18 R413). -/
def execFdivExt (f : Form) (s : State) : Host.Outcome State Fault Refusal :=
  issueForm 0x2C f (arith (fun x a b _ => fdivVal x.t x.rm a b)) s

/-- `fex2` (18 R415), base word. -/
def execFex2 (w : Base) (s : State) : Host.Outcome State Fault Refusal :=
  issueBase 0x2D w (arith (fun x a _ _ => fex2Val x.t a)) s

/-- `fex2` (18 R415). -/
def execFex2Ext (f : Form) (s : State) : Host.Outcome State Fault Refusal :=
  issueForm 0x2D f (arith (fun x a _ _ => fex2Val x.t a)) s

/-- `flg2` (18 R417), base word. -/
def execFlg2 (w : Base) (s : State) : Host.Outcome State Fault Refusal :=
  issueBase 0x2E w (arith (fun x a _ _ => flg2Val x.t a)) s

/-- `flg2` (18 R417). -/
def execFlg2Ext (f : Form) (s : State) : Host.Outcome State Fault Refusal :=
  issueForm 0x2E f (arith (fun x a _ _ => flg2Val x.t a)) s

/-- `fsin` (18 R424), base word. -/
def execFsin (w : Base) (s : State) : Host.Outcome State Fault Refusal :=
  issueBase 0x2F w (arith (fun x a _ _ => fsinVal x.t a)) s

/-- `fsin` (18 R424). -/
def execFsinExt (f : Form) (s : State) : Host.Outcome State Fault Refusal :=
  issueForm 0x2F f (arith (fun x a _ _ => fsinVal x.t a)) s

/-- `fcos` (18 R412), base word. -/
def execFcos (w : Base) (s : State) : Host.Outcome State Fault Refusal :=
  issueBase 0x30 w (arith (fun x a _ _ => fcosVal x.t a)) s

/-- `fcos` (18 R412). -/
def execFcosExt (f : Form) (s : State) : Host.Outcome State Fault Refusal :=
  issueForm 0x30 f (arith (fun x a _ _ => fcosVal x.t a)) s

/-- `ftanh` (18 R427), base word. -/
def execFtanh (w : Base) (s : State) : Host.Outcome State Fault Refusal :=
  issueBase 0x31 w (arith (fun x a _ _ => ftanhVal x.t a)) s

/-- `ftanh` (18 R427). -/
def execFtanhExt (f : Form) (s : State) : Host.Outcome State Fault Refusal :=
  issueForm 0x31 f (arith (fun x a _ _ => ftanhVal x.t a)) s

/-- `fclass` (18 R410), base word. -/
def execFclass (w : Base) (s : State) : Host.Outcome State Fault Refusal :=
  issueBase 0x32 w (arith (fun x a _ _ => fclassVal x.t a)) s

/-- `fclass` (18 R410). -/
def execFclassExt (f : Form) (s : State) : Host.Outcome State Fault Refusal :=
  issueForm 0x32 f (arith (fun x a _ _ => fclassVal x.t a)) s

/-- `frnd` (18 R422), base word. -/
def execFrnd (w : Base) (s : State) : Host.Outcome State Fault Refusal :=
  issueBase 0x33 w (arith (fun x a _ _ => frndVal x.t x.rm a)) s

/-- `frnd` (18 R422). -/
def execFrndExt (f : Form) (s : State) : Host.Outcome State Fault Refusal :=
  issueForm 0x33 f (arith (fun x a _ _ => frndVal x.t x.rm a)) s

end Sys2Proof.Machine
end

