-- ==== Sys2Proof/Machine/Integer.lean ====
section
/-! DEFINITION. The integer instructions (19 R432 to R451). -/

namespace Sys2Proof.Machine

/-- `iaddc` and `isubb`: d and the carry predicate of MINOR, in each acting lane (19 R438). -/
def carryOp (f : Nat → BitVec 64 → BitVec 64 → Bool → BitVec 64 × Bool) (c : Ctx) (s : State) : State :=
  let p := preg c.gang c.mn
  let r (h : Nat) := f c.t (b64 (c.a h)) (b64 (c.b h)) (laneIn p h)
  completeWith c (fun g =>
    setPreg (c.putD (fun h => (r h).1.toNat) g) c.mn c.act (maskOf (c.lanes.filter (fun h => (r h).2)))) s

/-- `iadd` (19 R437), base word. -/
def execIadd (w : Base) (s : State) : Host.Outcome State Fault Refusal :=
  issueBase 0x00 w (arith (fun x a b _ => iaddVal x.t x.f.e.sat a b)) s

/-- `iadd` (19 R437). -/
def execIaddExt (f : Form) (s : State) : Host.Outcome State Fault Refusal :=
  issueForm 0x00 f (arith (fun x a b _ => iaddVal x.t x.f.e.sat a b)) s

/-- `isub` (19 R451), base word. -/
def execIsub (w : Base) (s : State) : Host.Outcome State Fault Refusal :=
  issueBase 0x01 w (arith (fun x a b _ => isubVal x.t x.f.e.sat a b)) s

/-- `isub` (19 R451). -/
def execIsubExt (f : Form) (s : State) : Host.Outcome State Fault Refusal :=
  issueForm 0x01 f (arith (fun x a b _ => isubVal x.t x.f.e.sat a b)) s

/-- `iaddc` (19 R438). -/
def execIaddc (f : Form) (s : State) : Host.Outcome State Fault Refusal :=
  issueForm 0x02 f (carryOp addCarry) s

/-- `isubb` (19 R438). -/
def execIsubb (f : Form) (s : State) : Host.Outcome State Fault Refusal :=
  issueForm 0x03 f (carryOp subBorrow) s

/-- `imul` (19 R446), base word. -/
def execImul (w : Base) (s : State) : Host.Outcome State Fault Refusal :=
  issueBase 0x04 w (arith (fun x a b _ => imulVal x.t x.mn x.f.e.sat a b)) s

/-- `imul` (19 R446). -/
def execImulExt (f : Form) (s : State) : Host.Outcome State Fault Refusal :=
  issueForm 0x04 f (arith (fun x a b _ => imulVal x.t x.mn x.f.e.sat a b)) s

/-- `imad` (19 R442), base word. -/
def execImad (w : Base) (s : State) : Host.Outcome State Fault Refusal :=
  issueBase 0x05 w (arith (fun x a b c => imadVal x.t x.mn x.f.e.sat a b c)) s

/-- `imad` (19 R442). -/
def execImadExt (f : Form) (s : State) : Host.Outcome State Fault Refusal :=
  issueForm 0x05 f (arith (fun x a b c => imadVal x.t x.mn x.f.e.sat a b c)) s

/-- `imadw` (19 R443), base word. -/
def execImadw (w : Base) (s : State) : Host.Outcome State Fault Refusal :=
  issueBase 0x06 w (arith (fun x a b c => imadwVal x.t a b c)) s

/-- `imadw` (19 R443). -/
def execImadwExt (f : Form) (s : State) : Host.Outcome State Fault Refusal :=
  issueForm 0x06 f (arith (fun x a b c => imadwVal x.t a b c)) s

/-- `idiv` (19 R440), base word. -/
def execIdiv (w : Base) (s : State) : Host.Outcome State Fault Refusal :=
  issueBase 0x07 w (arith (fun x a b _ => idivVal x.t a b)) s

/-- `idiv` (19 R440). -/
def execIdivExt (f : Form) (s : State) : Host.Outcome State Fault Refusal :=
  issueForm 0x07 f (arith (fun x a b _ => idivVal x.t a b)) s

/-- `irem` (19 R440, R448), base word. -/
def execIrem (w : Base) (s : State) : Host.Outcome State Fault Refusal :=
  issueBase 0x08 w (arith (fun x a b _ => iremVal x.t a b)) s

/-- `irem` (19 R440, R448). -/
def execIremExt (f : Form) (s : State) : Host.Outcome State Fault Refusal :=
  issueForm 0x08 f (arith (fun x a b _ => iremVal x.t a b)) s

/-- `imin` (19 R445), base word. -/
def execImin (w : Base) (s : State) : Host.Outcome State Fault Refusal :=
  issueBase 0x09 w (arith (fun x a b _ => iminVal x.t a b)) s

/-- `imin` (19 R445). -/
def execIminExt (f : Form) (s : State) : Host.Outcome State Fault Refusal :=
  issueForm 0x09 f (arith (fun x a b _ => iminVal x.t a b)) s

/-- `imax` (19 R444), base word. -/
def execImax (w : Base) (s : State) : Host.Outcome State Fault Refusal :=
  issueBase 0x0A w (arith (fun x a b _ => imaxVal x.t a b)) s

/-- `imax` (19 R444). -/
def execImaxExt (f : Form) (s : State) : Host.Outcome State Fault Refusal :=
  issueForm 0x0A f (arith (fun x a b _ => imaxVal x.t a b)) s

/-- `iabs` (19 R436), base word. -/
def execIabs (w : Base) (s : State) : Host.Outcome State Fault Refusal :=
  issueBase 0x0B w (arith (fun x a _ _ => iabsVal x.t x.f.e.sat a)) s

/-- `iabs` (19 R436). -/
def execIabsExt (f : Form) (s : State) : Host.Outcome State Fault Refusal :=
  issueForm 0x0B f (arith (fun x a _ _ => iabsVal x.t x.f.e.sat a)) s

/-- `ineg` (19 R447), base word. -/
def execIneg (w : Base) (s : State) : Host.Outcome State Fault Refusal :=
  issueBase 0x0C w (arith (fun x a _ _ => inegVal x.t x.f.e.sat a)) s

/-- `ineg` (19 R447). -/
def execInegExt (f : Form) (s : State) : Host.Outcome State Fault Refusal :=
  issueForm 0x0C f (arith (fun x a _ _ => inegVal x.t x.f.e.sat a)) s

/-- `icmp` (19 R439), base word. -/
def execIcmp (w : Base) (s : State) : Host.Outcome State Fault Refusal :=
  issueBase 0x0D w (arith (fun x a b _ => boolWord (icmpCond x.t x.mn a b))) s

/-- `icmp` (19 R439). -/
def execIcmpExt (f : Form) (s : State) : Host.Outcome State Fault Refusal :=
  issueForm 0x0D f (arith (fun x a b _ => boolWord (icmpCond x.t x.mn a b))) s

/-- `isel` (19 R450). -/
def execIsel (f : Form) (s : State) : Host.Outcome State Fault Refusal :=
  issueForm 0x0E f (arith (fun x a b c => iselVal x.t (c != 0) a b)) s

/-- `idot4` (19 R441), base word. -/
def execIdot4 (w : Base) (s : State) : Host.Outcome State Fault Refusal :=
  issueBase 0x0F w (arith (fun x a b c => idot4Val x.t x.mn x.f.e.sat a b c)) s

/-- `idot4` (19 R441). -/
def execIdot4Ext (f : Form) (s : State) : Host.Outcome State Fault Refusal :=
  issueForm 0x0F f (arith (fun x a b c => idot4Val x.t x.mn x.f.e.sat a b c)) s

/-- `isad` (19 R449). -/
def execIsad (f : Form) (s : State) : Host.Outcome State Fault Refusal :=
  issueForm 0x10 f (arith (fun _ a b c => isadVal a b c)) s

end Sys2Proof.Machine
end

