-- ==== Sys2Proof/Machine/Cores.lean ====
section
/-! DEFINITION. The logical core map and the health of the physical cores (01 R18 to R24, 14 R311, R319, R320). -/

namespace Sys2Proof.Machine

/-! ## The leaves of a context's tables -/

/-- The entries of a table that are not 0, in rising order of address. -/
def tableEntries (s : State) (table count : Nat) : List Nat :=
  (distinct ((s.mem.filter (fun c => table ≤ c.1 && c.1 < table + 8 * count)).map (fun c => (c.1 - table) / 8))).map
    (fun i => peek s (table + 8 * i) 8)

/-- Entries of a table of a level (11 R238). -/
def tableCount (level : Nat) (wide : Bool) : Nat := if level == 3 then 8192 else if level == 0 && wide then 32 else 512

/-- The valid leaves below a table (11 R238 to R240). -/
def leavesFrom (s : State) : Nat → Bool → Nat → List Nat
  | level, wide, table =>
    (tableEntries s table (tableCount level wide)).flatMap (fun e =>
      if e % 2 == 0 || malformedEntry level wide e then []
      else if fieldN e 3 2 == 2 then [e]
      else match level with
        | 0 => []
        | l + 1 => leavesFrom s l (fieldN e 3 2 == 1) (fieldN e 51 8 * 256))

/-- The active contexts (12 R256). -/
def activeContexts (s : State) : List Nat :=
  let base := field (reg64 s offCtxtBase) 51 16 * 2 ^ 16
  let listed := (s.mem.filter (fun c => base ≤ c.1 && c.1 < base + 16 * 65536)).map (fun c => (c.1 - base) / 16)
  (distinct (sortBy id (listed ++ mapKeys s.ctxBase))).filter (fun ctx => ctxState s ctx == 1)

/-- A context maps a page at a physical address that meets a test. -/
def contextMaps (s : State) (ctx : Nat) (p : Nat → Bool) : Bool :=
  (leavesFrom s 3 false (ctxRoot s ctx)).any (fun e => p (fieldN e 51 8 * 256))

/-- Some active context maps a page of the near window of a physical core (14 R320). -/
def windowMapped (s : State) (pcore : Nat) : Bool :=
  (activeContexts s).any (fun ctx => contextMaps s ctx (fun pa => tierOf (localPa s pa) == .near pcore))

/-! ## Health -/

/-- STATE of a physical core (14 R320). -/
def coreState (s : State) (p : Nat) : Nat := field (reg32 s (offCoreHealth p)) 2 0

/-- Writes STATE. -/
def setCoreState (p st : Nat) (s : State) : State := setRegField s (offCoreHealth p) 2 0 st

/-- Writes LCORE. -/
def setCoreSlot (p l : Nat) (s : State) : State := setRegField s (offCoreHealth p) 15 8 l

/-- A core may take groups: mapped in a whole quad, and open to placement (01 R20, 14 R319, R320). -/
def coreOpen (s : State) (l : Nat) : Bool := quadValid s (l / 4) && coreState s (physCore s l) == 0

/-- A logical core holds a group. -/
def coreBusy (s : State) (l : Nat) : Bool := !(getCore s l).groups.isEmpty

/-! ## The map (01 R20 to R24) -/

/-- Logical quads with all four entries valid. -/
def validQuads (s : State) : Nat := ((List.range 32).filter (quadValid s)).length

/-- `LCMAP_STAT` after a change of the map (01 R22). -/
def mapChanged (s : State) : State :=
  let gen := (field (reg32 s offLcmapStat) 31 24 + 1) % 256
  let q := validQuads s
  setReg32 s offLcmapStat (BitVec.ofNat 32 (gen * 2 ^ 24 + s.spares.length * 2 ^ 16 + q * 2 ^ 8 + 4 * q))

/-- The entry of a logical core names a physical core. -/
def mapCore (l p : Nat) (s : State) : State :=
  setCoreSlot p l (setCoreState p 0 (setReg32 s (offLcmap l) (BitVec.ofNat 32 (2 ^ 31 + p))))

/-- The record of a change of one entry (14 R303): 0xFF for no physical core (log 34). -/
def mapEvent (l old new : Nat) (s : State) : State :=
  containEvent 0xB old 0xF (l + old * 2 ^ 8 + new * 2 ^ 16) 0 none s

/-- A physical core leaves its slot: failed, or closed with its layer (14 R317, R320). -/
def leaveSlot (p : Nat) (s : State) : State := setCoreSlot p 0xFF (setCoreState p (if s.gone.contains p then 3 else 5) s)

/-- A spare takes the slot of a core (01 R20). -/
def replaceCore (l p spare : Nat) (s : State) : State :=
  let s := leaveSlot p { s with spares := s.spares.erase spare }
  mapEvent l p spare (mapChanged (mapCore l spare s))

/-- A core's entry is invalid with its quad; the core joins the pool unless it is gone or closed (01 R20). A healthy core
under scan is closed until its scan passes and joins the pool then: the spec does not say when, and this is the model's
choice (log 106). -/
def freeSlot (s : State) (l : Nat) : State :=
  let p := physCore s l
  let s := setReg32 s (offLcmap l) 0
  if coreState s p == 0 then
    setCoreSlot p 0xFF (setCoreState p 1 { s with spares := sortBy id (p :: s.spares) })
  else leaveSlot p s

/-- The quad of a core without a spare becomes invalid (01 R20). -/
def invalidateQuad (l : Nat) (s : State) : State :=
  let quad := (List.range 4).map (fun i => l / 4 * 4 + i)
  let old := quad.map (fun i => (i, physCore s i))
  let s := mapChanged (quad.foldl freeSlot s)
  old.foldl (fun s e => mapEvent e.1 e.2 0xFF s) s

/-- Invalid quads are filled while the pool holds four cores (01 R20): the lowest quad first, its slots in order with the
lowest spares (log 102). -/
def restoreQuads : List Nat → State → State
  | [], s => s
  | q :: rest, s =>
    match quadValid s q, s.spares with
    | false, a :: b :: c :: d :: more =>
      let s := { s with spares := more }
      let s := mapChanged (mapCore (4 * q) a (mapCore (4 * q + 1) b (mapCore (4 * q + 2) c (mapCore (4 * q + 3) d s))))
      restoreQuads rest ([(0, a), (1, b), (2, c), (3, d)].foldl (fun s e => mapEvent (4 * q + e.1) 0xFF e.2 s) s)
    | _, _ => restoreQuads rest s

/-- A context has state on a logical core: a group there, or a page of its near window (01 R20, 14 R320). -/
def coreHolds (s : State) (l : Nat) : Bool := coreBusy s l || windowMapped s (physCore s l)

/-- STATE of a failed core that keeps its slot: closed while a context maps a page of its near window (14 R320), else
failed (14 R311). -/
def markFailed (p : Nat) (s : State) : State :=
  if s.gone.contains p then setCoreState p (if windowMapped s p then 5 else 3) s else s

/-- A slot whose core has failed or is closed is refilled, or its quad becomes invalid, once no context has state on what
leaves the map (01 R20, 14 R320). While the quad waits for that, groups are still placed on its healthy cores: the spec does
not say whether they are, and this is the model's choice (log 106). -/
def refillSlot (l : Nat) (s : State) : State :=
  let p := physCore s l
  if !lcoreValid s l || coreState s p == 0 || coreState s p == 4 then s
  else
    let s := markFailed p s
    if coreHolds s l then s
    else match s.spares with
      | spare :: _ => replaceCore l p spare s
      | [] => if (List.range 4).any (fun i => coreHolds s (l / 4 * 4 + i)) then s else invalidateQuad l s

/-- The map after every change that is due (01 R20). -/
def refillMap (s : State) : State :=
  restoreQuads (List.range 32) ((List.range 128).foldl (fun s l => refillSlot l s) s)

/-- SPARES of `LCMAP_STAT` follows the pool (01 R22). -/
def countSpares (s : State) : State := setRegField s offLcmapStat 23 16 s.spares.length

/-- A physical core fails (14 R311, R319, R320): it keeps its slot until the slot can be refilled. -/
def coreFails (p : Nat) (s : State) : State :=
  let mapped := field (reg32 s (offCoreHealth p)) 15 8
  let s := { s with gone := if s.gone.contains p then s.gone else sortBy id (p :: s.gone) }
  if mapped == 0xFF then countSpares (setCoreState p 3 { s with spares := s.spares.erase p })
  else refillMap (markFailed p s)

/-- A fatal core error (14 R311): the retryable held copies of the core fail with reason 3, then the other contexts with a
group there are killed, and the core leaves the map. -/
def fatalCore (core : Nat) (s : State) : State :=
  let p := physCore s core
  let retryable := (getCore s core).groups.filter (fun e => e.2.held && e.2.task == .retryable)
  let s := retryable.foldl (fun s e => failTask core e.1 3 0 s) s
  let s := ((getCore s core).groups).foldl (fun s e =>
    if (getGroup s core e.1).isSome && !s.killing.contains e.2.ctx then killByEvent e.2.ctx 5 s else s) s
  coreFails p s

/-- A scoreboard mismatch of a gang (14 R311): SBMIS, the event, and the squash; a second within 1,024 cycles of a
rebuild is fatal. -/
def mismatch (core slot : Nat) (s : State) : State :=
  match getGang s core slot with
  | none => s
  | some g =>
    let p := physCore s core
    let n := field (reg32 s (offCoreHealth p)) 31 24
    let s := setRegField s (offCoreHealth p) 31 24 (saturate (n + 1) 255)
    let s := containEvent 5 p 0xF slot g.ctx (getGroup s core g.gslot) s
    match g.rebuilt with
    | some t => if s.cycles ≤ t + 1024 then fatalCore core s
      else modGang s core slot (fun g => { g with squashed := true })
    | none => modGang s core slot (fun g => { g with squashed := true })

end Sys2Proof.Machine
end

