-- ==== Sys2Proof/Machine/Spawn.lean ====
section
/-! DEFINITION. `spawn`, join counters, `exit`, `lnch` and `qtok` (04, 12; 18 R408, 19 R452, R453, R457, 20 R503, R504). -/

namespace Sys2Proof.Machine

/-! ## Slot demand (04 R80) -/

/-- W of a core's group. -/
def groupWidth (c : Core) (gslot : Nat) : Nat := ((mapFind c.groups gslot).map (·.width)).getD 8

/-- Records of the queue that belong to a bucket: group and entry, those in flight among them (04 R80). -/
def bucketOf (c : Core) (gslot : Nat) (entry : BitVec 52) : List SpawnRec :=
  c.spawnq.filter (fun r => r.gslot == gslot && r.ggen == mapGet 0 c.ggen gslot && r.entry == entry)

/-- The buckets with records in the queue, each once. -/
def bucketsOf (c : Core) : List (Nat × BitVec 52) :=
  c.spawnq.foldl (fun l r =>
    if r.ggen != mapGet 0 c.ggen r.gslot || l.contains (r.gslot, r.entry) then l else l ++ [(r.gslot, r.entry)]) []

/-- Runs of equal entries (04 R80). -/
def runsOf : List (BitVec 52) → Nat
  | [] => 0
  | [_] => 1
  | x :: y :: l => (if x == y then 0 else 1) + runsOf (y :: l)

/-- B of a group (04 R80). -/
def batchSize (g : Group) : Nat := min g.width g.quota

/-- The slot demand C of a core (04 R80). -/
def slotDemand (c : Core) : Nat :=
  let spawned := (c.gangs.filter (fun e => 128 ≤ e.2.id)).length
  let queued := (bucketsOf c).foldl (fun n b => n + ceilDiv (bucketOf c b.1 b.2).length (groupWidth c b.1)) 0
  c.groups.foldl (fun n e =>
    if e.2.spilled.isEmpty then n else n + runsOf (e.2.spilled.map (·.entry)) + ceilDiv e.2.spilled.length (batchSize e.2))
    (spawned + queued)

/-- NL: resident launched gangs (04 R80). -/
def launchedGangs (c : Core) : Nat := (c.gangs.filter (fun e => e.2.id < 128)).length

/-- What a record raises C by in the queue. -/
def queueRise (c : Core) (g : Group) (gslot : Nat) (entry : BitVec 52) : Nat :=
  let q := (bucketOf c gslot entry).length
  ceilDiv (q + 1) g.width - ceilDiv q g.width

/-- What a record raises C by in the spill area. -/
def spillRise (g : Group) (entry : BitVec 52) : Nat :=
  let n := g.spilled.length
  ceilDiv (n + 1) (batchSize g) - ceilDiv n (batchSize g) + (if g.spilled.getLast?.map (·.entry) == some entry then 0 else 1)

/-- Records a group holds in the queue. -/
def queuedOf (c : Core) (gslot : Nat) : Nat :=
  (c.spawnq.filter (fun r => r.gslot == gslot && r.ggen == mapGet 0 c.ggen gslot)).length

/-! ## Spawn records (04 R77) -/

/-- The 256 bits of a record. -/
def SpawnRec.bits (r : SpawnRec) : Nat :=
  bytesToNat (r.payload.flatMap (fun w => natToBytes 4 w.toNat)) * 2 ^ 128 + r.jaddr % 2 ^ 19 * 2 ^ 96 + r.npay % 8 * 2 ^ 93 +
    (if r.join then 2 ^ 92 else 0) + (if r.spilled then 2 ^ 91 else 0) + r.gslot % 8 * 2 ^ 88 + r.ggen % 256 * 2 ^ 80 +
    r.seq % 65536 * 2 ^ 64 + r.entry.toNat / 4 * 2 ^ 14

/-- The record of 256 bits. -/
def SpawnRec.ofBits (x : Nat) : SpawnRec :=
  let n := fieldN x 95 93
  { payload := (List.range (min n 4)).map (fun k => BitVec.ofNat 32 (fieldN x (128 + 32 * k + 31) (128 + 32 * k))),
    npay := n, jaddr := fieldN x 114 96, join := fieldN x 92 92 == 1, spilled := fieldN x 91 91 == 1,
    gslot := fieldN x 90 88, ggen := fieldN x 87 80, seq := fieldN x 79 64,
    entry := BitVec.ofNat 52 (fieldN x 63 14 * 4) }

/-- Virtual address of a record of a group's spill ring. -/
def spillAddr (g : Group) (n : Nat) : Nat := (g.spillBase + 32 * (n % g.spillSize)) % 2 ^ 52

/-- The kill of a context whose spill access failed to translate, reported to the driver as a spill fault (04 R82, log
91). -/
def spillFault (ctx : Nat) (s : State) : State := killContext ctx { s with spillFaults := s.spillFaults ++ [ctx] }

/-- Writes a record to a group's spill ring; a translation that fails kills the context (04 R82). So does a page of a lost
peer, or one that a viral device holds back: the spec gives no outcome for them, and this is the model's choice (log 53). -/
def spillWrite (core gslot : Nat) (g : Group) (r : SpawnRec) (s : State) : State :=
  let s := chargeBudget 3 core (levelOf s g) 1 s
  match reachVirt core g.ctx (spillAddr g g.spillTail) { write := true, refs := [spillRef] } s with
  | (.ok pa, s) =>
    modGroup (enginePhys core pa false (natToBytes 32 r.bits) s) core gslot (fun g =>
      { g with spillTail := g.spillTail + 1, spilled := g.spilled ++ [r] })
  | (_, s) => spillFault g.ctx s

/-! ## `spawn` -/

/-- The cases of 04 R75 in which `spawn` is illegal. -/
def spawnIllegal (g : Group) : Bool := g.quota == 0 || (g.roles && g.counts.getD 3 0 == 0)

/-- A join counter plus an amount, modulo 2^32. -/
def joinAdd (core : Nat) (g : Group) (off : Nat) (n : Nat) (s : State) : State :=
  scratchWrite core g off (natToBytes 4 ((scratchRead s core g off 4 + n) % 2 ^ 32)) s

/-- One lane's request (04 R80): whether it is accepted, and the state. -/
def spawnLane (c : Ctx) (entry : BitVec 52) (lane : Nat) (s : State) : Bool × State :=
  let core := c.cur.core
  let gslot := c.gang.gslot
  let g := c.group s
  let k := getCore s core
  let joins := c.md == 1
  let off := if joins then c.b lane else 0
  let r : SpawnRec :=
    { payload := (List.range c.mn).map (fun i => vreg c.gang (c.f.e.a.toNat + i) lane), jaddr := off, npay := c.mn,
      join := joins, gslot := gslot, ggen := mapGet 0 k.ggen gslot, seq := k.seq % 65536, entry := entry,
      landed := some s.cycles }
  let room := 48 - launchedGangs k
  let counted (s : State) : State := modCore s core (fun k => { k with seq := k.seq + 1 })
  let joined (s : State) : State := if joins then joinAdd core g off 1 s else s
  if joins && scratchRead s core g off 4 == 0xFFFFFFFF then (false, s)
  else if g.spilled.isEmpty && queuedOf k gslot < g.quota && k.spawnq.length < 2048 then
    if slotDemand k + queueRise k g gslot entry ≤ room then
      (true, joined (counted (modCore s core (fun k => { k with spawnq := k.spawnq ++ [r] }))))
    else (false, s)
  else if g.spilled.length < g.spillSize && slotDemand k + spillRise g entry ≤ room then
    let s := spillWrite core gslot g { r with spilled := true } s
    if (getGroup s core gslot).isSome then (true, joined (counted s)) else (false, s)
  else (false, s)

/-- Requests of lanes in rank order, and which were accepted. -/
def spawnLanes (c : Ctx) (entry : BitVec 52) : List Nat → Mask → State → Mask × State
  | [], m, s => (m, s)
  | h :: rest, m, s =>
    let (ok, s) := spawnLane c entry h s
    spawnLanes c entry rest (if ok then m ||| laneBit h else m) s

/-- `spawn` (20 R503, R504, 04 R75 to R81). -/
def spawnOp (c : Ctx) (s : State) : State :=
  let g := c.group s
  if spawnIllegal g then raiseIllegal c s
  else if c.act == 0 then complete c s
  else
    let traps := if c.md == 1 then c.lanes.filterMap (fun h => scratchTrap g 4 4 h (c.b h)) else []
    let asks := c.act &&& ~~~(trapLanes traps)
    let entry := if c.f.e.kc.toNat == 1 then BitVec.ofNat 52 (c.c 0) else c.codeTarget
    let (ok, s) := spawnLanes c (entry &&& ~~~3#52) (lanesOf asks) 0 s
    endLanes c traps (onGang c (fun g => setPreg g c.f.e.d.toNat asks ok) s)

/-! ## Join counters and `exit` -/

/-- `jinit` (19 R452, 04 R87). -/
def jinitOp (c : Ctx) : State → State := laneAccess c false (fun lane (e, s) =>
  let off := c.scratchAddr lane true
  match scratchTrap (c.group s) 4 4 lane off with
  | some t => (e.trap lane t.cause t.tinfo, s)
  | none => (e, scratchWrite c.cur.core (c.group s) off (natToBytes 4 (c.c lane)) s))

/-- Every join counter of a `jwait` reads 0 (04 R89). -/
def joinsDone (c : Ctx) (s : State) : Bool :=
  c.lanes.all (fun h => scratchRead s c.cur.core (c.group s) (c.scratchAddr h true) 4 == 0)

/-- `jwait` (19 R453, 04 R89): in all of its lanes or in none. -/
def jwaitOp (c : Ctx) (s : State) : State :=
  match c.lanes.filterMap (fun h => scratchTrap (c.group s) 4 4 h (c.scratchAddr h true)) with
  | t :: rest => raiseLanes c (t :: rest) c.act s
  | [] => if joinsDone c s then complete c s else waitAt c .join 0 false s

/-- An exiting lane's join counter loses one (04 R88); an address outside the scratchpad changes nothing (04 R77). -/
def joinExit (core : Nat) (grp : Group) (g : Gang) (lane : Nat) (s : State) : State :=
  match mapFind g.join lane with
  | some j => if j % 4 == 0 && j + 4 ≤ grp.ssize then joinAdd core grp j (2 ^ 32 - 1) s else s
  | none => s

/-- The acting lanes leave their split and the gang; the others continue (18 R408, 03 R59). -/
def leaveGang (c : Ctx) (g : Gang) : Gang :=
  let rest := c.sp.mask &&& ~~~c.act
  let g := dropLanes c.act { g with join := g.join.filter (fun e => !laneIn c.act e.1) }
  if rest == 0 then yieldAges c.cur g else advanceSplit { c.cur with lane := lowestLane rest } g

/-- The last lane of the split that runs a handler has exited: ACTIVE clears and the oldest held trap is delivered
(18 R408, 13 R284). -/
def handlerExit (c : Ctx) (s : State) : State :=
  match getGang s c.cur.core c.cur.slot with
  | none => s
  | some g =>
    if c.sp.handler && trapActive g && !g.splits.any (·.handler) then
      deliverHeld c.cur.core c.cur.slot (onGang c (fun g => { g with tcause := g.tcause &&& 0x7FFFFFFF }) s)
    else s

/-- `exit` (18 R408). -/
def exitBody (c : Ctx) (s : State) : State :=
  if c.act == 0 then complete c s
  else
    let s := c.lanes.foldl (fun s h => joinExit c.cur.core (c.group s) c.gang h s) s
    let s := onGang c (leaveGang c) (exitBarriers c.cur.core c.cur.slot c.act s)
    handlerExit c (settleBarriers c.cur.core c.gang.gslot s)

/-! ## `lnch` and `qtok` -/

/-- The slots of the launch record at a scratchpad offset, 64 bytes each. -/
def recordSlots (s : State) (core : Nat) (g : Group) (off : Nat) (n : Nat) : List (BitVec 512) :=
  (List.range n).map (fun k => BitVec.ofNat 512 (scratchRead s core g (off + 64 * k) 64))

/-- Appends a launch record of `n` slots (12 R267): the slot it starts at, or 0xFFFF_FFFF. -/
def appendLaunch (ctx q : Nat) (slots : List (BitVec 512)) (s : State) : Nat × State :=
  let d := queueDesc s q
  let tail := queueTail s q
  let used := (tail + slots.length + 2 ^ 32 - queueProg s q) % 2 ^ 32
  if !qEnabled d || !qDev d || qCtx d != ctx || 2 ^ qLogN d < used then (0xFFFFFFFF, s)
  else
    let places := (List.range slots.length).map (fun k => (tail + k) % 2 ^ 32)
    (tail, setKick q 1 (setQueueTail q (tail + slots.length) (keepSlots q (places.zip slots) s)))

/-- Writes the scalar d of an instruction that acts once per issue, and completes. -/
def completeScalar (c : Ctx) (v : Nat) (s : State) : State := completeWith c (c.putD (fun _ => v)) s

/-- `lnch` (19 R457, 12 R267). -/
def lnchOp (c : Ctx) (s : State) : State :=
  let g := c.group s
  let off := c.a c.lane0
  let q := c.b c.lane0
  if g.shadow then raiseIllegal c s
  else if c.act == 0 then complete c s
  else if 1024 ≤ q then raiseIllegal c s
  else match scratchTrap g 64 64 c.lane0 off with
    | some t => raiseOnce c t.cause t.tinfo s
    | none =>
      let n := fieldN (scratchRead s c.cur.core g off 64) 385 383 + 2
      if g.ssize < off + 64 * n then raiseOnce c 0x03 (off % 2 ^ 19) s
      else
        let (v, s) := appendLaunch c.gang.ctx q (recordSlots s c.cur.core g off n) s
        completeScalar c v s

/-- A `qtok` form: once per issue (12 R271); `.new` and `.free` are illegal in a shadow group (14 R308). -/
def qtokOp (writes : Bool) (f : Ctx → State → Nat × State) (c : Ctx) (s : State) : State :=
  if writes && (c.group s).shadow then raiseIllegal c s
  else if c.act == 0 then complete c s
  else
    let (v, s) := f c s
    completeScalar c v s

/-- `qtok.test`: a result of 2 is an acquire at the scope of the signal (12 R271, 10 R226, R235). -/
def qtokTestBody : Ctx → State → State := qtokOp false (fun c s =>
  let v := testToken c.gang.ctx (c.a c.lane0) s
  (v, if v == 2 then acquireSignal c.cur.core (podToken s (c.a c.lane0)) s else s))

/-- `spawn` (20 R503, R504). -/
def execSpawn (f : Form) (s : State) : Host.Outcome State Fault Refusal :=
  issueForm 0x49 f spawnOp s

/-- `jinit` (19 R452). -/
def execJinit (f : Form) (s : State) : Host.Outcome State Fault Refusal :=
  issueForm 0x4A f jinitOp s

/-- `jwait` (19 R453). -/
def execJwait (f : Form) (s : State) : Host.Outcome State Fault Refusal :=
  issueForm 0x4B f jwaitOp s

/-- `exit` (18 R408). -/
def execExitOp (f : Form) (s : State) : Host.Outcome State Fault Refusal :=
  issueForm 0x4C f exitBody s

/-- `lnch` (19 R457). -/
def execLnch (f : Form) (s : State) : Host.Outcome State Fault Refusal :=
  issueForm 0x4D f lnchOp s

/-- `qtok.new` (12 R271). -/
def execQtokNew (f : Form) (s : State) : Host.Outcome State Fault Refusal :=
  issueForm 0x4E f (qtokOp true (fun c s => newToken c.gang.ctx s)) s

/-- `qtok.test` (12 R271). -/
def execQtokTest (f : Form) (s : State) : Host.Outcome State Fault Refusal :=
  issueForm 0x4E f qtokTestBody s

/-- `qtok.free` (12 R271). -/
def execQtokFree (f : Form) (s : State) : Host.Outcome State Fault Refusal :=
  issueForm 0x4E f (qtokOp true (fun c s => freeToken c.gang.ctx (c.a c.lane0) s)) s

end Sys2Proof.Machine
end

