-- ==== Sys2Proof/Machine/Ready.lean ====
section
/-! DEFINITION. When a split is ready (02 R46, R51, 03 R60, R61), what the issue stage knows of its next instruction
(02 R45, R47), and the stops of a pending context (13 R291). -/

namespace Sys2Proof.Machine

/-! ## The next instruction -/

/-- The fields of an instruction; none for a device step. -/
def fieldsOf (i : Instr) : Option Fields :=
  match encOf i with
  | .base op w => some (fieldsOfBase op w)
  | .form op f => some (fieldsOfForm op f)
  | .step => none

/-- Pipe classes (02 R45). -/
inductive Pipe where
  | scl | int | flt | mem | ctl
deriving DecidableEq, Repr

/-- An operand of a kind is a vector register or a lane predicate. -/
def laneOperand (o : Opnd) (kind field : Nat) : Bool :=
  (kind == 0 && o.v != 0) || (kind == 2 && (match namedReg field with | some (.p, _) => true | _ => false))

/-- Every register operand is a scalar register or scalar predicate (02 R45). -/
def allScalar (f : Fields) : Bool :=
  let r := row f.op f.e
  !(laneOperand r.d f.e.kd.toNat f.e.d.toNat || laneOperand r.a f.e.ka.toNat f.e.a.toNat ||
    laneOperand r.b f.e.kb.toNat f.e.b.toNat || laneOperand r.c f.e.kc.toNat f.e.c.toNat) && f.op != 0x02 && f.op != 0x03

/-- The pipe class of an instruction (02 R45). -/
def pipeOf (f : Fields) : Pipe :=
  if f.op ≤ 0x42 then
    if allScalar f then .scl else if 0x22 ≤ f.op && f.op ≤ 0x33 then .flt else .int
  else if 0x5D ≤ f.op && f.op ≤ 0x78 then .mem
  else .ctl

/-- The instruction writes an s, q, w or f register (02 R47): its destination, or the flag it selects. -/
def writesShared (c : Cursor) (f : Fields) : Bool :=
  let r := row f.op f.e
  let kd := f.e.kd.toNat
  let named := match namedReg f.e.d.toNat with | some (.q, _) | some (.w, _) => true | _ => false
  (kd == 1 && r.d.s != 0 && f.op != 0x69) || (kd == 2 && named) ||
    (r.fs && (if f.e.fs then c.flagB else c.flagA).isSome)

/-- An instruction is illegal by its form, or names a register above the gang's count (16 R352, 02 R40). -/
def illegalAt (g : Gang) (i : Instr) (f : Fields) : Bool :=
  (match encOf i with
    | .base op w => (illegalBase op w).isSome
    | .form op x => (illegalForm op x).isSome
    | .step => true) || !regsInRange g f

/-- What the issue stage knows of a split's next instruction: the wait mask of its clause, and, when its code is an
instruction, whether it is illegal, the pipe class, the shared writes and the context it would issue with. -/
structure Peek where
  wait : BitVec 12 := 0
  illegal : Bool := true
  pipe : Option Pipe := none
  shared : Bool := true
  ctx : Option Ctx := none

/-- Looks at the next instruction of a split; nothing of the machine changes. -/
def peekSplit (s : State) (core slot : Nat) (g : Gang) (sp : Split) : Peek :=
  match (fetch { core := core, slot := slot, lane := lowestLane sp.mask } g.ctx sp s).1 with
  | .instr c i => match fieldsOf i with
    | some f => { wait := c.wait, illegal := illegalAt g i f, pipe := some (pipeOf f), shared := writesShared c f,
                  ctx := some (mkCtx c g sp f) }
    | none => { wait := c.wait }
  | .illegal c => { wait := c.wait }
  | _ => {}

/-! ## The scoreboard and the queues (02 R46) -/

/-- A register operand names a scalar register (16 R345). -/
def Opnd.namesScalar (o : Opnd) (kind field n : Nat) : Bool := kind == 1 && field ≤ n && n < field + o.s

/-- A scalar register is the row stride beside an address that `mma` or `mldc.rp8` reads (07 R150, 19 R463, R464). -/
def namesStride (f : Fields) (n : Nat) : Bool :=
  let beside (kind field : Nat) : Bool := kind == 1 && field + 2 == n
  (f.op == 0x7B && (beside f.e.ka.toNat f.e.a.toNat || beside f.e.kb.toNat f.e.b.toNat)) ||
    (f.op == 0x7C && f.e.md.toNat % 2 == 0 && f.e.a.toNat + 2 == n)

/-- An instruction reads or writes a scalar register. -/
def namesScalar (f : Fields) (n : Nat) : Bool :=
  let r := row f.op f.e
  namesStride f n ||
  r.d.namesScalar f.e.kd.toNat f.e.d.toNat n || r.a.namesScalar f.e.ka.toNat f.e.a.toNat n ||
    r.b.namesScalar f.e.kb.toNat f.e.b.toNat n || r.c.namesScalar f.e.kc.toNat f.e.c.toNat n

/-- A register that the instruction names is yet to be written by an operation in flight (02 R46): only `ncmp` writes one
after its issue (log 6). -/
def pendingWrite (s : State) (core slot : Nat) (g : Gang) (f : Fields) : Bool :=
  (getCore s core).near.any (fun o => o.kind == 2 && o.ofGang slot g && namesScalar f o.dreg)

/-- The queue that an instruction takes a place of: 0 the copy queue, 1 the matrix queue, 2 the in-layer operations
(07 R154, 08 R190, 09 R201). -/
def Ctx.queue (c : Ctx) : Option Nat :=
  let op := c.f.op
  if c.act == 0 then none
  else if op == 0x6C || op == 0x6D then some 0
  else if 0x7A ≤ op && op ≤ 0x7E then some 1
  else if 0x68 ≤ op && op ≤ 0x6A then some 2
  else none

/-- The instruction ends the retryability of a held group: a `.direct` store, an atomic, or an in-layer write (14 R306). -/
def Ctx.binds (c : Ctx) (s : State) : Bool :=
  let op := c.f.op
  (c.group s).held && !(c.group s).shadow && c.act != 0 &&
    ((op == 0x5E && c.md == 1) || (0x62 ≤ op && op ≤ 0x64) || op == 0x68 || op == 0x69)

/-- A queue of a core has no place left beside some places that are promised. -/
def queueFull (s : State) (core promised : Nat) : Nat → Bool
  | 0 => 32 ≤ (getCore s core).copyq.length + promised
  | 1 => 32 ≤ (getCore s core).mqueue.length + promised
  | _ => 4 ≤ (getCore s core).near.length + promised

/-! ## Waits (02 R51) -/

/-- The wait on a tile with which an instruction that needs it in a state begins (08 R193). -/
def tileWait (c : Ctx) (st : Nat) (s : State) : Option Wait :=
  match (namedReg c.f.e.d.toNat).bind (fun r => (c.group s).tileEntry r.2) with
  | some e =>
    if c.act != 0 && tileState (tileWord s c.cur.core e) != st then
      some { kind := .tile, obj := 8 * e + st, since := s.clock }
    else none
  | none => none

/-- The wait at a barrier with which an instruction begins that does not wait for lanes to arrive (09 R210, R212). -/
def boundaryWait (c : Ctx) (s : State) : Option Wait :=
  let bar := barrierName c.f.e.a.toNat
  let w : Wait := { kind := .barrier, obj := barrierObj (c.group s) bar, since := s.clock }
  if 128 ≤ c.gang.id || c.act == 0 then none
  else if c.f.op == 0x75 then
    if barrierArrived s c.cur.core c.gang.gslot bar != 0 then some { w with defines := true } else none
  else if isMember (c.group s) c.gang bar && (barrierWait c).isNone && cannotArrive c bar s then some w
  else none

/-- The wait that an instruction begins with before it issues: on a tile, or for a barrier's generation. -/
def startsWait (s : State) (p : Peek) : Option Wait :=
  match p.ctx with
  | none => none
  | some c =>
    if p.illegal then none
    else if c.f.op == 0x6E then tileWait c 0 s
    else if c.f.op == 0x70 then tileWait c 2 s
    else if c.f.op == 0x75 || c.f.op == 0x76 || c.f.op == 0x78 then boundaryWait c s
    else none

/-- The wait of an instruction that has not reached its barrier's generation is over. -/
def boundaryOver (s : State) (c : Ctx) (w : Wait) : Bool :=
  let bar := w.obj % 32
  if w.defines then barrierArrived s c.cur.core c.gang.gslot bar == 0
  else !cannotArrive c bar s

/-- The flag wait of a split is over: flags clear, or the link it waits on usable. -/
def flagWaitOver (s : State) (g : Gang) (w : Wait) : Bool :=
  if w.obj != 0 then flagsSet g &&& BitVec.ofNat 12 w.obj == 0
  else match w.peer with
    | some d => !peerRecovering s d
    | none => !isViral s

/-- What a split waits for has come about. -/
def waitOver (s : State) (core slot : Nat) (g : Gang) (x : Option Ctx) (w : Wait) : Bool :=
  let grp := (getGroup s core g.gslot).getD { ctx := g.ctx }
  match w.kind with
  | .flag => flagWaitOver s g w
  | .fence => !nearBefore s core slot g w.obj
  | .join => (x.map (fun c => joinsDone c s)).getD true
  | .tile => tileState (tileWord s core (w.obj / 8)) == w.obj % 8
  | .phase => (x.map (fun c => (readPhase s core grp w.obj).gen != c.c c.lane0 % 2 ^ 16)).getD true
  | .version =>
    if w.acted then w.ended
    else if w.obj == 0 then grp.atCommit == 0
    else versionRoom s grp (w.obj - 1) != .full
  | .record => g.splits.length < 8
  | .barrier => if w.acted then w.ended else (x.map (fun c => boundaryOver s c w)).getD true
  | .regang => w.ended

/-- The next instruction of a split is the first of a clause whose wait mask names a set flag, and has not issued
(02 R46, 16 R338). -/
def heldAtHeader (g : Gang) (sp : Split) (p : Peek) : Bool := sp.slot == 0 && sp.fresh && (flagsSet g &&& p.wait) != 0

/-- The next instruction of a split is a `bdef` of a barrier that is ready but for the slots and cycles of others: the
barrier is at a generation boundary and the clause is not held. -/
def defineReady (s : State) (core gslot bar k : Nat) (g : Gang) (sp : Split) : Bool :=
  let p := peekSplit s core k g sp
  mayIssue g sp && !p.illegal && barrierArrived s core gslot bar == 0 && (match p.ctx with
    | some c => c.f.op == 0x75 && c.act != 0 && barrierName c.f.e.a.toNat == bar &&
        !heldAtHeader g sp p && (sp.wait.map (defineWait bar)).getD true
    | none => false)

/-- Of several `bdef` operations of one barrier that are ready, the one of the lowest slot goes first, cores in order
(09 R212). -/
def defineBehind (s : State) (core slot : Nat) (g : Gang) (sp : Split) (c : Ctx) : Bool :=
  let bar := barrierName c.f.e.a.toNat
  let ready : List (Nat × Nat × Mask) := (barrierGroups s core g.gslot bar).flatMap (fun (n, k, _) =>
    (getCore s n).gangs.flatMap (fun e => if e.2.gslot != k then [] else
      (e.2.splits.filter (fun x => defineReady s n k bar e.1 e.2 x)).map (fun x => (n, e.1, x.mask))))
  c.f.op == 0x75 && (match ready with
    | x :: _ => x != (core, slot, sp.mask)
    | [] => false)

/-- A `spawn` whose records may go to the spill area waits while its level has no spill budget left (04 R82, 12 R272,
log 69). -/
def spillWaits (s : State) (core : Nat) (c : Ctx) : Bool :=
  let g := c.group s
  let n := laneCount c.act
  c.f.op == 0x49 && g.spillSize != 0 && !hasBudget s 3 core (levelOf s g) &&
    (!g.spilled.isEmpty || g.quota < queuedOf (getCore s core) c.gang.gslot + n || 2048 < (getCore s core).spawnq.length + n)

/-- The scoreboard, a full queue, a spent budget or the `bdef` of a lower slot holds the instruction back (02 R46, 09 R212,
12 R272); it begins no wait (03 R61). -/
def heldBack (s : State) (core slot : Nat) (g : Gang) (sp : Split) (p : Peek) : Bool :=
  match p.ctx with
  | none => false
  | some c => pendingWrite s core slot g c.f || defineBehind s core slot g sp c ||
    (!p.illegal && ((c.queue.map (queueFull s core 0)).getD false || spillWaits s core c))

/-- A split is ready (02 R46), but for the residency of its gang. An instruction that has had its effect and only waits for
its completion needs nothing more. -/
def readySplit (s : State) (core slot : Nat) (g : Gang) (sp : Split) (p : Peek) : Bool :=
  mayIssue g sp && (match sp.wait with
    | some w => waitOver s core slot g p.ctx w && (w.acted || (!heldAtHeader g sp p && !heldBack s core slot g sp p))
    | none => !heldAtHeader g sp p && !heldBack s core slot g sp p && (startsWait s p).isNone)

/-- The ready splits of a gang in rotation order. -/
def readySplits (s : State) (core slot : Nat) (g : Gang) : List (Split × Peek) :=
  (g.splits.map (fun sp => (sp, peekSplit s core slot g sp))).filter (fun e => readySplit s core slot g e.1 e.2)

/-- The gang would have a candidate if it were present (02 R44). -/
def gangReady (s : State) (core slot : Nat) (g : Gang) : Bool := !(readySplits s core slot g).isEmpty

/-- The candidates among the ready splits of a gang (03 R60, R61). A starved split withholds the others whatever keeps it
from issuing (log 32). -/
def candidatesOf (g : Gang) (ready : List (Split × Peek)) : List (Split × Peek) :=
  if g.quantum == 0 then ready.take 1
  else if g.splits.any (fun sp => g.quantum ≤ sp.starve) then
    ready.filter (fun e => g.quantum ≤ e.1.starve)
  else ready

/-! ## The beginning and the end of waits -/

/-- The wait that a split begins before its instruction issues: on the flags of its clause (16 R338), on a tile, or for a
barrier's generation. -/
def beginsWait (s : State) (core slot : Nat) (g : Gang) (sp : Split) : Option Wait :=
  if sp.wait.isSome || !mayIssue g sp then none
  else
    let p := peekSplit s core slot g sp
    if heldAtHeader g sp p then some { kind := .flag, obj := p.wait.toNat, since := s.clock } else startsWait s p

/-- The splits of a gang that must wait begin to, and a wait on clear flags ends. With quantum 0 the head moves when the
head begins a wait (03 R61); the records of a lifted gang do not change (03 R74). -/
def settleWaits (s : State) (core slot : Nat) (g : Gang) : Gang :=
  let head := (g.splits.head?.map (fun sp => (beginsWait s core slot g sp).isSome)).getD false
  let g' := { g with splits := g.splits.map (fun sp =>
    match sp.wait with
    | some w => if w.kind == .flag && flagWaitOver s g w then { sp with wait := none } else sp
    | none => { sp with wait := beginsWait s core slot g sp }) }
  if head && g.quantum == 0 && g.residency == .present then rotateHead g' else g'

/-! ## Stops of a pending context (13 R291) -/

/-- `preempt.deadline` of a gang has passed since the request (13 R291). -/
def deadlinePassed (s : State) (g : Gang) : Bool :=
  match mapFind s.preempts g.ctx with
  | some p => p.since + 850 * g.deadline ≤ s.clock
  | none => false

/-- The split that runs the gang's handler has stopped, so that the others issue nothing more (log 33). -/
def handlerStopped (g : Gang) : Bool := trapActive g && g.splits.any (fun sp => sp.handler && sp.stop.isSome)

/-- A split stands at a word that is no clause header, and may take its trap: it does so before it stops (16 R365). -/
def illegalHeaderDue (s : State) (core slot : Nat) (g : Gang) (sp : Split) : Bool :=
  mayIssue g sp && sp.wait.isNone && (match (fetch { core := core, slot := slot, lane := lowestLane sp.mask } g.ctx sp s).1 with
    | .header _ => true
    | _ => false)

/-- How a split of a pending context stops now, if it does: in a wait, or at the deadline (13 R291). A split that can
issue nothing before the gang is saved stops at the deadline where it stands (log 33). -/
def stopNow (s : State) (core slot : Nat) (g : Gang) (sp : Split) : Option Stop :=
  let waits := match sp.wait with
    | some w => w.kind != .fence && !waitOver s core slot g (peekSplit s core slot g sp).ctx w
    | none => false
  if sp.stop.isSome then sp.stop
  else if waits || g.parked.isSome then some .wait
  else if deadlinePassed s g && !illegalHeaderDue s core slot g sp && ((sp.slot == 0 && sp.fresh) || sp.trapPend || handlerStopped g || g.squashed) then some .deadline
  else none

/-- The splits of a gang stop where they must, when its context is pending. -/
def stopSplits (s : State) (core slot : Nat) (g : Gang) : Gang :=
  if (mapFind s.preempts g.ctx).isNone then g
  else
    let g := { g with splits := g.splits.map (fun (sp : Split) => { sp with stop := stopNow s core slot g sp }) }
    { g with splits := g.splits.map (fun (sp : Split) => { sp with stop := stopNow s core slot g sp }) }

/-- A gang of a pending context has stopped: all its splits have. -/
def gangStopped (g : Gang) : Bool := g.splits.all (fun sp => sp.stop.isSome)

end Sys2Proof.Machine
end

