-- ==== Sys2Proof/Machine/Issue.lean ====
section
/-! DEFINITION. The issue stage (02 R45 to R50, 03 R60 to R63, 14 R311) and the residency of gangs (02 R41 to R44,
04 R84). -/

namespace Sys2Proof.Machine

/-! ## The slot (02 R47) -/

/-- A candidate: its gang slot, its place in the rotation, its split and its next instruction. -/
structure Candidate where
  slot : Nat
  rot : Nat
  base : Nat
  sp : Split
  peek : Peek

/-- The slices a candidate takes (02 R46). -/
def Candidate.slices (x : Candidate) : List Nat :=
  (List.range 8).filter (fun i => (lanesOf x.sp.mask).any (fun h => x.base + h / 8 == i))

/-- The candidates of a gang. -/
def gangCandidates (s : State) (core slot : Nat) (g : Gang) : List Candidate :=
  if g.residency == .present then
    (candidatesOf g (readySplits s core slot g)).map (fun e =>
      { slot := slot, rot := g.splits.findIdx (fun x => x.mask == e.1.mask), base := g.base, sp := e.1, peek := e.2 })
  else []

/-- The candidates of a core, oldest first; equal ages from the round-robin pointer on, splits of one gang in rotation
order. -/
def candidates (s : State) (core : Nat) : List Candidate :=
  let c := getCore s core
  let all := c.gangs.flatMap (fun e => gangCandidates s core e.1 e.2)
  let top := all.foldl (fun n x => max n x.sp.age) 0
  sortBy (fun x => (top - x.sp.age) * 512 + (x.slot + 48 - c.rr % 48) % 48 * 8 + x.rot) all

/-- The queue of which a candidate takes a place (02 R46). -/
def Candidate.queue (x : Candidate) : Option Nat := x.peek.ctx.bind Ctx.queue

/-- Two candidates may share a slot: the class of the head, no common slice, no shared registers of one gang, and a place
in its queue for each (02 R46). A split whose next instruction is none has no class and shares none (log 90). -/
def fits (s : State) (core : Nat) (pipe : Option Pipe) (taken : List Candidate) (x : Candidate) : Bool :=
  pipe.isSome && x.peek.pipe == pipe && taken.all (fun y =>
    y.slices.all (fun i => !x.slices.contains i) && (y.slot != x.slot || (!y.peek.shared && !x.peek.shared))) &&
  !(x.queue.map (fun q => queueFull s core (taken.filter (fun y => y.queue == some q)).length q)).getD false

/-- Fills the slot from the candidates in order, up to four. -/
def fillSlot (s : State) (core : Nat) (pipe : Option Pipe) : List Candidate → List Candidate → List Candidate
  | taken, [] => taken
  | taken, x :: rest =>
    if taken.length < 4 && fits s core pipe taken x then fillSlot s core pipe (taken ++ [x]) rest
    else fillSlot s core pipe taken rest

/-- The slot of a core in this cycle. -/
def buildSlot (s : State) (core : Nat) : List Candidate :=
  match candidates s core with
  | [] => []
  | head :: rest => fillSlot s core head.peek.pipe [head] rest

/-- Where a candidate stands in its slot: by gang slot and rotation (07 R154), but that a write of `jinit` comes before an
acceptance, and `jwait` reads the counters last (04 R92). -/
def Candidate.rank (x : Candidate) : Nat :=
  let turn := match x.peek.ctx.map (fun c => c.f.op) with
    | some 0x4A => 0
    | some 0x49 => 1
    | some 0x4B => 3
    | _ => 2
  turn * 512 + x.slot * 8 + x.rot

/-! ## Ages and STARVE -/

/-- A gang's splits are a cycle older since they issued (02 R47). -/
def growAges (g : Gang) : Gang :=
  if g.lastIssue.isSome then { g with splits := g.splits.map (fun sp => { sp with age := sp.age + 1 }) } else g

/-- The splits of a gang after a slot: age 0 and STARVE 0 for those that issue, which no longer stand unissued at their
headers (03 R74); STARVE of the other ready ones rises when the gang has an issue opportunity (03 R60); a candidate that
has never issued grows older (02 R47). -/
def afterSlot (g : Gang) (ready issued : List Mask) : Gang :=
  { g with splits := g.splits.map (fun sp =>
    if issued.contains sp.mask then { sp with age := 0, starve := 0, fresh := false }
    else if !ready.contains sp.mask then sp
    else
      let sp := if g.lastIssue.isNone then { sp with age := sp.age + 1 } else sp
      if issued.isEmpty || g.quantum == 0 then sp else { sp with starve := saturate (sp.starve + 1) 255 }) }

/-- Every gang of a core changed by a function. -/
def mapGangs (core : Nat) (f : Nat → Gang → Gang) (s : State) : State :=
  modCore s core (fun c => { c with gangs := c.gangs.map (fun e => (e.1, f e.1 e.2)) })

/-- The issue stage of a core in one cycle (02 R47): waits begin and end, pending splits stop, the slot is built; the
gangs whose scoreboards differ are squashed and lose their place in it (14 R311). -/
def issueStage (core : Nat) (bad : List Nat) (s : State) : State :=
  let s := mapGangs core (fun _ g => growAges g) s
  let s := mapGangs core (fun k g => settleWaits s core k g) s
  let s := mapGangs core (fun k g => stopSplits s core k g) s
  let chosen := (buildSlot s core).filter (fun x => !bad.contains x.slot)
  let order := sortBy Candidate.rank chosen
  let after (k : Nat) (g : Gang) : Gang :=
    afterSlot g (if g.residency == .present then (readySplits s core k g).map (fun e => e.1.mask) else [])
      ((chosen.filter (fun x => x.slot == k)).map (fun x => x.sp.mask))
  let s := mapGangs core after s
  let s := modCore s core (fun c => { c with rr := (c.rr + 1) % 48 })
  let s := { s with issueQ := order.map (fun x =>
    { core := core, slot := x.slot, lane := lowestLane x.sp.mask,
      binds := !x.peek.illegal && ((x.peek.ctx.map (fun c => c.binds s)).getD false) }) }
  bad.foldl (fun s k => mismatch core k s) s

/-- ISSUE_CYCLE (02 R47). -/
def execIssueCycle (core : Nat) (mismatch : List Nat) (s : State) : Host.Outcome State Fault Refusal :=
  .next (if lcoreValid s core || !(getCore s core).gangs.isEmpty then issueStage core mismatch s else s)

/-- SCOREBOARD_REBUILD (14 R311): once the gang's operations have drained it issues again. -/
def execScoreboardRebuild (core slot : Nat) (s : State) : Host.Outcome State Fault Refusal :=
  .next (match getGang s core slot with
    | some g => if g.squashed && g.ops.all (fun o => o.kind.waits) then
        modGang s core slot (fun g => { g with squashed := false, rebuilt := some s.cycles }) else s
    | none => s)

/-! ## Residency (02 R41 to R44) -/


/-- Bytes of the physical file that images take; a gang on its way up or down still has its room. -/
def fileUsed (c : Core) : Nat :=
  c.gangs.foldl (fun n e =>
    if e.2.residency == .lifted || e.2.residency == .waitingRoom then n else n + e.2.image) 0

/-- A gang's image fits: a launched gang's beside the spawn floor, a spawned gang's anywhere (02 R42, 04 R84). The images
that are in the file when a new group raises the floor stay there, though they leave less room than the floor: the spec does
not say what becomes of them, and this is the model's choice (log 107). -/
def imageFits (c : Core) (g : Gang) : Bool :=
  if 128 ≤ g.id then fileUsed c + g.image ≤ fileSize else fileUsed c + g.image + spawnFloor c ≤ fileSize

/-- A gang's image will fit beside some reserved bytes once the images on their way up have left. -/
def fitsSoon (c : Core) (reserved : Nat) (g : Gang) : Bool :=
  let leaving := c.gangs.foldl (fun n e => if e.2.residency == .lifting then n + e.2.image else n) 0
  let floor := if 128 ≤ g.id then 0 else spawnFloor c
  fileUsed c + reserved + g.image + floor ≤ fileSize + leaving

/-- The rendezvous of a core that waits for lifted participants to be recalled, so that its migration may rewrite their
records (03 R72, R74): one that is done and whose gangs the file holds together. -/
def regangRecall (s : State) (core : Nat) : Option Rendezvous :=
  let c := getCore s core
  c.groups.findSome? (fun e => if (mapFind s.preempts e.2.ctx).isSome then none else
    e.2.rendezvous.find? (fun r => rendezvousDone s core r && regangFits c r && !regangPresent c r))

/-- A gang takes part in the rendezvous that waits for recalls. -/
def inRecall (s : State) (core k : Nat) : Bool := ((regangRecall s core).map (fun r => r.parts.contains k)).getD false

/-- A gang may be lifted: no operation in flight writes its registers (02 R44), it is not about to issue, and its
rendezvous is not about to migrate its lanes. -/
def mayLift (s : State) (core : Nat) (k : Nat) (g : Gang) : Bool :=
  g.residency == .present && !inRecall s core k && !g.ops.any (fun o => o.kind == .lane true) &&
    !s.issueQ.any (fun c => c.core == core && c.slot == k) &&
    !(getCore s core).near.any (fun o => o.kind == 2 && o.ofGang k g)

/-- A wait on a join, a barrier or a tile (02 R44). -/
def Wait.soft (w : Wait) : Bool :=
  w.kind == .join || w.kind == .barrier || w.kind == .phase || w.kind == .tile || w.kind == .regang

/-- A gang that waits on a join, a barrier, a tile or a page (02 R44), with the clock since which it does: it is parked, or
none of its splits can issue and one of them waits so (04 R91, log 70). -/
def liftWait (s : State) (core k : Nat) (g : Gang) : Option Nat :=
  if g.parked.isSome then some g.parkedAt
  else if g.splits.any (fun sp => (sp.wait.map Wait.soft).getD false) && !gangReady s core k g then
    some (g.splits.foldl (fun n sp => max n ((sp.wait.map (·.since)).getD 0)) 0)
  else none

/-- The gang to lift next, to make room (02 R44 rule 2): the longest waiting, else, for a ready gang's sake, the one that
issued most recently of the ready gangs present for 512 cycles. -/
def liftChoice (s : State) (core : Nat) (ready : Bool) : Option Nat :=
  let all := (getCore s core).gangs.filter (fun e => mayLift s core e.1 e.2)
  let waits := all.filterMap (fun e => (liftWait s core e.1 e.2).map (fun t => (t, e.1)))
  match (sortBy (fun e => e.1) waits).head? with
  | some e => some e.2
  | none =>
    if !ready then none
    else
      let old := all.filter (fun e => gangReady s core e.1 e.2 && e.2.since + 512 ≤ s.cycles)
      ((sortBy (fun e => s.clock + 1 - (e.2.lastIssue.map (· + 1)).getD 0) old).head?).map (·.1)

/-- A sinter register traffic charge (12 R272): bytes of a move by bus width. -/
def chargeMove (core : Nat) (g : Gang) (rate : Nat) (s : State) : State :=
  match getGroup s core g.gslot with
  | some grp => chargeBudget 6 core (levelOf s grp) (ceilDiv g.image rate) s
  | none => s

/-- A gang's residency changes. -/
def setResidency (core slot : Nat) (r : Residency) (s : State) : State :=
  modGang s core slot (fun g => { g with residency := r, since := s.cycles })

/-- A level has budget for a move of a gang (12 R272). -/
def moveBudget (s : State) (core : Nat) (g : Gang) : Bool :=
  match getGroup s core g.gslot with
  | some grp => hasBudget s 6 core (levelOf s grp)
  | none => true

/-- A gang that waits to be present: a lifted gang that is ready, or has a trap to take or lanes to move (03 R74), or a
formed gang without room (02 R44, 04 R84). -/
def wantsRoom (s : State) (core : Nat) (k : Nat) (g : Gang) : Bool :=
  (g.residency == .lifted && (gangReady s core k g || !g.due.isEmpty || inRecall s core k)) || g.residency == .waitingRoom

/-- The gang that may be lifted next, and is not kept from it by a budget or the loss of the layer (12 R272, 14 R317). -/
def liftNext (s : State) (core : Nat) (ready : Bool) : Option (Nat × Gang) :=
  match liftChoice s core ready with
  | none => none
  | some k => match getGang s core k with
    | some g => if moveBudget s core g && !layerLost s (physCore s core % 2) then some (k, g) else none
    | none => none

/-- The move of one cycle for the gangs that want room, in their order (02 R44): the first that fits beside the room that
is on its way for those before it comes; for the first that will not fit, a gang is lifted, when one can be. A lifted gang
for which none can be keeps the room that has been made for it, so that it comes back (02 R49, log 70). -/
def liftFor (s : State) (core : Nat) : Nat → List (Nat × Gang) → Option (Nat × Gang × Residency)
  | _, [] => none
  | reserved, (k, g) :: rest =>
    let c := getCore s core
    if imageFits c g && fitsSoon c reserved g then
      some (k, g, if g.residency == .waitingRoom then .present else .recalling)
    else if fitsSoon c reserved g then liftFor s core (reserved + g.image) rest
    else match liftNext s core (g.residency == .lifted) with
      | some (j, x) => some (j, x, .lifting)
      | none => liftFor s core
          (if g.residency == .lifted && !layerLost s (physCore s core % 2) then reserved + g.image else reserved) rest

/-- The core's lift and recall decision (02 R44): the gangs that want room come in the order in which they were lifted or
formed (log 70). -/
def liftDecision (core : Nat) (s : State) : State :=
  let want := (getCore s core).gangs.filter (fun e => wantsRoom s core e.1 e.2 && moveBudget s core e.2)
  match liftFor s core 0 (sortBy (fun e => e.2.since) want) with
  | none => s
  | some (k, g, r) =>
    setResidency core k r (match r with
      | .recalling => chargeMove core g 656 s
      | .lifting => chargeMove core g 960 s
      | _ => s)

/-- LIFT_RECALL_DECISION (02 R44). -/
def execLiftRecallDecision (core : Nat) (s : State) : Host.Outcome State Fault Refusal := .next (liftDecision core s)

/-- GANG_LIFT_COMPLETE (02 R44). -/
def execGangLiftComplete (core slot : Nat) (s : State) : Host.Outcome State Fault Refusal :=
  .next (match getGang s core slot with
    | some g => if g.residency == .lifting then setResidency core slot .lifted s else s
    | none => s)

/-- GANG_RECALL_COMPLETE (02 R44): the traps that fell due meanwhile are taken (03 R74). -/
def execGangRecallComplete (core slot : Nat) (s : State) : Host.Outcome State Fault Refusal :=
  .next (match getGang s core slot with
    | some g => if g.residency == .recalling then takeDue core slot (setResidency core slot .present s) else s
    | none => s)

end Sys2Proof.Machine
end

