-- ==== Sys2Proof/Machine/Matrix.lean ====
section
/-! DEFINITION. The matrix instructions at issue (07 R144 to R158, R169, 19 R461 to R470). -/

namespace Sys2Proof.Machine

/-! ## Accumulator tiles (07 R144, R145) -/

/-- Index of an element. -/
def accIndex (r c : Nat) : Nat := 256 * r + c

/-- An element of a tile: listed, zero, or unspecified since a mapping (log 9). -/
def AccTile.elem (t : AccTile) (e : Nat) : AccElem :=
  match mapFind t.elems e with
  | some x => x
  | none => match t.unspec with
    | none => { res := List.replicate 10 0, poison := false }
    | some k =>
      { res := (List.range 10).map (fun j => (Config.tileResidue k e j).toNat % (if j < 8 then 256 else 512)),
        poison := (Config.tileResidue k e 10).getLsbD 0 }

/-- A tile with an element set. -/
def AccTile.setElem (t : AccTile) (e : Nat) (x : AccElem) : AccTile := { t with elems := mapSet t.elems e x }

/-- A tile after `mzero` (07 R164, 06 R126); its status bits stay. -/
def AccTile.zeroed (t : AccTile) : AccTile :=
  { t with unspec := none, stale := [], elems := [], kacc := 0, wmax := 0, hb := 0, hr := 0, cert := true }

/-- The headroom after an `mma` of extent K and width sum `w` (06 R127); HR has 7 bits (06 R126, log 110). -/
def AccTile.grown (t : AccTile) (k w : Nat) : AccTile :=
  let kacc := min (t.kacc + k) (2 ^ 32 - 1)
  let wmax := max t.wmax w
  let p := if kacc == 0 then 0 else wmax + clog2 kacc
  let hr := if t.hb == 0 then p else if p == 0 then t.hb else max t.hb p + 1
  { t with kacc := kacc, wmax := wmax, hr := min hr 127, cert := hr ≤ 62 && kacc < 2 ^ 32 - 1 }

/-- The headroom a load of base headroom HB sets (06 R127). -/
def AccTile.loaded (t : AccTile) (hb : Nat) : AccTile :=
  { t with kacc := 0, wmax := 0, hb := hb, hr := hb, cert := hb ≤ 62 }

/-- The status bits of a tile, in the order of the tile status word (07 R169). -/
def AccTile.bits (t : AccTile) : Nat :=
  (if t.hlim then 16 else 0) + (if t.unc then 8 else 0) + (if t.ovf then 4 else 0) + (if t.pois then 2 else 0) +
    (if t.sat then 1 else 0)

/-- The tile status word (07 R169). -/
def AccTile.status (t : AccTile) : Nat :=
  (if t.cert then 2 ^ 31 else 0) + t.hr % 128 * 2 ^ 24 + t.hb % 64 * 2 ^ 18 + t.bits

/-- A physical tile of a core. -/
def accTile (s : State) (core n : Nat) : AccTile := mapGet {} (getCore s core).acc n

/-- A physical tile of a core changed by a function. -/
def modAcc (core n : Nat) (f : AccTile → AccTile) (s : State) : State :=
  modCore s core (fun c => { c with acc := mapSet c.acc n (f (mapGet {} c.acc n)) })

/-- What a welt delivers of a residue (06 R137): all bits set when it does not answer or is cut (15 R330), or
a wrong value (06 R134). -/
def weltDelivers (s : State) (j e r : Nat) : Nat :=
  let top := if j < 8 then 0xFF else 0x1FF
  if (mapFind s.tripped j).isSome then top
  else match mapFind s.welts j with
    | some .silent => top
    | some (.stuck v) => v.toNat % (top + 1)
    | some (.altered m) => ((mapFind m e).map (fun v => v.toNat % (top + 1))).getD r
    | none => r

/-- The residues of element e of a tile as the welts deliver them; a welt that has not rejoined the tile holds zero
(15 R330). -/
def delivered (s : State) (t : AccTile) (e : Nat) (x : AccElem) : List Nat :=
  (List.range 10).map (fun j => weltDelivers s j e (if t.stale.contains j then 0 else x.res.getD j 0))

/-! ## Shapes (07 R146, R147) -/

/-- Fields of a shape request. -/
def shapeScope (r : BitVec 64) : Nat := field r 39 38
def shapeCols (r : BitVec 64) : Nat := 8 * (field r 37 33 + 1)
def shapeRows (r : BitVec 64) : Nat := 8 * (field r 32 29 + 1)
def shapeWb (r : BitVec 64) : Nat := field r 28 24 + 1
def shapeWa (r : BitVec 64) : Nat := field r 23 19 + 1
def shapeK (r : BitVec 64) : Nat := field r 15 0 + 1

/-- The grant word (07 R147). -/
def grantWord (r : BitVec 64) : Nat :=
  let long := 20 < max (shapeWa r) (shapeWb r)
  let head := shapeWa r + shapeWb r + clog2 (shapeK r)
  2 ^ 31 + shapeScope r * 2 ^ 29 + (if long then 2 ^ 28 else 0) + head % 128 * 2 ^ 21 + (if head ≤ 62 then 2 ^ 20 else 0) +
    shapeK r * (if long then 2 else 1)

/-- The ranks of a scope's cores, from a rank of the group (07 R158): the pair of a rank, or the quad. -/
def scopeRanks (scope rank : Nat) : List Nat :=
  if scope == 0 then [rank] else if scope == 1 then [rank / 2 * 2, rank / 2 * 2 + 1] else [0, 1, 2, 3]

/-- The cores that take part in a command (07 R158): core, group slot and group, in the order of their ranks. Where another
group of the cohort has retired, the groups that are left do not make up the scope, so that `mshape` grants nothing and a
scope command is illegal: the spec does not speak of that case (log 111). -/
def scopeParts (s : State) (core gslot scope : Nat) : List (Nat × Nat × Group) :=
  match getGroup s core gslot with
  | none => []
  | some g =>
    if scope == 0 then [(core, gslot, g)]
    else
      let members := cohortOf s core gslot
      (scopeRanks scope g.rank).filterMap (fun r => members.find? (fun e => e.2.2.rank == r))

/-- `mshape` may grant a scope (07 R147). -/
def grants (s : State) (core gslot scope : Nat) : Bool :=
  let parts := scopeParts s core gslot scope
  scope == 0 || (parts.length == (if scope == 1 then 2 else 4) &&
    parts.all (fun e => e.2.2.acc.length == ((parts.head?).map (fun x => x.2.2.acc.length)).getD 0))

/-- `mshape` (19 R468, 07 R146, R147). -/
def mshapeOp (c : Ctx) (s : State) : State :=
  let r := BitVec.ofNat 64 (c.a c.lane0)
  if c.act == 0 then complete c s
  else if field r 63 40 != 0 || field r 18 16 != 0 || shapeScope r == 3 || shapeScope r != c.mn then raiseIllegal c s
  else if grants s c.cur.core c.gang.gslot (shapeScope r) then
    completeWith c (fun g => { c.putD (fun _ => grantWord r) g with shape := some r }) s
  else completeWith c (c.putD (fun _ => 0)) s

/-! ## Issue of commands (07 R154, 19 R461) -/

/-- The accumulator tile that D names, within the group's count (07 R144). -/
def Ctx.accName (c : Ctx) (s : State) : Option Nat :=
  match namedReg c.f.e.d.toNat with
  | some (_, n) => if n < (c.group s).acc.length then some n else none
  | none => none

/-- The issuing core leads the scope, and every core of it holds the tile (07 R158). -/
def leads (c : Ctx) (s : State) (tile : Nat) : Bool :=
  let parts := scopeParts s c.cur.core c.gang.gslot c.mn
  c.mn == 0 || (parts.length == (if c.mn == 1 then 2 else 4) && ((parts.head?).map (fun e => e.1)).getD 128 == c.cur.core &&
    parts.all (fun e => tile < e.2.2.acc.length))

/-- Places a command in the queue; while 32 are queued the instruction is not ready (07 R154). -/
def queueMatrix (c : Ctx) (tile : Nat) (kind : MKind) (s : State) : State :=
  let k := getCore s c.cur.core
  if 32 ≤ k.mqueue.length then s
  else
    let m : MCommand := { kind := kind, scope := c.mn, tile := tile, slot := c.cur.slot, gslot := c.gang.gslot,
                          ctx := c.gang.ctx, id := k.opSeq }
    let s := setCore s c.cur.core { k with mqueue := k.mqueue ++ [m], opSeq := k.opSeq + 1 }
    completeWith c (startOp c (.engine k.opSeq)) s

/-- A matrix command at issue: what is illegal is so before anything is queued (19 R461). -/
def matrixIssue (c : Ctx) (bad : Bool) (k : Nat → State → State) (s : State) : State :=
  match c.accName s with
  | none => raiseIllegal c s
  | some t =>
    if bad || !leads c s t then raiseIllegal c s
    else if c.act == 0 then complete c s
    else k t s

/-- `mzero` (19 R470). -/
def mzeroOp (c : Ctx) : State → State := matrixIssue c false (fun t => queueMatrix c t .mzero)

/-- The pair at a scalar register, and the register after it. -/
def Ctx.pairAt (c : Ctx) (n : Nat) : Nat := sregs c.gang 2 n
def Ctx.strideAt (c : Ctx) (n : Nat) : Nat := (sreg c.gang (n + 2)).toNat

/-- An operand of `mma` (19 R464). -/
def Ctx.mmaOperand (c : Ctx) (kind field len : Nat) : MOperand :=
  if kind == 2 then .ring (match namedReg field with | some (_, n) => n | none => 0) (len + 1)
  else .addr (c.pairAt field % 2 ^ 52) (c.strideAt field)

/-- `mma` (19 R464): the shape is the gang's current one at issue. -/
def mmaOp (c : Ctx) (s : State) : State :=
  match c.gang.shape with
  | none => raiseIllegal c s
  | some r =>
    let a := c.mmaOperand c.f.e.ka.toNat c.f.e.a.toNat (c.immN % 16)
    let b := c.mmaOperand c.f.e.kb.toNat c.f.e.b.toNat (c.immN / 16)
    matrixIssue c (shapeScope r != c.mn) (fun t => queueMatrix c t (.mma a b r c.f.e.sat (c.md == 1))) s

/-- `mldc.rp8` (19 R463). -/
def mldcRp8Op (c : Ctx) : State → State := matrixIssue c false (fun t =>
  queueMatrix c t (.mldcRp8 (c.pairAt c.f.e.a.toNat % 2 ^ 52) (c.strideAt c.f.e.a.toNat) c.immN))

/-- `mldc.img` (19 R463). -/
def mldcImgOp (c : Ctx) : State → State := matrixIssue c false (fun t =>
  queueMatrix c t (.mldcImg (c.pairAt c.f.e.a.toNat % 2 ^ 52)))

/-- `mdrain` (19 R462): its descriptor's place is checked at issue. -/
def mdrainOp (c : Ctx) : State → State := matrixIssue c false (fun t s =>
  onceAt c 32 32 (c.a c.lane0) (queueMatrix c t (.mdrain (c.a c.lane0))) s)

/-- `msave` (19 R467). -/
def msaveOp (c : Ctx) : State → State := matrixIssue c false (fun t =>
  queueMatrix c t (.msave (c.pairAt c.f.e.a.toNat % 2 ^ 52)))

/-- The commands that run on a core's engine: its own, and while it is slaved the leader's of a wider scope (07 R159). -/
def engineRuns (s : State) (core : Nat) : List MCommand :=
  (getCore s core).mrun ++ (match (getCore s core).slaved with
    | some l => (getCore s l).mrun.filter (fun m => m.scope != 0)
    | none => [])

/-- The running `mma` of a core's engine. -/
def runningMma (s : State) (core : Nat) : Option MCommand :=
  (engineRuns s core).find? (fun m => match m.kind with | .mma _ _ _ _ _ => true | _ => false)

/-- The engine word (07 R169): FAULTWAIT stands for a stop on a page request (07 R161), not on a migration (11 R253). -/
def engineWord (s : State) (core : Nat) : Nat :=
  (if (engineRuns s core).any (fun m => match m.onPage with
      | some (.page _) => true
      | _ => false) then 2 ^ 31 else 0) +
    (if (getCore s core).slaved.isSome then 2 ^ 30 else 0) + (getCore s core).mqueue.length % 64 * 2 ^ 24

/-- `mstat` (19 R469, 07 R169). -/
def mstatOp (c : Ctx) (s : State) : State :=
  let sel := c.immN
  let put (v : Nat) := completeWith c (c.putD (fun _ => v))
  if sel < 4 then
    if c.act == 0 then complete c s
    else put (if sel == 0 then engineWord s c.cur.core else ((runningMma s c.cur.core).map (fun m => m.row)).getD 0) s
  else match (c.group s).acc[sel % 4]? with
    | none => raiseIllegal c s
    | some n =>
      let t := accTile s c.cur.core n
      if c.act == 0 then complete c s
      else if 8 ≤ sel then put t.kacc s
      else put t.status (if c.md == 1 then
        modAcc c.cur.core n (fun t => { t with sat := false, pois := false, ovf := false, unc := false, hlim := false }) s
        else s)

/-- `mshape` (19 R468). -/
def execMshape (f : Form) (s : State) : Host.Outcome State Fault Refusal :=
  issueForm 0x79 f mshapeOp s

/-- `mzero` (19 R470). -/
def execMzero (f : Form) (s : State) : Host.Outcome State Fault Refusal :=
  issueForm 0x7A f mzeroOp s

/-- `mma` (19 R464). -/
def execMma (f : Form) (s : State) : Host.Outcome State Fault Refusal :=
  issueForm 0x7B f mmaOp s

/-- `mldc.rp8` (19 R463). -/
def execMldcRp8 (f : Form) (s : State) : Host.Outcome State Fault Refusal :=
  issueForm 0x7C f mldcRp8Op s

/-- `mldc.img` (19 R463). -/
def execMldcImg (f : Form) (s : State) : Host.Outcome State Fault Refusal :=
  issueForm 0x7C f mldcImgOp s

/-- `mdrain` (19 R462). -/
def execMdrain (f : Form) (s : State) : Host.Outcome State Fault Refusal :=
  issueForm 0x7D f mdrainOp s

/-- `msave` (19 R467). -/
def execMsave (f : Form) (s : State) : Host.Outcome State Fault Refusal :=
  issueForm 0x7E f msaveOp s

/-- `mstat` (19 R469). -/
def execMstat (f : Form) (s : State) : Host.Outcome State Fault Refusal :=
  issueForm 0x7F f mstatOp s

end Sys2Proof.Machine
end

