-- ==== Sys2Proof/Machine/MatrixRun.lean ====
section
/-! DEFINITION. The matrix engine at work (07 R148 to R168, 06 R126 to R140). One step performs one k-step of an `mma`,
or a piece of another command (log 1). -/

namespace Sys2Proof.Machine

/-! ## Commands -/

/-- The engine-fault kind of a command (13 R281). -/
def kindCode : MKind → Nat
  | .mzero => 1
  | .mma _ _ _ _ _ => 2
  | .mldcRp8 _ _ _ | .mldcImg _ => 3
  | .mdrain _ => 4
  | .msave _ => 5

/-- Commands that use the buses and the Cobbler (07 R155). -/
def movesData : MKind → Bool
  | .mldcRp8 _ _ _ | .mldcImg _ | .mdrain _ | .msave _ => true
  | _ => false

/-- The cores of a command, in the order of their ranks. -/
def cmdParts (s : State) (core : Nat) (m : MCommand) : List (Nat × Nat × Group) := scopeParts s core m.gslot m.scope

/-- The physical tile of a command on a core of its scope. -/
def physTile (g : Group) (m : MCommand) : Nat := g.acc.getD m.tile 0

/-- A running command changed by a function. -/
def modCmd (core : Nat) (m : MCommand) (f : MCommand → MCommand) (s : State) : State :=
  modCore s core (fun c => { c with mrun := c.mrun.map (fun x => if x.id == m.id then f x else x) })

/-- A command retires (07 R156): its operation is over, and its followers are free (07 R159). -/
def retireCmd (core : Nat) (m : MCommand) (s : State) : State :=
  let s := modCore s core (fun c => { c with mrun := c.mrun.filter (fun x => x.id != m.id) })
  let s := if m.scope != 0 && !(getCore s core).mrun.any (fun x => x.scope != 0) then freeFollowers core s else s
  endOp core m.slot m.id s

/-- A command retires with a fault (07 R162). -/
def faultCmd (core : Nat) (m : MCommand) (tinfo : Nat) (s : State) : State :=
  retireCmd core m (engineFault core m.slot m.gslot m.ctx m.id tinfo s)

/-- A command retires with a fault of a reason. -/
def faultReason (core : Nat) (m : MCommand) (reason : Nat) (s : State) : State :=
  faultCmd core m (engineInfo (kindCode m.kind) reason) s

/-- Lines that an engine's read of a range takes from L2 (08 R181). -/
def countLines (core ctx va n : Nat) (s : State) : State :=
  (List.range (ceilDiv (va % 128 + n) 128)).foldl (fun s k => engineCount core ctx ((va / 128 + k) * 128 % 2 ^ 52) s) s

/-- Reads a range of virtual addresses for a command. -/
def cmdRead (core : Nat) (m : MCommand) (g : Group) (va n : Nat) (s : State) : EngineRead × State :=
  match engineRead core m.ctx (some g) { refs := m.refs } (n + 1) (va % 2 ^ 52) n s with
  | (.inl bs, s) => (.inl bs, countLines core m.ctx (va % 2 ^ 52) n s)
  | r => r

/-- What an engine's write comes to. -/
inductive Put where
  | done
  | miss (e : Reach × Nat)
  /-- No way of a held version is free, or the version overflows (08 R182). -/
  | full
  | overflow
deriving DecidableEq, Repr

/-- The physical places of some writes of a command: virtual address, physical address and bytes. -/
def placeWrites (core : Nat) (m : MCommand) :
    List (Nat × List Byte) → State → (List (Nat × Nat × List Byte) ⊕ Reach × Nat) × State
  | [], s => (.inl [], s)
  | (va, bs) :: rest, s =>
    match engineSpan core m.ctx { write := true, refs := m.refs } (bs.length + 1) (va % 2 ^ 52) bs.length s with
    | (.inr e, s) => (.inr e, s)
    | (.inl pieces, s) => match placeWrites core m rest s with
      | (.inr e, s) => (.inr e, s)
      | (.inl more, s) =>
        let cut := (pieces.foldl (fun (x : List Byte × List (Nat × Nat × List Byte)) p =>
          (x.1.drop p.2.2, (p.1, p.2.1, x.1.take p.2.2) :: x.2)) (bs, [])).2
        (.inl (cut.reverse ++ more), s)

/-- Makes some writes of a command of a leader for a core of its scope, all or none; the lines leave the L1 of both (07 R156,
08 R178). -/
def cmdWrite (lead core gslot : Nat) (g : Group) (m : MCommand) (l : List (Nat × List Byte)) (s : State) : Put × State :=
  match placeWrites core m l s with
  | (.inr e, s) => (.miss e, s)
  | (.inl ws, s) =>
    let rooms := if g.held then ws.map (fun p => rangeRoom s g p.2.1 p.2.2.length) else []
    if rooms.contains .overflow then (.overflow, s)
    else if rooms.contains .full then (.full, s)
    else (.done, ws.foldl (fun s p =>
      dropLines lead p.2.1 p.2.2.length (engineStore core gslot p.1 p.2.1 false p.2.2 s)) s)

/-! ## Acceptance (07 R155, R159) -/

/-- Container bytes of an operand width (07 R148). -/
def containerOf (w : Nat) : Nat := if w ≤ 8 then 1 else if w ≤ 16 then 2 else 4

/-- An address operand breaks R150. -/
def badOperand (cb : Nat) : MOperand → Bool
  | .ring _ _ => false
  | .addr base stride => base % cb != 0 || stride % cb != 0 || stride == 0 || 2 ^ 31 ≤ stride

/-- Fields of a drain descriptor (07 R167). -/
def dDst (d : BitVec 256) : Nat := field d 255 204
def dSdst (d : BitVec 256) : Nat := field d 203 152
def dRow (d : BitVec 256) : Nat := field d 151 132
def dSrow (d : BitVec 256) : Nat := field d 131 112
def dBsa (d : BitVec 256) : Nat := field d 111 93
def dBsb (d : BitVec 256) : Nat := field d 92 74
def dExp (d : BitVec 256) : Int := (d.extractLsb' 64 10).toInt
def dSh (d : BitVec 256) : Nat := field d 63 58
def dRm (d : BitVec 256) : Nat := field d 57 55
def dFmt (d : BitVec 256) : Nat := field d 54 51
def dBand (d : BitVec 256) : Bool := field d 50 50 == 1
def dSp (d : BitVec 256) : Bool := field d 49 49 == 1

/-- Bytes of one element, of an FP4 word or of an RP8 unit (07 R167). -/
def unitBytes (fmt : Nat) : Nat := [1, 2, 4, 4, 2, 2, 4, 512, 8].getD fmt 1

/-- Elements of a unit. -/
def unitElems (fmt : Nat) : Nat := if fmt == 6 then 8 else if fmt == 7 then 64 else 1

/-- The reason a drain descriptor is refused (07 R167), in the order of the text (log 12). -/
def drainReason (g : Group) (d : BitVec 256) : Option Nat :=
  let fmt := dFmt d
  let int := fmt ≤ 2 || fmt == 8
  let bad := 9 ≤ fmt || field d 48 0 != 0 || 4 < dRm d || (int && (dExp d != 0 || dBand d)) ||
    (fmt == 7 && (dSh d != 0 || dRm d != 0 || dExp d != 0 || dBand d || dDst d % 512 != 0 || dRow d % 2048 != 0)) ||
    (dSp d && (2 ^ 19 ≤ dDst d || 2 ^ 19 ≤ dSdst d)) || (fmt != 6 && (dSdst d != 0 || dSrow d != 0))
  let u := unitBytes fmt
  let last := 127 * dRow d + (256 / unitElems fmt) * u
  let outside := (dSp d && (g.ssize < dDst d + last || (fmt == 6 && g.ssize < dSdst d + 127 * dSrow d + 32))) ||
    (dBand d && (g.ssize < dBsa d + 4 || g.ssize < dBsb d + 8))
  if bad then some 4
  else if dDst d % u != 0 || dRow d % u != 0 then some 3
  else if outside then some 6
  else none

/-- The drain descriptors of a command's cores, or the reason one is refused. -/
def readDescs (s : State) (off : Nat) : List (Nat × Nat × Group) → List (BitVec 256) ⊕ Nat
  | [] => .inl []
  | (c, _, g) :: rest =>
    if g.ssize < off + 32 then .inr 6
    else
      let d := BitVec.ofNat 256 (scratchRead s c g off 32)
      match drainReason g d, readDescs s off rest with
      | some r, _ => .inr r
      | none, .inl l => .inl (d :: l)
      | none, .inr r => .inr r

/-! ## What a command has yet to read or write in memory (07 R155, 11 R254) -/

/-- Some bytes from a virtual address on. -/
def spanAt (va n : Nat) : Nat × Nat := (va % 2 ^ 52, n)

/-- The bytes of an operand by address at a k-step, on `n` cores (07 R149, R150). -/
def stepBytes (isA : Bool) (n : Nat) (r : BitVec 64) (k : Nat) : MOperand → List (Nat × Nat)
  | .ring _ _ => []
  | .addr base stride =>
    if isA then (List.range n).flatMap (fun i => (List.range (shapeRows r)).map (fun q =>
      spanAt (base + (128 * i + q) * stride + k * containerOf (shapeWa r)) (containerOf (shapeWa r))))
    else [spanAt (base + k * stride) (shapeCols r * containerOf (shapeWb r))]

/-- The same from a k-step on: a row of A each, and the rows of B together. -/
def stepsLeft (isA : Bool) (n : Nat) (r : BitVec 64) (k : Nat) : MOperand → List (Nat × Nat)
  | .ring _ _ => []
  | .addr base stride =>
    if shapeK r ≤ k then []
    else if isA then (List.range n).flatMap (fun i => (List.range (shapeRows r)).map (fun q =>
      spanAt (base + (128 * i + q) * stride + k * containerOf (shapeWa r)) ((shapeK r - k) * containerOf (shapeWa r))))
    else [spanAt (base + k * stride) ((shapeK r - 1 - k) * stride + shapeCols r * containerOf (shapeWb r))]

/-- The destination and the scale destination of a drain for the core of a rank, from a row of its tile on (07 R167). -/
def drainRows (d : BitVec 256) (rank row : Nat) : List (Nat × Nat) :=
  let q := row + (if dSp d then 0 else 128 * rank)
  let rows := spanAt (dDst d + q * dRow d) ((127 - row) * dRow d + 256 / unitElems (dFmt d) * unitBytes (dFmt d))
  if dFmt d == 6 then [rows, spanAt (dSdst d + q * dSrow d) ((127 - row) * dSrow d + 32)] else [rows]

/-- What a command has yet to read or write in global memory from its row on. -/
def cmdLeft (n : Nat) (m : MCommand) : List (Nat × Nat) :=
  match m.kind with
  | .mzero => []
  | .mma a b r _ _ => stepsLeft true n r m.row a ++ stepsLeft false n r m.row b
  | .mldcRp8 base stride _ =>
    let q := m.row / n / 4
    if 128 ≤ q then [] else (List.range n).map (fun i => spanAt (base + (128 * i + q) * stride) ((127 - q) * stride + 2048))
  | .mldcImg base => [spanAt base 401408]
  | .mdrain _ =>
    let row := m.row / 64 / n / 4
    if 128 ≤ row then []
    else (m.descs.zip (List.range n)).flatMap (fun e => if dSp e.1 then [] else drainRows e.1 e.2 row)
  | .msave base => [spanAt base 401408]

/-- What a command reads or writes in global memory at its row; of a drain and of `mldc`, what it does is given. -/
def cmdHere (n : Nat) (m : MCommand) : List (Nat × Nat) :=
  match m.kind with
  | .mma a b r _ _ => stepBytes true n r m.row a ++ stepBytes false n r m.row b
  | .mldcRp8 base stride _ =>
    [spanAt (base + (128 * (m.row % n) + m.row / n / 4) * stride + m.row / n % 4 * 512) 512]
  | .mldcImg base => (List.range 98).map (fun k => spanAt (base + 4096 * k) 4096)
  | .mzero | .mdrain _ | .msave _ => []

/-- The references of a command that has accessed some bytes and has to go on from a row (11 R254): an `msave` holds
none. -/
def cmdRefs (s : State) (n : Nat) (m : MCommand) (old : List PageRef) (done : List (Nat × Nat)) (row : Nat) : List PageRef :=
  if kindCode m.kind == 5 then [] else pageRefs s m.ctx old done (cmdLeft n { m with row := row })

/-- A command goes on to a row, with its references. -/
def passRow (core : Nat) (m : MCommand) (row : Nat) (s : State) : State :=
  let n := max (cmdParts s core m).length 1
  modCmd core m (fun x => { x with row := row, peer := none, refs := cmdRefs s n m x.refs (cmdHere n m) row }) s

/-- A command stops at an address, with references on the pages that it has translated of some bytes before it
(11 R254). -/
def stopCmd (core : Nat) (m : MCommand) (here : List (Nat × Nat)) (va : Nat) (why : Park) (s : State) : State :=
  let n := max (cmdParts s core m).length 1
  modCmd core m (fun x => { x with
    onPage := some why, refs := cmdRefs s n m x.refs (beforeMiss va (here.flatMap wrapRange)) x.row }) s

/-- What a command meets at an address that it cannot use (07 R161, R162, 13 R288), of some bytes that it accesses. -/
def cmdMissed (core : Nat) (m : MCommand) (write : Bool) (here : List (Nat × Nat)) (e : Reach × Nat) (s : State) : State :=
  match e.1 with
  | .invalid =>
    requestPage m.ctx e.2 core 2 write false (.matrix core m.id) (stopCmd core m here e.2 (.page (e.2 / 4096)) s)
  | .migrating => stopCmd core m here e.2 .migration s
  | .trap _ info => faultCmd core m (engineAccessInfo (kindCode m.kind) 5 info) s
  | .lost d => retireCmd core m (noteOpPeer core m.slot m.id d s)
  | .hold d => modCmd core m (fun x => { x with peer := d }) s
  | .ok _ => s

/-- What follows a write of some bytes that a command could not make. -/
def putFailed (core : Nat) (m : MCommand) (here : List (Nat × Nat)) (p : Put) (s : State) : State :=
  match p with
  | .done | .full => s
  | .miss e => cmdMissed core m true here e s
  | .overflow => failTask core m.gslot 1 0x0A s

/-- The physical ranges of some bytes from a virtual address on, leaf by leaf; a page without a leaf may come to lie
anywhere. -/
def framesOf (s : State) (ctx : Nat) : Nat → Nat → Nat → List (Nat × Nat)
  | 0, _, _ => []
  | fuel + 1, va, n =>
    if n == 0 then []
    else match leafOf s ctx va with
      | some e =>
        let m := min n (e.va + 2 ^ e.size - va)
        (localPa s (e.phys va), m) :: framesOf s ctx fuel ((va + m) % 2 ^ 52) (n - m)
      | none =>
        let m := min n (4096 - va % 4096)
        (0, 2 ^ 52) :: framesOf s ctx fuel ((va + m) % 2 ^ 52) (n - m)

/-- Two ranges have a byte in common. -/
def rangesMeet (x y : Nat × Nat) : Bool := x.1 < y.1 + y.2 && y.1 < x.1 + x.2

/-- Some extents of virtual addresses of a context have a byte of memory in common with others, as their pages lie. -/
def extentsMeet (s : State) (cx cy : Nat) (xs ys : List (Nat × Nat)) : Bool :=
  let frames (ctx : Nat) (l : List (Nat × Nat)) := l.flatMap (fun t => framesOf s ctx (t.2 / 4096 + 2) t.1 t.2)
  !xs.isEmpty && !ys.isEmpty && (frames cx xs).any (fun x => (frames cy ys).any (rangesMeet x))

/-- The scratchpad of a core that a ring holds (07 R149). -/
def ringScratch (s : State) (core : Nat) (g : Group) : MOperand → List (Nat × Nat × Nat)
  | .ring first len => (List.range len).filterMap (fun k => (g.tileEntry ((first + k) % 64)).map (fun e =>
      (core, tileBase (tileWord s core e), tileSize (tileWord s core e))))
  | .addr _ _ => []

/-- The scratchpad that an `mma` reads, and that a drain writes, by core. -/
def cmdScratch (parts : List (Nat × Nat × Group)) (m : MCommand) (s : State) : List (Nat × Nat × Nat) :=
  match m.kind with
  | .mma a b _ _ _ =>
    parts.flatMap (fun e => ringScratch s e.1 e.2.2 a) ++
      (match parts with
        | e :: _ => ringScratch s e.1 e.2.2 b
        | [] => [])
  | .mdrain _ => (parts.zip m.descs).flatMap (fun e =>
      if dSp e.2 then (drainRows e.2 0 0).map (fun t => (e.1.1, t.1, t.2)) else [])
  | _ => []

/-- A queued command with what it reads at its acceptance. -/
def withDescs (s : State) (core : Nat) (m : MCommand) : MCommand :=
  match m.kind with
  | .mdrain off => if m.begun then m else match readDescs s off (cmdParts s core m) with
    | .inl ds => { m with descs := ds }
    | .inr _ => m
  | _ => m

/-- An `mma` and a drain or a save have memory or scratchpad in common, so that they run one after the other (07 R155). -/
def cmdsMeet (s : State) (core : Nat) (x y : MCommand) : Bool :=
  let mma (m : MCommand) : Bool := kindCode m.kind == 2
  let writes (m : MCommand) : Bool := 4 ≤ kindCode m.kind
  if (mma x && writes y) || (writes x && mma y) then
    let px := cmdParts s core x
    let py := cmdParts s core y
    extentsMeet s x.ctx y.ctx (cmdLeft (max px.length 1) x) (cmdLeft (max py.length 1) y) ||
      (cmdScratch px x s).any (fun a => (cmdScratch py y s).any (fun b => a.1 == b.1 && rangesMeet a.2 b.2))
  else false

/-- Every core's tile of a command changed by a function. -/
def modTiles (m : MCommand) (parts : List (Nat × Nat × Group)) (f : AccTile → AccTile) (s : State) : State :=
  parts.foldl (fun s e => modAcc e.1 (physTile e.2.2 m) f s) s

/-- A command begins to run. -/
def startCmd (core : Nat) (m : MCommand) (s : State) : State := modCore s core (fun c => { c with mrun := c.mrun ++ [m] })

/-- The engine accepts the command at the head of its queue: what each kind checks and does then (07 R151, R162, R165,
R167). -/
def acceptCmd (core : Nat) (m : MCommand) (s : State) : State :=
  let parts := cmdParts s core m
  let s := modCore s core (fun c => { c with mqueue := c.mqueue.tail })
  if m.begun then startCmd core m s
  else match m.kind with
  | .mzero => startCmd core m s
  | .mma a b r sat _ =>
    let k := shapeK r
    let w := shapeWa r + shapeWb r
    if badOperand (containerOf (shapeWa r)) a || badOperand (containerOf (shapeWb r)) b then faultReason core m 3 s
    else if sat && parts.any (fun e => !((accTile s e.1 (physTile e.2.2 m)).grown k w).cert) then
      retireCmd core m (modTiles m parts (fun t => { t with hlim := true }) s)
    else startCmd core { m with ringA := parts.map (fun _ => {}) } (modTiles m parts (fun t => t.grown k w) s)
  | .mldcRp8 base stride hb =>
    if base % 512 != 0 || stride % 2048 != 0 then faultReason core m 3 s
    else startCmd core m (modTiles m parts (fun t => t.loaded hb) s)
  | .mldcImg base | .msave base => if base % 4096 != 0 then faultReason core m 3 s else startCmd core m s
  | .mdrain off => match readDescs s off parts with
    | .inl ds => startCmd core { m with descs := ds } s
    | .inr reason => faultReason core m reason s

/-- A command may run beside those that run (07 R155): its tile is free, its kind has room, and none of them writes what it
reads or reads what it writes. -/
def roomFor (s : State) (core : Nat) (m : MCommand) : Bool :=
  let c := getCore s core
  let isMma (x : MCommand) : Bool := kindCode x.kind == 2
  let isZero (x : MCommand) : Bool := kindCode x.kind == 1
  !c.mrun.any isZero && (!isZero m || c.mrun.isEmpty) && !(isMma m && c.mrun.any isMma) &&
    !(movesData m.kind && c.mrun.any (fun x => movesData x.kind)) &&
    !c.mrun.any (fun x => x.tile == m.tile && x.gslot == m.gslot) &&
    !c.mrun.any (fun x => cmdsMeet s core x (withDescs s core m))

/-- The engines of a command's cores have budget left at its level (12 R272). -/
def cmdBudget (s : State) (core : Nat) (m : MCommand) : Bool :=
  (cmdParts s core m).all (fun e => hasBudget s 1 e.1 (levelOf s e.2.2))

/-- The command that an engine would accept next, of core scope or of a wider one. -/
def headCmd (s : State) (core : Nat) (wide : Bool) : Option MCommand :=
  let c := getCore s core
  match c.mqueue with
  | [] => none
  | m :: _ =>
    if (m.scope != 0) == wide && c.slaved.isNone && roomFor s core m && !heldForSave s core m.ctx c.mqueue.length &&
      cmdBudget s core m then some m else none

/-- MATRIX_CMD_ACCEPT (07 R155). -/
def execMatrixCmdAccept (core : Nat) (s : State) : Host.Outcome State Fault Refusal :=
  .next (match headCmd s core false with
    | some m => acceptCmd core m s
    | none => s)

/-- Every follower engine of a scope command has finished its running commands and those issued before (07 R159), those too
that wait in its queue while it is slaved to the leader. -/
def followersFree (s : State) (core : Nat) (m : MCommand) : Bool :=
  (cmdParts s core m).all (fun e =>
    let c := getCore s e.1
    e.1 == core || (c.mqueue.isEmpty && (c.slaved == some core || (c.mrun.isEmpty && c.slaved.isNone))))

/-- SCOPE_COMMAND_START (07 R159): the followers are slaved while a command of the scope runs. -/
def execScopeCommandStart (core : Nat) (s : State) : Host.Outcome State Fault Refusal :=
  .next (match headCmd s core true with
    | some m =>
      if followersFree s core m then
        let s := (cmdParts s core m).foldl (fun s e =>
          if e.1 == core then s else modCore s e.1 (fun c => { c with slaved := some core })) s
        let s := acceptCmd core m s
        if (getCore s core).mrun.any (fun x => x.scope != 0) then s else freeFollowers core s
      else s
    | none => s)

/-! ## `mma` (07 R148 to R153) -/

/-- A word of an operand: the value of its low `w` bits, and whether it is poison (07 R148). -/
structure OpWord where
  val : Int
  poison : Bool
deriving DecidableEq, Repr

/-- The word that a container holds (07 R148). -/
def operandWord (w : Nat) (x : Nat) : OpWord :=
  { val := intOf w true (b64 (x % 2 ^ w)), poison := 17 ≤ w && w ≤ 20 && x == 0xFFF80000 }

/-- Words of `cb` bytes in a list of bytes. -/
def wordsOf (w cb n : Nat) (bs : List Byte) : List (OpWord) :=
  (List.range n).map (fun i => operandWord w (bytesToNat ((bs.drop (cb * i)).take cb)))

/-- What opening a ring tile gives: the ring's place with the tile open, the wait, or the shape fault. -/
inductive RingOpen where
  | ready (p : RingPos) (entry : Nat)
  | waits
  | shape
deriving DecidableEq, Repr

/-- The table entry of a ring at its place, and the k-steps of its tile (07 R149). -/
def ringEntry (g : Group) (first len : Nat) (p : RingPos) : Option Nat := g.tileEntry ((first + p.idx % len) % 64)

/-- The k-steps of a tile whose steps are of `unit` bytes. -/
def ringSteps (s : State) (core entry unit : Nat) : Nat := tileSize (tileWord s core entry) / unit

/-- Reaches the tile of a ring that holds the next k-step (07 R149). A tile that is not ready is waited for before its size is
checked: the spec does not say which comes first, and this is the model's choice (log 113). -/
def openRing (s : State) (core : Nat) (g : Group) (first len unit k : Nat) (p : RingPos) : RingOpen :=
  match ringEntry g first len p with
  | none => .shape
  | some e =>
    let w := tileWord s core e
    if p.reading then .ready p e
    else if tileState w != 2 || 31 ≤ tileReaders w then .waits
    else if tileSize w % unit != 0 || k < p.start + tileSize w / unit then .shape
    else .ready { p with reading := true } e

/-- The ring's place after k-step `row`: past the tile's last step its reader ends, and `.rel` releases it. -/
def stepRing (core entry unit row : Nat) (rel : Bool) (p : RingPos) (s : State) : RingPos × State :=
  let kt := ringSteps s core entry unit
  if row + 1 == p.start + kt then
    let s := if rel then releaseTile core entry s else s
    ({ idx := p.idx + 1, start := p.start + kt, reading := false }, endReader core entry s)
  else (p, s)

/-- One core's part of a k-step of an operand: a column of A or a row of B. -/
inductive StepRead where
  | words (l : List (OpWord))
  | waits
  | shape
  | miss (e : Reach × Nat)
deriving DecidableEq, Repr

/-- Reads `n` words of an operand at k-step `k`: operand A by rows, each `stride` apart, operand B side by side. `lines`
is the number of elements a ring holds for one step. -/
def readStep (core : Nat) (g : Group) (m : MCommand) (op : MOperand) (isA : Bool) (w n lines kAll k rank : Nat) (p : RingPos)
    (s : State) : StepRead × RingPos × State :=
  let cb := containerOf w
  match op with
  | .ring first len =>
    match openRing s core g first len (lines * cb) kAll p with
    | .waits => (.waits, p, s)
    | .shape => (.shape, p, s)
    | .ready q e =>
      let s := if p.reading then s else beginReader core e s
      let at_ := tileBase (tileWord s core e) + (k - q.start) * lines * cb
      (.words (wordsOf w cb n (natToBytes (n * cb) (scratchRead s core g at_ (n * cb)))), q, s)
  | .addr base stride =>
    if isA then
      let rec rows : Nat → Nat → List (OpWord) → State → StepRead × State
        | 0, _, out, s => (.words out.reverse, s)
        | left + 1, r, out, s =>
          match cmdRead core m g (base + (128 * rank + r) * stride + k * cb) cb s with
          | (.inl bs, s) => rows left (r + 1) (operandWord w (bytesToNat bs) :: out) s
          | (.inr e, s) => (.miss e, s)
      let (x, s) := rows n 0 [] s
      (x, p, s)
    else match cmdRead core m g (base + k * stride) (n * cb) s with
      | (.inl bs, s) => (.words (wordsOf w cb n bs), p, s)
      | (.inr e, s) => (.miss e, p, s)

/-- A's words of every core of the scope at a k-step. -/
def readColumns (m : MCommand) (op : MOperand) (r : BitVec 64) (rank : Nat) :
    List (Nat × Nat × Group) → List RingPos → State → (List (List (OpWord)) ⊕ StepRead) × List RingPos × State
  | [], _, s => (.inl [], [], s)
  | (c, _, g) :: rest, ps, s =>
    let p := ps.headD {}
    match readStep c g m op true (shapeWa r) (shapeRows r) 128 (shapeK r) m.row rank p s with
    | (.words l, q, s) => match readColumns m op r (rank + 1) rest ps.tail s with
      | (.inl ls, qs, s) => (.inl (l :: ls), q :: qs, s)
      | (.inr e, qs, s) => (.inr e, q :: qs, s)
    | (e, q, s) => (.inr e, q :: ps.tail, s)

/-- A word is zero and not poison (07 R153). -/
def zeroWord (x : OpWord) : Bool := x.val == 0 && !x.poison

/-- One product added to an element in every channel (07 R151). -/
def addProduct (x : AccElem) (a b : OpWord) : AccElem :=
  { res := (List.range 10).map (fun j => (x.res.getD j 0 + residueOf j a.val * residueOf j b.val) % modulus j),
    poison := x.poison || a.poison || b.poison }

/-- One row of a tile after a k-step. -/
def addRow (row : Nat) (a : OpWord) (bs : List (OpWord)) (t : AccTile) : AccTile :=
  if zeroWord a then t
  else (bs.zip (List.range bs.length)).foldl (fun t e =>
    t.setElem (accIndex row e.2) (addProduct (t.elem (accIndex row e.2)) a e.1)) t

/-- A core's tile after a k-step. -/
def addStep (as bs : List (OpWord)) (t : AccTile) : AccTile :=
  (as.zip (List.range as.length)).foldl (fun t e => addRow e.2 e.1 bs t) t

/-- The rings of operand A after a k-step. -/
def stepRings (op : MOperand) (r : BitVec 64) (row : Nat) (rel : Bool) :
    List (Nat × Nat × Group) → List RingPos → State → List RingPos × State
  | (c, _, g) :: rest, p :: ps, s =>
    let (p, s) := match op with
      | .ring first len => match ringEntry g first len p with
        | some e => stepRing c e (128 * containerOf (shapeWa r)) row rel p s
        | none => (p, s)
      | .addr _ _ => (p, s)
    let (ps, s) := stepRings op r row rel rest ps s
    (p :: ps, s)
  | _, ps, s => (ps, s)

/-- The engine stops reading the tiles that a command has open. -/
def closeRings (core : Nat) (m : MCommand) (s : State) : State :=
  match m.kind with
  | .mma a b _ _ _ =>
    let parts := cmdParts s core m
    let close (c : Nat) (g : Group) (op : MOperand) (p : RingPos) (s : State) : State :=
      match op with
      | .ring first len => if p.reading then ((ringEntry g first len p).map (fun e => endReader c e s)).getD s else s
      | .addr _ _ => s
    let s := (parts.zip m.ringA).foldl (fun s e => close e.1.1 e.1.2.2 a e.2 s) s
    match parts with
    | (c, _, g) :: _ => close c g b m.ringB s
    | [] => s
  | _ => s

/-- What keeps a k-step from being made. -/
def stepMissed (core : Nat) (m : MCommand) (e : StepRead) (s : State) : State :=
  match e with
  | .shape => faultReason core m 2 (closeRings core m s)
  | .miss (.trap k i, va) => cmdMissed core m false [] (.trap k i, va) (closeRings core m s)
  | .miss (.lost d, va) => cmdMissed core m false [] (.lost d, va) (closeRings core m s)
  | .miss (r, va) => cmdMissed core m false (cmdHere (max (cmdParts s core m).length 1) m) (r, va) s
  | .words _ | .waits => s

/-- One k-step of an `mma` (07 R151, R153): a step whose A is zero everywhere reads no B row. -/
def mmaStep (core : Nat) (m : MCommand) (a b : MOperand) (r : BitVec 64) (rel : Bool) (s : State) : State :=
  let parts := cmdParts s core m
  match parts with
  | [] => s
  | (lc, _, lg) :: _ =>
    let keep (ps : List RingPos) (q : RingPos) (s : State) : State := modCmd core m (fun x => { x with ringA := ps, ringB := q }) s
    match readColumns m a r 0 parts m.ringA s with
    | (.inr e, ps, s) => stepMissed core { m with ringA := ps } e (keep ps m.ringB s)
    | (.inl cols, ps, s) =>
      let skip := cols.all (fun l => l.all zeroWord)
      let byAddr := match b with
        | .addr _ _ => true
        | _ => false
      let (x, q, s) := if skip && byAddr then (StepRead.words [], m.ringB, s)
        else readStep lc lg m b false (shapeWb r) (shapeCols r) 256 (shapeK r) m.row 0 m.ringB s
      match x with
      | .words row =>
        let s := (parts.zip cols).foldl (fun s e => modAcc e.1.1 (physTile e.1.2.2 m) (addStep e.2 row) s) s
        let (ps, s) := stepRings a r m.row rel parts ps s
        let (q, s) := match b with
          | .ring first len => match ringEntry lg first len q with
            | some e => stepRing lc e (256 * containerOf (shapeWb r)) m.row rel q s
            | none => (q, s)
          | .addr _ _ => (q, s)
        let cycles := if 20 < max (shapeWa r) (shapeWb r) then 2 else 1
        let s := parts.foldl (fun s e => chargeBudget 1 e.1 (levelOf s e.2.2) cycles s) s
        passRow core m (m.row + 1) (modCmd core m (fun x => { x with ringA := ps, ringB := q }) s)
      | e => stepMissed core { m with ringA := ps, ringB := q } e (keep ps q s)

/-- The running command of a core that meets a test and is not stopped on a page. -/
def runningCmd (s : State) (core : Nat) (p : MKind → Bool) : Option MCommand :=
  (getCore s core).mrun.find? (fun m => p m.kind && m.onPage.isNone)

/-- Busy cycles of the engines of a command's cores are charged (12 R272). -/
def chargeParts (core : Nat) (m : MCommand) (cycles : Nat) (s : State) : State :=
  (cmdParts s core m).foldl (fun s e => chargeBudget 1 e.1 (levelOf s e.2.2) cycles s) s

/-- MMA_RETIRE (07 R151 to R153): the running `mma` makes its next k-step, or retires after the last. A pending context's
`mma` stops (07 R163). -/
def execMmaRetire (core : Nat) (s : State) : Host.Outcome State Fault Refusal :=
  .next (match runningCmd s core (fun k => match k with | .mma _ _ _ _ _ => true | _ => false) with
    | none => s
    | some m => match m.kind with
      | .mma a b r _ rel =>
        if shapeK r ≤ m.row then retireCmd core m s
        else if heldForSave s core m.ctx (getCore s core).mqueue.length || !cmdBudget s core m then s
        else mmaStep core m a b r rel s
      | _ => s)

/-- MZERO_DONE (07 R164). -/
def execMzeroDone (core : Nat) (s : State) : Host.Outcome State Fault Refusal :=
  .next (match runningCmd s core (fun k => k == .mzero) with
    | some m =>
      if cmdBudget s core m then chargeParts core m 8 (retireCmd core m (modTiles m (cmdParts s core m) AccTile.zeroed s)) else s
    | none => s)

/-! ## Drains (07 R167, R168, 06 R131 to R140) -/

/-- An element of a core's tile is corrected: the log, its counts and the interrupt (06 R140, 14 R303). -/
def reportFixed (core tile j fixed recv : Nat) (s : State) : State :=
  let log := reg64 s offContainLog
  let log := setField (setField (setField log 62 59 1) 58 51 (physCore s core)) 50 47 j
  let log := setField (setField (setField log 46 45 tile) 44 36 fixed) 35 27 recv
  let log := setField log 26 0 (saturate (field log 26 0 + 1) (2 ^ 27 - 1))
  let n := (reg32 s (offWcnt j)).toNat
  raiseIrq 2 (setReg32 (setReg64 s offContainLog log) (offWcnt j) (BitVec.ofNat 32 (saturate (n + 1) (2 ^ 32 - 1))))

/-- An uncorrectable element: the log, the interrupt, and a record for the first of a drain (06 R140, 14 R303). -/
def reportLost (core tile elem ctx : Nat) (task : Option Group) (record : Bool) (s : State) : State :=
  let log := reg64 s offContainLog
  let log := setField (setField (setField (setField log 63 63 1) 62 59 2) 58 51 (physCore s core)) 50 47 0xF
  let log := setField (setField log 46 45 tile) 44 27 0
  let s := raiseIrq 2 (setReg64 s offContainLog log)
  if record then writeEvent 2 (physCore s core) (tile + 4 * elem) ctx task s else s

/-- What draining an element gives: its value, none for poison, with its verdict and what was received. -/
structure Drained where
  elem : Nat
  val : Option Int
  verdict : Verdict
  received : List Nat
deriving DecidableEq, Repr

/-- Judges an element of a tile (06 R134, R138). -/
def drainElem (s : State) (t : AccTile) (e : Nat) : Drained :=
  let x := t.elem e
  let res := delivered s t e x
  let v := judge t.cert res
  let val := match v with
    | .clean v | .fixed v _ => some v
    | _ => none
  { elem := e, val := if x.poison then none else val, verdict := v, received := res }

/-- The band scale of an element (07 R168): none when either is NaN or infinite. -/
def bandScale (s : State) (core : Nat) (g : Group) (d : BitVec 256) (e : Nat) : Option FVal :=
  let a := bf16.decode (scratchRead s core g (dBsa d + 2 * (e / 256 / 64)) 2)
  let b := bf16.decode (scratchRead s core g (dBsb d + 2 * (e % 256 / 64)) 2)
  match a, b with
  | .fin _ _ _, .fin _ _ _ => some (a.mul b)
  | _, _ => none

/-- The value that a float drain rounds (07 R168): u * 2^EXP, times the band scales. -/
def scaledValue (u : Int) (ex : Int) (band : Option FVal) : FVal :=
  let x := FVal.fin (decide (u < 0)) u.natAbs ex
  match x.mul (band.getD (.fin false 1 0)) with
  | .fin neg n e => if n == 0 then .fin false 0 0 else .fin neg n e
  | y => y

/-- Signed width in bits of an integer drain format. -/
def intFormat (fmt : Nat) : Nat := [8, 16, 32].getD fmt 64

/-- What one element becomes (07 R168): an integer code with whether it saturated, or a value of a float format; none for
poison. -/
structure OutElem where
  poison : Bool
  sat : Bool
  code : Nat
  val : FVal
deriving DecidableEq, Repr

/-- The float format of a drain; FP4 blocks round to FP32 first. -/
def floatFormat (fmt : Nat) : Fmt := if fmt == 4 then bf16 else if fmt == 5 then f16 else f32

/-- Converts one drained element (07 R168). -/
def convertDrain (s : State) (core : Nat) (g : Group) (d : BitVec 256) (x : Drained) : OutElem :=
  let fmt := dFmt d
  let int := fmt ≤ 2 || fmt == 8
  let n := intFormat fmt
  let f := floatFormat fmt
  let poison : OutElem :=
    { poison := true, sat := false, code := if int then 2 ^ (n - 1) else f.nan, val := .nan }
  let band := if dBand d then bandScale s core g d x.elem else some (.fin false 1 0)
  match x.val, band with
  | some v, some scale =>
    let u := roundToInt (dRm d) (decide (v < 0)) v.natAbs (-(dSh d : Int))
    if int then
      let out := satInt u (-(2 ^ (n - 1))) (2 ^ (n - 1) - 1)
      { poison := false, sat := out != u, code := intCode n out, val := .nan }
    else
      let c := f.ofVal (dRm d) (scaledValue u (dExp d) (some scale))
      { poison := false, sat := false, code := c, val := f.decode c }
  | _, _ => poison

/-- The bytes that a unit of elements becomes, at the destination and at the scale destination (07 R168). -/
def unitOutput (fmt : Nat) (xs : List Drained) (outs : List OutElem) : List Byte × List Byte :=
  if fmt == 7 then
    ((List.range 8).flatMap (fun j => xs.map (fun x => match x.val with
      | some v => BitVec.ofNat 8 (residueOf j v)
      | none => 0xFF)), [])
  else if fmt == 6 then
    let (codes, scale) := encodeBlock (outs.map (·.val))
    (natToBytes 4 (packElems (.int 4 false) 4 codes), [BitVec.ofNat 8 scale])
  else (outs.flatMap (fun o => natToBytes (unitBytes fmt) o.code), [])

/-- Where a unit and its scale go, for a core of a rank (07 R168). -/
def unitPlace (d : BitVec 256) (rank elem : Nat) : Nat × Nat :=
  let row := elem / 256 + (if dSp d then 0 else 128 * rank)
  let u := elem % 256 / unitElems (dFmt d)
  (dDst d + row * dRow d + u * unitBytes (dFmt d), dSdst d + row * dSrow d + u)

/-- The reports of a drained element, and whether a record has been written. -/
def reportElem (core tile ctx : Nat) (task : Option Group) (x : Drained) (r : Bool × State) : Bool × State :=
  match x.verdict with
  | .fixed v j => (r.1, reportFixed core tile j (residueOf j v) (x.received.getD j 0) r.2)
  | .uncorrectable => (true, reportLost core tile x.elem ctx task (!r.1) r.2)
  | _ => r

/-- The status bits that a unit's elements set (07 R169). -/
def statusOf (xs : List Drained) (outs : List OutElem) (t : AccTile) : AccTile :=
  { t with
    sat := t.sat || outs.any (·.sat),
    pois := t.pois || outs.any (·.poison) || xs.any (fun x => x.val.isNone),
    ovf := t.ovf || xs.any (fun x => x.verdict == .overflow),
    unc := t.unc || xs.any (fun x => x.verdict == .uncorrectable) }

/-- Writes the bytes of a unit, in scratchpad or to global memory, all or none. -/
def writeUnit (lead core gslot : Nat) (g : Group) (m : MCommand) (d : BitVec 256) (place : Nat × Nat) (bytes scale : List Byte)
    (s : State) : Put × State :=
  if dSp d then
    (.done, scratchWrite core g place.2 scale (scratchWrite core g place.1 bytes s))
  else cmdWrite lead core gslot g m ((place.1, bytes) :: (if scale.isEmpty then [] else [(place.2, scale)])) s

/-- The ranks of a command's cores in the order of the physical cores, in which their reports apply (06 R140). -/
def drainOrder (s : State) (parts : List (Nat × Nat × Group)) : List Nat :=
  sortBy (fun i => ((parts[i]?).map (fun e => physCore s e.1)).getD 0) (List.range parts.length)

/-- The place in that order of the core that a drain comes to, and the element of its tile: 64 elements of one core after
another. -/
def drainPlace (n row : Nat) : Nat × Nat := (row / 64 % n, row / 64 / n * 64 + row % 64)

/-- Drains the unit at an element of the core of a rank (07 R161, R168): the command if it has, and the state. One write
covers a unit, an element of BF16, FP16 or FP32 in the first place, also at an MX alias: the spec gives the drain's writes
no width, and this is the model's choice (log 114). -/
def drainUnit (core : Nat) (m : MCommand) (i elem : Nat) (s : State) : Option MCommand × State :=
  let parts := cmdParts s core m
  match parts[i]? with
  | none => (none, s)
  | some (c, k, g) =>
    let d := m.descs.getD i 0
    let per := unitElems (dFmt d)
    let tile := physTile g m
    let t := accTile s c tile
    let xs := (List.range per).map (fun n => drainElem s t (elem + n))
    let outs := if dFmt d == 7 then [] else xs.map (convertDrain s c g d)
    let (bytes, scale) := unitOutput (dFmt d) xs outs
    let place := unitPlace d i elem
    let here := if dSp d then [] else [spanAt place.1 bytes.length, spanAt place.2 scale.length].filter (fun t => t.2 != 0)
    match writeUnit core c k g m d place bytes scale s with
    | (.done, s) =>
      let s := modAcc c tile (statusOf xs outs) s
      let (rep, s) := xs.foldl (fun r x => reportElem c tile m.ctx (if g.held then some g else none) x r) (m.reported, s)
      let m := { m with row := m.row + per, reported := rep, peer := none }
      let m := { m with refs := cmdRefs s parts.length m m.refs here m.row }
      (some m, modCmd core m (fun _ => m) s)
    | (p, s) => (none, putFailed core m here p s)

/-- Drains up to a row, in at most `fuel` units; the drain retires after its last element. -/
def drainUnits (core target : Nat) : Nat → MCommand → State → State
  | 0, _, s => s
  | fuel + 1, m, s =>
    let order := drainOrder s (cmdParts s core m)
    let n := max order.length 1
    if 32768 * n ≤ m.row then retireCmd core m s
    else if target ≤ m.row then s
    else
      let (i, elem) := drainPlace n m.row
      match drainUnit core m (order.getD i 0) elem s with
      | (some m, s) => drainUnits core target fuel m s
      | (none, s) => s

/-- The drain that runs on a core's engine, with its leader: its own, or while it is slaved one of the leader's (07 R159). -/
def drainOn (s : State) (core : Nat) : Option (Nat × MCommand) :=
  let of (n : Nat) : Option (Nat × MCommand) := (runningCmd s n (fun k => kindCode k == 4)).map (fun m => (n, m))
  of core <|> ((getCore s core).slaved.bind of)

/-- DRAIN_COMPLETE (07 R168): the running drain writes its next 64 elements of this core, when they are next, and retires
after the last; the cores of a scope take their turns in the order of the physical cores (06 R140, R143). -/
def execDrainComplete (core : Nat) (s : State) : Host.Outcome State Fault Refusal :=
  .next (match drainOn s core with
    | none => s
    | some (lead, m) =>
      let parts := cmdParts s lead m
      let order := drainOrder s parts
      let next := parts[order.getD (drainPlace (max order.length 1) m.row).1 0]?
      match next with
      | none => s
      | some (c, _, g) =>
        if c == core && cmdBudget s lead m then
          drainUnits lead ((m.row / 64 + 1) * 64) 65 m (chargeBudget 1 c (levelOf s g) 1 s)
        else s)

/-! ## Saving and loading tiles (07 R165, R166) -/

/-- A byte of a tile's image. -/
def imageByte (s : State) (t : AccTile) (i : Nat) : Byte :=
  if i < 262144 then
    let u := i / 512
    let e := accIndex (u / 4) (u % 4 * 64 + i % 64)
    BitVec.ofNat 8 ((delivered s t e (t.elem e)).getD (i % 512 / 64) 0)
  else if i < 393216 then
    let d := delivered s t ((i - 262144) / 4) (t.elem ((i - 262144) / 4))
    BitVec.ofNat 8 ((d.getD 8 0 + 2 ^ 16 * d.getD 9 0) / 256 ^ (i % 4))
  else if i < 397312 then
    BitVec.ofNat 8 ((List.range 8).foldl (fun n k =>
      n + (if (t.elem ((i - 393216) * 8 + k)).poison then 2 ^ k else 0)) 0)
  else if i < 397320 then
    BitVec.ofNat 8 ((t.kacc + t.wmax * 2 ^ 32 + t.hb * 2 ^ 40 + t.hr * 2 ^ 48 + (if t.cert then 2 ^ 56 else 0)) /
      256 ^ (i - 397312))
  else if i == 397320 then BitVec.ofNat 8 t.bits
  else 0

/-- Bytes of a tile's image. -/
def imageBytes (s : State) (t : AccTile) (from_ n : Nat) : List Byte := (List.range n).map (fun k => imageByte s t (from_ + k))

/-- What a save writes for its 64 elements from one on, all or none (07 R161): their bytes of the three parts of the image
that have some of each element, and with the last of them the rest of the image. -/
def saveUnit (s : State) (t : AccTile) (base u : Nat) : List (Nat × List Byte) :=
  [(base + 512 * u, imageBytes s t (512 * u) 512), (base + 262144 + 256 * u, imageBytes s t (262144 + 256 * u) 256),
   (base + 393216 + 8 * u, imageBytes s t (393216 + 8 * u) 8)] ++
  (if u == 511 then [(base + 397312, imageBytes s t 397312 4096)] else [])

/-- MSAVE_COMPLETE (07 R161, R166): the running save writes its next 64 elements, and retires after the last. -/
def execMsaveComplete (core : Nat) (s : State) : Host.Outcome State Fault Refusal :=
  .next (match runningCmd s core (fun k => kindCode k == 5) with
    | none => s
    | some m => match m.kind, getGroup s core m.gslot with
      | .msave base, some g =>
        if 512 ≤ m.row then retireCmd core m s
        else if !cmdBudget s core m then s
        else match cmdWrite core core m.gslot g m (saveUnit s (accTile s core (physTile g m)) base m.row) s with
          | (.done, s) => passRow core m (m.row + 1) (chargeBudget 1 core (levelOf s g) 1 s)
          | (p, s) => putFailed core m [] p s
      | _, _ => s)

/-- A field of an image, as a number. -/
def imageField (bs : List Byte) (from_ n : Nat) : Nat := bytesToNat ((bs.drop from_).take n)

/-- An image that `mldc.img` refuses (07 R166). -/
def imageBad (bs : List Byte) : Bool :=
  let red := (bs.drop 262144).take 131072
  let badWord (w : Nat) : Bool :=
    fieldN w 15 9 != 0 || fieldN w 31 25 != 0 || (263 ≤ fieldN w 8 0 && fieldN w 8 0 != 0x1FF) ||
      (269 ≤ fieldN w 24 16 && fieldN w 24 16 != 0x1FF)
  let rec words : Nat → List Byte → Bool
    | 0, _ => false
    | k + 1, l => badWord (bytesToNat (l.take 4)) || words k (l.drop 4)
  let h := imageField bs 397312 8
  words 32768 red || fieldN h 39 39 != 0 || fieldN h 47 46 != 0 || fieldN h 55 55 != 0 || fieldN h 63 57 != 0 ||
    imageField bs 397320 8 / 32 != 0 || (bs.drop 397328).any (fun b => b != 0)

/-- The tile that an image holds (07 R166). -/
def tileOfImage (bs : List Byte) : AccTile :=
  let h := imageField bs 397312 8
  let st := imageField bs 397320 1
  let elem (e : Nat) : AccElem :=
    let unit := 512 * (e / 64)
    let w := imageField bs (262144 + 4 * e) 4
    { res := (List.range 8).map (fun j => imageField bs (unit + 64 * j + e % 64) 1) ++ [fieldN w 8 0, fieldN w 24 16],
      poison := (imageField bs (393216 + e / 8) 1).testBit (e % 8) }
  { unspec := none, elems := (List.range 32768).map (fun e => (e, elem e)),
    kacc := fieldN h 31 0, wmax := fieldN h 38 32, hb := fieldN h 45 40, hr := fieldN h 54 48, cert := fieldN h 56 56 == 1,
    sat := st.testBit 0, pois := st.testBit 1, ovf := st.testBit 2, unc := st.testBit 3, hlim := st.testBit 4 }

/-- The whole image is read and restored, or nothing is (07 R165, R166). -/
def loadImage (core : Nat) (m : MCommand) (base : Nat) (g : Group) (s : State) : State :=
  match cmdRead core m g base 401408 s with
  | (.inr e, s) => cmdMissed core m false (cmdHere 1 m) e s
  | (.inl bs, s) =>
    if imageBad bs then faultReason core m 4 s
    else retireCmd core m (modAcc core (physTile g m) (fun _ => tileOfImage bs) (chargeBudget 1 core (levelOf s g) 512 s))

/-- An element loaded from an RP8 unit (07 R165): its redundant residues are regenerated, and it is poisoned when a byte is
invalid (05 R120). -/
def loadElem (work : List Nat) : AccElem := { res := extendBytes work, poison := !bytesValid work }

/-- Loads one RP8 unit of 64 elements into a tile. -/
def loadUnit (bs : List Byte) (first : Nat) (t : AccTile) : AccTile :=
  (List.range 64).foldl (fun t k =>
    t.setElem (first + k) (loadElem ((List.range 8).map (fun j => imageField bs (64 * j + k) 1)))) { t with stale := [] }

/-- Loads the next RP8 unit of a command. -/
def loadNext (core : Nat) (m : MCommand) (base stride : Nat) (s : State) : State :=
  let parts := cmdParts s core m
  let n := max parts.length 1
  if 512 * parts.length ≤ m.row then retireCmd core m s
  else match parts[m.row % n]? with
    | none => s
    | some (c, _, g) =>
      let u := m.row / n
      match cmdRead c m g (base + (128 * (m.row % n) + u / 4) * stride + u % 4 * 512) 512 s with
      | (.inr e, s) => cmdMissed core m false (cmdHere n m) e s
      | (.inl bs, s) =>
        let s := modAcc c (physTile g m) (loadUnit bs (64 * u)) s
        passRow core m (m.row + 1) (chargeBudget 1 c (levelOf s g) 1 s)

/-- MLDC_COMPLETE (07 R165): the running load restores an image, or takes its next 64 elements and retires after the
last. -/
def execMldcComplete (core : Nat) (s : State) : Host.Outcome State Fault Refusal :=
  .next (match runningCmd s core (fun k => kindCode k == 3) with
    | none => s
    | some m =>
      if !cmdBudget s core m then s
      else match m.kind, getGroup s core m.gslot with
        | .mldcRp8 base stride _, some _ => loadNext core m base stride s
        | .mldcImg base, some g => loadImage core m base g s
        | _, _ => s)

end Sys2Proof.Machine
end

