-- ==== Sys2Proof/Machine/Lifecycle.lean ====
section
/-! DEFINITION. The life of gangs and groups (02 R37, R53, 04 R81 to R85), the ends of waits (03 R71, R72, 09 R210,
R213, 13 R287, 16 R337) and the delivery of engine faults (07 R162). -/

namespace Sys2Proof.Machine

/-! ## Retirement (02 R53) -/

/-- A list of counts with one raised. -/
def bump (l : List Nat) (k : Nat) : List Nat :=
  (List.range (max l.length (k + 1))).map (fun i => l.getD i 0 + (if i == k then 1 else 0))

/-- A group that has retired leaves its core, which reports it to the Vent (02 R53, 08 R176, 12 R277). -/
def finishGroup (core gslot : Nat) (s : State) : State :=
  match getGroup s core gslot with
  | none => s
  | some g =>
    dropGroup core gslot { s with completions := s.completions ++ [(g.queue, g.lslot, g.stage)] }

/-- Every gang of a group has retired, no record waits for it (02 R53), and no engine works on its memory or scratchpad any
longer (10 R235, 08 R176, log 35). -/
def groupSpent (s : State) (core gslot : Nat) (g : Group) : Bool :=
  let c := getCore s core
  (gangsOfGroup c gslot).isEmpty && g.spilled.isEmpty && queuedOf c gslot == 0 &&
    !c.copyq.any (fun q => q.gslot == gslot) && !c.copyrun.any (fun r => r.gslot == gslot) &&
    !c.near.any (fun o => o.gslot == gslot)

/-- A group retires (02 R53): a held task commits (10 R234); a shadow copy waits for its twin (14 R310). Its report takes
one of the 4,096 entries that hold reports for the Vent (12 R277). -/
def retireGroup (core gslot : Nat) (s : State) : State :=
  match getGroup s core gslot with
  | none => s
  | some g =>
    if !groupSpent s core gslot g || 4096 ≤ s.completions.length then s
    else if g.held && g.shadow then modGroup s core gslot (fun g => { g with atCommit := 2 })
    else finishGroup core gslot (if g.held then commitVersion core gslot s else s)

/-- A gang may retire (02 R53, 07 R157): no lanes, and no matrix command. -/
def gangSpent (s : State) (core slot : Nat) (g : Gang) : Bool :=
  let c := getCore s core
  g.splits.isEmpty && !(c.mqueue ++ c.mrun).any (fun m => m.slot == slot)

/-- A gang that retires takes part in no rendezvous (03 R71). -/
def leaveRendezvous (slot : Nat) (g : Group) : Group :=
  { g with rendezvous := (g.rendezvous.map (fun r =>
      { r with parts := r.parts.filter (· != slot), arrived := mapErase r.arrived slot })).filter (fun r => !r.parts.isEmpty) }

/-- A gang retires: its slot and its space are free (02 R53). -/
def retireGang (core slot : Nat) (g : Gang) (s : State) : State :=
  let s := modGroup (dropGangWaiters core slot s) core g.gslot (leaveRendezvous slot)
  retireGroup core g.gslot (modCore s core (fun c => { c with gangs := mapErase c.gangs slot }))

/-- GANG_RETIRE (02 R53). A fault that the gang has not been given finds no lane (07 R162). -/
def execGangRetire (core slot : Nat) (s : State) : Host.Outcome State Fault Refusal :=
  .next (match getGang s core slot with
    | none => s
    | some g =>
      if !gangSpent s core slot g then s
      else if (getCore s core).faults.any (fun f => f.slot == slot) then
        hardwareRule core g.gslot g.ctx 0x08 (((getGroup s core g.gslot).map (·.held)).getD false) s
      else retireGang core slot g s)

/-- The group of a core that may retire once its engines have ended, when its last gang already has (02 R53, log 35). -/
def endGroup (core : Nat) (s : State) : State :=
  match (getCore s core).groups.find? (fun e => groupSpent s core e.1 e.2 && e.2.atCommit == 0) with
  | some (k, _) => retireGroup core k s
  | none => s

/-! ## New gangs -/

/-- The first slice of a new gang (02 R37): of the aligned ranges, the one that the fewest gangs take, the lowest on a
tie. -/
def chooseBase (c : Core) (width : Nat) : Nat :=
  let n := width / 8
  let users (b : Nat) : Nat := (c.gangs.filter (fun e => e.2.base < b + n && b < e.2.base + e.2.width / 8)).length
  ((sortBy users ((List.range (8 / max n 1)).map (fun i => i * n))).head?).getD 0

/-- The lowest free gang slot of a core. -/
def freeSlotOf (c : Core) : Option Nat := (List.range 48).find? (fun k => (mapFind c.gangs k).isNone)

/-- The gang formed from records (04 R84, R85), in the order of their SEQ. -/
def spawnedGang (c : Core) (slot gslot : Nat) (g : Group) (recs : List SpawnRec) : Gang :=
  let n := recs.length
  let lanes := (List.range n).zip recs
  let gang : Gang :=
    { ctx := g.ctx, gslot := gslot, id := 128 + slot, role := 3, width := g.width, regs := g.generalRegs,
      base := chooseBase c g.width, quantum := g.quantum, deadline := g.pdl,
      splits := [{ mask := firstLanes n, pc := ((recs.head?).map (·.entry)).getD 0 }],
      join := lanes.filterMap (fun e => if e.2.join then some (e.1, e.2.jaddr) else none) }
  lanes.foldl (fun gang e =>
    (e.2.payload.zip (List.range e.2.payload.length)).foldl (fun gang w => setVreg gang w.2 e.1 w.1) gang) gang

/-- How long ago a record was accepted, in acceptances, modulo 65,536 (04 R77). -/
def seqAge (c : Core) (r : SpawnRec) : Nat := (c.seq + 65536 - r.seq % 65536) % 65536

/-- The landed records of a bucket, the oldest first. -/
def landedOf (c : Core) (b : Nat × BitVec 52) : List SpawnRec :=
  sortBy (fun r => 65536 - seqAge c r) ((bucketOf c b.1 b.2).filter (fun r => r.landed.isSome))

/-- The records that a bucket gives a gang now (04 R83); `full` tells the case. A context that is to be pre-empted forms no
gang (24 R534). -/
def bucketGives (s : State) (core : Nat) (full : Bool) (b : Nat × BitVec 52) : List SpawnRec :=
  let c := getCore s core
  let w := groupWidth c b.1
  let landed := landedOf c b
  let inFlight := (bucketOf c b.1 b.2).any (fun r => r.landed.isNone)
  let pending := ((mapFind c.groups b.1).map (fun g => (mapFind s.preempts g.ctx).isSome)).getD false
  if pending then []
  else if full then (if w ≤ landed.length then landed.take w else [])
  else if inFlight || landed.isEmpty then []
  else if (landed.head?.map (fun r => decide (r.landed.getD 0 + 64 ≤ s.cycles))).getD false || (candidates s core).isEmpty then landed
  else []

/-- The bucket that forms a gang, with the records it gives: the one whose oldest record is the oldest (04 R83). -/
def chooseBucket (s : State) (core : Nat) (full : Bool) : Option ((Nat × BitVec 52) × List SpawnRec) :=
  let c := getCore s core
  let ready := ((bucketsOf c).map (fun b => (b, bucketGives s core full b))).filter (fun e => !e.2.isEmpty)
  (sortBy (fun e => 65536 - ((e.2.head?).map (seqAge c)).getD 0) ready).head?

/-- Forms a gang from records (04 R84). -/
def formGang (core : Nat) (b : Nat × BitVec 52) (recs : List SpawnRec) (s : State) : State :=
  let c := getCore s core
  match mapFind c.groups b.1, freeSlotOf c with
  | some g, some slot =>
    let gang := spawnedGang c slot b.1 g recs
    let c := { c with spawnq := c.spawnq.filter (fun r => !recs.contains r) }
    let gang := { gang with residency := if imageFits c gang then .present else .waitingRoom, since := s.cycles }
    setCore s core { c with gangs := mapSet c.gangs slot gang }
  | _, _ => s

/-- The Geyser in one cycle (04 R78, R83): stale records are discarded; one gang forms at most. -/
def geyser (core : Nat) (s : State) : State :=
  let s := modCore s core (fun c => { c with spawnq := c.spawnq.filter (fun r => r.ggen == mapGet 0 c.ggen r.gslot) })
  match chooseBucket s core true with
  | some (b, recs) => formGang core b recs s
  | none => match chooseBucket s core false with
    | some (b, recs) => formGang core b recs s
    | none => s

/-- GEYSER_FORM (04 R83). -/
def execGeyserForm (core : Nat) (s : State) : Host.Outcome State Fault Refusal :=
  .next (if (getCore s core).spawnq.isEmpty then s else geyser core s)

/-- A record of a spill area that software has altered: its payload, entry, JOIN and JADDR are free values (04 R77). -/
def spoiledRec (r : SpawnRec) (s : State) : SpawnRec × State :=
  let v (k : Nat) := Config.freeWord (s.free + k)
  ({ r with payload := (List.range r.payload.length).map (fun k => (v k).setWidth 32), entry := (v 4).setWidth 50 ++ 0#2,
            join := (v 5).getLsbD 0, jaddr := field (v 6) 18 0 }, { s with free := s.free + 7 })

/-- The record that 32 bytes of a spill area give: the one accepted, when they are its bytes (04 R77). -/
def checkedRec (r : Option SpawnRec) (bs : List Byte) (s : State) : SpawnRec × State :=
  let x := bytesToNat bs
  match r with
  | some r => if r.bits == x then (SpawnRec.ofBits x, s) else spoiledRec r s
  | none => (SpawnRec.ofBits x, s)

/-- Reads records of a group's spill ring from its head on, page by page; none when a translation fails (04 R82). -/
def readSpill (core : Nat) (g : Group) : Nat → Nat → State → Option (List SpawnRec) × State
  | 0, _, s => (some [], s)
  | n + 1, k, s => match engineRead core g.ctx none { refs := [spillRef] } 33 (spillAddr g k) 32 s with
    | (.inl bs, s) =>
      let (r, s) := checkedRec g.spilled[k - g.spillHead]? bs s
      match readSpill core g n (k + 1) s with
      | (some l, s) => (some (r :: l), s)
      | r => r
    | (.inr _, s) => (none, s)

/-- A refill batch of a group begins (04 R81, R82). -/
def beginRefill (core gslot : Nat) (g : Group) (s : State) : State :=
  let n := min (batchSize g) g.spilled.length
  match readSpill core g n g.spillHead (chargeBudget 3 core (levelOf s g) n s) with
  | (none, s) => spillFault g.ctx s
  | (some recs, s) =>
    let gen := mapGet 0 (getCore s core).ggen gslot
    let s := modCore s core (fun c => { c with
      spawnq := c.spawnq ++ recs.map (fun r => { r with gslot := gslot, ggen := gen, landed := none }) })
    modGroup s core gslot (fun g => { g with spilled := g.spilled.drop n, spillHead := g.spillHead + n })

/-- A group may begin a refill batch (04 R81, 12 R272). While a pre-emption of its context is pending it begins none: the
spec is silent there, and this is the model's choice (log 105). -/
def refillReady (s : State) (core gslot : Nat) (g : Group) : Bool :=
  let c := getCore s core
  let n := min (batchSize g) g.spilled.length
  0 < n && queuedOf c gslot + n ≤ g.quota && c.spawnq.length + n ≤ 2048 && hasBudget s 3 core (levelOf s g) &&
    (mapFind s.preempts g.ctx).isNone

/-- REFILL_BATCH_BEGIN (04 R81): one batch, of the lowest group slot that may begin one (log 100). -/
def execRefillBatchBegin (core : Nat) (s : State) : Host.Outcome State Fault Refusal :=
  .next (match (getCore s core).groups.find? (fun e => refillReady s core e.1 e.2) with
    | some (k, g) => beginRefill core k g s
    | none => s)

/-- The first record in flight lands. -/
def landFirst (clock : Nat) : List SpawnRec → List SpawnRec
  | [] => []
  | r :: l => if r.landed.isNone then { r with landed := some clock } :: l else r :: landFirst clock l

/-- SPILL_RECORD_LAND (04 R81). -/
def execSpillRecordLand (core : Nat) (s : State) : Host.Outcome State Fault Refusal :=
  .next (if (getCore s core).spawnq.isEmpty then s
    else modCore s core (fun c => { c with spawnq := landFirst s.cycles c.spawnq }))

/-! ## Barriers (09 R210, R213) -/

/-- A wait at a barrier whose generation has completed (09 R210). -/
def Wait.reached (bar gen : Nat) (w : Wait) : Wait :=
  if w.kind == .barrier && w.acted && w.obj % 32 == bar && w.obj / 32 != gen then { w with ended := true } else w

/-- BARRIER_COMPLETION_ARRIVE (09 R210): the completion reaches the gang. -/
def execBarrierCompletionArrive (core slot bar : Nat) (s : State) : Host.Outcome State Fault Refusal :=
  .next (match getGang s core slot with
    | none => s
    | some g => match getGroup s core g.gslot with
      | none => s
      | some grp =>
        let gen := (grp.barrier bar).gen.toNat
        modGang s core slot (fun g => { g with splits := g.splits.map (fun sp =>
          sp.onWaits (Wait.reached bar gen)) }))

/-- A trap of a split has fallen due since its gang was lifted (03 R74). -/
def Gang.owes (g : Gang) (sp : Split) : Bool := g.due.any (fun h => laneIn sp.mask h.lane)

/-- The first split of a gang, in rotation order, that waits in a way and holds no trap (log 36). -/
def waitingSplit (g : Gang) (p : Wait → Bool) : Option Split :=
  g.splits.find? (fun sp => !sp.trapPend && !g.owes sp && sp.stop.isNone && (sp.wait.map p).getD false)

/-- A split waits at `bwait` or `bsync` on the current generation of a barrier. -/
def waitsBarrier (bar gen : Nat) (w : Wait) : Bool :=
  w.kind == .barrier && w.acted && !w.ended && w.obj % 32 == bar && w.obj / 32 == gen

/-- Live member lanes of a gang that have not arrived (09 R210). -/
def missingAt (grp : Group) (g : Gang) (bar : Nat) : Mask :=
  if isMember grp g bar then liveLanes g &&& ~~~(mapGet 0 g.pend bar) else 0

/-- The member gangs of a barrier, as core, slot, group and gang. -/
def barrierGangs (s : State) (core gslot bar : Nat) : List (Nat × Nat × Group × Gang) :=
  (barrierGroups s core gslot bar).flatMap (fun (c, k, grp) =>
    ((getCore s c).gangs.filter (fun e => e.2.gslot == k && isMember grp e.2 bar)).map (fun e => (c, e.1, grp, e.2)))

/-- `tinfo` of a barrier-stall trap (13 R281): the lowest `gang.id` with a missing lane, the lowest rank on a tie. -/
def stallInfo (s : State) (core gslot bar : Nat) : Nat :=
  let missing := (barrierGangs s core gslot bar).filter (fun e => missingAt e.2.2.1 e.2.2.2 bar != 0)
  let first := (sortBy (fun e => e.2.2.2.id * 4 + e.2.2.1.rank) missing).head?
  bar + (barrierExpected s core gslot bar - barrierArrived s core gslot bar) % 2 ^ 13 * 2 ^ 16 +
    (first.map (fun e => e.2.2.2.id % 64 * 2 ^ 32 + (if bar < 16 then 0 else e.2.2.1.rank % 4 * 2 ^ 38))).getD 0

/-- A member gang has a split waiting at `bwait` or `bsync` on a barrier (09 R213), one that holds a trap or has stopped
among them. -/
def barrierWaiters (s : State) (core gslot bar : Nat) : Bool :=
  (barrierGangs s core gslot bar).any (fun (_, _, grp, g) =>
    g.splits.any (fun sp => (sp.wait.map (waitsBarrier bar (grp.barrier bar).gen.toNat)).getD false))

/-- The stall timer of a barrier expires (09 R213). -/
def barrierStall (core gslot bar : Nat) (s : State) : State :=
  let info := stallInfo s core gslot bar
  let waiters := (barrierGangs s core gslot bar).filterMap (fun (c, k, grp, g) =>
    (waitingSplit g (waitsBarrier bar (grp.barrier bar).gen.toNat)).map (fun sp =>
      (c, k, lowestLane sp.mask, missingAt grp g bar)))
  if !barrierWaiters s core gslot bar then modBarrier core gslot bar (fun b => { b with timer := none }) s
  else
    let s := modBarrier core gslot bar (fun b => { b with timer := some s.clock }) s
    waiters.foldl (fun s (c, k, lane, mask) =>
      trapWhenPresent c k lane { cause := 0x07, tinfo := b64 info, tmask := mask } s) s

/-- BARRIER_STALL_TIMEOUT (09 R213). A stopped timer starts again when a split waits again after its handler. -/
def execBarrierStallTimeout (core gslot bar : Nat) (s : State) : Host.Outcome State Fault Refusal :=
  .next (match getGroup s core gslot with
    | none => s
    | some g => match (g.barrier bar).timer with
      | none =>
        if (g.barrier bar).begun && barrierWaiters s core gslot bar then
          modBarrier core gslot bar (fun b => { b with timer := some s.clock }) s
        else s
      | some t => if t + 850 * g.bst ≤ s.clock then barrierStall core gslot bar s else s)

/-! ## `regang` (03 R71, R72) -/

/-- No operation in flight will write a register of a participant (03 R72). -/
def writesDrained (s : State) (core : Nat) (r : Rendezvous) : Bool :=
  r.parts.all (fun k => ((getGang s core k).map (fun g =>
    !g.ops.any (fun o => o.kind == .lane true) && !(getCore s core).near.any (fun o => o.kind == 2 && o.ofGang k g))).getD true)

/-- A participant has stopped for a pre-emption, and its wait resumes with the context (13 R291, R298); or it runs a trap
handler or holds a trap, which comes before the rendezvous ends (log 92). -/
def rendezvousStopped (s : State) (core : Nat) (r : Rendezvous) : Bool :=
  r.parts.any (fun k => ((getGang s core k).map (fun g =>
    g.splits.any (fun sp => sp.stop.isSome) || trapActive g || !g.held.isEmpty)).getD false)

/-- REGANG_COMPLETE (03 R72): once the participants are present, when the file holds them together (03 R74). -/
def execRegangComplete (core gslot : Nat) (s : State) : Host.Outcome State Fault Refusal :=
  .next (match getGroup s core gslot with
    | none => s
    | some g => match g.rendezvous.find? (fun r => rendezvousDone s core r && writesDrained s core r &&
        !rendezvousStopped s core r && (regangPresent (getCore s core) r || !regangFits (getCore s core) r)) with
      | some r => if mixedMembers s core g r.parts then trapRendezvous core gslot r s else migrateLanes core gslot r s
      | none => s)

/-- The lanes of participants that are still awaited, by gang: slot, gang and mask (03 R71). -/
def awaitedGangs (s : State) (core : Nat) (r : Rendezvous) : List (Nat × Gang × Mask) :=
  (missingLanes s core r).filterMap (fun e => (getGang s core e.1).map (fun g => (e.1, g, e.2)))

/-- The timer of a rendezvous expires (03 R71, 13 R281). -/
def regangStall (core gslot : Nat) (r : Rendezvous) (s : State) : State :=
  let gangs := awaitedGangs s core r
  let missing := gangs.filter (fun e => e.2.2 != 0)
  let first := ((sortBy (fun e => e.2.1.id) missing).head?).map (fun e => e.2.1.id)
  let info := 0x1F + gangs.foldl (fun n e => n + laneCount e.2.2) 0 % 2 ^ 13 * 2 ^ 16 + first.getD 0 % 64 * 2 ^ 32
  let s := modGroup s core gslot (fun g => { g with rendezvous := g.rendezvous.map (fun x =>
    if x.parts == r.parts then { x with timer := s.clock } else x) })
  gangs.foldl (fun s (k, g, mask) =>
    match waitingSplit g (fun w => w.kind == .regang && w.acted) with
    | some sp => trapWhenPresent core k (lowestLane sp.mask) { cause := 0x07, tinfo := b64 info, tmask := mask } s
    | none => s) s

/-- REGANG_TIMEOUT (03 R71). -/
def execRegangTimeout (core gslot : Nat) (s : State) : Host.Outcome State Fault Refusal :=
  .next (match getGroup s core gslot with
    | none => s
    | some g => match g.rendezvous.find? (fun r => r.timer + 850 * g.bst ≤ s.clock && !rendezvousDone s core r) with
      | some r => regangStall core gslot r s
      | none => s)

/-! ## The watchdog (13 R287, R288) -/

/-- The wait kind of a watchdog trap (13 R281); none for a wait that the watchdog does not bound. -/
def watchKind : WaitKind → Option Nat
  | .flag => some 1
  | .join => some 2
  | .tile => some 3
  | .phase => some 4
  | .version => some 5
  | .record => some 6
  | .barrier | .regang | .fence => none

/-- An engine's operation keeps a flag of a wait set. -/
def keepsFlag (g : Gang) (w : Wait) (id : Nat) : Bool :=
  g.ops.any (fun o => o.kind == .engine id && (o.flag.map (fun f => w.obj.testBit f)).getD false)

/-- A matrix operation of a number, running or queued, reads or writes the window of a peer (13 R288). -/
def cmdOpOnPeer (s : State) (core id d : Nat) : Bool :=
  let c := getCore s core
  (c.mrun ++ c.mqueue.map (withDescs s core)).any (fun m =>
    m.id == id && rangesOnPeer s m.ctx d (cmdLeft (max (cmdParts s core m).length 1) m))

/-- An operation that keeps a flag of a gang set reads or writes the window of a peer (13 R288): an engine's, or a lane
access whose split waits for the peer. -/
def opOnPeer (s : State) (core : Nat) (g : Gang) (d : Nat) (o : Op) : Bool :=
  match o.kind with
  | .engine id => copyOpOnPeer s core id d || cmdOpOnPeer s core id d
  | .waiting m => g.splits.any (fun sp => sp.mask &&& m != 0 && (sp.wait.bind (·.peer)) == some d)
  | .lane _ => false

/-- A wait depends on a pod peer (13 R288): a lane's access to its window, or a flag whose operation uses the window. -/
def waitOnPeer (s : State) (core : Nat) (g : Gang) (w : Wait) (d : Nat) : Bool :=
  w.peer == some d || (w.kind == .flag && g.ops.any (fun o =>
    (o.flag.map (fun f => w.obj.testBit f)).getD false && opOnPeer s core g d o))

/-- The peers in recovery, each with the clock since which it is. -/
def peersRecovering (s : State) : List (Nat × Nat) :=
  s.peers.filterMap (fun e => if peerRecovering s e.1 then e.2.recovering.map (fun t => (e.1, t)) else none)

/-- A wait depends on a peer in recovery, so that its timer stands (13 R288). -/
def waitStands (s : State) (core : Nat) (g : Gang) (w : Wait) : Bool :=
  (peersRecovering s).any (fun e => waitOnPeer s core g w e.1)

/-- The first clock from which another peer than one keeps the timer of a wait standing, or a clock. -/
def standsFrom (s : State) (core : Nat) (g : Gang) (w : Wait) (d now : Nat) : Nat :=
  ((peersRecovering s).filter (fun e => e.1 != d && waitOnPeer s core g w e.1)).foldl (fun n e => min n e.2) now

/-- The watchdog's timer of a wait has reached LIMIT, and no peer in recovery holds it (13 R287, R288). -/
def watchdogDue (s : State) (core : Nat) (g : Gang) (w : Wait) : Bool :=
  let limit := field (reg32 s offWdogCfg) 23 0
  limit != 0 && w.since + 850 * limit ≤ s.clock && !waitStands s core g w

/-- The watchdog of a split: a wait that completes in the same cycle wins (13 R302). -/
def watchdog (core slot : Nat) (g : Gang) (sp : Split) (w : Wait) (s : State) : State :=
  match watchKind w.kind with
  | none => s
  | some k =>
    if sp.trapPend || g.owes sp || sp.stop.isSome || !watchdogDue s core g w || waitOver s core slot g (peekSplit s core slot g sp).ctx w then s
    else trapWhenPresent core slot (lowestLane sp.mask) { cause := 0x09, tinfo := b64 k, tmask := sp.mask } s

/-- WATCHDOG_EXPIRY (13 R287). -/
def execWatchdogExpiry (core slot split : Nat) (s : State) : Host.Outcome State Fault Refusal :=
  .next (match getGang s core slot with
    | none => s
    | some g => match g.splits[split]? with
      | none => s
      | some sp => match sp.wait with
        | none => s
        | some w => watchdog core slot g sp w s)

/-! ## Operations and engine faults -/

/-- The list without its first element that meets a test. -/
def dropFirst {α : Type} (p : α → Bool) : List α → List α
  | [] => []
  | x :: l => if p x then l else x :: dropFirst p l

/-- A lane access. -/
def OpKind.isLane : OpKind → Bool
  | .lane _ => true
  | .engine _ => false
  | .waiting _ => false

/-- A lane access whose split waited to make it has been made, or is made no more (11 R248, 13 R286). -/
def Op.made (g : Gang) (o : Op) : Bool :=
  match o.kind with
  | .waiting m => g.splits.all (fun sp => sp.mask &&& m == 0 || (sp.replay.isNone && (sp.resume.bind (·.replay)).isNone))
  | _ => false

/-- LONG_LATENCY_COMPLETE (16 R337, 03 R69): the gang's oldest lane operation that is made completes; an engine's completes
in its engine's own step. -/
def execLongLatencyComplete (core slot : Nat) (s : State) : Host.Outcome State Fault Refusal :=
  .next (modGang s core slot (fun g => { g with ops := dropFirst (fun o => o.kind.isLane || o.made g) g.ops }))

/-- The split of a present gang that stands at a clause boundary where an engine fault may fall due (13 R284): held while
the handler of another runs. -/
def boundarySplit (g : Gang) : Option Split :=
  if g.parked.isSome || g.residency != .present then none
  else g.splits.find? (fun sp => sp.slot == 0 && sp.fresh && !sp.trapPend && sp.stop.isNone && !sp.handler)

/-- Delivers an engine fault of a gang (07 R162, 09 R204). -/
def deliverFault (core slot : Nat) (g : Gang) (f : EngineFault) (s : State) : State :=
  let taken (s : State) : State := modCore s core (fun c => { c with faults := dropFirst (fun x => x.slot == slot) c.faults })
  if g.splits.isEmpty then
    hardwareRule core g.gslot g.ctx 0x08 (((getGroup s core g.gslot).map (·.held)).getD false) (taken s)
  else match boundarySplit g with
    | some sp => takeTrap core slot (lowestLane sp.mask) { cause := 0x08, tinfo := f.tinfo, tmask := sp.mask } (taken s)
    | none => s

/-- ENGINE_FAULT_DELIVERY (07 R162). -/
def execEngineFaultDelivery (core slot : Nat) (s : State) : Host.Outcome State Fault Refusal :=
  .next (match getGang s core slot, (getCore s core).faults.find? (fun f => f.slot == slot) with
    | some g, some f => deliverFault core slot g f s
    | _, _ => s)

/-! ## The copy and in-layer engines -/

/-- COPY_ACCEPT (09 R201). -/
def execCopyAccept (core : Nat) (s : State) : Host.Outcome State Fault Refusal := .next (endGroup core (copyAccept core s))

/-- COPY_CHUNK_PERFORMED (09 R202). -/
def execCopyChunkPerformed (core : Nat) (s : State) : Host.Outcome State Fault Refusal := .next (endGroup core (copyChunk core s))

/-- An older in-layer operation of the same layer waits on another core (08 R190). -/
def layerBusy (s : State) (core : Nat) (o : NearOp) : Bool :=
  s.cores.any (fun e => e.1 != core && e.2.near.any (fun x => x.layer == o.layer && x.arrived < o.arrived))

/-- IN_LAYER_COMPLETE (08 R190). -/
def execInLayerComplete (core : Nat) (s : State) : Host.Outcome State Fault Refusal :=
  .next (match (getCore s core).near with
    | o :: _ => if layerBusy s core o then s else endGroup core (performNear core s)
    | [] => s)

end Sys2Proof.Machine
end

