-- ==== Sys2Proof/Machine/Move.lean ====
section
/-! DEFINITION. Moves and system values (19 R435, R465, R466, 20 R501, 16 R361, R362). -/

namespace Sys2Proof.Machine

/-- `mov`: a predicate, or the register value, in each acting lane or once (19 R465). -/
def movOp : Ctx → State → State := compute (fun c h => c.a h)

/-- The value `movi` writes: the type's low bits, extended for 8- and 16-bit types (19 R466). -/
def moviVal (t : Nat) (x : BitVec 64) : BitVec 64 := if isInt t then wrapInt t (readInt t x) else bitRes t x

/-- `movi` (19 R466). -/
def moviOp : Ctx → State → State := compute (fun c _ => (moviVal c.t (immediateOf c.f)).toNat)

/-- A system value in a lane (16 R361). -/
def systemValue (c : Ctx) (s : State) (lane : Nat) : Nat :=
  let g := c.gang
  let grp := c.group s
  match c.immN with
  | 0x00 => lane
  | 0x01 => rankIn c.sp.mask lane
  | 0x02 => laneCount c.sp.mask
  | 0x03 => g.width
  | 0x04 => g.id
  | 0x05 => grp.x
  | 0x06 => grp.y
  | 0x07 => grp.z
  | 0x08 => grp.size * grp.width
  | 0x09 => grp.rank
  | 0x0A => grp.stage
  | 0x0B => grp.lcoreSeen
  | 0x0C => s.clock
  | 0x0D => g.quantum
  | 0x0E => g.deadline
  | 0x10 => g.tcause.toNat
  | 0x11 => g.tpc.toNat
  | 0x12 => g.tmask.toNat
  | 0x13 => g.tinfo.toNat
  | _ => g.peerStatus.toNat

/-- `gets` (19 R435, 16 R362). -/
def getsOp (c : Ctx) (s : State) : State := compute (fun c h => systemValue c s h) c s

/-- The quantum as it is stored (03 R62). -/
def storedQuantum (x : Nat) : Nat := if 1 ≤ x && x ≤ 3 then 4 else min x 255

/-- The gang after `sets` of a selector (20 R501, 13 R282, R286). -/
def setSystem (sel x : Nat) (g : Gang) : Gang :=
  match sel with
  | 0x0D => { g with quantum := storedQuantum x, splits := g.splits.map (fun sp => { sp with starve := 0 }) }
  | 0x0E => { g with deadline := min x 65535 }
  | 0x10 => { g with tcause := setField g.tcause 7 0 x }
  | 0x11 => { g with tpc := b64 x, tpcWritten := true }
  | 0x12 => { g with tmask := b64 x }
  | 0x13 => { g with tinfo := b64 x }
  | _ => { g with peerStatus := 0 }

/-- `sets`, once per issue (20 R501): nonzero low bits of `tpc` are illegal (13 R282). -/
def setsOp (c : Ctx) (s : State) : State :=
  let x := c.a c.lane0
  if c.act == 0 then complete c s
  else if c.immN == 0x11 && x % 2 ^ 11 != 0 then raiseIllegal c s
  else completeWith c (setSystem c.immN x) s

/-- `mov` (19 R465), base word. -/
def execMov (w : Base) (s : State) : Host.Outcome State Fault Refusal :=
  issueBase 0x3F w movOp s

/-- `mov` (19 R465). -/
def execMovExt (f : Form) (s : State) : Host.Outcome State Fault Refusal :=
  issueForm 0x3F f movOp s

/-- `movi` (19 R466). -/
def execMovi (f : Form) (s : State) : Host.Outcome State Fault Refusal :=
  issueForm 0x40 f moviOp s

/-- `gets` (19 R435). -/
def execGets (f : Form) (s : State) : Host.Outcome State Fault Refusal :=
  issueForm 0x41 f getsOp s

/-- `sets` (20 R501). -/
def execSets (f : Form) (s : State) : Host.Outcome State Fault Refusal :=
  issueForm 0x42 f setsOp s

end Sys2Proof.Machine
end

