-- ==== Sys2Proof/Machine/Paging.lean ====
section
/-! DEFINITION. Page requests and responses (11 R247 to R251), invalidations (11 R252) and migration (11 R253, R254). -/

namespace Sys2Proof.Machine

/-! ## Waking -/

/-- A gang that is parked no longer. -/
def Gang.walksAgain (g : Gang) : Gang :=
  { g with parked := none, splits := g.splits.map (fun (sp : Split) => { sp with missed := false }) }

/-- A parked gang walks again: its splits replay (11 R248), and it waits on no request any longer (log 38). -/
def wakeGang (core slot : Nat) (s : State) : State :=
  modGang (dropGangWaiters core slot s) core slot Gang.walksAgain

/-- The queue goes on (12 R258). -/
def wakeQueue (n : Nat) (s : State) : State :=
  { s with queues := mapModify s.queues n (fun q => { q with onPage := none }) }

/-- A waiter of a page request walks again (11 R250). -/
def wake (w : Waiter) (s : State) : State :=
  match w with
  | .gang core slot _ => wakeGang core slot s
  | .copy core id => modCore s core (fun c => { c with
      copyrun := c.copyrun.map (fun r => if r.id == id then { r with onPage := none } else r) })
  | .matrix core id => modCore s core (fun c => { c with
      mrun := c.mrun.map (fun m => if m.id == id then { m with onPage := none } else m) })
  | .queue n => wakeQueue n s

/-- The page of a context has a request (11 R249). -/
def requested (s : State) (ctx vpn : Nat) : Bool := s.pages.any (fun r => r.ctx == ctx && r.va / 4096 == vpn)

/-- What a parked gang or engine waits for is not under way: its walk found no room for a request, or its migration has
ended (11 R249, R253). -/
def stopIdle (s : State) (ctx : Nat) (why : Option Park) : Bool :=
  match why with
  | some (.page vpn) => !requested s ctx vpn && s.pages.length < 4096
  | some .migration => s.migration.isNone
  | none => false

/-- The engines of a core whose stop passes a test walk again. -/
def Core.restartEngines (p : Nat → Option Park → Bool) (c : Core) : Core :=
  { c with
    copyrun := c.copyrun.map (fun r => if p r.ctx r.onPage then { r with onPage := none } else r),
    mrun := c.mrun.map (fun m => if p m.ctx m.onPage then { m with onPage := none } else m) }

/-- The walks of a core that wait for room in the table of requests, or for a migration, start again (11 R249, R253). -/
def rewalkCore (s : State) (n : Nat) : State :=
  let idle := (getCore s n).gangs.filter (fun e => stopIdle s e.2.ctx e.2.parked)
  modCore (idle.foldl (fun t e => wakeGang n e.1 t) s) n (Core.restartEngines (stopIdle s))

/-- TLB_WALK_COMPLETE (11 R242): a walk itself is made by the access that needs it (log 6); the walks that wait start
again. -/
def execTlbWalkComplete (s : State) : Host.Outcome State Fault Refusal :=
  let s := (coreIds s).foldl rewalkCore s
  .next { s with queues := s.queues.map (fun e =>
    (e.1, if stopIdle s (qCtx (queueDesc s e.1)) (e.2.onPage.map Park.page) then { e.2 with onPage := none } else e.2)) }

/-! ## Records (11 R249, R251) -/

/-- A page-request record. -/
def PageRequest.bits (r : PageRequest) : Nat :=
  r.va % 2 ^ 52 * 2 ^ 64 + r.gen % 65536 * 2 ^ 48 + r.ctx % 65536 * 2 ^ 32 + r.tag % 65536 * 2 ^ 16 + r.lcore % 256 * 2 ^ 8 +
    r.src % 16 * 2 ^ 4 + (if r.wr then 8 else 0) + (if r.ex then 4 else 0)

/-- The page-request ring has room (11 R251). -/
def prqRoom (s : State) : Bool :=
  let n := field (reg64 s offPrqBase) 4 0
  let p := reg32 s offPrqPtr
  4 ≤ n && n ≤ 15 && (field p 31 16 + 65536 - field p 15 0) % 65536 < 2 ^ n

/-- PAGE_REQUEST_RECORD_WRITE (11 R249): the oldest request without a record. A viral device writes none (14 R314). -/
def execPageRequestRecordWrite (s : State) : Host.Outcome State Fault Refusal :=
  .next (match s.pages.find? (fun r => !r.written) with
    | none => s
    | some r =>
      if !prqRoom s || isViral s then s
      else
        let base := reg64 s offPrqBase
        let tail := field (reg32 s offPrqPtr) 31 16
        let s := poke s (hostAddr (field base 51 12 * 4096) + 16 * (tail % 2 ^ field base 4 0)) (natToBytes 16 r.bits)
        let s := raiseIrq 0 (setRegField s offPrqPtr 31 16 (tail + 1))
        { s with pages := s.pages.map (fun x => if x.tag == r.tag then { x with written := true } else x) })

/-! ## Responses (11 R250, R251) -/

/-- The request that a response answers; none when it is stale. -/
def answered (s : State) (v : BitVec 64) : Option PageRequest :=
  s.pages.find? (fun r => r.tag == field v 31 16 && r.ctx == field v 47 32 && r.gen == field v 63 48)

/-- The request retires. -/
def retireRequest (r : PageRequest) (s : State) : State := { s with pages := s.pages.filter (fun x => x.tag != r.tag) }

/-- A response with STATUS 0: every waiter walks again (11 R250). -/
def pageMapped (v : BitVec 64) (s : State) : State :=
  match answered s v with
  | some r => if field v 1 0 == 0 then r.waiters.foldl (fun s w => wake w s) (retireRequest r s) else s
  | none => s

/-- PRS_MAPPED (11 R250). -/
def execPrsMapped (v : BitVec 64) (s : State) : Host.Outcome State Fault Refusal :=
  .next (pageMapped v (recordLow offPrs v s))

/-- A split whose page is refused traps in its unfinished lanes (11 R250), each split that waits for it (11 R255). -/
def refuseLanes (core slot lane va : Nat) (s : State) : State :=
  match getGang s core slot with
  | none => s
  | some g => match splitOf g lane with
    | none => s
    | some sp =>
      let left := sp.replay.getD sp.mask
      trapWhenPresent core slot lane { cause := 0x05, tinfo := b64 (faultInfo 0 va), tmask := left, unfinished := left }
        (wakeGang core slot s)

/-- A queue stops (12 R258): PROG published, EN cleared, the event. -/
def stopQueue (q cause : Nat) (s : State) : State :=
  let d := queueDesc s q
  let s := journal (.prog q (queueProg s q)) s
  let s := setQueueDesc q (setField (setField d 399 368 (queueProg s q)) 435 435 0) s
  let m := mapGet {} s.queues q
  let s := { s with queues := mapSet s.queues q { m with stopped := true, onPage := none } }
  containEvent 0xE 0xFF 0xF (q + cause * 2 ^ 16) (qCtx d) none s

/-- A waiter of a refused page (11 R250): a trap, or its engine's fault. -/
def refuse (va : Nat) (w : Waiter) (s : State) : State :=
  match w with
  | .gang core slot lane => refuseLanes core slot lane va s
  | .copy core id =>
    let here := (getCore s core).copyrun.filter (fun r => r.id == id && r.onPage == some (.page (va / 4096)))
    here.foldl (fun s r => copyFault core r.slot r.gslot r.ctx id r.index (engineInfo 0xC 1) s) s
  | .matrix core id =>
    match (getCore s core).mrun.find? (fun m => m.id == id && m.onPage == some (.page (va / 4096))) with
    | some m => faultReason core m 1 (closeRings core m s)
    | none => s
  | .queue n => stopQueue n 0 s

/-- A waiter still waits: a gang's split has lanes to perform, or its fetch found no page (11 R255, log 38). -/
def Waiter.waits (s : State) : Waiter → Bool
  | .gang core slot lane => (((getGang s core slot).bind (fun g => splitOf g lane)).map (fun sp => sp.replay.isSome || sp.missed)).getD false
  | .copy _ _ | .matrix _ _ | .queue _ => true

/-- A response with STATUS 1: every waiter is refused (11 R250). -/
def pageRefused (v : BitVec 64) (s : State) : State :=
  match answered s v with
  | some r => if field v 1 0 == 1 then (r.waiters.filter (Waiter.waits s)).foldl (fun s w => refuse r.va w s) (retireRequest r s) else s
  | none => s

/-- PRS_REFUSED (11 R250). -/
def execPrsRefused (v : BitVec 64) (s : State) : Host.Outcome State Fault Refusal :=
  .next (pageRefused v (recordLow offPrs v s))

/-- A response that is stale, or has STATUS 2 or 3, is discarded and counted (11 R250). -/
def pageDiscard (v : BitVec 64) (s : State) : State :=
  if (answered s v).isNone || 1 < field v 1 0 then
    setRegField s offXlatStat 15 0 (saturate (field (reg32 s offXlatStat) 15 0 + 1) 0xFFFF)
  else s

/-- PRS_DISCARD (11 R250). -/
def execPrsDiscard (v : BitVec 64) (s : State) : Host.Outcome State Fault Refusal :=
  .next (pageDiscard v (recordLow offPrs v s))

/-- A `PRS` write (11 R250). -/
def answerPage (v : BitVec 64) (s : State) : State :=
  if (answered s v).isNone || 1 < field v 1 0 then pageDiscard v s else pageRefused v (pageMapped v s)

/-! ## Invalidation (11 R252) -/

/-- A range of virtual addresses of a context; the whole context when its size is none. -/
structure VRange where
  ctx : Nat
  va : Nat
  size : Option Nat
deriving DecidableEq, Repr

/-- The range of a `TLBI` write. -/
def tlbiRange (v : BitVec 64) : VRange :=
  let va := field v 47 8 * 4096
  let log := [12, 16, 21].getD (field v 7 6) 21
  { ctx := field v 63 48, va := va / 2 ^ log * 2 ^ log, size := if field v 7 6 == 3 then none else some (2 ^ log) }

/-- A range meets the bytes from `a`, `n` of them. -/
def VRange.meets (r : VRange) (a n : Nat) : Bool :=
  match r.size with
  | none => true
  | some m => r.va < a + n && a < r.va + m

/-- A TLB entry that an invalidation removes. -/
def VRange.hits (r : VRange) (e : TlbEntry) : Bool := e.ctx == r.ctx && r.meets e.va (2 ^ e.size)

/-- A window's page by its tier (08 R195). -/
def windowPage (w : BitVec 192) : Nat :=
  if field w 187 186 == 1 then 16 else if field w 187 186 == 2 then 12 else 21

/-- A gang's windows without those that map the range (08 R198). -/
def closeWindows (r : VRange) (g : Gang) : Gang :=
  if g.ctx != r.ctx then g
  else { g with w := g.w.map (fun e =>
    let n := windowPage e.2
    (e.1, if r.meets (field e.2 51 0 / 2 ^ n * 2 ^ n) (2 ^ n) then setField e.2 191 191 0 else e.2)) }

/-- An invalidation removes the entries of a range from every TLB and closes the windows that map it (11 R252). -/
def invalidate (r : VRange) (s : State) : State :=
  { s with
    tlb2 := s.tlb2.map (fun e => (e.1, e.2.filter (fun x => !r.hits x))),
    cores := s.cores.map (fun e => (e.1, { e.2 with
      tlb := e.2.tlb.filter (fun x => !r.hits x),
      gangs := e.2.gangs.map (fun g => (g.1, closeWindows r g.2)) })) }

/-- The count of invalidations pending. -/
def setPending (s : State) : State := setRegField s offXlatStat 30 24 s.tlbi.length

/-- A `TLBI` write queues an invalidation, or is dropped while 64 are pending (11 R251). -/
def queueTlbi (v : BitVec 64) (s : State) : State :=
  if 64 ≤ s.tlbi.length then setRegField s offXlatStat 31 31 1 else setPending { s with tlbi := s.tlbi ++ [v] }

/-- TLBI_PAGE (11 R252). -/
def execTlbiPage (v : BitVec 64) (s : State) : Host.Outcome State Fault Refusal :=
  .next (if field v 7 6 < 3 then queueTlbi v (recordLow offTlbi v s) else s)

/-- TLBI_CONTEXT (11 R252). -/
def execTlbiContext (v : BitVec 64) (s : State) : Host.Outcome State Fault Refusal :=
  .next (if field v 7 6 == 3 then queueTlbi v (recordLow offTlbi v s) else s)

/-- Work of a context that holds addresses it has translated: its in-layer operations (08 R190). Every other access is
made in the step that translates it (log 6). -/
def translatedWork (s : State) (ctx : Nat) : Bool := s.cores.any (fun e => e.2.near.any (fun o => o.ctx == ctx))

/-- TLBI_COMPLETE (11 R252): the oldest invalidation is made; it completes once no access of its context is in flight. -/
def execTlbiComplete (s : State) : Host.Outcome State Fault Refusal :=
  .next (match s.tlbi with
    | [] => s
    | v :: rest =>
      let s := invalidate (tlbiRange v) s
      if translatedWork s (field v 63 48) then s else setPending { s with tlbi := rest })

/-! ## Migration (11 R253, R254) -/

/-- The address of the entry for a virtual address in the table of a level above 0, when the walk reaches it. -/
def entryAt (s : State) (va target : Nat) : Nat → Nat → Option Nat
  | level, table =>
    let at_ := table + 8 * tableIndex level false va
    let e := peek s at_ 8
    if level == target then some at_
    else if e % 2 == 0 || malformedEntry level false e || fieldN e 3 2 == 2 then none
    else match level with
      | 0 => none
      | l + 1 => entryAt s va target l (fieldN e 51 8 * 256)

/-- The leaves of an L1 entry: itself, or the 32 of a KIND 1 table. -/
def rangeLeaves (s : State) (e : Nat) : List Nat :=
  if fieldN e 3 2 == 2 then [e] else (List.range 32).map (fun i => peek s (fieldN e 51 8 * 256 + 8 * i) 8)

/-- Physical address of a leaf. -/
def leafPa (e : Nat) : Nat := fieldN e 51 8 * 256

/-- A leaf is valid and well formed at a level. -/
def goodLeaf (level : Nat) (e : Nat) : Bool :=
  e % 2 == 1 && !malformedEntry level (level == 0) e && fieldN e 3 2 == 2

/-- A range has a shape that migrates (11 R253): a 2 MiB leaf in HBM4, or 32 leaves in the second tier. -/
def rangeShape (s : State) (e : Nat) : Bool :=
  e % 2 == 1 && !malformedEntry 1 false e &&
    ((fieldN e 3 2 == 2 && tierOf (leafPa e) == .hbm) ||
     (fieldN e 3 2 == 1 && (rangeLeaves s e).all (fun l => goodLeaf 0 l && secondTier (tierOf (leafPa l)))))

/-- The destination of a migration may be used: in the other tier, and not in memory that the range uses (11 R253). -/
def destinationOk (s : State) (e dpa : Nat) : Bool :=
  let toHbm := fieldN e 3 2 == 1
  let tier := if toHbm then tierOf dpa == .hbm else secondTier (tierOf dpa)
  let size := if toHbm then 65536 else 2 ^ 21
  let used (a n : Nat) : Bool := dpa < a + n && a < dpa + 2 ^ 21
  tier && !(rangeLeaves s e).any (fun l => used (leafPa l) size) && !(toHbm && used (leafPa e) 256)

/-- W, X and C of a leaf. -/
def leafBits (e : Nat) : Nat := fieldN e 61 59

/-- The leaves of a range have equal W, X and C, and none is pinned (11 R253). -/
def leavesAlike (l : List Nat) : Bool :=
  l.all (fun e => leafBits e == leafBits (l.headD 0) && fieldN e 62 62 == 0)

/-- Physical ranges of the leaves of an L1 entry. -/
def rangePages (s : State) (e : Nat) : List (Nat × Nat) :=
  if fieldN e 3 2 == 2 then [(leafPa e, 2 ^ 21)] else (rangeLeaves s e).map (fun l => (leafPa l, 65536))

/-- The physical ranges that an in-layer operation reads and writes (08 R188). -/
def NearOp.ranges (o : NearOp) : List (Nat × Nat) := (o.dst, o.len) :: (if o.kind == 0 then [] else [(o.src, o.len)])

/-- The physical pages on which the work of a core holds references (11 R254, log 39). -/
def Core.held (c : Core) : List (Nat × Nat) :=
  let ofRefs (l : List PageRef) : List (Nat × Nat) := l.map (fun r => (r.pa, 2 ^ r.size))
  c.copyrun.flatMap (fun r => ofRefs r.refs) ++ c.mrun.flatMap (fun m => ofRefs m.refs) ++ c.near.flatMap NearOp.ranges

/-- A page of a range has an in-flight reference (11 R254). -/
def referenced (s : State) (pages : List (Nat × Nat)) : Bool :=
  s.cores.any (fun e => e.2.held.any (fun h => pages.any (rangesMeet h)))

/-- A migration ends or is refused with a result. -/
def setMigResult (n : Nat) (s : State) : State := setRegField (setRegField s offXlatStat 22 20 n) offXlatStat 23 23 0

/-- A `MIG_CMD` write while no migration runs (11 R253). -/
def startMigration (v : BitVec 128) (s : State) : State :=
  let ctx := field v 21 6
  let va := field v 52 22 * 2 ^ 21
  let dpa := field v 83 53 * 2 ^ 21
  match entryAt s va 1 3 (ctxRoot s ctx) with
  | none => setMigResult 1 s
  | some at_ =>
    let e := peek s at_ 8
    if !rangeShape s e then setMigResult 1 s
    else if !destinationOk s e dpa then setMigResult 2 s
    else if !leavesAlike (rangeLeaves s e) then setMigResult 3 s
    else
      let r : VRange := { ctx := ctx, va := va, size := some (2 ^ 21) }
      let m : Migration := { ctx := ctx, va := va, dpa := dpa, tpa := field v 127 84 * 256, entry := at_,
                             toHbm := fieldN e 3 2 == 1 }
      let s := poke s at_ (natToBytes 8 (setFieldN e 63 63 1))
      invalidate r { setRegField s offXlatStat 23 23 1 with migration := some m }

/-- A `MIG_CMD` write (11 R253): ignored while a migration runs. -/
def commandMigration (v : BitVec 128) (s : State) : State := if s.migration.isNone then startMigration v s else s

/-- MIG_CMD (11 R253). -/
def execMigCmd (v : BitVec 128) (s : State) : Host.Outcome State Fault Refusal := 
  .next (commandMigration v (setReg32 (setReg64 s offMigCmd (v.extractLsb' 0 64)) (offMigCmd + 8) (v.extractLsb' 64 32)))

/-- Where a byte of the range moves: an address of a source page to the destination. -/
def movedAddr (pages : List (Nat × Nat)) (dpa : Nat) (a : Nat) : Nat :=
  let rec go : List (Nat × Nat) → Nat → Nat
    | [], _ => a
    | (p, n) :: rest, off => if p ≤ a && a < p + n then dpa + off + (a - p) else go rest (off + n)
  go pages 0

/-- The bytes that a list of pages holds, in order. -/
def pageBytes (s : State) (pages : List (Nat × Nat)) : List Byte := pages.flatMap (fun p => memReadBytes s.mem p.1 p.2)

/-- Bytes kept by their addresses that move with a range. -/
def moveBytes (pages : List (Nat × Nat)) (dpa : Nat) (m : SMap Byte) : SMap Byte :=
  m.foldl (fun v b => mapSet v (movedAddr pages dpa b.1) b.2) []

/-- What a group keeps of its range's bytes moves with it: its version (10 R236), and old code (16 R353). -/
def Group.movePages (pages : List (Nat × Nat)) (dpa : Nat) (g : Group) : Group :=
  { g with version := moveBytes pages dpa g.version, oldCode := g.oldCode.map (moveBytes pages dpa) }

/-- Bytes held in versions move with their range (10 R236), those of saved groups too (13 R293). -/
def moveVersions (pages : List (Nat × Nat)) (dpa : Nat) (s : State) : State :=
  { s with
    overwritten := s.overwritten.map (fun o => { o with old := moveBytes pages dpa o.old }),
    cores := s.cores.map (fun e => (e.1, { e.2 with
      groups := e.2.groups.map (fun g => (g.1, g.2.movePages pages dpa)) })),
    saved := s.saved.map (fun e => (e.1, { e.2 with
      groups := e.2.groups.map (fun x => { x with group := x.group.movePages pages dpa }) })) }

/-- Lines of some ranges leave every cache (11 R253, 10 R221). -/
def dropCached (pages : List (Nat × Nat)) (s : State) : State :=
  let gone (line : Nat) : Bool := pages.any (rangesMeet (line * 128, 128))
  { s with
    l2 := s.l2.filter (fun e => !gone e.1),
    cores := s.cores.map (fun e => (e.1, { e.2 with l1 := e.2.l1.filter (fun x => !gone x.1) })) }

/-- Every gang and engine that waits on a migration walks again (11 R253). -/
def wakeMigration (s : State) : State :=
  let go (g : Gang) : Gang := if g.parked == some .migration then g.walksAgain else g
  { s with cores := s.cores.map (fun e =>
      (e.1, Core.restartEngines (fun _ why => why == some .migration) { e.2 with gangs := e.2.gangs.map (fun g => (g.1, go g.2)) })) }

/-- The range moves (11 R253): the source leaves the caches, and the destination's lines with it, its bytes go to the
destination, the entry is rewritten. -/
def moveRange (m : Migration) (s : State) : State :=
  let e := peek s m.entry 8
  let pages := rangePages s e
  let attrs := leafBits ((rangeLeaves s e).headD 0) * 2 ^ 59
  let bytes := pageBytes s pages
  let s := dropCached ((m.dpa, 2 ^ 21) :: pages) s
  let s := moveVersions pages m.dpa (poke s m.dpa bytes)
  let s := if m.toHbm then poke s m.entry (natToBytes 8 (attrs + m.dpa + 9))
    else
      let table := (List.range 32).flatMap (fun i => natToBytes 8 (attrs + m.dpa + 65536 * i + 9))
      poke (poke s m.tpa table) m.entry (natToBytes 8 (m.tpa + 5))
  wakeMigration (setMigResult 0 { s with migration := none })

/-- The level whose budget a context's migration takes (12 R272): that of the lowest queue of the context (log 69). -/
def levelOfCtx (s : State) (ctx : Nat) : Nat :=
  match s.queues.find? (fun e => qCtx (queueDesc s e.1) == ctx) with
  | some e => qPrio (queueDesc s e.1)
  | none => 15

/-- A viral device holds a migration that reads or writes beyond it (14 R314). -/
def moveBlocked (s : State) (m : Migration) : Bool :=
  viralBlocks s m.dpa || (rangePages s (peek s m.entry 8)).any (fun p => viralBlocks s p.1)

/-- MIGRATION_COMPLETE (11 R253): once no reference to the range is left (11 R254) and its level has budget (12 R272). -/
def execMigrationComplete (s : State) : Host.Outcome State Fault Refusal :=
  .next (match s.migration with
    | none => s
    | some m =>
      let level := levelOfCtx s m.ctx
      if referenced s (rangePages s (peek s m.entry 8)) || moveBlocked s m || !hasBudget s 4 0 level then s
      else moveRange m (chargeBudget 4 0 level (Config.migrationCycles s.clock) s))

end Sys2Proof.Machine
end

