-- ==== Sys2Proof/Machine/Hash.lean ====
section
/-! DEFINITION. SHA-512 and the check of an RSASSA-PSS signature, which 15 R332 names; their texts are those of FIPS 180-4
and PKCS #1 v2.2 (log 95). -/

namespace Sys2Proof.Machine

/-! ## SHA-512 -/

/-- The round constants. -/
def shaConstants : List (BitVec 64) :=
  [0x428A2F98D728AE22, 0x7137449123EF65CD, 0xB5C0FBCFEC4D3B2F, 0xE9B5DBA58189DBBC, 0x3956C25BF348B538,
   0x59F111F1B605D019, 0x923F82A4AF194F9B, 0xAB1C5ED5DA6D8118, 0xD807AA98A3030242, 0x12835B0145706FBE,
   0x243185BE4EE4B28C, 0x550C7DC3D5FFB4E2, 0x72BE5D74F27B896F, 0x80DEB1FE3B1696B1, 0x9BDC06A725C71235,
   0xC19BF174CF692694, 0xE49B69C19EF14AD2, 0xEFBE4786384F25E3, 0x0FC19DC68B8CD5B5, 0x240CA1CC77AC9C65] ++
  [0x2DE92C6F592B0275, 0x4A7484AA6EA6E483, 0x5CB0A9DCBD41FBD4, 0x76F988DA831153B5, 0x983E5152EE66DFAB,
   0xA831C66D2DB43210, 0xB00327C898FB213F, 0xBF597FC7BEEF0EE4, 0xC6E00BF33DA88FC2, 0xD5A79147930AA725,
   0x06CA6351E003826F, 0x142929670A0E6E70, 0x27B70A8546D22FFC, 0x2E1B21385C26C926, 0x4D2C6DFC5AC42AED,
   0x53380D139D95B3DF, 0x650A73548BAF63DE, 0x766A0ABB3C77B2A8, 0x81C2C92E47EDAEE6, 0x92722C851482353B] ++
  [0xA2BFE8A14CF10364, 0xA81A664BBC423001, 0xC24B8B70D0F89791, 0xC76C51A30654BE30, 0xD192E819D6EF5218,
   0xD69906245565A910, 0xF40E35855771202A, 0x106AA07032BBD1B8, 0x19A4C116B8D2D0C8, 0x1E376C085141AB53,
   0x2748774CDF8EEB99, 0x34B0BCB5E19B48A8, 0x391C0CB3C5C95A63, 0x4ED8AA4AE3418ACB, 0x5B9CCA4F7763E373,
   0x682E6FF3D6B2B8A3, 0x748F82EE5DEFB2FC, 0x78A5636F43172F60, 0x84C87814A1F0AB72, 0x8CC702081A6439EC] ++
  [0x90BEFFFA23631E28, 0xA4506CEBDE82BDE9, 0xBEF9A3F7B2C67915, 0xC67178F2E372532B, 0xCA273ECEEA26619C,
   0xD186B8C721C0C207, 0xEADA7DD6CDE0EB1E, 0xF57D4F7FEE6ED178, 0x06F067AA72176FBA, 0x0A637DC5A2C898A6,
   0x113F9804BEF90DAE, 0x1B710B35131C471B, 0x28DB77F523047D84, 0x32CAAB7B40C72493, 0x3C9EBE0A15C9BEBC,
   0x431D67C49C100D4C, 0x4CC5D4BECB3E42B6, 0x597F299CFC657E2A, 0x5FCB6FAB3AD6FAEC, 0x6C44198C4A475817]

/-- The initial hash value. -/
def shaInit : List (BitVec 64) :=
  [0x6A09E667F3BCC908, 0xBB67AE8584CAA73B, 0x3C6EF372FE94F82B, 0xA54FF53A5F1D36F1,
   0x510E527FADE682D1, 0x9B05688C2B3E6C1F, 0x1F83D9ABFB41BD6B, 0x5BE0CD19137E2179]

/-- A message with its padding: a one, zeros, and its length in bits as 16 bytes, the most significant first. -/
def shaPad (m : List Byte) : List Byte :=
  m ++ [0x80] ++ List.replicate ((239 - m.length % 128) % 128) 0 ++ (natToBytes 16 (8 * m.length)).reverse

/-- 64-bit words of bytes, each with its most significant byte first. -/
def shaWords : Nat → List Byte → List (BitVec 64)
  | 0, _ => []
  | n + 1, l => BitVec.ofNat 64 (bytesToNat (l.take 8).reverse) :: shaWords n (l.drop 8)

/-- The functions of the schedule and of a round. -/
def shaSmall (a b c : Nat) (x : BitVec 64) : BitVec 64 := x.rotateRight a ^^^ x.rotateRight b ^^^ (x >>> c)
def shaBig (a b c : Nat) (x : BitVec 64) : BitVec 64 := x.rotateRight a ^^^ x.rotateRight b ^^^ x.rotateRight c

/-- The message schedule, the newest word first, `n` words longer. -/
def shaSchedule : Nat → List (BitVec 64) → List (BitVec 64)
  | 0, w => w
  | n + 1, w =>
    let at_ (k : Nat) : BitVec 64 := w.getD k 0
    shaSchedule n ((shaSmall 19 61 6 (at_ 1) + at_ 6 + shaSmall 1 8 7 (at_ 14) + at_ 15) :: w)

/-- One round on the eight working variables. -/
def shaRound (v : List (BitVec 64)) (kw : BitVec 64 × BitVec 64) : List (BitVec 64) :=
  match v with
  | [a, b, c, d, e, f, g, h] =>
    let t := h + shaBig 14 18 41 e + ((e &&& f) ^^^ (~~~e &&& g)) + kw.1 + kw.2
    let u := shaBig 28 34 39 a + ((a &&& b) ^^^ (a &&& c) ^^^ (b &&& c))
    [t + u, a, b, c, d + t, e, f, g]
  | _ => v

/-- A block of 128 bytes. -/
def shaBlock (h : List (BitVec 64)) (block : List Byte) : List (BitVec 64) :=
  let w := (shaSchedule 64 (shaWords 16 block).reverse).reverse
  (h.zip ((shaConstants.zip w).foldl shaRound h)).map (fun e => e.1 + e.2)

/-- Blocks one after another. -/
def shaBlocks : Nat → List (BitVec 64) → List Byte → List (BitVec 64)
  | 0, h, _ => h
  | n + 1, h, l => shaBlocks n (shaBlock h (l.take 128)) (l.drop 128)

/-- SHA-512 of a byte string: 64 bytes, the first byte of the hash first. -/
def sha512 (m : List Byte) : List Byte :=
  let p := shaPad m
  (shaBlocks (p.length / 128) shaInit p).flatMap (fun x => (natToBytes 8 x.toNat).reverse)

/-! ## RSASSA-PSS -/

/-- A power modulo a number, by the bits of the exponent from the least on. -/
def powMod (n : Nat) : Nat → Nat → Nat → Nat
  | 0, _, _ => 1 % n
  | fuel + 1, b, e =>
    if e == 0 then 1 % n
    else
      let r := powMod n fuel (b * b % n) (e / 2)
      if e % 2 == 1 then b * r % n else r

/-- MGF1 with SHA-512: the first `n` bytes of at most eight blocks. -/
def maskOfSeed (seed : List Byte) (n : Nat) : List Byte :=
  ((List.range (n / 64 + 1)).flatMap (fun k => sha512 (seed ++ (natToBytes 4 k).reverse))).take n

/-- EMSA-PSS-VERIFY of a hash and an encoded message of 512 bytes under a modulus of 4,096 bits, with SHA-512 and a salt of
64 bytes. -/
def pssMatches (hash em : List Byte) : Bool :=
  let masked := em.take 447
  let h := (em.drop 447).take 64
  let db := (masked.zip (maskOfSeed h 447)).map (fun e => e.1 ^^^ e.2)
  let db := (db.take 1).map (fun b => b &&& 0x7F) ++ db.drop 1
  em.length == 512 && em.drop 511 == [0xBC] && (masked.headD 0).toNat < 128 &&
    (db.take 382).all (· == 0) && (db.drop 382).take 1 == [1] &&
    sha512 (List.replicate 8 0 ++ hash ++ db.drop 383) == h

/-- RSASSA-PSS-VERIFY of a message and a signature of 512 bytes, the most significant first, under a modulus and an
exponent. -/
def pssGood (key : Nat × Nat) (message signature : List Byte) : Bool :=
  let x := bytesToNat signature.reverse
  x < key.1 && pssMatches (sha512 message) (natToBytes 512 (powMod key.1 4096 x key.2)).reverse

end Sys2Proof.Machine
end

