-- ==== Sys2Proof/Machine/Boot.lean ====
section
/-! DEFINITION. The boot ROM's work on an image (15 R332) and the attestation reports (15 R333). -/

namespace Sys2Proof.Machine

/-! ## Boot (15 R332) -/

/-- STATE of `BOOT_STAT`. -/
def bootState (s : State) : Nat := field (reg32 s offBootStat) 31 29

/-- `BOOT_STAT` takes a state and a reason, with its interrupt. -/
def setBoot (st why : Nat) (s : State) : State :=
  raiseIrq 5 (setReg32 s offBootStat (BitVec.ofNat 32 (st * 2 ^ 29 + why * 2 ^ 24)))

/-- The signature after the header and the body of an image of `n` bytes is good under the fused key. -/
def signatureGood (n : Nat) (image : List Byte) : Bool :=
  pssGood Config.bootKey (image.take (n - 512)) ((image.drop (n - 512)).take 512)

/-- Why an image is rejected, 0 when it is not (15 R332): a header and body of `n` - 512 bytes with the signature after
them. -/
def imageFault (n : Nat) (image : List Byte) : Nat :=
  if n < 1536 || 2 ^ 24 < n then 1
  else if bytesToNat (image.take 8) != Config.imageMagic.toNat then 2
  else if 1536 + bytesToNat ((image.drop 20).take 4) != n then 1
  else if !signatureGood n image then 3
  else if bytesToNat ((image.drop 16).take 4) < Config.fusedSvn then 4
  else 0

/-- The ROM cannot read the image: from its address modulo 2^51 (15 R322) it runs past host memory, or the device is viral (14 R314, log 74). -/
def imageUnread (s : State) : Bool :=
  isViral s || 2 ^ 51 < (reg64 s 0x2408).toNat % 2 ^ 51 + (reg32 s 0x2410).toNat

/-- The ROM reads, measures and checks the image of `FW_ADDR` and `FW_LEN` (15 R332). -/
def measureImage (s : State) : State :=
  let n := (reg32 s 0x2410).toNat
  let image := memReadBytes s.mem (hostAddr (reg64 s 0x2408).toNat) n
  if n < 1536 || 2 ^ 24 < n then setBoot 3 1 s
  else if imageUnread s then setBoot 3 5 s
  else match imageFault n image with
    | 0 => setBoot 4 0 { s with fwMeasure := BitVec.ofNat 512 (bytesToNat (sha512 (image.take (n - 512)))),
                                fwVersion := BitVec.ofNat 64 (bytesToNat ((image.drop 8).take 8)),
                                fwSvn := BitVec.ofNat 32 (bytesToNat ((image.drop 16).take 4)) }
    | w => setBoot 3 w s

/-- A `FW_GO` write (15 R332): the ROM begins to measure; ignored but in states 1 and 3. -/
def startBoot (s : State) : State := if bootState s == 1 || bootState s == 3 then setBoot 2 0 s else s

/-! ## Attestation (15 R333) -/

/-- `ATT_STAT` changes, with its interrupt. -/
def setAttStat (v : Word) (s : State) : State := raiseIrq 5 (setReg32 s offAttStat v)

/-- BUSY of `ATT_STAT`. -/
def attBusy (s : State) : Bool := field (reg32 s offAttStat) 31 31 == 1

/-- A command begins, unless one is in progress. -/
def startAttest (cmd : Nat) (s : State) : State :=
  if attBusy s then s else setAttStat 0x80000000 { s with attCmd := cmd }

/-- Bytes 0 to 511 of the report. -/
def reportBody (s : State) : List Byte :=
  natToBytes 64 s.fwMeasure.toNat ++ (List.range 8).flatMap (fun i => natToBytes 4 (reg32 s (0x2440 + 4 * i)).toNat) ++
  natToBytes 8 s.fwVersion.toNat ++ natToBytes 4 s.fwSvn.toNat ++ natToBytes 4 (reg32 s 0).toNat ++
  natToBytes 16 Config.serialNumber.toNat ++ List.replicate 384 0

/-- The report: the body and its signature of 512 bytes. -/
def reportBytes (s : State) : List Byte :=
  let body := reportBody s
  body ++ (Config.attestSign body ++ List.replicate 512 0).take 512

/-- A command ends (15 R333): result 1 before state 5, 2 when the buffer runs past host memory (log 50). A viral device
still answers (15 R334). -/
def attest (bytes : List Byte) (s : State) : State :=
  let h := (reg64 s 0x2460).toNat % 2 ^ 51
  let s := { s with attCmd := 0 }
  if bootState s != 5 then setAttStat 1 s
  else if 2 ^ 51 < h + 1024 then setAttStat 2 s
  else setAttStat 0 (poke s (hostAddr h) (bytes.take 1024))

/-- The command in progress runs: 1 asks for the signed report, 2 for the device identity certificate. -/
def runAttest (s : State) : State :=
  if s.attCmd == 1 then attest (reportBytes s) s
  else if s.attCmd == 2 then attest (Config.certChain ()) s
  else s

/-- What Vent firmware and ROM have been asked for (15 R332, R333): an image is measured, and a command runs,
in a pass of Vent core 0 (log 101). -/
def serveRequests (s : State) : State :=
  let s := runAttest s
  if bootState s == 2 then measureImage s else s

end Sys2Proof.Machine
end

