-- ==== Sys2Proof/Machine/Placing.lean ====
section
/-! DEFINITION. Launch records and stage descriptors (12 R262, R263), and where a group is placed (02 R32 to R43, R52,
04 R79, 07 R144, 08 R175, R191, 12 R264, R266, 14 R307, R308, R319). -/

namespace Sys2Proof.Machine

/-! ## Fields (12 R262, R263) -/

def hSeed (d : BitVec 512) : Nat := field d 511 448
def hCtx (d : BitVec 512) : Nat := field d 447 432
def hHeld (d : BitVec 512) : Bool := field d 390 390 == 1
def hShadow (d : BitVec 512) : Bool := field d 389 389 == 1
def hRetry (d : BitVec 512) : Nat := field d 388 386
def hStages (d : BitVec 512) : Nat := field d 385 383 + 1
def hPod (d : BitVec 512) : Bool := field d 382 382 == 1
def hPlid (d : BitVec 512) : Nat := field d 381 350
def hSig (d : BitVec 512) : Nat := field d 349 338
def hSigV (d : BitVec 512) : Bool := field d 337 337 == 1
def hOvl (d : BitVec 512) : Bool := field d 234 234 == 1
def hPodn (d : BitVec 512) : Nat := field d 233 224

/-- The awaited tokens that are valid. -/
def hWaits (d : BitVec 512) : List Nat :=
  ([(336, 325, 324), (323, 312, 311), (310, 299, 298), (297, 286, 285)].filter (fun e => field d e.2.2 e.2.2 == 1)).map
    (fun e => field d e.1 e.2.1)

def stSpill (d : BitVec 512) : Nat := field d 511 460
def stEntry (d : BitVec 512) : BitVec 52 := BitVec.ofNat 52 (field d 459 410 * 4)
def stX (d : BitVec 512) : Nat := field d 409 379
def stY (d : BitVec 512) : Nat := field d 378 363
def stZ (d : BitVec 512) : Nat := field d 362 347
def stRoles (d : BitVec 512) : Bool := field d 344 344 == 1
def stScratch (d : BitVec 512) : Nat := 1024 * field d 299 291
def stAcc (d : BitVec 512) : Nat := field d 290 288
def stTiles (d : BitVec 512) : Nat := field d 287 281
def stCohort (d : BitVec 512) : Nat := field d 280 278
def stQuota (d : BitVec 512) : Nat := field d 277 266
def stSpillN (d : BitVec 512) : Nat := field d 265 245
def stSdep (d : BitVec 512) : Bool := field d 244 244 == 1

/-- W of a stage. -/
def stWidth (d : BitVec 512) : Nat := 8 * 2 ^ field d 346 345

/-- Gangs of load, store, epilogue and general, and their register counts. -/
def stCounts (d : BitVec 512) : List Nat := [field d 343 338, field d 332 327, field d 321 316, field d 310 305]
def stRegs (d : BitVec 512) : List Nat :=
  [field d 337 333, field d 326 322, field d 315 311, field d 304 300].map (fun c => 8 * (c + 1))

/-- G of a stage. -/
def stGangs (d : BitVec 512) : Nat := (stCounts d).foldl (· + ·) 0

/-- Groups of a stage (02 R35). -/
def stGroups (d : BitVec 512) : Nat := stX d * stY d * stZ d

/-- Groups that are placed together: one, or a cohort (02 R52). -/
def stUnit (d : BitVec 512) : Nat := max 1 (stCohort d)

/-- A group's largest gang image, beside the floor it needs itself (02 R40, R42). -/
def stImage (d : BitVec 512) : Nat :=
  let regs := (((stCounts d).zip (stRegs d)).filter (fun e => e.1 != 0)).foldl (fun n e => max n (roundRegs e.2)) 8
  footprint (stWidth d) regs + 1280 + 8 * stWidth d
def stFloor (d : BitVec 512) : Nat :=
  if stQuota d == 0 then 0 else 2 * footprint (stWidth d) (roundRegs ((stRegs d).getD 3 8))

/-- A stage breaks the ranges of 12 R263, 02 R32 or R39 (12 R264). -/
def stageBad (d : BitVec 512) : Bool :=
  field d 243 0 != 0 || stX d == 0 || stY d == 0 || stZ d == 0 || stGangs d == 0 || 46 < stGangs d ||
    1024 < stGangs d * stWidth d || 458752 < stScratch d || 4 < stAcc d || 64 < stTiles d || 4 < stCohort d ||
    2048 < stQuota d || 2 ^ 20 < stSpillN d || stSpill d % 4096 != 0 ||
    (!stRoles d && ((stCounts d).take 3).any (· != 0)) ||
    (stRoles d && (stCounts d).getD 3 0 == 0 && stQuota d != 0) ||
    (stCohort d != 0 && stGroups d % stCohort d != 0)

/-- A stage's group does not fit on an empty core (02 R43). -/
def stageLarge (d : BitVec 512) : Bool := fileSize < stImage d + stFloor d

/-! ## A place on a core -/

/-- The lowest place of a free scratchpad range (08 R175). -/
def scratchPlace (c : Core) (size : Nat) : Option Nat :=
  let used := c.groups.map (fun e => (e.2.sbase, e.2.ssize))
  let free (b : Nat) : Bool := b + size ≤ 458752 && used.all (fun u => u.2 == 0 || b + size ≤ u.1 || u.1 + u.2 ≤ b)
  ((sortBy id (0 :: used.map (fun u => u.1 + u.2))).find? free)

/-- Accumulator tiles and tile-table entries that no group holds (07 R144, 08 R191). -/
def freeAcc (c : Core) : List Nat := (List.range 4).filter (fun n => !c.groups.any (fun e => e.2.acc.contains n))
def freeTiles (c : Core) : List Nat := (List.range 64).filter (fun n => !c.groups.any (fun e => e.2.tiles.contains n))

/-- Base of the spill area of a core and group slot (12 R264). -/
def spillAreaOf (d : BitVec 512) (core gslot : Nat) : Nat := stSpill d + (8 * core + gslot) * stSpillN d * 32

/-- A living group of the stage holds a spill area, resident or saved (12 R264). -/
def areaHeld (s : State) (l : Launch) (stage base : Nat) : Bool :=
  let same (g : Group) : Bool := g.queue == l.queue && g.lslot == l.slot && g.stage == stage && g.spillBase == base
  (allGroups s).any (fun e => same e.2.2) || s.saved.any (fun e => e.2.groups.any (fun x => same x.group))

/-- A place for a group: core, group slot and scratchpad base. -/
structure Place where
  core : Nat
  gslot : Nat
  sbase : Nat
deriving DecidableEq, Repr

/-- The place of a stage's group on a core, if it meets 02 R43, 07 R144 and 08 R191. Spawned gangs there take from the two
slots that 02 R42 keeps (log 98). -/
def placeOn (s : State) (core : Nat) (l : Launch) (stage : Nat) (d : BitVec 512) : Option Place :=
  let c := getCore s core
  let nl := launchedGangs c + stGangs d
  let spawned := c.gangs.length - launchedGangs c
  if nl + max 2 spawned ≤ 48 && slotDemand c + nl ≤ 48 && stAcc d ≤ (freeAcc c).length &&
      stTiles d ≤ (freeTiles c).length && stImage d + max (spawnFloor c) (stFloor d) ≤ fileSize then
    match (List.range 8).find? (fun k => (mapFind c.groups k).isNone &&
        (stSpillN d == 0 || !areaHeld s l stage (spillAreaOf d core k))), scratchPlace c (stScratch d) with
    | some k, some b => some { core := core, gslot := k, sbase := b }
    | _, _ => none
  else none

/-- A core takes groups of a level: it is open, or under a scan that the level aborts (14 R319). -/
def coreTakes (s : State) (level core : Nat) : Bool :=
  let p := physCore s core
  coreOpen s core || (quadValid s (core / 4) && coreState s p == 4 && field (reg32 s offScanCfg) 30 27 ≤ level &&
    !((mapFind s.scans p).map (·.rerun)).getD false)

/-- A scan in a core ends without a result (14 R319). -/
def abortScan (core : Nat) (s : State) : State :=
  let p := physCore s core
  match mapFind s.scans p with
  | some _ => setCoreState p 0 { s with scans := mapErase s.scans p }
  | none => s

/-! ## Choosing (12 R266) -/

/-- The first of a list that a function answers for. -/
def firstSome {α β : Type} (f : α → Option β) : List α → Option β
  | [] => none
  | x :: l => match f x with
    | some y => some y
    | none => firstSome f l

/-- The place of a single group: the core with the most free gang slots, the lowest on a tie. -/
def chooseCore (s : State) (level : Nat) (l : Launch) (stage : Nat) (d : BitVec 512) (skip : Nat → Bool) : Option Place :=
  let cores := (List.range 128).filter (fun n => !skip n && coreTakes s level n)
  firstSome (fun n => placeOn s n l stage d) (sortBy (fun n => (getCore s n).gangs.length * 128 + n) cores)

/-- Every element answered for, or none. -/
def allSome {α β : Type} (f : α → Option β) : List α → Option (List β)
  | [] => some []
  | x :: l => match f x, allSome f l with
    | some y, some ys => some (y :: ys)
    | _, _ => none

/-- The places of a cohort on a quad (02 R52). -/
def placeQuad (s : State) (level : Nat) (l : Launch) (stage : Nat) (d : BitVec 512) (quad : Nat) : Option (List Place) :=
  allSome (fun r => if coreTakes s level (4 * quad + r) then placeOn s (4 * quad + r) l stage d else none)
    (List.range (stUnit d))

/-- The places of one copy of a group or of a cohort, off some quads. -/
def placeUnit (s : State) (level : Nat) (l : Launch) (stage : Nat) (d : BitVec 512) (skipCore skipQuad : Nat → Bool) :
    Option (List Place) :=
  if stCohort d == 0 then
    (chooseCore s level l stage d (fun n => skipCore n || skipQuad (n / 4))).map (fun p => [p])
  else firstSome (fun q => if skipQuad q then none else placeQuad s level l stage d q) (List.range 32)

/-- The places of a unit's copies: one, or two on different quads (14 R308). -/
def placeCopies (s : State) (level : Nat) (l : Launch) (stage : Nat) (d : BitVec 512) (skipCore skipQuad : Nat → Bool) :
    Option (List (List Place)) :=
  match placeUnit s level l stage d skipCore skipQuad with
  | none => none
  | some a =>
    if !hShadow l.header then some [a]
    else
      let quad := ((a.head?).map (fun p => p.core / 4)).getD 0
      match placeUnit s level l stage d skipCore (fun q => skipQuad q || q == quad) with
      | some b => some [a, b]
      | none => none

/-- A group belongs to the cohort of one that is placed again. -/
def sameCohort (l : Launch) (d : BitVec 512) (a : Again) (g : Group) : Bool :=
  g.queue == l.queue && g.lslot == l.slot && g.stage == a.stage && g.index / stUnit d == a.index / stUnit d

/-- The quad on which other groups of a copy of the cohort run. -/
def cohortQuad (s : State) (l : Launch) (d : BitVec 512) (a : Again) (copy : Nat) : Option Nat :=
  ((allGroups s).find? (fun e => sameCohort l d a e.2.2 && e.2.2.copy == copy)).map (fun e => e.1 / 4)

/-- The ranks of the cohort's groups that are to be placed again. -/
def cohortRanks (l : Launch) (d : BitVec 512) (a : Again) : List Nat :=
  (l.again.filter (fun b => b.stage == a.stage && b.index / stUnit d == a.index / stUnit d)).map (fun b => b.index % stUnit d)

/-- A quad has room for every group of the cohort that is to be placed again (02 R52). -/
def cohortFits (s : State) (level : Nat) (l : Launch) (d : BitVec 512) (a : Again) (quad : Nat) : Bool :=
  (a.index % stUnit d :: cohortRanks l d a).all (fun r =>
    coreTakes s level (4 * quad + r) && (placeOn s (4 * quad + r) l a.stage d).isSome)

/-- The quad for a copy of a group of a cohort that is placed again: that of the cohort's groups that still run, else one
that has room for those to be placed, off the quads the task failed on where such a one has it (02 R52, 14 R307, log 40). -/
def chooseQuadAgain (s : State) (level : Nat) (l : Launch) (d : BitVec 512) (a : Again) (copy : Nat) (other : Option Nat) :
    Option Nat :=
  match cohortQuad s l d a copy with
  | some q => some q
  | none =>
    let open_ := (List.range 32).filter (fun q => some q != other && cohortFits s level l d a q)
    (open_.find? (fun q => !a.failedOn.any (fun n => n / 4 == q))) <|> open_.head?

/-- The places of a group of a cohort that is placed again; none while a part of the cohort is saved. -/
def placeCohortAgain (s : State) (level : Nat) (l : Launch) (d : BitVec 512) (a : Again) : Option (List (List Place)) :=
  let on (quad : Nat) : Option (List Place) :=
    let n := 4 * quad + a.index % stUnit d
    if coreTakes s level n then (placeOn s n l a.stage d).map (fun p => [p]) else none
  if s.saved.any (fun e => e.2.groups.any (fun x => sameCohort l d a x.group)) then none
  else match chooseQuadAgain s level l d a 0 (cohortQuad s l d a 1) with
    | none => none
    | some q =>
      if !hShadow l.header then (on q).map (fun p => [p])
      else match chooseQuadAgain s level l d a 1 (some q) with
        | none => none
        | some r => match on q, on r with
          | some p, some t => some [p, t]
          | _, _ => none

/-- The places of a group that is placed again (14 R307): off the core it failed on, or off both quads of a shadow group,
where that has room. -/
def placeAgain (s : State) (level : Nat) (l : Launch) (d : BitVec 512) (a : Again) : Option (List (List Place)) :=
  if stCohort d != 0 then placeCohortAgain s level l d a
  else
    let away := if hShadow l.header then placeCopies s level l a.stage d (fun _ => false) (fun q => a.failedOn.any (fun n => n / 4 == q))
      else placeCopies s level l a.stage d (fun n => a.failedOn.contains n) (fun _ => false)
    match away with
    | some p => some p
    | none => placeCopies s level l a.stage d (fun _ => false) (fun _ => false)

/-! ## Placing -/

/-- The role of a launched gang (02 R39): 0 load, 1 store, 2 epilogue, 3 general. -/
def roleAt (counts : List Nat) (id : Nat) : Nat :=
  ((List.range 4).find? (fun r => id < (counts.take (r + 1)).foldl (· + ·) 0)).getD 3

/-- A launched gang at its entry (02 R36, R37). -/
def launchedGang (c : Core) (gslot : Nat) (g : Group) (cycle id : Nat) : Gang :=
  let role := roleAt g.counts id
  let gang : Gang :=
    { ctx := g.ctx, gslot := gslot, id := id, role := role, width := g.width, regs := roundRegs (g.regsOf.getD role 8),
      base := chooseBase c g.width, quantum := g.quantum, deadline := g.pdl, since := cycle,
      splits := [{ mask := firstLanes g.width, pc := g.entry }] }
  if imageFits c gang then gang else { gang with residency := .lifted }

/-- Puts the launched gangs of a group in free slots, in the order of their ids. -/
def addGangs (gslot : Nat) (g : Group) (cycle : Nat) : List Nat → Core → Core
  | [], c => c
  | id :: rest, c => match freeSlotOf c with
    | some k => addGangs gslot g cycle rest { c with gangs := mapSet c.gangs k (launchedGang c gslot g cycle id) }
    | none => c

/-- An accumulator tile as a group receives it (07 R144): unspecified but for its status bits (log 9). -/
def mappedTile (s : State) : AccTile :=
  let v := Config.freeWord s.free
  { unspec := some (s.free + 1), kacc := field v 31 0, wmax := field v 38 32, hb := field v 44 39, hr := field v 51 45,
    cert := field v 52 52 == 1 }

/-- Maps accumulator tiles to a new group. -/
def mapTiles (core : Nat) : List Nat → State → State
  | [], s => s
  | n :: rest, s =>
    let t := mappedTile s
    mapTiles core rest (modCore { s with free := s.free + 1 } core (fun c => { c with acc := mapSet c.acc n t }))

/-- The group of a place (12 R262 to R264). -/
def newGroup (s : State) (l : Launch) (stage index retries : Nat) (d : BitVec 512) (p : Place) (copy seen : Nat)
    (twin : Option (Nat × Nat)) : Group :=
  let h := l.header
  let c := getCore s p.core
  { ctx := l.ctx, queue := l.queue, lslot := l.slot, ringSlot := l.slot % 2 ^ qLogN (queueDesc s l.queue), stage := stage,
    index := index, x := index % stX d, y := index / stX d % stY d, z := index / (stX d * stY d), width := stWidth d,
    size := stGangs d, roles := stRoles d, counts := stCounts d, regsOf := stRegs d, sbase := p.sbase, ssize := stScratch d,
    acc := (freeAcc c).take (stAcc d), tiles := (freeTiles c).take (stTiles d), quota := stQuota d,
    spillBase := spillAreaOf d p.core p.gslot, spillSize := stSpillN d, handler := BitVec.ofNat 52 (field h 284 235 * 4),
    entry := stEntry d, seed := BitVec.ofNat 64 (hSeed h),
    bst := if field h 431 416 == 0 then 1000 else field h 431 416,
    pdl := if field h 415 400 == 0 then 20 else field h 415 400,
    quantum := if field h 391 391 == 1 then storedQuantum (field h 399 392) else 16,
    held := hHeld h, shadow := hShadow h, copy := copy, twin := twin, lcoreSeen := seen, retries := retries,
    retryLimit := hRetry h, rank := if stCohort d == 0 then 0 else index % stCohort d, cohortSize := stCohort d,
    barriers := (List.range 20).map (fun b => (b, { members := firstLanes (stGangs d) })) }

/-- A launch follows work across the pod: it is a pod launch, or a token it awaits has the signal of one (10 R235,
12 R270). -/
def followsPod (s : State) (l : Launch) : Bool := hPod l.header || (hWaits l.header).any (podToken s)

/-- Places a group: its gangs start, and the core acquires what its launch follows (12 R267, R270, 10 R235). -/
def putGroup (l : Launch) (p : Place) (g : Group) (s : State) : State :=
  let s := journal (.place l.queue l.slot g.stage g.index p.core) (latchCtx l.ctx s)
  let s := acquireSignal p.core (followsPod s l) (abortScan p.core s)
  let s := modCore s p.core (fun c =>
    addGangs p.gslot g s.cycles (List.range g.size) { c with groups := mapSet c.groups p.gslot g })
  mapTiles p.core g.acc s

/-- Places one copy of a unit whose first group has an index. -/
def putUnit (l : Launch) (stage index retries : Nat) (d : BitVec 512) (copy : Nat) (seen : List Place)
    (twins : List Place) : List Place → State → State
  | [], s => s
  | p :: rest, s =>
    let g := newGroup s l stage index retries d p copy ((seen.headD p).core) ((twins.head?).map (fun t => (t.core, t.gslot)))
    putUnit l stage (index + 1) retries d copy seen.tail twins.tail rest (putGroup l p g s)

/-- Places every copy of a unit. -/
def putCopies (l : Launch) (stage index retries : Nat) (d : BitVec 512) (copies : List (List Place)) (s : State) : State :=
  match copies with
  | [a, b] => putUnit l stage index retries d 1 a a b (putUnit l stage index retries d 0 a b a s)
  | [a] => putUnit l stage index retries d 0 a [] a s
  | _ => s

end Sys2Proof.Machine
end

