-- ==== Sys2Proof/Machine/Vent.lean ====
section
/-! DEFINITION. The Vent's queues and launches (12 R257 to R266), completions (12 R259), tokens and budgets (12 R269 to
R273), pod launches (12 R274 to R276) and the takeover (12 R277, R278). -/

namespace Sys2Proof.Machine

/-! ## The Vent's accesses (12 R258) -/

/-- What the Vent finds at a virtual address of a context. -/
def ventReach (s : State) (ctx va : Nat) (write : Bool) : Reach :=
  match walk s ctx va with
  | .leaf e => reachPhys s va (e.phys va) e.writable e.executable { write := write }
  | .fault c => .trap 0x04 (faultInfo c va)
  | .invalid => .invalid
  | .migrating => .migrating

/-- What follows an access that the Vent cannot make: the queue waits on a page request, whose SRC and LCORE the spec does
not give (log 2), or it stops. -/
def ventMiss (q ctx va : Nat) (write : Bool) (r : Reach) (s : State) : State :=
  match r with
  | .invalid =>
    let (v, s) := takeFree s
    let s := requestPage ctx va (field v 7 0) (field v 11 8) write false (.queue q) s
    { s with queues := mapSet s.queues q { mapGet {} s.queues q with onPage := some (va / 4096) } }
  | .trap _ info => stopQueue q (info % 16) s
  | _ => s

/-- Virtual address of a ring slot (12 R258). -/
def slotVa (d : BitVec 512) (i : Nat) : Nat := (qRing d + 64 * (i % 2 ^ qLogN d)) % 2 ^ 52

/-- A slot of a queue: as `lnch` brought it, or from the ring; reads from a lost peer return ones (13 R288). -/
def readSlot (s : State) (q i : Nat) : BitVec 512 ⊕ Reach × Nat :=
  let d := queueDesc s q
  match mapFind (mapGet {} s.queues q).recv (i % 2 ^ 32) with
  | some v => .inl v
  | none => match ventReach s (qCtx d) (slotVa d i) false with
    | .ok pa => .inl (BitVec.ofNat 512 (bytesToNat (physRead s none pa 64)))
    | .lost _ => .inl (BitVec.allOnes 512)
    | r => .inr (r, slotVa d i)

/-- `n` slots from one on. -/
def readSlots (s : State) (q : Nat) : Nat → Nat → List (BitVec 512) ⊕ Reach × Nat
  | 0, _ => .inl []
  | n + 1, i => match readSlot s q i, readSlots s q n (i + 1) with
    | .inl v, .inl l => .inl (v :: l)
    | .inr e, _ => .inr e
    | _, .inr e => .inr e

/-! ## Launches -/

/-- A launch by queue and header slot. -/
def getLaunch (s : State) (q slot : Nat) : Option Launch := s.launches.find? (fun l => l.queue == q && l.slot == slot)

/-- Slots of a launch record. -/
def Launch.slots (l : Launch) : Nat := 1 + l.stages.length

/-- The stage descriptor. -/
def Launch.stage (l : Launch) (k : Nat) : BitVec 512 := l.stages.getD k 0

/-- Groups of a stage that this device may place: all, or those of its batches (12 R274). -/
def Launch.limit (l : Launch) (k : Nat) : Nat :=
  if hPod l.header then (l.batches.filter (fun b => b.1 == k)).foldl (fun n b => n + b.2.2) 0 else stGroups (l.stage k)

/-- The `n`-th index of a list of batches. -/
def batchIndex : List (Nat × Nat × Nat) → Nat → Nat
  | [], n => n
  | b :: rest, n => if n < b.2.2 then b.2.1 + n else batchIndex rest (n - b.2.2)

/-- The group index that a stage places as its `n`-th. -/
def Launch.indexAt (l : Launch) (k n : Nat) : Nat :=
  if hPod l.header then batchIndex (l.batches.filter (fun b => b.1 == k)) n else n

/-- A stage has groups left to place. -/
def Launch.left (l : Launch) (k : Nat) : Bool := l.next.getD k 0 < l.limit k

/-- The device takes part in pod launches: VALID of `POD_CFG` (15 R325). -/
def podActive (s : State) : Bool := field (reg32 s offPodCfg) 31 31 == 1

/-- This device's pod number (15 R325). -/
def podSelf (s : State) : Nat := field (reg32 s offPodCfg) 8 0

/-- The counter of a pod launch's stage has reached its groups, and nothing waits to be granted again. -/
def podExhausted (s : State) (l : Launch) (k : Nat) : Bool :=
  let p := mapGet {} s.pods (hPlid l.header)
  stGroups (l.stage k) ≤ p.counters.getD k 0 && !p.lost.any (fun e => e.1 == k)

/-- A launch has placed all it will place. -/
def launchPlaced (s : State) (l : Launch) : Bool :=
  l.finished || l.doom != 0 || (l.again.isEmpty && (List.range l.stages.length).all (fun k =>
    !l.left k && (!hPod l.header || podExhausted s l k)))

/-- A stage's groups here have all retired, and no more will come (02 R53). -/
def stageDone (s : State) (l : Launch) (k : Nat) : Bool :=
  !l.left k && l.retired.getD k 0 == l.limit k && (!hPod l.header || podExhausted s l k)

/-- A group of a launch is resident or saved. -/
def launchLives (s : State) (l : Launch) : Bool :=
  let same (g : Group) : Bool := g.queue == l.queue && g.lslot == l.slot
  (allGroups s).any (fun e => same e.2.2) || s.saved.any (fun e => e.2.groups.any (fun x => same x.group))

/-- A token is one of a context, and not free (12 R264). -/
def tokenOwned (s : State) (ctx t : Nat) : Bool := ((mapFind s.tokens t).map (fun k => k.ctx == ctx)).getD false

/-- A malformed record (12 R264, R270). -/
def launchBad (s : State) (d : BitVec 512) (l : Launch) : Bool :=
  let h := l.header
  field h 223 0 != 0 || hCtx h != qCtx d || ((hShadow h || hRetry h != 0) && !hHeld h) || l.stages.any stageBad ||
    (hWaits h).any (fun t => !tokenOwned s l.ctx t) || (hSigV h && !tokenOwned s l.ctx (hSig h)) ||
    (hSigV h && s.launches.any (fun x => !x.finished && hSigV x.header && hSig x.header == hSig h))

/-- The status with which a launch is refused when it is read; 0 when it is not (12 R257, R264, log 12). -/
def launchCheck (s : State) (d : BitVec 512) (l : Launch) : Nat :=
  if ctxState s l.ctx != 1 then 4
  else if launchBad s d l then 2
  else if l.stages.any stageLarge then 3
  else if (hWaits l.header).any (fun t => testToken l.ctx t s == 3) then 7
  else 0

/-! ## Pods (12 R274 to R276) -/

/-- The launch of a pod identifier on this device. -/
def podLaunchOf (s : State) (plid : Nat) : Option Launch :=
  s.launches.find? (fun l => hPod l.header && hPlid l.header == plid && !l.finished && l.doom == 0)

/-- Once all devices have joined, the lowest leads and the launch starts (12 R274). -/
def podStart (plid : Nat) (s : State) : State :=
  match mapFind s.pods plid, podLaunchOf s plid with
  | some p, some l =>
    if p.leader.isNone && hPodn l.header ≤ p.joined.length then
      let s := { s with pods := mapSet s.pods plid { p with leader := (sortBy id p.joined).head?, counters := l.stages.map (fun _ => 0) } }
      modLaunch l.queue l.slot (fun l => { l with started := true }) s
    else s
  | _, _ => s

/-- A wait whose timer stood from one clock to another goes on from where it stopped (13 R288); the timer of one that began
meanwhile starts. -/
def Wait.resumed (from_ until_ : Nat) (w : Wait) : Wait := { w with since := w.since + (until_ - max from_ w.since) }

/-- The waits of a gang that depend on a peer, which has recovered since a clock, run on (13 R288); those that another
peer holds do so when it is back. -/
def Gang.peerBack (s : State) (core d from_ : Nat) (g : Gang) : Gang :=
  { g with splits := g.splits.map (fun (sp : Split) => { sp with wait := sp.wait.map (fun w =>
      if waitOnPeer s core g w d then w.resumed from_ (standsFrom s core g w d s.clock) else w) }) }

/-- The same of a saved gang, up to the clock of its save (13 R287): its waits hold their peers. -/
def Gang.savedBack (d from_ saved : Nat) (g : Gang) : Gang :=
  { g with splits := g.splits.map (fun (sp : Split) => { sp with wait := sp.wait.map (fun w =>
      if w.peer == some d then w.resumed from_ saved else w) }) }

/-- A peer in recovery is back once it takes part in the pod's launches again (13 R288, log 46): the watchdog timers of
the waits on it run on, those of saved contexts too. -/
def peerBack (d : Nat) (s : State) : State :=
  let p := mapGet {} s.peers d
  match p.recovering with
  | none => s
  | some t =>
    if p.lost then s
    else
      { s with
        peers := mapSet s.peers d { p with recovering := none },
        cores := s.cores.map (fun e => (e.1, { e.2 with gangs := e.2.gangs.map (fun g => (g.1, g.2.peerBack s e.1 d t)) })),
        saved := s.saved.map (fun e => (e.1, { e.2 with groups := e.2.groups.map (fun x =>
          { x with gangs := x.gangs.map (fun g => (g.1, g.2.savedBack d t e.2.since)) }) })) }

/-- A device joins (12 R274). -/
def podJoin (plid device : Nat) (s : State) : State :=
  let p := mapGet { since := s.clock } s.pods plid
  if p.joined.contains device then podStart plid s
  else podStart plid { s with pods := mapSet s.pods plid { p with joined := p.joined ++ [device] } }

/-- POD_LAUNCH_JOIN (12 R274). -/
def execPodLaunchJoin (plid device : Nat) (s : State) : Host.Outcome State Fault Refusal :=
  .next (if podActive s then podJoin plid device (peerBack device s) else s)

/-- Every launch of a pod identifier ends with status 0x05 (12 R274, R275). -/
def podEnd (plid : Nat) (s : State) : State :=
  { s with launches := s.launches.map (fun l =>
      if hPod l.header && hPlid l.header == plid && !l.finished && l.doom == 0 then { l with doom := 5 } else l) }

/-- POD_JOIN_TIMEOUT (12 R274). -/
def execPodJoinTimeout (plid : Nat) (s : State) : Host.Outcome State Fault Refusal :=
  .next (match mapFind s.pods plid with
    | some p => if p.leader.isNone && p.since + 1700000000 ≤ s.clock then podEnd plid { s with pods := mapErase s.pods plid } else s
    | none => s)

/-- A grant of at most `n` indices of a stage: first a range granted again, else from the counter (12 R274, R275). -/
def podGrant (l : Launch) (p : PodLaunch) (stage n : Nat) : Option (Nat × Nat × PodLaunch) :=
  let whole (n : Nat) : Nat := n - n % stUnit (l.stage stage)
  match p.lost.find? (fun e => e.1 == stage) with
  | some e =>
    let m := min (whole n) e.2.2
    let rest := if m < e.2.2 then [(stage, e.2.1 + m, e.2.2 - m)] else []
    if m == 0 then none else some (e.2.1, m, { p with lost := rest ++ p.lost.erase e })
  | none =>
    let at_ := p.counters.getD stage 0
    let m := min (whole n) (stGroups (l.stage stage) - at_)
    if m == 0 then none
    else some (at_, m, { p with counters := (List.range l.stages.length).map (fun k => p.counters.getD k 0 + if k == stage then m else 0) })

/-- A participant claims a batch (12 R274); one that has reported has groups to report again (12 R275, R276). -/
def podClaim (plid device stage count : Nat) (s : State) : State :=
  match mapFind s.pods plid, podLaunchOf s plid with
  | some p, some l =>
    if p.leader.isNone || !p.joined.contains device || l.stages.length ≤ stage then s
    else match podGrant l p stage (min 64 count) with
      | none => s
      | some (first, m, p) =>
        let s := { s with pods := mapSet s.pods plid { p with
          batches := p.batches ++ [(device, stage, first, m)], reported := p.reported.filter (fun d => d != device) } }
        if device == podSelf s then
          modLaunch l.queue l.slot (fun l => { l with batches := l.batches ++ [(stage, first, m)] }) s
        else s
  | _, _ => s

/-- POD_BATCH_CLAIM (12 R274). -/
def execPodBatchClaim (plid device stage count : Nat) (s : State) : Host.Outcome State Fault Refusal :=
  .next (if podActive s then podClaim plid device stage count (peerBack device s) else s)

/-- The ranges below a bound that a rising list of ranges leaves out. -/
def gapsBelow (bound : Nat) : Nat → List (Nat × Nat) → List (Nat × Nat)
  | n, [] => if n < bound then [(n, bound - n)] else []
  | n, (a, k) :: rest => (if n < a then [(n, a - n)] else []) ++ gapsBelow bound (max n (a + k)) rest

/-- The survivors elect a leader and rebuild the counters (12 R275). -/
def podElect (plid failed : Nat) (batches : List (Nat × Nat × Nat)) (s : State) : State :=
  match mapFind s.pods plid, podLaunchOf s plid with
  | some p, some l =>
    if p.leader != some failed then s
    else
      let own := l.batches ++ batches
      let of (k : Nat) : List (Nat × Nat) := sortBy (fun b => b.1) ((own.filter (fun b => b.1 == k)).map (fun b => b.2))
      let top (k : Nat) : Nat := (of k).foldl (fun n b => max n (b.1 + b.2)) 0
      let stages := List.range l.stages.length
      let lost := stages.flatMap (fun k => (gapsBelow (top k) 0 (of k)).map (fun g => (k, g.1, g.2)))
      let joined := p.joined.filter (fun d => d != failed)
      let p := { p with joined := joined, leader := (sortBy id joined).head?, counters := stages.map top, lost := lost }
      if lost.isEmpty then { s with pods := mapSet s.pods plid p }
      else if hHeld l.header && p.retries < hRetry l.header then
        let s := { s with pods := mapSet s.pods plid { p with retries := p.retries + 1 } }
        modLaunch l.queue l.slot (fun l => { l with retries := max l.retries (p.retries + 1) }) s
      else podEnd plid { s with pods := mapSet s.pods plid p }
  | _, _ => s

/-- POD_LEADER_ELECTION (12 R275). -/
def execPodLeaderElection (plid failed : Nat) (batches : List (Nat × Nat × Nat)) (s : State) :
    Host.Outcome State Fault Refusal := .next (if podActive s then podElect plid failed batches s else s)

/-- A participant reports; the leader declares completion when the counters are exhausted and all have reported
(12 R276). -/
def podReport (plid device : Nat) (s : State) : State :=
  match mapFind s.pods plid, podLaunchOf s plid with
  | some p, some l =>
    if !p.joined.contains device then s
    else
      let reported := if p.reported.contains device then p.reported else p.reported ++ [device]
      let all := (List.range l.stages.length).all (podExhausted s l) && p.joined.all (fun d => reported.contains d)
      { s with pods := mapSet s.pods plid { p with reported := reported, done := all } }
  | _, _ => s

/-- POD_PARTICIPANT_REPORT (12 R276). -/
def execPodParticipantReport (plid device : Nat) (s : State) : Host.Outcome State Fault Refusal :=
  .next (if podActive s then podReport plid device (peerBack device s) else s)

/-- This device claims for the first stage that has placed all its batches, when it may (12 R265, R274). -/
def selfClaim (l : Launch) (s : State) : State :=
  let want (k : Nat) : Bool := !l.left k && !podExhausted s l k && (k == 0 || !stSdep (l.stage k) || stageDone s l (k - 1))
  match (List.range l.stages.length).find? want with
  | some k => podClaim (hPlid l.header) (podSelf s) k 64 s
  | none => s

/-! ## Queues (12 R258, R260) -/

/-- A queue is switched out (12 R260). -/
def switchOut (q : Nat) (s : State) : State :=
  match mappedQueue s q with
  | none => s
  | some m =>
    if !m.recv.isEmpty then s
    else
      let d := setField (setField (setField (queueDesc s q) 431 400 m.tail) 399 368 m.prog) 367 336 m.head
      let s := setQueueDesc q d (journal (.switch q true) (journal (.prog q m.prog) s))
      { s with queues := mapSet s.queues q { m with mapped := false } }

/-- QUEUE_SWITCH_OUT (12 R260). -/
def execQueueSwitchOut (queue : Nat) (s : State) : Host.Outcome State Fault Refusal := .next (switchOut queue s)

/-- Room for one more mapped queue: an idle one is switched out while 256 are mapped. -/
def mapRoom (s : State) : State :=
  if (s.queues.filter (fun e => e.2.mapped)).length < 256 then s
  else
    let idle (e : Nat × Queue) : Bool :=
      e.2.mapped && e.2.head == e.2.tail && e.2.recv.isEmpty && !s.launches.any (fun l => l.queue == e.1 && !l.finished)
    match s.queues.find? idle with
    | some e => switchOut e.1 s
    | none => s

/-- `QDESC_BASE` is read for a queue that is enabled (12 R261, log 60). -/
def latchQueue (q : Nat) (s : State) : State :=
  if (mapFind s.queueBase q).isSome then s
  else { s with queueBase := mapSet s.queueBase q (field (reg64 s offQdescBase) 51 16) }

/-- The descriptors of the queues that are enabled have been read where `QDESC_BASE` stood (12 R261, log 60). -/
def latchQueues (s : State) : State :=
  (List.range 1024).foldl (fun s q => if qEnabled (queueDesc s q) then latchQueue q s else s) s

/-- A `QTAIL` write (12 R258, R260): ignored for a queue that `lnch` feeds. -/
def hostTail (queue : Nat) (v : BitVec 32) (s : State) : State :=
  if 1024 ≤ queue || qDev (queueDesc s queue) then s else setKick queue 1 (setQueueTail queue v.toNat s)

/-- QTAIL_WRITE (12 R258, R260). -/
def execQtailWrite (queue : Nat) (v : BitVec 32) (s : State) : Host.Outcome State Fault Refusal :=
  .next (hostTail queue v s)

/-- A `TOK_REQ` write (12 R271). -/
def hostToken (v : BitVec 32) (s : State) : State :=
  let (t, s) := newToken (field v 15 0) s
  setReg32 s offTokRes (BitVec.ofNat 32 t)

/-- TOK_REQ_WRITE (12 R271). -/
def execTokReqWrite (v : BitVec 32) (s : State) : Host.Outcome State Fault Refusal := .next (hostToken v s)

/-- Every launch read from a queue has been placed. -/
def queueIdle (s : State) (q : Nat) : Bool := s.launches.all (fun l => l.queue != q || launchPlaced s l)

/-- A launch joins those that the Vent has read. -/
def addLaunch (q : Nat) (m : Queue) (l : Launch) (s : State) : State :=
  let l := { l with doom := launchCheck s (queueDesc s q) l, next := l.stages.map (fun _ => 0),
                    retired := l.stages.map (fun _ => 0), started := !hPod l.header }
  { s with launches := s.launches ++ [l],
           queues := mapSet s.queues q { m with head := (m.head + l.slots) % 2 ^ 32 } }

/-- The Vent reads the next launch of a queue, once all its slots have been submitted (12 R259, R265). -/
def pullLaunch (q : Nat) (s : State) : State :=
  match mappedQueue s q with
  | none => s
  | some m =>
    let d := queueDesc s q
    let waiting := (m.tail + 2 ^ 32 - m.head) % 2 ^ 32
    if waiting == 0 then setKick q 0 s
    else match readSlot s q m.head with
      | .inr (r, va) => ventMiss q (qCtx d) va false r s
      | .inl h =>
        if waiting < 1 + hStages h then s
        else match readSlots s q (hStages h) (m.head + 1) with
          | .inr (r, va) => ventMiss q (qCtx d) va false r s
          | .inl stages =>
            addLaunch q m { queue := q, slot := m.head, ctx := qCtx d, header := h, stages := stages } s

/-- The slots that `lnch` brought and the Vent has read go to the ring (12 R268). -/
def writeBack (q : Nat) : List (Nat × BitVec 512) → State → State
  | [], s => s
  | (i, v) :: rest, s =>
    let d := queueDesc s q
    let m := mapGet {} s.queues q
    let gone := { s with queues := mapSet s.queues q { m with recv := mapErase m.recv i } }
    if 2 ^ 31 ≤ (m.head + 2 ^ 32 - 1 - i) % 2 ^ 32 then writeBack q rest s
    else match ventReach s (qCtx d) (slotVa d i) true with
      | .ok pa => writeBack q rest (clearCounts pa 64 (physWrite pa (natToBytes 64 v.toNat) gone))
      | .lost _ => writeBack q rest gone
      | r => ventMiss q (qCtx d) (slotVa d i) true r s

/-! ## The pass (12 R265, R266) -/

/-- No new group of a context is placed: it is being killed, pre-empted or saved (13 R289, R296, R300). -/
def ctxBlocked (s : State) (ctx : Nat) : Bool :=
  s.killing.contains ctx || (mapFind s.preempts ctx).isSome || (mapFind s.preemptAgain ctx).isSome || (mapFind s.saved ctx).isSome

/-- A stage joins the rounds (12 R265). -/
def stageJoins (s : State) (l : Launch) (k : Nat) : Bool :=
  k == 0 || !stSdep (l.stage k) || stageDone s l (k - 1)

/-- Places one unit of a stage, when it has room. -/
def placeStage (level : Nat) (l : Launch) (k : Nat) (s : State) : Option State :=
  if !l.left k || !stageJoins s l k then none
  else match placeCopies s level l k (l.stage k) (fun _ => false) (fun _ => false) with
    | none => none
    | some ps =>
      let s := putCopies l k (l.indexAt k (l.next.getD k 0)) 0 (l.stage k) ps s
      some (modLaunch l.queue l.slot (fun l =>
        { l with next := (List.range l.stages.length).map (fun i => l.next.getD i 0 + if i == k then stUnit (l.stage k) else 0) }) s)

/-- Places the first group that is to be placed again, when it has room (14 R307). -/
def placeFirstAgain (level : Nat) (l : Launch) (s : State) : Option State :=
  match l.again with
  | [] => none
  | a :: rest => match placeAgain s level l (l.stage a.stage) a with
    | none => none
    | some ps => some (putCopies l a.stage a.index a.retries (l.stage a.stage) ps
        (modLaunch l.queue l.slot (fun l => { l with again := rest }) s))

/-- One unit of each stage, in ascending order; whether any was placed. -/
def placeStages (level q slot : Nat) : List Nat → Bool → State → State × Bool
  | [], any, s => (s, any)
  | k :: rest, any, s => match getLaunch s q slot with
    | none => (s, any)
    | some l => match placeStage level l k s with
      | some s => placeStages level q slot rest true s
      | none => placeStages level q slot rest any s

/-- One round of a launch. -/
def placeRound (level q slot : Nat) (s : State) : State × Bool :=
  match getLaunch s q slot with
  | none => (s, false)
  | some l =>
    if l.doom != 0 then (s, false)
    else match l.again, placeFirstAgain level l s with
      | _ :: _, some s => (s, true)
      | _ :: _, none => (s, false)
      | [], _ => placeStages level q slot (List.range l.stages.length) false s

/-- Rounds while room remains, at most as many as are given. -/
def placeRounds (level q slot : Nat) : Nat → State → State
  | 0, s => s
  | n + 1, s => match placeRound level q slot s with
    | (s, true) => placeRounds level q slot n s
    | (s, false) => s

/-- The launches that run at levels below one, as victims: the lowest level first, the newest first (12 R266, log 41). -/
def victims (s : State) (level own : Nat) : List Launch :=
  let prio (l : Launch) : Nat := qPrio (queueDesc s l.queue)
  let run := s.launches.filter (fun l => (allGroups s).any (fun e => e.2.2.queue == l.queue && e.2.2.lslot == l.slot) &&
    prio l < level && l.ctx != own)
  sortBy prio run.reverse

/-- Requests the pre-emption of one context for a level that finds no room, while none is under way (12 R266, 13 R289). -/
def requestPreempt (level own : Nat) (s : State) : State :=
  if !s.preempts.isEmpty || !s.preemptAgain.isEmpty then s
  else match (victims s level own).head? with
    | some l => { s with preempts := mapSet s.preempts l.ctx { since := s.clock, byDriver := false, level := level } }
    | none => s

/-- A launch waits for room: it has groups to place and none fits. -/
def launchStarved (s : State) (l : Launch) : Bool :=
  l.doom == 0 && (!l.again.isEmpty || (List.range l.stages.length).any (fun k => l.left k && stageJoins s l k))

/-- Places a launch whose turn it is (12 R265). -/
def runLaunch (level q slot : Nat) (s : State) : State :=
  let s := match getLaunch s q slot with
    | some l => if hPod l.header then selfClaim l s else s
    | none => s
  let s := placeRounds level q slot 1025 s
  match getLaunch s q slot with
  | none => s
  | some l =>
    let starved := launchStarved s l
    let s := modLaunch q slot (fun l => { l with starved := starved }) s
    if starved then requestPreempt level l.ctx s else s

/-- Some group of a launch has been placed. -/
def Launch.begun (l : Launch) : Bool := l.next.any (· != 0) || !l.again.isEmpty

/-- The oldest launch of a queue that is not fully placed (12 R265): it waits for its tokens, a failed one refuses it, and
without OVL it waits for the earlier launches of its queue. -/
def serveLaunch (level : Nat) (l : Launch) (s : State) : State :=
  let states := (hWaits l.header).map (fun t => testToken l.ctx t s)
  let earlier := (s.launches.takeWhile (fun x => !(x.queue == l.queue && x.slot == l.slot))).any
    (fun x => x.queue == l.queue && !x.finished)
  if !l.begun && states.any (· == 3) then modLaunch l.queue l.slot (fun l => { l with doom := 7 }) s
  else if states.any (· != 2) then s
  else if !hOvl l.header && earlier then s
  else if !l.started then s
  else runLaunch level l.queue l.slot s

/-- A pod launch that the Vent has read joins the others of its identifier, once the device takes part in pod launches
(12 R274, 15 R325). -/
def joinLaunch (l : Launch) (s : State) : State :=
  if hPod l.header && !l.started && l.doom == 0 && podActive s then podJoin (hPlid l.header) (podSelf s) s else s

/-- A queue has work for the Vent: a kick, or a launch to place. -/
def queueWork (s : State) (q : Nat) : Bool :=
  field (reg32 s (offKick (q / 32))) (q % 32) (q % 32) == 1 || !queueIdle s q || !(mapGet {} s.queues q).recv.isEmpty

/-- The Vent clears a kick bit when HEAD equals TAIL (12 R260). -/
def settleKick (q : Nat) (s : State) : State := if queueHead s q == queueTail s q then setKick q 0 s else s

/-- The Vent serves one enabled queue (12 R265). -/
def serveQueue (level q : Nat) (s : State) : State :=
  let s := settleKick q (latchQueue q s)
  if (mapGet {} s.queues q).onPage.isSome || ctxBlocked s (qCtx (queueDesc s q)) then s
  else
    let s := mapQueue q (if (mappedQueue s q).isNone then mapRoom s else s)
    match mappedQueue s q with
    | none => s
    | some m =>
      let s := { s with queues := mapSet s.queues q { m with stopped := false } }
      let s := settleKick q (if queueIdle s q then pullLaunch q s else s)
      let s := writeBack q (mapGet {} s.queues q).recv s
      let s := (s.launches.filter (fun l => l.queue == q)).foldl (fun s l => joinLaunch l s) s
      match s.launches.find? (fun l => l.queue == q && !launchPlaced s l) with
      | some l => serveLaunch level l s
      | none => s

/-- The enabled queues of a level with work, from the level's pointer on. -/
def levelQueues (s : State) (level : Nat) : List Nat :=
  let p := mapGet 0 s.levels level
  let all := (List.range 1024).filter (fun q => queueWork s q && qEnabled (queueDesc s q) && qPrio (queueDesc s q) == level)
  all.filter (fun q => p ≤ q) ++ all.filter (fun q => q < p)

/-- One level of the pass: its pointer advances by one queue (12 R265). -/
def serveLevel (level : Nat) (s : State) : State :=
  let s := (levelQueues s level).foldl (fun s q => serveQueue level q s) s
  { s with levels := mapSet s.levels level ((mapGet 0 s.levels level + 1) % 1024) }

/-- The queues that the driver has disabled are read anew when they are enabled again (12 R261), and one that was stopped
goes on once it is enabled (12 R258). -/
def dropQueueBases (s : State) : State :=
  { s with
    queueBase := s.queueBase.filter (fun e => qEnabled (queueDesc s e.1)),
    queues := s.queues.map (fun e => (e.1, if e.2.stopped && qEnabled (queueDesc s e.1) then { e.2 with stopped := false } else e.2)) }

/-- VENT_SCHEDULING_PASS (12 R265, R266): what the ROM and the firmware have been asked for (15 R332, R333), and by the
firmware that runs the map after every change that is due (01 R20), pre-emptions requested again (13 R297), and the levels
from 15 down. -/
def execVentSchedulingPass (s : State) : Host.Outcome State Fault Refusal :=
  let s := serveRequests s
  .next (if !s.running then s
    else
      let s := refillMap (dropQueueBases s)
      let s := { s with preempts := s.preemptAgain.foldl (fun m e => mapSet m e.1 { e.2 with since := s.clock }) s.preempts,
                        preemptAgain := [] }
      (List.range 16).foldl (fun s k => serveLevel (15 - k) s) s)

/-! ## Completion (12 R259, R277) -/

/-- The Vent takes the reports that the cores have made (12 R277). -/
def takeReports (s : State) : State :=
  let s' := s.completions.foldl (fun s e =>
    modLaunch e.1 e.2.1 (fun l => { l with retired := bump l.retired e.2.2 }) (journal (.report e.1 e.2.1 e.2.2) s)) s
  { s' with completions := [] }

/-- The status with which a launch can finish now. -/
def launchStatus (s : State) (l : Launch) : Option Nat :=
  if l.finished then none
  else if l.doom != 0 then (if launchLives s l then none else some l.doom)
  else if hPod l.header then (if (mapGet {} s.pods (hPlid l.header)).done then some 1 else none)
  else if l.again.isEmpty && (List.range l.stages.length).all (stageDone s l) then some 1
  else none

/-- PROG of a queue, in the SRAM and in the descriptor (12 R260). -/
def publishProg (q prog : Nat) (s : State) : State :=
  let s := journal (.prog q prog) s
  let s := setQueueDesc q (setField (queueDesc s q) 399 368 prog) s
  { s with queues := mapModify s.queues q (fun m => { m with prog := prog }) }

/-- PROG passes the finished launches that no unfinished one precedes (12 R259). -/
def advanceProg (q : Nat) (s : State) : State :=
  let passed := (s.launches.filter (fun l => l.queue == q)).takeWhile (fun l => l.finished)
  match passed.getLast? with
  | none => s
  | some l =>
    let s := publishProg q ((l.slot + l.slots) % 2 ^ 32) s
    { s with launches := s.launches.filter (fun x => !(x.queue == q && passed.any (fun y => y.slot == x.slot))) }

/-- The groups of a context keep what a grid overwrote while they were placed (16 R353). -/
def keepOld (ctx : Nat) (old : List (SMap Byte)) (s : State) : State :=
  let keep (g : Group) : Group := if g.ctx == ctx then { g with oldCode := g.oldCode ++ old } else g
  { s with
    cores := s.cores.map (fun e => (e.1, { e.2 with groups := e.2.groups.map (fun g => (g.1, keep g.2)) })),
    saved := s.saved.map (fun e => (e.1, { e.2 with groups := e.2.groups.map (fun x => { x with group := keep x.group }) })) }

/-- A grid has finished: the groups placed from now on fetch what it has written, the others that or what stood there
(16 R353). -/
def settleOld (l : Launch) (s : State) : State :=
  let mine (o : Overwrite) : Bool := o.queue == l.queue && o.lslot == l.slot && o.ctx == l.ctx
  keepOld l.ctx ((s.overwritten.filter mine).map (·.old)) { s with overwritten := s.overwritten.filter (fun o => !mine o) }

/-- A launch is finished: journalled, PROG, its token (12 R259, R269, R277). -/
def settleLaunch (l : Launch) (status : Nat) (s : State) : State :=
  let s := modLaunch l.queue l.slot (fun l => { l with finished := true, status := status })
    (journal (.complete l.queue l.slot status) (settleOld l s))
  let s := if hPod l.header then { s with pods := mapErase s.pods (hPlid l.header) } else s
  let s := advanceProg l.queue s
  if hSigV l.header && tokenOwned s l.ctx (hSig l.header) then
    settleToken (hSig l.header) (if status == 1 then 2 else 3) (hPod l.header) s
  else s

/-- The completion word is written, with its interrupt (12 R259, 15 R323). -/
def writeCompletion (q pa word : Nat) (s : State) : State :=
  let s := clearCounts pa 8 (physWrite pa (natToBytes 8 word) s)
  if qIrq (queueDesc s q) then
    raiseIrq 1 { setRegField s (offCplPend (q / 32)) (q % 32) (q % 32) 1 with cplSet := mapSet s.cplSet q (s.clock + 1) }
  else s

/-- A queue takes no completion word (12 R258): its LOG2N is out of range, or it has stopped and is not enabled again. -/
def wordless (s : State) (q : Nat) : Bool :=
  let d := queueDesc s q
  qLogN d < 6 || 15 < qLogN d || ((mapGet {} s.queues q).stopped && field d 435 435 == 0)

/-- A launch finishes with a status (12 R258, R259). -/
def finishLaunch (l : Launch) (status : Nat) (s : State) : State :=
  let d := queueDesc s l.queue
  let va := (qCpl d + 8 * (l.slot % 2 ^ qLogN d)) % 2 ^ 52
  let word := status * 2 ^ 56 + l.retries % 8 * 2 ^ 53
  if wordless s l.queue then settleLaunch l status s
  else match ventReach s l.ctx va true with
    | .ok pa => writeCompletion l.queue pa word (settleLaunch l status s)
    | .lost _ => settleLaunch l status s
    | .trap k i => settleLaunch l status (ventMiss l.queue l.ctx va true (.trap k i) s)
    | r => ventMiss l.queue l.ctx va true r s

/-- This device reports a pod launch whose batches are done (12 R276). -/
def selfReports (s : State) : State :=
  s.launches.foldl (fun s l =>
    if hPod l.header && l.started && !l.finished && l.doom == 0 && l.again.isEmpty &&
        (List.range l.stages.length).all (stageDone s l) then
      podReport (hPlid l.header) (podSelf s) s
    else s) s

/-- LAUNCH_COMPLETION (12 R259, R277): the reports are taken, and the first launch that can finish does. -/
def execLaunchCompletion (s : State) : Host.Outcome State Fault Refusal :=
  let s := selfReports (takeReports s)
  let ready (l : Launch) : Bool := (launchStatus s l).isSome && (mapGet {} s.queues l.queue).onPage.isNone
  .next (match s.launches.find? ready with
    | some l => finishLaunch l ((launchStatus s l).getD 1) s
    | none => s)

/-! ## Budgets and the takeover -/

/-- The cycles that a level has spent beyond its budget, which the next period carries: work that one step does as a whole
goes on into that period (12 R273, log 69). -/
def carried (s : State) (e : Nat × Nat) : Option (Nat × Nat) :=
  let cyc := budgetCycles s (e.1 / 2048) (e.1 % 16)
  if 8500 ≤ cyc || e.2 ≤ cyc then none else some (e.1, e.2 - cyc)

/-- BUDGET_PERIOD (12 R272): every 8,500 periods of the clock. -/
def execBudgetPeriod (s : State) : Host.Outcome State Fault Refusal :=
  .next (if s.clock % 8500 == 0 then { s with spent := s.spent.filterMap (carried s) } else s)

/-- A role of `VENT_STAT` that a failed core held passes to the standby (12 R278, R279). -/
def passRole (hi lo vcore standby : Nat) (v : BitVec 32) : BitVec 32 :=
  if field v hi lo == vcore then setField v hi lo standby else v

/-- The copies of the journal as an error has left them: `bad` are the numbers of the entries that fail their CRC in SRAM,
`lost` of those that the mirror does not hold. -/
def spoilJournal (bad lost : List Nat) (s : State) : State :=
  { s with journal := s.journal.map (fun e =>
      { e with sram := e.sram && !bad.contains e.seq, mirror := e.mirror && !lost.contains e.seq }) }

/-- The standby repairs the journal (12 R278): SRAM entries with a bad CRC are discarded, and valid ones missing from the
mirror are written there. An entry that fails in both copies makes the device viral (14 R314). -/
def repairJournal (s : State) : State :=
  let gone := s.journal.any (fun e => !e.sram && !e.mirror)
  let s := { s with journal := (s.journal.filter (fun e => e.sram || e.mirror)).map (fun e =>
      if e.sram then { e with mirror := true } else e) }
  if gone then fatalError 2 s else s

/-- The kick bits are scanned again (12 R278): each enabled queue with one is mapped, as far as there is room. -/
def rescanKicks (s : State) : State :=
  ((List.range 1024).filter (fun q => field (reg32 s (offKick (q / 32))) (q % 32) (q % 32) == 1)).foldl
    (fun s q => if qEnabled (queueDesc s q) then mapQueue q s else s) s

/-- A Vent core halts (12 R278): the standby takes its roles, repairs the journal, scans the kick bits and releases the held
reports; without a standby the device is viral (14 R314). -/
def ventFails (vcore : Nat) (s : State) : State :=
  if 4 ≤ vcore || s.ventDead.contains vcore then s
  else
    let v := reg32 s offVentStat
    let s := { s with ventDead := sortBy id (vcore :: s.ventDead) }
    let v' := setField v (19 + vcore) (19 + vcore) 1
    if field v 23 23 == 0 then fatalError 1 (setReg32 s offVentStat v')
    else if field v 25 24 == vcore then setReg32 s offVentStat (setField (setField v' 23 23 0) 25 24 0)
    else
      let sby := field v 25 24
      let v' := passRole 31 30 vcore sby (passRole 29 28 vcore sby (passRole 27 26 vcore sby v'))
      let v' := setField (setField (setField v' 23 23 0) 25 24 0) 7 0 (saturate (field v 7 0 + 1) 255)
      takeReports (rescanKicks (repairJournal (setReg32 s offVentStat v')))

/-- The journal's copies as the next error leaves them (log 93). -/
def nextUpset (s : State) : State :=
  let u := s.upsets.headD ([], [])
  spoilJournal u.1 u.2 { s with upsets := s.upsets.tail }

/-- VENT_TAKEOVER (12 R278): a Vent core halts on an error. -/
def execVentTakeover (vcore : Nat) (s : State) : Host.Outcome State Fault Refusal :=
  .next (if 4 ≤ vcore || s.ventDead.contains vcore then s else ventFails vcore (nextUpset s))

end Sys2Proof.Machine
end

