-- ==== Sys2Proof/Machine/SaveArea.lean ====
section
/-! DEFINITION. The context save area (13 R292 to R295, R299): what a group saves, as bytes, and what a gang record holds. -/

namespace Sys2Proof.Machine

/-! ## Live sets and ranges (13 R291, R292) -/

/-- A split stopped in a wait or at the deadline, with everything live. -/
def Split.stopsWhole (sp : Split) : Bool :=
  match sp.stop with
  | some .wait | some .deadline => true
  | _ => false

/-- The saved live set of a gang: the union of its splits' (13 R291). -/
def savedLive (g : Gang) : BitVec 256 :=
  let all := BitVec.ofNat 256 (2 ^ g.regs - 1)
  if g.splits.any Split.stopsWhole then all else g.live &&& all

/-- Joins ranges in rising order that touch. -/
def mergeRanges : List (Nat × Nat) → List (Nat × Nat)
  | [] => []
  | (a, n) :: rest => match mergeRanges rest with
    | (b, m) :: more => if b ≤ a + n then (a, max (a + n) (b + m) - a) :: more else (a, n) :: (b, m) :: more
    | [] => [(a, n)]

/-- The scratchpad ranges that a group saves (13 R292). -/
def savedRanges (g : Group) (gangs : List Gang) : List (Nat × Nat) :=
  if g.ssize == 0 then []
  else if gangs.any (fun x => x.splits.any Split.stopsWhole) then [(0, g.ssize)]
  else
    let hints := gangs.flatMap (fun x => x.splits.flatMap (fun sp => match sp.stop with
      | some (.phint o n) => [(o, n)]
      | some (.ranges l) => l
      | some .wait | some .deadline | none => []))
    mergeRanges (sortBy (fun e => e.1) (hints.filter (fun e => e.2 != 0)))

/-- A gang with only its saved live set (13 R292). -/
def liveOnly (g : Gang) : Gang := { g with v := g.v.filter (fun e => (savedLive g).getLsbD (e.1 / 64)) }

/-! ## Bytes of a gang record (13 R295) -/

/-- A split record (03 R55). -/
def splitBytes (sp : Split) : List Byte :=
  natToBytes 16 (sp.mask.toNat * 2 ^ 64 + sp.pc.toNat / 4 * 2 ^ 14 + sp.slot % 8 * 2 ^ 11 + 2 ^ 9 +
    (if sp.trapPend then 2 ^ 8 else 0) + sp.starve % 256)

/-- Split records and control word (03 R55). -/
def splitsBytes (g : Gang) : List Byte :=
  let recs := g.splits.flatMap splitBytes
  recs ++ List.replicate (128 - recs.length) 0 ++ natToBytes 4 (g.quantum % 256 * 16 + g.splits.length)

/-- The wait state of a gang: its first waiting split's kind, object and elapsed time (log 42). -/
def waitBytes (s : State) (g : Gang) : List Byte :=
  match g.splits.find? (fun sp => sp.wait.isSome) with
  | some { wait := some w, .. } =>
    let kind := (watchKind w.kind).getD (field (Config.freeWord s.free) 3 0)
    natToBytes 8 (kind + w.obj % 2 ^ 24 * 2 ^ 8 + (s.clock - w.since) / 850 % 2 ^ 32 * 2 ^ 32)
  | _ => List.replicate 8 0

/-- The lanes whose access a split has yet to make: those of a replay, or the whole split that waits for its page at its
header (11 R247). -/
def Split.undone (sp : Split) : Mask := if sp.missed && sp.replay.isNone then sp.mask else sp.replay.getD 0

/-- The unfinished mask of a record: the lanes of the delivered trap, which the return replays (13 R283), and those of
every split (11 R255). -/
def unfinishedOf (g : Gang) : Mask :=
  (if trapActive g then g.unfinished else 0) ||| g.splits.foldl (fun m sp => m ||| sp.undone) 0

/-- A held trap: 32 bytes. -/
def heldBytes (g : Gang) (h : HeldTrap) : List Byte :=
  [BitVec.ofNat 8 h.cause, BitVec.ofNat 8 (g.splits.findIdx (fun sp => laneIn sp.mask h.lane))] ++ List.replicate 6 0 ++
    natToBytes 8 h.tinfo.toNat ++ natToBytes 8 h.tmask.toNat ++ List.replicate 8 0

/-- The fixed part of a gang record: 1,280 bytes. -/
def gangFixed (s : State) (g : Gang) : List Byte :=
  (List.range 128).flatMap (fun n => natToBytes 4 (sreg g n).toNat) ++
  (List.range 8).flatMap (fun n => natToBytes 24 (wreg g n).toNat) ++
  splitsBytes g ++
  natToBytes 4 ((flagsSet g).toNat + g.q.toNat * 2 ^ 12) ++
  (List.range 7).flatMap (fun n => natToBytes 8 (preg g n).toNat) ++
  natToBytes 8 (unfinishedOf g).toNat ++
  natToBytes 8 (g.shape.getD 0).toNat ++
  natToBytes 8 g.tpc.toNat ++ natToBytes 8 g.tmask.toNat ++ natToBytes 8 g.tinfo.toNat ++ natToBytes 4 g.tcause.toNat ++
  natToBytes 4 (g.held.length + g.delivered % 256 * 2 ^ 8 + (if g.tpcWritten then 2 ^ 16 else 0)) ++
  natToBytes 4 g.peerStatus.toNat ++
  natToBytes 4 (g.id % 256 + g.role % 4 * 2 ^ 8) ++
  waitBytes s g ++
  natToBytes 32 (savedLive g).toNat ++
  List.replicate 32 0 ++
  (let h := (g.held.take 8).flatMap (heldBytes g)
   h ++ List.replicate (256 - h.length) 0)

/-- A lane word (13 R295). -/
def laneWord (g : Gang) (h : Nat) : Nat :=
  (mapGet 0 g.join h) % 2 ^ 19 + (if (mapFind g.join h).isSome then 2 ^ 19 else 0) +
    ((List.range 20).foldl (fun n b => n + if laneIn (mapGet 0 g.pend b) h then 2 ^ b else 0) 0) * 2 ^ 32

/-- The registers of a live set, in ascending order. -/
def liveRegs (live : BitVec 256) : List Nat := (List.range 256).filter (fun n => live.getLsbD n)

/-- A gang record. -/
def gangBytes (s : State) (g : Gang) : List Byte :=
  gangFixed s g ++ (List.range g.width).flatMap (fun h => natToBytes 8 (laneWord g h)) ++
    (liveRegs (savedLive g)).flatMap (fun n => (List.range g.width).flatMap (fun h => natToBytes 4 (vreg g n h).toNat))

/-! ## Bytes of a group image (13 R294) -/

/-- The header's 256 bytes: their layout is not given (log 2). -/
def headerBytes (s : State) : List Byte := (List.range 32).flatMap (fun k => natToBytes 8 (Config.freeWord (s.free + 1 + k)).toNat)

/-- A barrier: generation, A, E and member mask. -/
def barrierBytes (s : State) (core gslot : Nat) (g : Group) (b : Nat) : List Byte :=
  natToBytes 4 (g.barrier b).gen.toNat ++ natToBytes 2 (barrierArrived s core gslot b) ++
    natToBytes 2 (barrierExpected s core gslot b) ++ natToBytes 8 (g.barrier b).members.toNat

/-- A saved copy request and its next chunk. -/
def copyBytes (request : BitVec 512) (chunk : Nat) : List Byte := natToBytes 64 request.toNat ++ natToBytes 16 chunk

/-- The requests of a queued slot. -/
def slotRequests (s : State) (core : Nat) (g : Group) (q : CopySlot) : List (BitVec 512) :=
  if q.count == 0 then [q.request]
  else (List.range (q.count - q.index)).map (fun k => slotRequest s core g { q with index := q.index + k })

/-- The commands of a group, the interrupted ones first (07 R163). -/
def groupCmds (c : Core) (gslot : Nat) : List MCommand :=
  ((c.mrun.filter (fun m => m.gslot == gslot)).map (fun m => { m with begun := true })) ++
    c.mqueue.filter (fun m => m.gslot == gslot)

/-- The gangs of a group in the order of their ids. -/
def gangsById (c : Core) (gslot : Nat) : List (Nat × Gang) :=
  sortBy (fun e => e.2.id) (c.gangs.filter (fun e => e.2.gslot == gslot))

/-- The engine faults of a gang slot. -/
def slotFaults (c : Core) (slot : Nat) : List EngineFault := c.faults.filter (fun f => f.slot == slot)

/-- A stopped gang holds the engine faults that fall due (13 R302), as far as its table has room, for a split that neither
runs a handler nor holds a trap (13 R284, log 94). -/
def holdFaults (c : Core) (slot : Nat) (g : Gang) : Gang :=
  let sp := g.splits.find? (fun sp => !sp.handler && !sp.trapPend)
  let mask := ((sp <|> g.splits.head?).map (·.mask)).getD 0
  { g with held := g.held ++ ((slotFaults c slot).take (8 - g.held.length)).map (fun f =>
      { cause := 0x08, lane := lowestLane mask, tinfo := f.tinfo, tmask := mask, engine := true }) }

/-- The gangs of a group as their records hold them. -/
def savedGangs (c : Core) (gslot : Nat) : List (Nat × Gang) :=
  (gangsById c gslot).map (fun e => (e.1, holdFaults c e.1 e.2))

/-- The queued records of a group in the order of their acceptance. -/
def groupRecords (c : Core) (gslot : Nat) : List SpawnRec :=
  c.spawnq.filter (fun r => r.gslot == gslot && r.ggen == mapGet 0 c.ggen gslot)

/-- `MROW` of a group's commands: the next k-step of its interrupted `mma` (07 R160, R163). -/
def savedRow (cmds : List MCommand) : Nat :=
  ((cmds.find? (fun m => m.begun && kindCode m.kind == 2)).map (·.row)).getD 0

/-- The image of a group but for its accumulator tiles' 401,408 bytes each, which follow; command words are free. -/
def groupBytes (s : State) (core gslot : Nat) (g : Group) : List Byte :=
  let c := getCore s core
  let gangs := (savedGangs c gslot).map (·.2)
  let ranges := savedRanges g gangs
  let recs := groupRecords c gslot
  let cmds := groupCmds c gslot
  headerBytes s ++ gangs.flatMap (gangBytes s) ++
  ranges.flatMap (fun r => natToBytes 8 r.1 ++ natToBytes 8 r.2 ++ natToBytes r.2 (scratchRead s core g r.1 r.2)) ++
  g.tiles.flatMap (fun e => natToBytes 4 (tileWord s core e).toNat) ++
  (List.range 20).flatMap (barrierBytes s core gslot g) ++
  (if g.quota == 0 then [] else natToBytes 8 g.spillHead ++ natToBytes 8 g.spillTail ++ recs.flatMap (fun r => natToBytes 32 r.bits)) ++
  ((c.copyrun.filter (fun r => r.gslot == gslot)).flatMap (fun r => copyBytes r.request r.chunk)) ++
  ((c.copyq.filter (fun q => q.gslot == gslot)).flatMap (fun q => (slotRequests s core g q).flatMap (fun r => copyBytes r 0))) ++
  (if cmds.isEmpty && g.acc.isEmpty then []
   else natToBytes 8 (savedRow cmds) ++ natToBytes 8 cmds.length ++
     cmds.flatMap (fun m => (List.range 4).flatMap (fun k => natToBytes 8 (Config.freeWord (s.free + 33 + 4 * m.id + k)).toNat)))

/-- The whole image of a group. -/
def groupImage (s : State) (core gslot : Nat) (g : Group) : List Byte :=
  groupBytes s core gslot g ++ g.acc.flatMap (fun t => imageBytes s (accTile s core t) 0 401408)

/-- CRC-32 of IEEE 802.3 (13 R294, log 43): one bit, one byte, a list. -/
def crcBit (c : BitVec 32) : BitVec 32 := if c.getLsbD 0 then (c >>> 1) ^^^ 0xEDB88320#32 else c >>> 1
def crcByte (c : BitVec 32) (b : Byte) : BitVec 32 :=
  (List.range 8).foldl (fun c _ => crcBit c) (c ^^^ b.setWidth 32)
def crc32 (l : List Byte) : BitVec 32 := ~~~(l.foldl crcByte 0xFFFFFFFF#32)

/-- A directory entry (13 R294): offset, length and CRC of an image. -/
def dirEntry (off : Nat) (image : List Byte) : Nat :=
  off % 2 ^ 40 + image.length % 2 ^ 32 * 2 ^ 40 + (crc32 image).toNat * 2 ^ 96

/-- The places of images one after another, each aligned to 4 KiB. -/
def imageOffsets : Nat → List (List Byte) → List Nat
  | _, [] => []
  | off, i :: rest => off :: imageOffsets (ceilDiv (off + i.length) 4096 * 4096) rest

/-- Where the image after some others begins. -/
def imagesEnd (images : List (List Byte)) : Nat := images.foldl (fun off i => ceilDiv (off + i.length) 4096 * 4096) 65536

/-- Bytes 8 to 65,535 of a save area: the counts, GEN and format, and the directory. -/
def saveHead (gen : Nat) (images : List (List Byte)) : List Byte :=
  let dir := ((imageOffsets 65536 images).zip images).flatMap (fun e => natToBytes 16 (dirEntry e.1 e.2))
  natToBytes 8 (images.length + gen % 65536 * 2 ^ 32 + 2 ^ 48) ++ List.replicate 48 0 ++ dir ++
    List.replicate (65472 - dir.length) 0

/-- The end of the images in the save area. -/
def saveEnd (images : List (List Byte)) : Nat :=
  ((imageOffsets 65536 images).zip images).foldl (fun n e => max n (e.1 + e.2.length)) 65536

/-! ## Reading a gang record back (13 R298, R299) -/

/-- `n` bytes of a record as a number. -/
def recNat (bs : List Byte) (at_ n : Nat) : Nat := bytesToNat ((bs.drop at_).take n)

/-- Bytes of a record that are zero. -/
def zeroBytes (bs : List Byte) (at_ n : Nat) : Bool := ((bs.drop at_).take n).all (· == 0)

/-- An entry of the table of held traps breaks its layout. -/
def heldBad (bs : List Byte) (k : Nat) : Bool :=
  let at_ := 0x400 + 32 * k
  recNat bs (at_ + 1) 1 / 8 != 0 || !zeroBytes bs (at_ + 2) 6 || !zeroBytes bs (at_ + 24) 8

/-- The fixed part of a gang record breaks the layout: changed split records (03 R55), or a byte that is not zero where
the layout puts zero (13 R299). -/
def fixedBad (g : Gang) (bs : List Byte) : Bool :=
  (bs.drop 0x2C0).take 132 != splitsBytes g || recNat bs 0x344 4 / 2 ^ 16 != 0 || recNat bs 0x3AC 4 / 2 ^ 17 != 0 ||
    recNat bs 0x3AC 4 / 2 ^ 4 % 2 ^ 4 != 0 || recNat bs 0x3B4 4 / 2 ^ 10 != 0 || !zeroBytes bs 0x3E0 32 ||
    (List.range (min 8 g.held.length)).any (heldBad bs) ||
    !zeroBytes bs (0x400 + 32 * g.held.length) (256 - 32 * g.held.length)

/-- Scalar registers of a record. -/
def decodeScalars (bs : List Byte) (g : Gang) : Gang :=
  (List.range 128).foldl (fun g n => setSreg g n (BitVec.ofNat 32 (recNat bs (4 * n) 4))) g

/-- Windows of a record, with VALID 0 (08 R198). -/
def decodeWindows (bs : List Byte) (g : Gang) : Gang :=
  (List.range 8).foldl (fun (g : Gang) n =>
    { g with w := mapPut 0 g.w n (setField (BitVec.ofNat 192 (recNat bs (0x200 + 24 * n) 24)) 191 191 0) }) g

/-- Lane predicates of a record. -/
def decodePreds (bs : List Byte) (g : Gang) : Gang :=
  (List.range 7).foldl (fun g n => setPreg g n (BitVec.allOnes 64) (BitVec.ofNat 64 (recNat bs (0x348 + 8 * n) 8))) g

/-- Held traps of a record. -/
def decodeHeld (bs : List Byte) (g : Gang) : List HeldTrap :=
  (g.held.zip (List.range g.held.length)).map (fun e =>
    let at_ := 0x400 + 32 * e.2
    { e.1 with cause := recNat bs at_ 1, tinfo := b64 (recNat bs (at_ + 8) 8), tmask := b64 (recNat bs (at_ + 16) 8) })

/-- Lane words of a record. -/
def decodeLanes (bs : List Byte) (g : Gang) : Gang :=
  let word (h : Nat) : Nat := recNat bs (1280 + 8 * h) 8
  let lanes := List.range g.width
  { g with
    join := (lanes.filter (fun h => (word h).testBit 19)).map (fun h => (h, fieldN (word h) 18 0)),
    pend := ((List.range 20).map (fun b => (b, maskOf (lanes.filter (fun h => (word h).testBit (32 + b)))))).filter (fun e => e.2 != 0) }

/-- Live registers of a record; the others read zero (13 R292). -/
def decodeRegs (bs : List Byte) (g : Gang) : Gang :=
  let regs := liveRegs (savedLive g)
  let at_ := 1280 + 8 * g.width
  (regs.zip (List.range regs.length)).foldl (fun g e =>
    (List.range g.width).foldl (fun g h => setVreg g e.1 h (BitVec.ofNat 32 (recNat bs (at_ + 4 * (g.width * e.2 + h)) 4))) g)
    { g with v := [] }

/-- The shape request of a record: a word of zero is no request, or the granted request that is all zero (07 R147). -/
def decodeShape (bs : List Byte) (g : Gang) : Option (BitVec 64) :=
  if recNat bs 0x388 8 == 0 then (if g.shape == some 0 then some 0 else none) else some (b64 (recNat bs 0x388 8))

/-- The unfinished lanes that a record gives back: each split takes those of its own, the delivered trap the rest that are
its own (11 R255). -/
def decodeUnfinished (m : Mask) (g : Gang) : Gang :=
  let others := g.splits.foldl (fun n sp => n ||| sp.undone) 0 &&& ~~~g.unfinished
  { g with
    unfinished := if trapActive g then m &&& ~~~others else g.unfinished,
    splits := g.splits.map (fun (sp : Split) => { sp with replay := sp.replay.map (· &&& m) }) }

/-- The gang that a record gives back: the record's fields over what the save engine keeps of its hidden state. -/
def decodeGang (bs : List Byte) (g : Gang) : Gang :=
  let g := decodeRegs bs (decodeLanes bs (decodePreds bs (decodeWindows bs (decodeScalars bs g))))
  let g := decodeUnfinished (b64 (recNat bs 0x380 8)) g
  { g with
    q := BitVec.ofNat 4 (recNat bs 0x345 1 / 16),
    shape := decodeShape bs g,
    tpc := b64 (recNat bs 0x390 8), tmask := b64 (recNat bs 0x398 8), tinfo := b64 (recNat bs 0x3A0 8),
    tcause := BitVec.ofNat 32 (recNat bs 0x3A8 4), delivered := recNat bs 0x3AD 1,
    tpcWritten := (recNat bs 0x3AE 1).testBit 0, peerStatus := BitVec.ofNat 32 (recNat bs 0x3B0 4), held := decodeHeld bs g }

/-- Bytes of a gang's record. -/
def recordSize (g : Gang) : Nat := 1280 + 8 * g.width + 4 * g.width * (liveRegs (savedLive g)).length

end Sys2Proof.Machine
end

