-- ==== Sys2Proof/Machine/Preempt.lean ====
section
/-! DEFINITION. Pre-emption, saving and resuming a context (13 R289 to R299), kill and kill-complete (13 R300) and the
context commands (13 R301). -/

namespace Sys2Proof.Machine

/-! ## The context commands' status (13 R301) -/

/-- Writes `CTX_CMDSTAT`, with its interrupt when it changes (15 R323). -/
def setCmdStat (v : Word) (s : State) : State :=
  if reg32 s offCtxCmdStat == v then s else raiseIrq 3 (setReg32 s offCtxCmdStat v)

/-- A command is in progress. -/
def cmdBusy (s : State) : Bool := field (reg32 s offCtxCmdStat) 31 31 == 1

/-- The command in progress names a context. -/
def cmdOn (s : State) (ctx : Nat) : Bool := cmdBusy s && field (reg32 s offCtxCmdStat) 15 0 == ctx

/-- The command on a context ends with a result. -/
def cmdDone (ctx op result : Nat) (s : State) : State :=
  if cmdOn s ctx && s.ctxOp == op then setCmdStat (BitVec.ofNat 32 (result * 2 ^ 28 + ctx)) s else s

/-- A result that is reported whether or not a command is in progress (13 R297, R299). -/
def cmdReport (ctx result : Nat) (busy : Bool) (s : State) : State :=
  if cmdOn s ctx then setCmdStat (BitVec.ofNat 32 ((if busy then 2 ^ 31 else 0) + result * 2 ^ 28 + ctx)) s
  else setCmdStat (setField (reg32 s offCtxCmdStat) 30 28 result) s

/-! ## Stopping (13 R291) -/

/-- PREEMPT_DEADLINE (13 R291): the splits of a context's gangs stop where they must. -/
def execPreemptDeadline (ctx : Nat) (s : State) : Host.Outcome State Fault Refusal :=
  .next (if (mapFind s.preempts ctx).isNone then s
    else (coreIds s).foldl (fun s n => mapGangs n (fun k g => if g.ctx == ctx then stopSplits s n k g else g) s) s)

/-- A gang may be taken by the save engine: stopped, with no lane or in-layer operation in flight. -/
def gangSettled (s : State) (core slot : Nat) (g : Gang) : Bool :=
  gangStopped g && !g.ops.any (fun o => o.kind.isLane) && !(getCore s core).near.any (fun o => o.slot == slot) &&
    !s.issueQ.any (fun c => c.core == core && c.slot == slot)

/-! ## Saving (13 R293, R294, R296) -/

/-- The groups of a context that are saved: all but the held ones that are still retryable (13 R293). -/
def savedGroupsOf (s : State) (ctx : Nat) : List (Nat × Nat × Group) :=
  (allGroups s).filter (fun e => e.2.2.ctx == ctx && !(e.2.2.held && e.2.2.task == .retryable))

/-- The groups of a context that are discarded (13 R293). -/
def discardedGroupsOf (s : State) (ctx : Nat) : List (Nat × Nat × Group) :=
  (allGroups s).filter (fun e => e.2.2.ctx == ctx && e.2.2.held && e.2.2.task == .retryable)

/-- A group is ready to be saved (13 R296, 07 R163, 09 R205, 04 R92): its gangs are taken, its engine work has stopped on a
page, stands behind a request of its list that has, or is an `mma`, and no record is on its way. -/
def groupReady (s : State) (core gslot : Nat) : Bool :=
  let c := getCore s core
  let copies := c.copyrun.filter (fun r => r.gslot == gslot)
  (c.gangs.filter (fun e => e.2.gslot == gslot)).all (fun e => e.2.saved) &&
    (c.mrun.filter (fun m => m.gslot == gslot)).all (fun m => kindCode m.kind == 2 || m.onPage.isSome) &&
    copies.all (fun r => r.onPage.isSome || copies.any (fun x => x.id == r.id && x.index < r.index && x.onPage.isSome)) &&
    (groupRecords c gslot).all (fun r => r.landed.isSome)

/-- Every group of a pending context is ready. -/
def contextReady (s : State) (ctx : Nat) : Bool :=
  (mapFind s.preempts ctx).isSome && (allGroups s).all (fun e => e.2.2.ctx != ctx || groupReady s e.1 e.2.1)

/-- The images of some groups. -/
def imagesOf (s : State) (groups : List (Nat × Nat × Group)) : List (List Byte) :=
  groups.map (fun e => groupImage s e.1 e.2.1 e.2.2)

/-- The images of a context's saved groups. -/
def contextImages (s : State) (ctx : Nat) : List (List Byte) := imagesOf s (savedGroupsOf s ctx)

/-- The saved groups of a context whose images have their place: those that are ready, up to the first that is not. -/
def readyGroups (s : State) (ctx : Nat) : List (Nat × Nat × Group) :=
  (savedGroupsOf s ctx).takeWhile (fun e => groupReady s e.1 e.2.1)

/-- Memory is absent or quarantined somewhere in a range. -/
def rangeBad (s : State) (a n : Nat) : Bool :=
  (List.range (ceilDiv (a % 4096 + n) 4096)).any (fun k =>
    let pa := a / 4096 * 4096 + 4096 * k
    !present s pa || quarantined s pa)

/-- The save area cannot take the images (13 R297): beyond SIZE, or memory that is absent or quarantined. -/
def saveImpossible (s : State) (ctx : Nat) (images : List (List Byte)) : Bool :=
  let base := ctxSave s ctx
  let n := saveEnd images
  peek s base 8 < n || rangeBad s base n

/-- The save engine of a core writes bytes of the save area: their lines leave that core's L1 (13 R296, 08 R178). -/
def saveBytes (core pa : Nat) (bs : List Byte) (s : State) : State := enginePhys core pa true bs s

/-- Where the record of a gang stands in the save area (13 R294), once that is known: the groups before its own are ready
and the gangs before it in its group are taken (log 44). -/
def recordPlace (s : State) (core slot : Nat) (g : Gang) : Option Nat :=
  let groups := savedGroupsOf s g.ctx
  let before := groups.takeWhile (fun e => !(e.1 == core && e.2.1 == g.gslot))
  let gangs := (savedGangs (getCore s core) g.gslot).takeWhile (fun e => e.1 != slot)
  if before.length < groups.length && before.all (fun e => groupReady s e.1 e.2.1) && gangs.all (fun e => e.2.saved) then
    some (imagesEnd (imagesOf s before) + 256 + gangs.foldl (fun n e => n + recordSize e.2) 0)
  else none

/-- The save area of a context has memory for bytes at an offset (13 R297). -/
def saveRoom (s : State) (ctx off n : Nat) : Bool :=
  let base := ctxSave s ctx
  off + n ≤ peek s base 8 && !rangeBad s (base + off) n

/-- The record of a taken gang is written at its place, if that is known and has memory. -/
def writeRecord (core : Nat) (e : Nat × Gang) (s : State) : State :=
  match recordPlace s core e.1 e.2 with
  | some off =>
    let bs := gangBytes s e.2
    if e.2.saved && saveRoom s e.2.ctx off bs.length then saveBytes core (ctxSave s e.2.ctx + off) bs s else s
  | none => s

/-- The records of a group's taken gangs, as far as their places are known. -/
def writeTaken (core gslot : Nat) (s : State) : State :=
  (savedGangs (getCore s core) gslot).foldl (fun s e => writeRecord core e s) s

/-- GANG_SAVE (13 R296): the record of a stopped gang is taken and written, against the save budget (12 R272). A record
whose place depends on gangs that stop later is written when they have (log 44). -/
def execGangSave (core slot : Nat) (s : State) : Host.Outcome State Fault Refusal :=
  .next (match getGang s core slot with
    | none => s
    | some g => match mapFind s.preempts g.ctx with
      | none => s
      | some p =>
        if g.saved || !gangSettled s core slot g || !hasBudget s 2 core p.level || viralBlocks s (ctxSave s g.ctx) then s
        else writeTaken core g.gslot (chargeBudget 2 core p.level (ceilDiv (recordSize g) 256)
          (modGang s core slot (fun g => { g with saved := true, squashed := false }))))

/-- A tile as its image gives it back (07 R166). -/
def throughImage (s : State) (t : AccTile) : AccTile := tileOfImage (imageBytes s t 0 401408)

/-- A gang as it is saved: its waits on a peer in recovery hold the peer, whose return they await (13 R288). -/
def holdPeers (s : State) (core : Nat) (g : Gang) : Gang :=
  { g with splits := g.splits.map (fun (sp : Split) => { sp with wait := sp.wait.map (fun w =>
      match (peersRecovering s).find? (fun e => waitOnPeer s core g w e.1) with
      | some e => { w with peer := some e.1 }
      | none => w) }) }

/-- What a group's image keeps (13 R294). -/
def captureGroup (s : State) (core gslot : Nat) (g : Group) (offset length : Nat) : SavedGroup :=
  let c := getCore s core
  let gangs := (savedGangs c gslot).map (fun e => (e.1, holdPeers s core e.2))
  let ranges := savedRanges g (gangs.map (·.2))
  let scratch := ranges.foldl (fun m r => memWriteBytes m r.1 (natToBytes r.2 (scratchRead s core g r.1 r.2))) []
  { core := core, gslot := gslot, group := { g with imaged := false }, gangs := gangs, scratch := scratch,
    tileWords := g.tiles.map (tileWord s core), accTiles := g.acc.map (fun t => throughImage s (accTile s core t)),
    ranges := ranges, spawn := groupRecords c gslot, copies := c.copyrun.filter (fun r => r.gslot == gslot),
    copyWait := c.copyq.filter (fun q => q.gslot == gslot), cmds := groupCmds c gslot,
    faults := (gangsById c gslot).flatMap (fun e => (slotFaults c e.1).drop (8 - e.2.held.length)),
    offset := offset, length := length }

/-- A held group that is still retryable is discarded, and placed again when its context resumes, with no retry charged
(13 R293, 14 R306, R307). -/
def discardForSave (e : Nat × Nat × Group) (s : State) : State :=
  let g := e.2.2
  let s := dropGroup e.1 e.2.1 (containEvent 3 (physCore s e.1) 0xF 4 g.ctx (some g) s)
  if g.copy == 1 then s
  else modLaunch g.queue g.lslot (fun l => { l with again := l.again ++
    [{ stage := g.stage, index := g.index, retries := g.retries, failedOn := [] }] }) s

/-- Busy cycles of the save engine for what an image holds beside the records of its gangs (13 R296, 12 R272). -/
def restCycles (c : Core) (gslot : Nat) (image : List Byte) : Nat :=
  40 + ceilDiv (image.length - (savedGangs c gslot).foldl (fun n e => n + recordSize e.2) 0) 256

/-- The save engine of a core writes the image of a group (13 R296), once, against the save budget (12 R272). -/
def writeImage (base level : Nat) (e : Nat × Nat × Group) (off : Nat) (image : List Byte) (s : State) : State :=
  if e.2.2.imaged || !hasBudget s 2 e.1 level then s
  else modGroup (saveBytes e.1 (base + off) image (chargeBudget 2 e.1 level (restCycles (getCore s e.1) e.2.1 image) s))
    e.1 e.2.1 (fun g => { g with imaged := true })

/-- The images of the groups that are ready are written (13 R296). -/
def writeImages (ctx level : Nat) (s : State) : State :=
  let groups := readyGroups s ctx
  let images := imagesOf s groups
  if saveImpossible s ctx images then s
  else (groups.zip ((imageOffsets 65536 images).zip images)).foldl (fun s e =>
    writeImage (ctxSave s ctx) level e.1 e.2.1 e.2.2 s) s

/-- Every image of a context has been written once. -/
def allImaged (s : State) (ctx : Nat) : Bool := (savedGroupsOf s ctx).all (fun e => e.2.2.imaged)

/-- Requests whose only waiters are matrix commands of a context that leaves its cores: they are withdrawn (07 R170). -/
def withdrawn (ctx : Nat) (r : PageRequest) : Bool :=
  r.ctx == ctx && !r.waiters.isEmpty && r.waiters.all (fun w => match w with
    | .matrix _ _ => true
    | .gang _ _ _ | .copy _ _ | .queue _ => false)

/-- The core whose save engine writes the directory and the header of a context: that of its first saved group (log 44). -/
def headCore (s : State) (ctx : Nat) : Nat := ((savedGroupsOf s ctx).head?.map (·.1)).getD 0

/-- The directory and the header are written last, over images that hold what has changed since they were written, and the
context leaves its cores (13 R296). -/
def saveContext (ctx : Nat) (p : Preempt) (s : State) : State :=
  let groups := savedGroupsOf s ctx
  let images := contextImages s ctx
  let places := imageOffsets 65536 images
  let base := ctxSave s ctx
  let kept := (groups.zip (places.zip images)).map (fun e =>
    captureGroup s e.1.1 e.1.2.1 e.1.2.2 e.2.1 e.2.2.length)
  let saved : Saved := { gen := ctxGen s ctx, byDriver := p.byDriver, since := s.clock, groups := kept }
  let s' := (groups.zip (places.zip images)).foldl (fun s e => saveBytes e.1.1 (base + e.2.1) e.2.2 s) s
  let head := saveHead (ctxGen s ctx) images
  let s' := saveBytes (headCore s ctx) (base + 8) head
    (chargeBudget 2 (headCore s ctx) p.level (ceilDiv head.length 256) { s' with pages := s.pages.filter (fun r => !withdrawn ctx r) })
  let s' := groups.foldl (fun s e => dropGroup e.1 e.2.1 s) s'
  let s' := (discardedGroupsOf s ctx).foldl (fun s e => discardForSave e s) s'
  let s' := { s' with preempts := mapErase s'.preempts ctx, saved := mapSet s'.saved ctx saved,
                      free := s'.free + 33 + 4 * images.length }
  cmdDone ctx 1 0 s'

/-- CONTEXT_SAVED (13 R296): the images of groups that are ready, and at last the directory and the header, while the save
budget (12 R272) lasts; a viral device writes no save area beyond it (14 R314). -/
def execContextSaved (ctx : Nat) (s : State) : Host.Outcome State Fault Refusal :=
  .next (match mapFind s.preempts ctx with
    | none => s
    | some p =>
      if viralBlocks s (ctxSave s ctx) then s
      else if contextReady s ctx && allImaged s ctx && hasBudget s 2 (headCore s ctx) p.level &&
          !saveImpossible s ctx (contextImages s ctx) then saveContext ctx p s
      else writeImages ctx p.level s)

/-- The gangs of a context run on where they stopped (13 R297). -/
def releaseGangs (ctx : Nat) (s : State) : State :=
  (coreIds s).foldl (fun s n => modCore s n (fun c => { c with
    gangs := c.gangs.map (fun e => (e.1, if e.2.ctx != ctx then e.2 else
      { e.2 with saved := false, live := 0, splits := e.2.splits.map (fun (sp : Split) => { sp with stop := none }) })),
    groups := c.groups.map (fun e => (e.1, if e.2.ctx != ctx then e.2 else { e.2 with imaged := false })) })) s

/-- A save fails (13 R297): the first time it is requested again at the next pass; the second kills the context. -/
def saveFails (ctx : Nat) (p : Preempt) (s : State) : State :=
  if 1 ≤ p.failures then cmdReport ctx 2 false (killContext ctx s)
  else
    let s := releaseGangs ctx { s with preempts := mapErase s.preempts ctx,
                                       preemptAgain := mapSet s.preemptAgain ctx { p with failures := p.failures + 1 } }
    raiseIrq 3 (cmdReport ctx 1 true s)

/-- SAVE_FAILURE (13 R297). -/
def execSaveFailure (ctx : Nat) (s : State) : Host.Outcome State Fault Refusal :=
  .next (match mapFind s.preempts ctx with
    | none => s
    | some p =>
      let images := imagesOf s (readyGroups s ctx)
      if (contextReady s ctx || !images.isEmpty) && !viralBlocks s (ctxSave s ctx) && saveImpossible s ctx images then
        saveFails ctx p s else s)

/-! ## Resuming (13 R298, R299) -/

/-- Bytes of a saved group's image in memory. -/
def imageInMemory (s : State) (ctx : Nat) (x : SavedGroup) : List Byte :=
  memReadBytes s.mem (ctxSave s ctx + x.offset) x.length

/-- A tile image of a saved group that `mldc.img` would refuse (07 R166). -/
def tilesBad (x : SavedGroup) (bs : List Byte) : Bool :=
  (List.range x.accTiles.length).any (fun k => imageBad ((bs.drop (x.length - 401408 * (x.accTiles.length - k))).take 401408))

/-- Where each gang's record stands in its group's image. -/
def recordPlaces : Nat → List (Nat × Gang) → List (Nat × Nat × Gang)
  | _, [] => []
  | at_, (k, g) :: rest => (at_, k, g) :: recordPlaces (at_ + recordSize g) rest

/-- The gang records of a saved group: place, slot and gang. -/
def groupPlaces (x : SavedGroup) : List (Nat × Nat × Gang) := recordPlaces 256 (sortBy (fun e => e.2.id) x.gangs)

/-- A saved group's directory entry or image is corrupt (13 R299). -/
def imageCorrupt (s : State) (ctx : Nat) (k : Nat) (x : SavedGroup) : Bool :=
  let bs := imageInMemory s ctx x
  let entry := peek s (ctxSave s ctx + 64 + 16 * k) 16
  entry != dirEntry x.offset bs || (groupPlaces x).any (fun e => fixedBad e.2.2 (bs.drop e.1)) || tilesBad x bs

/-- The save area of a context is corrupt (13 R299). -/
def saveCorrupt (s : State) (ctx : Nat) (v : Saved) : Bool :=
  let base := ctxSave s ctx
  let n := v.groups.length
  peek s (base + 8) 4 != n || peek s (base + 12) 2 != ctxGen s ctx || peek s (base + 14) 2 != 1 ||
    !(memReadBytes s.mem (base + 16) 48).all (· == 0) || !(memReadBytes s.mem (base + 64 + 16 * n) (65472 - 16 * n)).all (· == 0) ||
    (v.groups.zip (List.range n)).any (fun e => imageCorrupt s ctx e.2 e.1)

/-- The scratchpad that a group's image gives back: its ranges, each after its descriptor (13 R294). -/
def decodeScratch (bs : List Byte) : Nat → List (Nat × Nat) → Memory → Memory
  | _, [], m => m
  | at_, r :: rest, m => decodeScratch bs (at_ + 16 + r.2) rest (memWriteBytes m r.1 ((bs.drop (at_ + 16)).take r.2))

/-- Requests that a slot of the copy queue still holds. -/
def CopySlot.left (q : CopySlot) : Nat := if q.count == 0 then 1 else q.count - q.index

/-- The queued requests of a saved group, each as a slot of its own, with their words from the image (09 R205). -/
def decodeQueued (bs : List Byte) : Nat → List CopySlot → List CopySlot
  | _, [] => []
  | at_, q :: rest =>
    (List.range q.left).map (fun k =>
      { q with request := BitVec.ofNat 512 (recNat bs (at_ + 80 * k) 64), listAt := 0, count := 0, index := q.index + k }) ++
    decodeQueued bs (at_ + 80 * q.left) rest

/-- Where the parts of a group's image begin after the gang records: scratchpad, tile words, barriers. -/
def scratchAt (x : SavedGroup) : Nat := 256 + (groupPlaces x).foldl (fun n e => n + recordSize e.2.2) 0
def wordsAt (x : SavedGroup) : Nat := scratchAt x + x.ranges.foldl (fun n r => n + 16 + r.2) 0
def barriersAt (x : SavedGroup) : Nat := wordsAt x + 4 * x.tileWords.length

/-- A saved group of the same cohort. -/
def SavedGroup.mateOf (x y : SavedGroup) : Bool :=
  x.core / 4 == y.core / 4 && x.group.queue == y.group.queue && x.group.lslot == y.group.lslot && x.group.stage == y.group.stage &&
    x.group.copy == y.group.copy && x.group.index / max 1 x.group.cohortSize == y.group.index / max 1 y.group.cohortSize

/-- The saved group whose image holds a barrier: for a cohort's k0 to k3 that of rank 0 (13 R294), if it is saved. -/
def barrierHome (all : List SavedGroup) (x : SavedGroup) (b : Nat) : SavedGroup :=
  if b < 16 then x else (all.find? (fun y => x.mateOf y && y.group.rank == 0)).getD x

/-- A barrier of a saved group as the images give it back (13 R294, R298): generation and members, and the arrivals less
those that the other groups of the cohort have counted. -/
def decodeBarrier (s : State) (ctx : Nat) (all : List SavedGroup) (x : SavedGroup) (b : Nat) : Barrier :=
  let home := barrierHome all x b
  let at_ := barriersAt home + 16 * b
  let bs := imageInMemory s ctx home
  let own := x.group.barrier b
  let others := if b < 16 then 0 else ((all.filter (fun y => x.mateOf y && y.group.rank != home.group.rank)).map (fun y =>
    (y.group.barrier b).arrived)).sum
  { own with
    gen := BitVec.ofNat 32 (recNat bs at_ 4), members := b64 (recNat bs (at_ + 8) 8),
    arrived := if home.group.rank == x.group.rank then recNat bs (at_ + 4) 2 - others else own.arrived }

/-- A saved group as its image gives it back, among all of its context. -/
def decodeGroup (s : State) (ctx : Nat) (all : List SavedGroup) (x : SavedGroup) : SavedGroup :=
  let bs := imageInMemory s ctx x
  let places := groupPlaces x
  let after := scratchAt x
  let words := wordsAt x
  let bars := barriersAt x
  let recs := bars + 320 + 16
  let copies := bars + 320 + (if x.group.quota == 0 then 0 else 16 + 32 * x.spawn.length)
  let queued := copies + 80 * x.copies.length
  let row := queued + 80 * x.copyWait.foldl (fun n q => n + q.left) 0
  { x with
    gangs := x.gangs.map (fun e => match places.find? (fun p => p.2.1 == e.1) with
      | some p => (e.1, decodeGang (bs.drop p.1) e.2)
      | none => e),
    scratch := decodeScratch bs after x.ranges [],
    tileWords := (List.range x.tileWords.length).map (fun k => BitVec.ofNat 32 (recNat bs (words + 4 * k) 4)),
    group := { x.group with
      barriers := (List.range 20).map (fun b => (b, decodeBarrier s ctx all x b)),
      spillHead := if x.group.quota == 0 then x.group.spillHead else recNat bs (recs - 16) 8,
      spillTail := if x.group.quota == 0 then x.group.spillTail else recNat bs (recs - 8) 8 },
    spawn := (List.range x.spawn.length).map (fun k => SpawnRec.ofBits (recNat bs (recs + 32 * k) 32)),
    copies := (x.copies.zip (List.range x.copies.length)).map (fun e =>
      { e.1 with request := BitVec.ofNat 512 (recNat bs (copies + 80 * e.2) 64), chunk := recNat bs (copies + 80 * e.2 + 64) 16 }),
    copyWait := decodeQueued bs queued x.copyWait,
    cmds := x.cmds.map (fun m => if m.begun && kindCode m.kind == 2 then { m with row := recNat bs row 8 } else m),
    accTiles := (List.range x.accTiles.length).map (fun k =>
      tileOfImage ((bs.drop (x.length - 401408 * (x.accTiles.length - k))).take 401408)) }

/-- A place for a saved group on a core, under the conditions of its placement (02 R43, R298): a spawned gang keeps its
slot, which its `gang.id` names. -/
def resumePlace (s : State) (core : Nat) (x : SavedGroup) : Option Place :=
  let c := getCore s core
  let gangs := x.gangs.map (·.2)
  let launched := (gangs.filter (fun g => g.id < 128)).length
  let spawned := gangs.length - launched
  let nl := launchedGangs c + launched
  let sp := (c.gangs.length - launchedGangs c) + spawned
  let slots := gangs.all (fun g => g.id < 128 || (mapFind c.gangs (g.id - 128)).isNone)
  let image := gangs.foldl (fun n g => max n g.image) 0
  let floor := if x.group.quota == 0 then 0 else 2 * footprint x.group.width x.group.generalRegs
  if slots && nl + max 2 sp ≤ 48 && x.accTiles.length ≤ (freeAcc c).length && x.tileWords.length ≤ (freeTiles c).length &&
      image + max (spawnFloor c) floor ≤ fileSize && c.spawnq.length + x.spawn.length ≤ 2048 then
    match (List.range 8).find? (fun k => (mapFind c.groups k).isNone), scratchPlace c x.group.ssize with
    | some k, some b => some { core := core, gslot := k, sbase := b }
    | _, _ => none
  else none

/-- The new slot of each saved gang: spawned gangs keep theirs, launched ones take the lowest that remain. -/
def resumeSlots (c : Core) (gangs : List (Nat × Gang)) : List (Nat × Nat) :=
  let kept := (gangs.filter (fun e => 128 ≤ e.2.id)).map (fun e => (e.1, e.2.id - 128))
  let free := (List.range 48).filter (fun k => (mapFind c.gangs k).isNone && !kept.any (fun e => e.2 == k))
  kept ++ ((gangs.filter (fun e => e.2.id < 128)).map (·.1)).zip free

/-- The engine faults that a gang brings back, to be delivered at its first clause boundary (13 R302). -/
def savedFaults (slot : Nat) (g : Gang) : List EngineFault :=
  (g.held.filter (·.engine)).map (fun h => { slot := slot, tinfo := h.tinfo })

/-- A saved gang on its core again (13 R298): it walks again, and its timers leave out the time it was saved (13 R287).
A fence that waited has nothing left to wait for (10 R229). -/
def resumeGang (s : State) (away base gslot : Nat) (g : Gang) : Gang :=
  let later (w : Wait) : Wait := { w with since := w.since + away, obj := if w.kind == .fence then 0 else w.obj }
  { g with
    gslot := gslot, parked := none, since := s.cycles, saved := false, live := 0, residency := .lifted,
    held := g.held.filter (fun h => !h.engine),
    ops := g.ops.map (fun o => match o.kind with
      | .engine id => { o with kind := .engine (base + id) }
      | .lane _ | .waiting _ => o),
    splits := g.splits.map (fun (sp : Split) =>
      { sp with stop := none, age := 0, clause := [], missed := false, wait := sp.wait.map later,
                resume := sp.resume.map (fun r => { r with wait := r.wait.map later }) }) }

/-- A saved context runs across the pod: its widest scope is `.pod` (10 R236). -/
def ctxPod (s : State) (ctx : Nat) : Bool := s.launches.any (fun l => l.ctx == ctx && !l.finished && hPod l.header)

/-- A saved group on its core again (13 R298). Its records land anew and keep their SEQ (04 R92, log 100). Its commands
re-enter the queue however full that is: the spec does not speak of a queue without room, and this is the model's choice
(log 112). -/
def resumeGroup (away : Nat) (x : SavedGroup) (p : Place) (s : State) : State :=
  let c := getCore s p.core
  let base := c.opSeq
  let slots := resumeSlots c (sortBy (fun e => e.2.id) x.gangs)
  let newSlot (k : Nat) : Nat := ((slots.find? (fun e => e.1 == k)).map (·.2)).getD k
  let acc := (freeAcc c).take x.accTiles.length
  let tiles := (freeTiles c).take x.tileWords.length
  let gen := mapGet 0 c.ggen p.gslot
  let g := { x.group with
    sbase := p.sbase, acc := acc, tiles := tiles, ranges := [],
    barriers := x.group.barriers.map (fun b => (b.1, { b.2 with timer := b.2.timer.map (· + away) })),
    rendezvous := x.group.rendezvous.map (fun r =>
      { r with parts := r.parts.map newSlot, timer := r.timer + away,
               arrived := r.arrived.foldl (fun m e => mapSet m (newSlot e.1) e.2) [] }) }
  let top := (x.cmds.map (·.id) ++ x.copies.map (·.id) ++ x.copyWait.map (·.id)).foldl max 0
  let gangs := x.gangs.foldl (fun m e => mapSet m (newSlot e.1) (resumeGang s away base p.gslot e.2)) c.gangs
  let c := { c with
    groups := mapSet c.groups p.gslot g,
    gangs := gangs,
    scratch := x.scratch.foldl (fun m e => memWrite m (p.sbase + e.1) e.2) c.scratch,
    tileTab := (tiles.zip x.tileWords).foldl (fun m e => mapSet m e.1 e.2) c.tileTab,
    acc := (acc.zip x.accTiles).foldl (fun m e => mapSet m e.1 e.2) c.acc,
    mqueue := c.mqueue ++ x.cmds.map (fun m => { m with slot := newSlot m.slot, gslot := p.gslot, id := base + m.id, onPage := none, refs := [], peer := none }),
    copyrun := c.copyrun ++ x.copies.map (fun r => { r with slot := newSlot r.slot, gslot := p.gslot, id := base + r.id, onPage := none, refs := [], peer := none }),
    copyq := c.copyq ++ x.copyWait.map (fun q => { q with slot := newSlot q.slot, gslot := p.gslot, id := base + q.id }),
    faults := c.faults ++ x.gangs.flatMap (fun e => savedFaults (newSlot e.1) e.2) ++
      x.faults.map (fun f => { f with slot := newSlot f.slot }),
    spawnq := c.spawnq ++ x.spawn.map (fun r => { r with gslot := p.gslot, ggen := gen, landed := some s.cycles }),
    opSeq := base + top + 1 }
  acquireSignal p.core (ctxPod s g.ctx) (setCore s p.core c)

/-- The gangs of a core that fit come down from the tier at once, in slot order (02 R41). -/
def bringDown (core : Nat) (s : State) : State :=
  (mapKeys (getCore s core).gangs).foldl (fun s k => match getGang s core k with
    | some g => if g.residency == .lifted && g.saved == false && imageFits (getCore s core) g && g.since == s.cycles then
        takeDue core k (modGang s core k (fun g => { g with residency := .present })) else s
    | none => s) s

/-- Saved groups return to a quad, each to the core of its rank; none when one has no room. -/
def resumeQuad (away target : Nat) : List SavedGroup → State → Option State
  | [], s => some s
  | x :: rest, s =>
    let core := 4 * target + x.core % 4
    if !coreOpen s core then none
    else match resumePlace s core x with
      | none => none
      | some p =>
        let s := resumeGroup away x p s
        let c := getCore s core
        if slotDemand c + launchedGangs c ≤ 48 then resumeQuad away target rest s else none

/-- The quads of a shadow group's other copy: where it runs again, and where it ran (13 R298). -/
def twinQuads (s : State) (g : Group) : List Nat :=
  if !g.shadow then []
  else ((g.twin.map (fun t => t.1 / 4)).toList) ++
    ((allGroups s).filter (fun e => e.2.2.queue == g.queue && e.2.2.lslot == g.lslot && e.2.2.stage == g.stage &&
      e.2.2.index == g.index && e.2.2.copy != g.copy)).map (fun e => e.1 / 4)

/-- The saved groups of one quad return to it when it is valid, else to the lowest other quad with room, never the one of
a shadow group's other copy (13 R298). -/
def resumeFrom (away quad : Nat) (groups : List SavedGroup) (s : State) : Option State :=
  if quadValid s quad then resumeQuad away quad groups s
  else
    let twins := groups.flatMap (fun x => twinQuads s x.group)
    firstSome (fun q => if q == quad || twins.contains q || !quadValid s q then none else resumeQuad away q groups s) (List.range 32)

/-- Every quad's groups return, or none. -/
def resumeQuads (away : Nat) (groups : List SavedGroup) : List Nat → State → Option State
  | [], s => some s
  | q :: rest, s => match resumeFrom away q (groups.filter (fun x => x.core / 4 == q)) s with
    | some s => resumeQuads away groups rest s
    | none => none

/-- The copies of a context's shadow groups find each other again, and every group returns the core of copy 0
(14 R308, 13 R298). -/
def relinkTwins (ctx : Nat) (s : State) : State :=
  let all := allGroups s
  let other (g : Group) (copy : Nat) : Option (Nat × Nat) :=
    (all.find? (fun e => e.2.2.queue == g.queue && e.2.2.lslot == g.lslot && e.2.2.stage == g.stage && e.2.2.index == g.index &&
      e.2.2.copy == copy)).map (fun e => (e.1, e.2.1))
  (all.filter (fun e => e.2.2.ctx == ctx)).foldl (fun s e =>
    modGroup s e.1 e.2.1 (fun g =>
      if g.shadow then { g with twin := other g (1 - g.copy), lcoreSeen := ((other g 0).map (·.1)).getD e.1 }
      else { g with lcoreSeen := e.1 })) s

/-- The level of a context's unfinished launches, the highest. -/
def ctxLevel (s : State) (ctx : Nat) : Nat :=
  (s.launches.filter (fun l => l.ctx == ctx && !l.finished)).foldl (fun n l => max n (qPrio (queueDesc s l.queue))) 0

/-- A launch of a higher level waits for room (12 R266). -/
def starvedAbove (s : State) (ctx : Nat) : Bool :=
  s.launches.any (fun l => l.starved && !l.finished && l.ctx != ctx && ctxLevel s ctx < qPrio (queueDesc s l.queue))

/-- The timer of a wait that comes back while its peer recovers stands since that recovery, or the save, began (13 R288). -/
def Wait.standing (s : State) (core saved : Nat) (g : Gang) (w : Wait) : Wait :=
  if waitStands s core g w then { w with since := w.since - (s.clock - max saved (standsFrom s core g w 1024 s.clock)) } else w

/-- The gangs of a resumed context with the timers that its peers hold. -/
def standWaits (ctx saved : Nat) (s : State) : State :=
  (coreIds s).foldl (fun s n => mapGangs n (fun _ g => if g.ctx != ctx then g else
    { g with splits := g.splits.map (fun (sp : Split) => { sp with wait := sp.wait.map (Wait.standing s n saved g) }) }) s) s

/-- A saved context resumes (13 R298), or is killed when its save area is corrupt (13 R299). -/
def resumeContext (ctx : Nat) (v : Saved) (s : State) : State :=
  if saveCorrupt s ctx v then cmdReport ctx 4 false (killContext ctx s)
  else
    let groups := v.groups.map (decodeGroup s ctx v.groups)
    match resumeQuads (s.clock - v.since) groups (distinct (sortBy id (groups.map (fun x => x.core / 4)))) s with
    | none => s
    | some s =>
      let s := relinkTwins ctx (distinct (sortBy id (coreIds s)) |>.foldl (fun s n => bringDown n s) s)
      cmdDone ctx 2 0 { standWaits ctx v.since s with saved := mapErase s.saved ctx }

/-- CONTEXT_RESUME (13 R298): of a context that the Vent pre-empted, once room allows. -/
def execContextResume (ctx : Nat) (s : State) : Host.Outcome State Fault Refusal :=
  .next (match mapFind s.saved ctx with
    | none => s
    | some v => if v.byDriver || starvedAbove s ctx then s else resumeContext ctx v s)

/-! ## Kill (13 R300) -/

/-- CONTEXT_KILL (13 R300). -/
def execContextKill (ctx : Nat) (s : State) : Host.Outcome State Fault Refusal :=
  .next (if ctxState s ctx == 1 then killContext ctx s else s)

/-- The launches of a context finish with status 0x04, and its tokens are free (12 R269, R280). -/
def endContext (ctx : Nat) (s : State) : State :=
  let s := (s.tokens.filter (fun t => t.2.ctx == ctx)).foldl (fun s t => journal (.token t.1 0) s) s
  { s with
    launches := s.launches.map (fun l => if l.ctx == ctx && !l.finished then { l with doom := 4 } else l),
    tokens := s.tokens.filter (fun t => t.2.ctx != ctx),
    ctxBase := mapErase s.ctxBase ctx,
    overwritten := s.overwritten.filter (fun o => o.ctx != ctx),
    killing := s.killing.filter (· != ctx) }

/-- KILL_COMPLETE (13 R300): no write of the model is in flight (log 6); the granules of the writes that the controllers
dropped are quarantined first (14 R312). -/
def execKillComplete (ctx : Nat) (dropped : List Nat) (s : State) : Host.Outcome State Fault Refusal :=
  .next (if !s.killing.contains ctx then s
    else
      let s := dropped.foldl (fun s pa => quarantineGranule pa ctx s) s
      let s := endContext ctx (setCtxRecord s ctx (setField (ctxRecord s ctx) 39 38 3))
      if cmdOn s ctx then cmdDone ctx s.ctxOp (if s.ctxOp == 3 then 0 else 3) s else s)

/-! ## `CTX_CMD` (13 R301) -/

/-- A command begins, unless one is in progress; on a context that is not active it ends with RESULT 3. -/
def ctxCommand (ctx op : Nat) (act : State → State) (s : State) : State :=
  if cmdBusy s then s
  else
    let s := { s with ctxOp := op }
    if ctxState s (ctx % 2 ^ 16) != 1 then setCmdStat (BitVec.ofNat 32 (3 * 2 ^ 28 + ctx % 2 ^ 16)) s
    else act (setCmdStat (BitVec.ofNat 32 (2 ^ 31 + ctx % 2 ^ 16)) s)

/-- A context is suspended (13 R289, R301); its save is charged to level 15 (log 45). -/
def suspendContext (ctx : Nat) (s : State) : State :=
  match mapFind s.saved ctx, mapFind s.preempts ctx, mapFind s.preemptAgain ctx with
  | some v, _, _ => cmdDone ctx 1 0 { s with saved := mapSet s.saved ctx { v with byDriver := true } }
  | none, some p, _ => { s with preempts := mapSet s.preempts ctx { p with byDriver := true } }
  | none, none, some p => { s with preemptAgain := mapSet s.preemptAgain ctx { p with byDriver := true } }
  | none, none, none =>
    { s with preempts := mapSet s.preempts ctx { since := s.clock, byDriver := true, level := 15 } }

/-- OP 1 of `CTX_CMD`. -/
def suspendCommand (ctx : Nat) (s : State) : State := ctxCommand ctx 1 (suspendContext (ctx % 2 ^ 16)) s

/-- CTX_CMD_SUSPEND (13 R301). -/
def execCtxCmdSuspend (ctx : Nat) (s : State) : Host.Outcome State Fault Refusal := .next (suspendCommand ctx s)

/-- OP 2 of `CTX_CMD`: the context resumes once room allows; one that is not saved has nothing to resume. -/
def resumeCommand (ctx : Nat) (s : State) : State :=
  ctxCommand ctx 2 (fun s => match mapFind s.saved (ctx % 2 ^ 16) with
    | some v => { s with saved := mapSet s.saved (ctx % 2 ^ 16) { v with byDriver := false } }
    | none => cmdDone (ctx % 2 ^ 16) 2 0 s) s

/-- CTX_CMD_RESUME (13 R301). -/
def execCtxCmdResume (ctx : Nat) (s : State) : Host.Outcome State Fault Refusal := .next (resumeCommand ctx s)

/-- OP 3 of `CTX_CMD`. -/
def killCommand (ctx : Nat) (s : State) : State := ctxCommand ctx 3 (killContext (ctx % 2 ^ 16)) s

/-- CTX_CMD_KILL (13 R301). -/
def execCtxCmdKill (ctx : Nat) (s : State) : Host.Outcome State Fault Refusal := .next (killCommand ctx s)

end Sys2Proof.Machine
end

