-- ==== Sys2Proof/Machine/Reliability.lean ====
section
/-! DEFINITION. Shadow commits and retries (14 R307 to R310), scan tests (14 R319, R320), scrubs (14 R313), the awl
(14 R315, R316), lost layers (14 R317), degraded welts (14 R318), and what reaches the device from its peers and its
parts (06 R137, 08 R184, 13 R288, 14 R314, 15 R324). -/

namespace Sys2Proof.Machine

/-- Clock periods in a second. -/
def second : Nat := 850000000

/-! ## Held tasks (14 R307, R310) -/

/-- A wait at a commit point is over. -/
def Wait.committed (w : Wait) : Wait := if w.kind == .version && w.acted then { w with ended := true } else w

/-- The waits of a group's splits at its commit point end (14 R310). -/
def endCommit (core gslot : Nat) (s : State) : State :=
  let s := modGroup s core gslot (fun g => { g with atCommit := 0, commits := g.commits + 1 })
  modCore s core (fun c => { c with gangs := c.gangs.map (fun e =>
    if e.2.gslot == gslot then
      (e.1, { e.2 with splits := e.2.splits.map (fun (sp : Split) =>
        { sp with wait := sp.wait.map Wait.committed, resume := sp.resume.map (fun r => { r with wait := r.wait.map Wait.committed }) }) })
    else e) })

/-- Copy 0 and copy 1 have reached the same commit point with equal signatures (14 R310). The base lines that the version
replaces leave the L1s of both copies' cores (08 R183). -/
def commitPair (a b : Nat × Nat) (kind : Nat) (s : State) : State :=
  let lines := ((getGroup s a.1 a.2).map versionLines).getD []
  let s := discardVersion b.1 b.2 (commitVersion a.1 a.2 s)
  let s := lines.foldl (fun s l => dropLines b.1 (l * 128) 128 s) s
  if kind == 1 then endCommit b.1 b.2 (endCommit a.1 a.2 s) else dropGroup b.1 b.2 (finishGroup a.1 a.2 s)

/-- The Vent compares the copies of a shadow group once both wait at a commit point (14 R310). -/
def comparePair (core gslot : Nat) (s : State) : State :=
  match taskCopies core gslot s with
  | [(c, k, g), (c', k', g')] =>
    if g.atCommit == 0 || g'.atCommit == 0 then s
    else if g.atCommit == g'.atCommit && g.sign == g'.sign then
      if g.copy == 0 then commitPair (c, k) (c', k') g.atCommit s else commitPair (c', k') (c, k) g.atCommit s
    else failTask core gslot 2 0 s
  | _ => s

/-- SHADOW_COMPARE (14 R310). -/
def execShadowCompare (core gslot : Nat) (s : State) : Host.Outcome State Fault Refusal :=
  .next (comparePair core gslot s)

/-- TASK_DISCARD_RETRY (14 R306, R307): a held copy fails with a reason; the cause of a trap is not given (log 2). -/
def execTaskDiscardRetry (core gslot reason : Nat) (s : State) : Host.Outcome State Fault Refusal :=
  .next (match getGroup s core gslot with
    | none => s
    | some g =>
      if !g.held || reason == 0 || 3 < reason then s
      else if reason == 1 then
        let (v, s) := takeFree s
        failTask core gslot 1 (v.toNat % 256) s
      else failTask core gslot reason 0 s)

/-! ## Scan tests (14 R319) -/

/-- LCORE of a physical core, 0xFF when it is not mapped (14 R320). -/
def coreSlotOf (s : State) (p : Nat) : Nat := field (reg32 s (offCoreHealth p)) 15 8

/-- The core is under scan from now on. -/
def beginScan (p : Nat) (rerun : Bool) (s : State) : State :=
  setCoreState p 4 { s with scans := mapSet s.scans p { since := s.clock, rerun := rerun } }

/-- A physical core's scan is due: by INTERVAL in a mapped core or a spare that holds no group (14 R319), and at once in
a core of a layer that has returned (14 R317). -/
def scanDue (s : State) (p : Nat) : Bool :=
  let cfg := reg32 s offScanCfg
  let hours := field cfg 15 0
  let st := coreState s p
  let l := coreSlotOf s p
  s.running && p < 136 && (mapFind s.scans p).isNone && !(l < 128 && coreBusy s l) &&
    ((st == 5 && l == 0xFF && !s.gone.contains p && !layerLost s (p % 2)) ||
     ((st == 0 || st == 1) && field cfg 31 31 == 1 && hours != 0 && mapGet 0 s.scanned p + hours * 3600 * second ≤ s.clock))

/-- A scan starts. A spare leaves the pool for its time. -/
def startScan (p : Nat) (s : State) : State := beginScan p false (countSpares { s with spares := s.spares.erase p })

/-- SCAN_TEST_START (14 R319). -/
def execScanTestStart (pcore : Nat) (s : State) : Host.Outcome State Fault Refusal :=
  .next (if scanDue s pcore then startScan pcore s else s)

/-- A core that has passed goes back to its slot or joins the pool (14 R317, R319). -/
def scanPassed (p : Nat) (s : State) : State :=
  let s := { s with scanned := mapSet s.scanned p s.clock, scans := mapErase s.scans p }
  if coreSlotOf s p != 0xFF then setCoreState p 0 s
  else refillMap (countSpares (setCoreState p 1 { s with spares := sortBy id (p :: s.spares.erase p) }))

/-- A signature that does not match: one rerun, then the core fails with KIND 0xA (14 R319). -/
def scanFailed (p : Nat) (signature : BitVec 64) (rerun : Bool) (s : State) : State :=
  let n := field (reg32 s (offCoreHealth p)) 23 16
  let s := setRegField s (offCoreHealth p) 23 16 (saturate (n + 1) 255)
  if rerun then
    coreFails p (containEvent 0xA p 0xF signature.toNat 0 none { s with scans := mapErase s.scans p })
  else beginScan p true s

/-- SCAN_TEST_END (14 R319): after 200 µs. -/
def execScanTestEnd (pcore : Nat) (signature : BitVec 64) (s : State) : Host.Outcome State Fault Refusal :=
  .next (match mapFind s.scans pcore with
    | none => s
    | some x =>
      if s.clock < x.since + 170000 then s
      else if signature == Config.scanGolden pcore then scanPassed pcore s
      else scanFailed pcore signature x.rerun s)

/-! ## Scrubs (14 R313) -/

/-- A `QUAR_CMD` write (14 R313). -/
def startScrub (v : BitVec 64) (s : State) : State :=
  let g := field v 51 21
  if field v 63 63 == 0 || s.scrub.isSome || (mapFind s.quarantine g).isNone then s
  else setRegField { s with scrub := some g, scrubKeep := false } offQuarStat 31 31 1

/-- QUAR_SCRUB (14 R313). -/
def execQuarScrub (v : BitVec 64) (s : State) : Host.Outcome State Fault Refusal := 
  .next (startScrub v (recordLow offQuarCmd v s))

/-- Writes zero to the whole of a granule. -/
def zeroGranule (g : Nat) (s : State) : State :=
  let pa := g * 2 ^ 21
  let s := forgetOld pa (2 ^ 21) s
  clearCounts pa (2 ^ 21) (if tierOf pa == .mx then physWrite pa (List.replicate (2 ^ 21) 0) s
    else { s with mem := zeroRange s.mem pa (2 ^ 21) })

/-- SCRUB_COMPLETE (14 R313): a granule quarantined again meanwhile stays quarantined (14 R321); one of a layer without
power waits for it, and one beyond a viral device waits for ever (14 R314). -/
def execScrubComplete (s : State) : Host.Outcome State Fault Refusal :=
  .next (match s.scrub with
    | none => s
    | some g =>
      if ((nearLayer (g * 2 ^ 21)).map (layerLost s)).getD false || viralBlocks s (g * 2 ^ 21) then s
      else
        let s' := zeroGranule g s
        let s' := if s.scrubKeep then s' else liftQuarantine g s'
        setRegField { s' with scrub := none, scrubKeep := false } offQuarStat 31 31 0)

/-! ## The awl (14 R315, R316) -/

/-- A number names a link (14 R316). -/
def isLink (link : Nat) : Bool := link < 0x1000 + 3 * 136 || (0x2000 ≤ link && link < 0x2010)

/-- The UALink port of a link. -/
def linkPort (link : Nat) : Option Nat := if 0x2000 ≤ link then some (link - 0x2000) else none

/-- A mismatch in `AWL_STAT`, with its KIND 0x8 event when it begins a lost-permit trap. -/
def recordMismatch (link total found : Nat) (first : Bool) (s : State) : State :=
  let n := saturate (field (reg64 s offAwlStat) 63 48 + 1) 0xFFFF
  let s := setReg64 s offAwlStat (BitVec.ofNat 64 (n * 2 ^ 48 + link * 2 ^ 32 + total % 2 ^ 16 * 2 ^ 16 + found % 2 ^ 16))
  if first then containEvent 8 0xFF 0xF link 0 none s else s

/-- A link is reset; the third time within one second it has failed (14 R316). -/
def resetLink (link : Nat) (s : State) : State :=
  let recent := ((mapGet [] s.linkResets link).filter (fun t => s.clock < t + second)) ++ [s.clock]
  let s := { s with linkResets := mapSet s.linkResets link recent, suspects := s.suspects.erase link }
  match linkPort link with
  | some n =>
    let s := { s with ports := s.ports.erase n }
    if 3 ≤ recent.length then { s with deadPorts := sortBy id (n :: s.deadPorts.erase n) } else s
  | none => if 3 ≤ recent.length then fatalError 5 s else s

/-- AWL_AUDIT (14 R315, R316): permits held, slots occupied and permits returned against TOTAL. A viral device only
records a mismatch (14 R321). -/
def execAwlAudit (link held occupied returned total : Nat) (s : State) : Host.Outcome State Fault Refusal :=
  let found := held + occupied + returned
  .next (if !isLink link then s
    else if found == total then { s with suspects := s.suspects.erase link }
    else if isViral s then recordMismatch link total found true s
    else if s.suspects.contains link then resetLink link (recordMismatch link total found false s)
    else { recordMismatch link total found true s with suspects := sortBy id (link :: s.suspects) })

/-! ## Sinter layers (14 R317, 15 R330) -/

/-- Physical cores of a layer (01 R14). -/
def layerCores (layer : Nat) : List Nat := (List.range 136).filter (fun k => k % 2 == layer)

/-- Contexts with state in a layer: a gang's image, a page of its near windows, or a version line homed there (14 R317). -/
def layerContexts (s : State) (layer : Nat) : List Nat :=
  let gangs := (allGangs s).filterMap (fun e =>
    let up := e.2.2.residency == .lifted || e.2.2.residency == .lifting || e.2.2.residency == .recalling
    if up && physCore s e.1 % 2 == layer then some e.2.2.ctx else none)
  let pages := (activeContexts s).filter (fun ctx => contextMaps s ctx (fun pa => nearLayer (localPa s pa) == some layer))
  let homed (g : Group) : Bool := g.version.any (fun b => nearLayer b.1 == some layer)
  let lines := ((allGroups s).filter (fun e => homed e.2.2)).map (fun e => e.2.2.ctx) ++
    (s.saved.filter (fun e => e.2.groups.any (fun x => homed x.group))).map (·.1)
  distinct (sortBy id (gangs ++ pages ++ lines))

/-- Quarantines the near-window granules of a core; they do not count (14 R317). -/
def quarantineWindow (s : State) (k : Nat) : State :=
  let first := (0x8000000000 + k * 0x8000000) / 2 ^ 21
  { s with quarantine := (List.range 56).foldl (fun q i => mapSet q (first + i) true) s.quarantine }

/-- A core of a lost layer is closed to placement (14 R317). -/
def closeCore (s : State) (k : Nat) : State :=
  let st := coreState s k
  if st == 2 || st == 3 then s
  else setCoreState k 5 { s with spares := s.spares.erase k, scans := mapErase s.scans k }

/-- A layer is lost (14 R317); the records of one cycle come by KIND (14 R321). -/
def loseLayer (layer : Nat) (s : State) : State :=
  let ctxs := layerContexts s layer
  let s := ctxs.foldl (fun s ctx => if s.killing.contains ctx then s else killByEvent ctx 9 s)
    { s with layersLost := mapSet s.layersLost layer none }
  let s := containEvent 9 0xFF 0xF layer 0 none s
  let cores := layerCores layer
  let s := { s with mem := s.mem.filter (fun c => nearLayer c.1 != some layer),
                    l2 := s.l2.filter (fun e => nearLayer (e.1 * 128) != some layer) }
  let s := cores.foldl quarantineWindow s
  let s := setRegField s offQuarStat 12 0 (s.quarantine.filter (fun e => !e.2)).length
  let s := setReg64Field s (offDieTel (11 + layer)) 20 20 1
  refillMap (countSpares (cores.foldl closeCore s))

/-- SINTER_LAYER_LOSS (14 R317). -/
def execSinterLayerLoss (layer : Nat) (s : State) : Host.Outcome State Fault Refusal :=
  .next (if 2 ≤ layer || layerLost s layer then s else loseLayer layer s)

/-! ## Degraded welts (14 R318) -/

/-- Counts of the welts. -/
def weltCountsNow (s : State) : List Nat := (List.range 10).map (fun w => (reg32 s (offWcnt w)).toNat)

/-- A welt has degraded, by the rise of every count since the last sample (14 R318). -/
def weltDegraded (rises : List Nat) (w : Nat) : Bool :=
  2 ^ 16 < rises.getD w 0 && (List.range 10).all (fun v => v == w || rises.getD v 0 ≤ 16)

/-- WELT_DEGRADE_SAMPLE (14 R318): once per second; a welt is reported once. -/
def execWeltDegradeSample (s : State) : Host.Outcome State Fault Refusal :=
  .next (if s.clock % second != 0 then s
    else
      let now := weltCountsNow s
      let rises := (List.range 10).map (fun w => now.getD w 0 - s.weltCounts.getD w 0)
      let s := { s with weltCounts := now }
      match (List.range 10).find? (fun w => weltDegraded rises w && !s.weltReported.contains w) with
      | some w => containEvent 0xC 0xFF w w 0 none { s with weltReported := sortBy id (w :: s.weltReported) }
      | none => s)

/-! ## Peers (13 R288, 14 R314, 15 R324) -/

/-- A peer's record changed. -/
def modPeer (d : Nat) (f : Peer → Peer) (s : State) : State :=
  { s with peers := mapSet s.peers d (f (mapGet {} s.peers d)) }

/-- PEER_LOST (13 R288): every wait on the peer completes with status peer-lost. -/
def execPeerLost (device : Nat) (s : State) : Host.Outcome State Fault Refusal :=
  .next (modPeer device (fun p => { p with lost := true }) s)

/-- A peer has reported recovery for 2 s (13 R288). -/
def peerOverdue (s : State) (p : Peer) : Bool :=
  !p.lost && (match p.recovering with
    | some t => t + 2 * second ≤ s.clock
    | none => false)

/-- PEER_RECOVERY_NOTICE (13 R288): the watchdog of waits on the peer stops. -/
def execPeerRecoveryNotice (device : Nat) (s : State) : Host.Outcome State Fault Refusal :=
  .next (modPeer device (fun p => if p.lost || p.recovering.isSome then p else { p with recovering := some s.clock }) s)

/-- PEER_VIRAL_NOTICE (14 R314): the ports to the peer are fenced, and it is as lost. -/
def execPeerViralNotice (device : Nat) (s : State) : Host.Outcome State Fault Refusal :=
  .next (modPeer device (fun p => { p with viral := true }) s)

/-- UALINK_PORT_TRAINED (14 R316): a port carries traffic again, unless it is disabled. -/
def execUalinkPortTrained (port : Nat) (s : State) : Host.Outcome State Fault Refusal :=
  .next (if 16 ≤ port || s.deadPorts.contains port || s.ports.contains port then s
    else { s with ports := sortBy id (port :: s.ports) })

/-- A peer's access to local memory at a physical address (15 R324, 10 R227); it reads the base lines. -/
def podPerform (pa : Nat) (acc : PodAccess) (s : State) : State :=
  let put (bs : List Byte) (s : State) : State := clearCounts pa bs.length (physWrite pa bs (forgetOld pa bs.length s))
  match acc with
  | .read len => { s with podAnswer := physRead s none pa len }
  | .write bs => put bs { s with podAnswer := [] }
  | .atomic op t b c =>
    let n := accessBytes t
    let old := physRead s none pa n
    put (natToBytes n (atomVal op t (bytesToNat old) (if op == 7 then b.toNat else 0) c.toNat)) { s with podAnswer := old }
  | .wide op c =>
    let old := physRead s none pa 32
    put (natToBytes 32 (atomwVal op (bytesToNat old) c.toNat)) { s with podAnswer := old }
  | .residues r =>
    let places := rp8Bytes (pa / 512 * 512) (pa % 512)
    let x := places.map (fun p => (physByte s p).toNat)
    (places.zip (ratomVal x (workingOf r))).foldl (fun s p =>
      clearCounts p.1 1 (physWrite p.1 [BitVec.ofNat 8 p.2] (forgetOld p.1 1 s))) { s with podAnswer := [] }

/-- Bytes that an access covers, and the alignment it needs. -/
def podExtent : PodAccess → Nat × Nat
  | .read n => (n, 1)
  | .write bs => (bs.length, 1)
  | .atomic _ t _ _ => (accessBytes t, accessBytes t)
  | .wide _ _ => (32, 32)
  | .residues _ => (1, 1)

/-- A peer's access reaches memory: through a trained port, at an address of this device's pod window that has memory
behind it and is not quarantined, while the device is in the pod and not viral (08 R172, 14 R312, R314, 15 R324, R325). -/
def podReaches (s : State) (port pa : Nat) (acc : PodAccess) : Bool :=
  let o := pa % 0x20000000000
  let last := o + (podExtent acc).1 - 1
  s.ports.contains port && field (reg32 s offPodCfg) 31 31 == 1 && !isViral s && tierOf pa == .pod (podSelf s) &&
    podPresent o && podPresent last && o / 2 ^ 21 == last / 2 ^ 21 && !quarantined s o && pa % (podExtent acc).2 == 0 &&
    (match acc with
      | .residues _ => o % 512 < 64
      | _ => true)

/-- POD_REMOTE_ACCESS (15 R324): an access that reaches nothing is answered with nothing. -/
def execPodRemoteAccess (port pa : Nat) (acc : PodAccess) (s : State) : Host.Outcome State Fault Refusal :=
  .next (if podReaches s port pa acc then podPerform (pa % 0x20000000000) acc s else { s with podAnswer := [] })

/-! ## Parts that fail -/

/-- WELT_FAILURE (06 R137). -/
def execWeltFailure (welt : Nat) (mode : WeltMode) (s : State) : Host.Outcome State Fault Refusal :=
  .next (if 10 ≤ welt then s else { s with welts := mapSet s.welts welt mode })

/-- L2_TAG_UNCORRECTABLE_ERROR (14 R314). -/
def execL2TagUncorrectableError (s : State) : Host.Outcome State Fault Refusal := .next (fatalError 3 s)

/-- EXPANDER_FAILURE (08 R184): its window has no memory behind it any more. -/
def execExpanderFailure (port : Nat) (s : State) : Host.Outcome State Fault Refusal :=
  .next { s with expanders := mapErase s.expanders port }

end Sys2Proof.Machine
end

