-- ==== Sys2Proof/Machine/Power.lean ====
section
/-! DEFINITION. Rails and power (15 R326, R327), the boil governor and thermal trips (15 R328 to R330), the connector
(15 R331), boot (15 R332) and attestation (15 R333). -/

namespace Sys2Proof.Machine

/-! ## Reset and power (14 R314, 15 R327, R332) -/

/-- Memory that is not the device's own: the host's, the pod peers' and the expanders'. -/
def outsideMemory (m : Memory) : Memory := m.filter (fun c => match tierOf c.1 with
  | .host | .pod _ | .expander _ => true
  | _ => false)

/-- The machine after a reset in the world of a state: what is not the device's own stays, and so do faults of its parts
and the count of free values used (log 47). -/
def resetIn (s : State) : State :=
  { State.reset with
    mem := outsideMemory s.mem, welts := s.welts, free := s.free, inbox := s.inbox, upsets := s.upsets, connFirst := s.connFirst }

/-- POWER_LOSS (15 R327): below 700 V the module removes power, and nothing of the device's state survives; the connector's
values at first power-up are the module's (15 R331, log 47). -/
def execPowerLoss (millivolts : Nat) (s : State) : Host.Outcome State Fault Refusal :=
  .next (if millivolts < 700000 then { resetIn s with powered := false } else s)

/-- POWER_ON (15 R332): the boot ROM waits for an image. -/
def execPowerOn (s : State) : Host.Outcome State Fault Refusal := .next (if s.powered then s else resetIn s)

/-- CONVENTIONAL_RESET (14 R314): viral state ends and boot is in state 1. -/
def execConventionalReset (s : State) : Host.Outcome State Fault Refusal :=
  .next { resetIn s with powered := s.powered }

/-! ## Rails (15 R326, R327) -/

/-- RAIL_TELEMETRY_UPDATE (15 R326): volts in mV, current in 1/32 A. -/
def execRailTelemetryUpdate (rail volt curr : Nat) (temp : BitVec 12) (ilim : Bool) (s : State) :
    Host.Outcome State Fault Refusal :=
  let v := volt % 2 ^ 20 * 2 ^ 44 + curr % 2 ^ 18 * 2 ^ 26 + temp.toNat * 2 ^ 14 + (if ilim then 2 ^ 13 else 0)
  .next (if 7 ≤ rail then s else setReg64 s (offRailTel rail) (BitVec.ofNat 64 v))

/-- DUTY of a die (15 R328). -/
def dutyOf (s : State) (d : Nat) : Nat := field (reg64 s (offDieTel d)) 27 21

/-- Sets DUTY of a die. -/
def setDuty (d n : Nat) (s : State) : State := setReg64Field s (offDieTel d) 27 21 n

/-- CURRENT_LIMIT (15 R327): above 3,600 A on rails 0 and 1, ILIM is set and every die loses 4 steps of DUTY. -/
def execCurrentLimit (milliamps : Nat) (s : State) : Host.Outcome State Fault Refusal :=
  .next (if milliamps ≤ 3600000 then s
    else
      let s := setReg64Field (setReg64Field s (offRailTel 0) 13 13 1) (offRailTel 1) 13 13 1
      (List.range 13).foldl (fun s d => setDuty d (max 1 (dutyOf s d - 4)) s) s)

/-! ## The boil governor (15 R328) -/

/-- DTEMP of a die. -/
def dtempOf (s : State) (d : Nat) : Nat := mapGet 64 s.dtemp d

/-- A die's temperature limit in 1/16 degree. -/
def dieLimit (d : Nat) : Int := if d ≤ 10 then 105 * 16 else 90 * 16

/-- DTEMP after a period, kept in 1 to 64 (log 48). -/
def nextDtemp (s : State) (d : Nat) (tmax : Int) : Nat :=
  let n := dtempOf s d
  if dieLimit d < tmax then max 1 (n - 1) else if tmax ≤ dieLimit d - 32 then min 64 (n + 1) else n

/-- The power of the tower at full duty as a fraction of watts: numerator and denominator. -/
def towerPower (s : State) (dies : List DieSample) : Nat × Nat :=
  let duty (d : Nat) : Nat := max 1 (dutyOf s d)
  let all := (List.range 13).foldl (fun n d => Nat.lcm n (duty d)) 1
  ((List.range 13).foldl (fun n d => n + ((dies[d]?).map (·.power)).getD 0 * 64 * (all / duty d)) 0, 32 * all)

/-- DT: the tower's duty that PALLOW permits. -/
def towerDuty (s : State) (pt : Nat × Nat) : Nat :=
  let cfg := reg32 s offBoilCfg
  let allow := field cfg 15 0 * 40 * (64 - field cfg 30 24)
  if pt.1 == 0 then 64 else min 64 (64 * allow * pt.2 / (1024 * pt.1))

/-- A die's report of a period. -/
def reportDie (d : Nat) (x : DieSample) (s : State) : State :=
  let v := reg64 s (offDieTel d)
  setReg64 s (offDieTel d)
    (setField (setField (setField v 63 52 (x.tmax % 4096).toNat) 51 36 (x.power % 65536)) 35 28 (x.proc % 256))

/-- The clock since which a cut part has been cool: below a temperature in 1/16 degree. -/
def coolSince (clock : Nat) (bound tmax : Int) (t : Option Nat) : Option Nat :=
  if tmax < bound then some (t.getD clock) else none

/-- Cut welts and layers are watched while they cool (15 R330). -/
def watchCooling (dies : List DieSample) (s : State) : State :=
  let tmax (d : Nat) : Int := ((dies[d]?).map (·.tmax)).getD 4000
  { s with
    tripped := s.tripped.map (fun e => (e.1, coolSince s.clock (95 * 16) (tmax (e.1 + 1)) e.2)),
    layersLost := s.layersLost.map (fun e => (e.1, coolSince s.clock (80 * 16) (tmax (e.1 + 11)) e.2)) }

/-- TELE is set when DUTY has been below 64 for longer than 1 ms, a hundred periods. -/
def watchDuty (s : State) : State :=
  if (List.range 13).any (fun d => dutyOf s d < 64) then
    let s := { s with dutyLow := s.dutyLow + 1 }
    if s.dutyLow == 101 then raiseIrq 4 s else s
  else { s with dutyLow := 0 }

/-- Temperatures at which a die is cut, in 1/16 degree (15 R330). -/
def tripLimit (d : Nat) : Int := if d ≤ 10 then 125 * 16 else 110 * 16

/-- The Last trips (15 R330): TRIP, and a fatal error of cause 6, which ends every context with state on it (01 R29). -/
def tripLast (s : State) : State := fatalError 6 (setReg64Field s (offDieTel 0) 20 20 1)

/-- A welt's power is cut (15 R330). -/
def tripWelt (welt : Nat) (s : State) : State :=
  if (mapFind s.tripped welt).isSome then s
  else setReg64Field { s with tripped := mapSet s.tripped welt none } (offDieTel (welt + 1)) 20 20 1

/-- A die that has reached its trip temperature is cut. -/
def tripDie (d : Nat) (tmax : Int) (s : State) : State :=
  if tmax < tripLimit d then s
  else if d == 0 then (if field (reg64 s (offDieTel 0)) 20 20 == 1 then s else tripLast s)
  else if d ≤ 10 then tripWelt (d - 1) s
  else if layerLost s (d - 11) then s
  else loseLayer (d - 11) s

/-- One period of the governor (15 R328). -/
def governBoil (dies : List DieSample) (s : State) : State :=
  let pt := towerPower s dies
  let dt := if field (reg32 s offBoilCfg) 31 31 == 1 then towerDuty s pt else 64
  let s := ((List.range 13).zip dies).foldl (fun s e => reportDie e.1 e.2 s) s
  let s := { s with dtemp := ((List.range 13).zip dies).foldl (fun m e =>
    mapSet m e.1 (nextDtemp s e.1 e.2.tmax)) s.dtemp }
  let last := max 1 ((List.range 11).foldl (fun n d => min n (dtempOf s d)) dt)
  let s := (List.range 13).foldl (fun s d => setDuty d (if d ≤ 10 then last else max 1 (min dt (dtempOf s d))) s) s
  let s := setReg32 s offBoilStat (BitVec.ofNat 32 (dt * 2 ^ 25 + saturate (pt.1 / pt.2) 0xFFFF))
  let s := watchDuty (watchCooling dies s)
  ((List.range 13).zip dies).foldl (fun s e => tripDie e.1 e.2.tmax s) s

/-- BOIL_GOVERNOR_PERIOD (15 R328), with the readings of its sensors, which stand until the next ones come. -/
def execBoilGovernorPeriod (dies : List DieSample) (s : State) : Host.Outcome State Fault Refusal :=
  .next (governBoil dies { s with sensors := dies, governed := s.clock / 8500 })

/-! ## Trips (15 R330) -/

/-- LAST_TRIP (15 R330), at 125 degrees, in 1/16 degree. -/
def execLastTrip (temp : Int) (s : State) : Host.Outcome State Fault Refusal :=
  .next (tripDie 0 temp s)

/-- WELT_TRIP (15 R330), at 125 degrees. -/
def execWeltTrip (welt : Nat) (temp : Int) (s : State) : Host.Outcome State Fault Refusal :=
  .next (if 10 ≤ welt then s else tripDie (welt + 1) temp s)

/-- A welt has zero residues, and rejoins a tile at its next `mzero` or `mldc` (15 R330). -/
def staleWelt (welt : Nat) (s : State) : State :=
  { s with cores := s.cores.map (fun e => (e.1, { e.2 with
      acc := e.2.acc.map (fun t => (t.1, { t.2 with stale := sortBy id (welt :: t.2.stale.erase welt) })) })) }

/-- A part has been cool for 10 s. -/
def coolFor (s : State) (t : Option (Option Nat)) : Bool :=
  match t with
  | some (some t) => t + 10 * second ≤ s.clock
  | _ => false

/-- WELT_REPOWER (15 R330). -/
def execWeltRepower (welt : Nat) (s : State) : Host.Outcome State Fault Refusal :=
  .next (if coolFor s (mapFind s.tripped welt) then
      setReg64Field (staleWelt welt { s with tripped := mapErase s.tripped welt }) (offDieTel (welt + 1)) 20 20 0
    else s)

/-- LAYER_REPOWER (15 R330): its free cores are scan-tested and then join the pool; its granules stay quarantined. -/
def execLayerRepower (layer : Nat) (s : State) : Host.Outcome State Fault Refusal :=
  .next (if coolFor s (mapFind s.layersLost layer) then
      let s := setReg64Field { s with layersLost := mapErase s.layersLost layer } (offDieTel (11 + layer)) 20 20 0
      (layerCores layer).foldl (fun s k => if coreState s k == 5 && scanDue s k then startScan k s else s) s
    else s)

/-! ## The connector (15 R331) -/

/-- A pin of a lane: PCIe, CXL or UALink. -/
def lanePin (p : PinSample) : Bool := 2 ≤ p.cls && p.cls ≤ 4

/-- `CONN_DATA` of a pin: MARGIN is 0 for other pins than those of lanes. -/
def pinWord (p : PinSample) : BitVec 32 :=
  BitVec.ofNat 32 (p.res % 65536 * 65536 + (if lanePin p then p.margin % 256 * 256 else 0) + p.cls % 8)

/-- `CONN_DATA` shows the pin that `CONN_SEL` names. -/
def showPin (s : State) : State :=
  setReg32 s offConnData (((s.connLast[field (reg32 s offConnSel) 10 0]?).map pinWord).getD 0)

/-- A pin's values call for an alert: its resistance, or the margin of a lane pin. -/
def pinAlert (first : Option PinSample) (p : PinSample) : Bool :=
  (match first with
    | some f => 2 * f.res < p.res
    | none => false) || (lanePin p && p.margin < 8)

/-- CONNECTOR_MEASURE (15 R331): the first measurement gives the values at first power-up. -/
def execConnectorMeasure (pins : List PinSample) (s : State) : Host.Outcome State Fault Refusal :=
  let s := { s with connFirst := if s.connFirst.isEmpty then pins else s.connFirst, connLast := pins }
  let alert := ((List.range pins.length).zip pins).any (fun e => pinAlert s.connFirst[e.1]? e.2)
  .next (if alert then raiseIrq 4 (showPin s) else showPin s)

/-! ## Boot (15 R332) -/

/-- FW_GO (15 R332): the ROM measures the image in the next pass of Vent core 0. -/
def execFwGo (s : State) : Host.Outcome State Fault Refusal := .next (startBoot s)

/-- The health of a physical core after the boot scan (14 R320). -/
def bootHealth (good disabled : List Nat) (p : Nat) (s : State) : State :=
  let st := if disabled.contains p then 2 else if good.contains p then 1 else 3
  setReg32 s (offCoreHealth p) (BitVec.ofNat 32 (0xFF00 + st))

/-- The boot scan and the logical core map (01 R19, R22, R24): the cores that pass fill the quads in rising order, and
the rest of them are spares (log 49). -/
def bootCores (good disabled : List Nat) (s : State) : State :=
  let ok := (List.range 136).filter (fun p => good.contains p && !disabled.contains p)
  let n := min 128 (ok.length / 4 * 4)
  let s := (List.range 136).foldl (fun s p => bootHealth good disabled p s) s
  let s := ((List.range n).zip ok).foldl (fun s e => mapCore e.1 e.2 s) s
  mapChanged { s with spares := ok.drop n, gone := (List.range 136).filter (fun p => !ok.contains p),
                      scanned := ok.map (fun p => (p, s.clock)) }

/-- The expanders that the Vent discovers (08 R184): a port each, 4 TiB in a window and 10 TiB in all. -/
def bootExpanders : List (Nat × Nat) → Nat → SMap Nat → SMap Nat
  | [], _, m => m
  | (p, size) :: rest, left, m =>
    let n := min (min size (2 ^ 42)) left
    if 4 ≤ p || (mapFind m p).isSome || n == 0 then bootExpanders rest left m
    else bootExpanders rest (left - n) (mapSet m p n)

/-- FIRMWARE_START (15 R332): in state 4. -/
def execFirmwareStart (good disabled : List Nat) (expanders : List (Nat × Nat)) (s : State) :
    Host.Outcome State Fault Refusal :=
  .next (if bootState s != 4 then s
    else setBoot 5 0 { bootCores good disabled s with
      expanders := bootExpanders expanders (10 * 2 ^ 40) [], running := true })

/-! ## Attestation (15 R333) -/

/-- ATT_CMD_REPORT (15 R333): the report is written in the next pass of the Vent. -/
def execAttCmdReport (s : State) : Host.Outcome State Fault Refusal := .next (startAttest 1 s)

/-- ATT_CMD_CERT (15 R333). -/
def execAttCmdCert (s : State) : Host.Outcome State Fault Refusal := .next (startAttest 2 s)

end Sys2Proof.Machine
end

