-- ==== Sys2Proof/Machine/Registers.lean ====
section
/-! DEFINITION. The device control block as the host and a management controller reach it (00 R7, R545, 06 R141, 08 R185,
R186, 12 R261, 14 R305, 15 R322, R323, R325, R334). -/

namespace Sys2Proof.Machine

/-! ## Fields by access code (00 R7) -/

/-- A word of a 64-bit register that holds a ring's base in host memory: [51:12] and [4:0]. -/
def ringMask (high : Bool) : Nat := if high then 0xFFFFF else 0xFFFFF01F

/-- RW bits of the word at an offset, for registers whose writes do nothing else. -/
def rwMask (off : Nat) : Nat :=
  if off == 0x0440 || off == 0x0A10 then ringMask false
  else if off == 0x0444 || off == 0x0A14 then ringMask true
  else if off == 0x0448 || off == 0x0A18 then 0xFFFF
  else if off == 0x0470 then 0xF800FFFF
  else if off == 0x0B00 || off == 0x0B08 then 0xFFFF0000
  else if off == 0x0B04 || off == 0x0B0C then 0xFFFFF
  else if off == 0x0B28 then 0xFFFFFF
  else if 0x0D00 ≤ off && off < 0x0D00 + 64 * 7 then 0x3FFF
  else if off == 0x2004 then 0x3F
  else if off == 0x2200 then 0xFF00FFFF
  else if off == 0x2300 then 0x7FF
  else if off == 0x2408 || off == 0x240C || off == 0x2410 then 0xFFFFFFFF
  else if 0x2440 ≤ off && off < 0x2468 then 0xFFFFFFFF
  else 0

/-- W1C bits of the word at an offset. -/
def w1cMask (off : Nat) : Nat :=
  if off == 0x0404 || off == 0x0A08 then 0x80000000 else 0

/-- Words that are WO: they read as zero, whatever a write of half a register has left there. -/
def writeOnly (off : Nat) : Bool :=
  (0x0A00 ≤ off && off < 0x0A08) || (0x0A20 ≤ off && off < 0x0A28) || (0x0A30 ≤ off && off < 0x0A40) ||
    (0x0458 ≤ off && off < 0x0460) || off == 0x0408 || off == 0x0B18 || off == 0x0B20 || off == 0x2414 || off == 0x2468

/-- A 32-bit read of the device control block (00 R7, R545, 12 R260). -/
def dcbRead (s : State) (off : Nat) : BitVec 32 :=
  if off % 4 != 0 || writeOnly off then 0
  else if 0x10000 ≤ off && off < 0x12000 then
    (if off % 8 == 4 then BitVec.ofNat 32 (qProg (queueDesc s ((off - 0x10000) / 8))) else 0)
  else reg32 s off

/-- A read of the host through BAR0 (00 R545): of 32 bits, or of a whole 64-bit register at once. -/
def hostRead (s : State) (off : Nat) (wide : Bool) : BitVec 64 :=
  if !wide then (dcbRead s off).setWidth 64
  else if off % 8 != 0 then 0
  else dcbRead s (off + 4) ++ dcbRead s off

/-- A word after a write under its access codes. -/
def wordAfter (off : Nat) (old v : BitVec 32) : BitVec 32 :=
  let rw := BitVec.ofNat 32 (rwMask off)
  let w1c := BitVec.ofNat 32 (w1cMask off)
  ((old &&& ~~~rw) ||| (v &&& rw)) &&& ~~~(v &&& w1c)

/-- A write of a word with no behaviour of its own. -/
def plainWrite (off : Nat) (v : BitVec 32) (s : State) : State := setReg32 s off (wordAfter off (reg32 s off) v)

/-- A write of `IRQ_STAT` (15 R323). -/
def writeIrqStat (v : BitVec 32) (s : State) : State :=
  ((List.range 6).filter (fun n => v.getLsbD n)).foldl (fun s n => clearIrq n s) s

/-- A write of a word of `CPL_PEND` (15 R323): a bit that the Vent sets in the same cycle stays. -/
def writeCplPend (j : Nat) (v : BitVec 32) (s : State) : State :=
  let old := (List.range 32).filter (fun i => v.getLsbD i && mapGet 0 s.cplSet (32 * j + i) != s.clock + 1)
  old.foldl (fun s i => setRegField s (offCplPend j) i i 0) s

/-! ## Registers with a behaviour -/

/-- `CLR_LOG` (06 R141). -/
def clearLog (s : State) : State :=
  let log := reg64 s offContainLog
  setReg64 s offContainLog (BitVec.ofNat 64 (field log 63 63 * 2 ^ 63 + 0xF * 2 ^ 47))

/-- CONTAIN_CLR_LOG (06 R141). -/
def execContainClrLog (s : State) : Host.Outcome State Fault Refusal := .next (clearLog s)

/-- `CLR_WCNT` (06 R141). -/
def clearCountsOfWelts (s : State) : State := (List.range 10).foldl (fun s w => setReg32 s (offWcnt w) 0) s

/-- CONTAIN_CLR_WCNT (06 R141). -/
def execContainClrWcnt (s : State) : Host.Outcome State Fault Refusal := .next (clearCountsOfWelts s)

/-- A `CONTAIN_CLR` write. -/
def writeContainClr (v : BitVec 32) (s : State) : State :=
  let s := if field v 0 0 == 1 then clearLog s else s
  if field v 1 1 == 1 then clearCountsOfWelts s else s

/-- `CLR_DROP` (14 R305). -/
def clearDropped (s : State) : State := setReg64Field s offCevPtr 47 32 0

/-- CEV_CLR_DROP (14 R305). -/
def execCevClrDrop (s : State) : Host.Outcome State Fault Refusal := .next (clearDropped s)

/-- A `POD_CFG` write (15 R325): ignored once VALID reads 1. -/
def writePodCfg (v : BitVec 32) (s : State) : State :=
  if field (reg32 s offPodCfg) 31 31 == 1 then s else setReg32 s offPodCfg (v &&& 0x800001FF)

/-- POD_CFG_WRITE (15 R325). -/
def execPodCfgWrite (v : BitVec 32) (s : State) : Host.Outcome State Fault Refusal := .next (writePodCfg v s)

/-- Two ranges do not meet. -/
def apart (a n b m : Nat) : Bool := a + n ≤ b || b + m ≤ a

/-- Region `n` may become valid as its registers stand (08 R186). -/
def regionLegal (s : State) (n : Nat) : Bool :=
  let base := 0x38000000000 + field (reg64 s (offMxr n 0)) 38 21 * 2 ^ 21
  let size := field (reg64 s (offMxr n 1)) 18 0 * 2 ^ 21
  let e := mxElem s n
  let c := mxScale s n
  let others := (List.range 16).filter (fun k => (mxAlias s k).isSome)
  let clear (a m : Nat) : Bool := others.all (fun k => match mxAlias s k with
    | some (_, z) => apart a m (mxElem s k) (z / 4) && apart a m (mxScale s k) (z / 16)
    | none => true)
  size != 0 && base + size ≤ 0x40000000000 &&
    others.all (fun k => match mxAlias s k with
      | some (b, z) => apart base size b z
      | none => true) &&
    e + size / 4 ≤ 0x8000000000 && c + size / 16 ≤ 0x8000000000 && apart e (size / 4) c (size / 16) &&
    clear e (size / 4) && clear c (size / 16)

/-- The lines of the backing of a region that is now valid leave every L1, which does not cache them (08 R186). -/
def dropBacking (s : State) : State :=
  { s with cores := s.cores.map (fun e => (e.1, { e.2 with l1 := e.2.l1.filter (fun x => !mxBacking s (x.1 * 128)) })) }

/-- A write of `MXR_ALIAS` (08 R185, R186): while VALID is 1 it can only clear VALID. -/
def writeMxAlias (n : Nat) (v : BitVec 64) (s : State) : State :=
  if 16 ≤ n then s
  else if (mxAlias s n).isSome then
    (if field v 63 63 == 0 then setReg64Field s (offMxr n 0) 63 63 0 else s)
  else
    let s := setReg64 s (offMxr n 0) (v &&& 0x7FFFE00000)
    if field v 63 63 == 1 && regionLegal s n then dropBacking (setReg64Field s (offMxr n 0) 63 63 1) else s

/-- A write of another register of a region (08 R186): ignored while VALID is 1. -/
def writeMxField (n k : Nat) (v : BitVec 64) (s : State) : State :=
  if (mxAlias s n).isSome then s
  else setReg64 s (offMxr n k) (v &&& (if k == 1 then 0x7FFFF else 0x7FFFFFF000))

/-- A 64-bit write of an MX region register. -/
def writeMx (off : Nat) (v : BitVec 64) (s : State) : State :=
  let n := (off - 0x0800) / 32
  let k := (off - 0x0800) % 32 / 8
  if k == 0 then writeMxAlias n v s else writeMxField n k v s

/-- MXR_VALID_SET (08 R186). -/
def execMxrValidSet (n : Nat) (v : BitVec 64) (s : State) : Host.Outcome State Fault Refusal :=
  .next (if field v 63 63 == 1 then writeMxAlias n v s else s)

/-- MXR_VALID_CLEAR (08 R186): the accesses in flight have been made (log 6). -/
def execMxrValidClear (n : Nat) (s : State) : Host.Outcome State Fault Refusal := .next (writeMxAlias n 0 s)

/-- A `CTX_CMD` write (13 R301). -/
def writeCtxCmd (v : BitVec 32) (s : State) : State :=
  let ctx := field v 15 0
  match field v 31 30 with
  | 1 => suspendCommand ctx s
  | 2 => resumeCommand ctx s
  | 3 => killCommand ctx s
  | _ => s

/-- An `ATT_CMD` write (15 R333). -/
def writeAttCmd (v : BitVec 32) (s : State) : State :=
  if v == 1 then startAttest 1 s else if v == 2 then startAttest 2 s else s

/-! ## Writes (00 R7, R545) -/

/-- A 32-bit write of a register: its action, or its fields. The lower half of a register that acts is only recorded, also
while BUSY has its action ignored (log 97). -/
def write32 (off : Nat) (v : BitVec 32) (s : State) : State :=
  let whole (at_ : Nat) : BitVec 64 := v ++ reg32 s at_
  if off == 0x0A00 || off == 0x0A20 || off == 0x0458 || off == 0x0A30 || off == 0x0A34 || off == 0x0A38 then setReg32 s off v
  else if off == 0x0A04 then queueTlbi (whole 0x0A00) s
  else if off == 0x0A24 then answerPage (whole 0x0A20) s
  else if off == 0x045C then startScrub (whole 0x0458) s
  else if off == 0x0A3C then commandMigration (v ++ (reg32 s 0x0A38 ++ reg64 s 0x0A30)) s
  else if off == 0x0408 then writeContainClr v s
  else if off == 0x044C then (if field v 16 16 == 1 then clearDropped s else s)
  else if off == 0x0B18 then hostToken v s
  else if off == 0x0B20 then writeCtxCmd v s
  else if off == offIrqStat then writeIrqStat v s
  else if 0x2040 ≤ off && off < 0x20C0 then writeCplPend ((off - 0x2040) / 4) v s
  else if off == 0x2300 then showPin (plainWrite off v s)
  else if off == 0x2414 then startBoot s
  else if off == 0x2468 then writeAttCmd v s
  else if off == 0x2480 then writePodCfg v s
  else if 0x0800 ≤ off && off < 0x0A00 then
    (if off % 8 == 4 then writeMx (off - 4) (whole (off - 4)) s else writeMx off (reg32 s (off + 4) ++ v) s)
  else if off == offQdescBase || off == offQdescBase + 4 then plainWrite off v (latchQueues s)
  else if 0x10000 ≤ off && off < 0x12000 then (if off % 8 == 0 then hostTail ((off - 0x10000) / 8) v s else s)
  else plainWrite off v s

/-- A 64-bit write: an MX region's register at once; any other lower half first, also of two 32-bit registers (log 97). -/
def write64 (off : Nat) (v : BitVec 64) (s : State) : State :=
  if 0x0800 ≤ off && off < 0x0A00 then writeMx off v s
  else write32 (off + 4) (v.extractLsb' 32 32) (write32 off (v.extractLsb' 0 32) s)

/-- REGISTER_WRITE (00 R7, R545): a write of the host through BAR0; one that is not aligned does nothing (log 97). -/
def execRegisterWrite (offset : Nat) (wide : Bool) (v : BitVec 64) (s : State) : Host.Outcome State Fault Refusal :=
  .next (if wide then (if offset % 8 == 0 then write64 offset v s else s)
    else if offset % 4 == 0 then write32 offset (v.extractLsb' 0 32) s else s)

/-! ## Other ways in -/

/-- Registers that a management message may read (15 R334). -/
def mgmtReads (off : Nat) : Bool := off < 0x0500 || (0x2000 ≤ off && off < 0x2500)

/-- Registers that a management message may write (15 R334): `BOIL_CFG`, `CONN_SEL` and attestation. -/
def mgmtWrites (off : Nat) : Bool := off == 0x2200 || off == 0x2300 || (0x2440 ≤ off && off < 0x2470)

/-- MGMT_MESSAGE (15 R334): one 32-bit access. -/
def execMgmtMessage (write : Bool) (offset : Nat) (v : BitVec 32) (s : State) : Host.Outcome State Fault Refusal :=
  .next (if write then (if mgmtWrites offset && offset % 4 == 0 then write32 offset v s else s)
    else { s with answer := if mgmtReads offset then (dcbRead s offset).setWidth 64 else 0 })

/-- BAR2_ACCESS (15 R322): a write, or a read of a number of bytes, within HBM4. -/
def execBar2Access (offset len : Nat) (write : Option (List (BitVec 8))) (s : State) : Host.Outcome State Fault Refusal :=
  .next (match write with
    | some bs => if offset + bs.length ≤ 0x8000000000 then clearCounts offset bs.length (poke (forgetOld offset bs.length s) offset bs) else s
    | none => { s with bar2 := if offset + len ≤ 0x8000000000 then memReadBytes s.mem offset len else [] })

end Sys2Proof.Machine
end

