-- ==== Sys2Proof/Machine/Residue.lean ====
section
/-! DEFINITION. The residue instructions (20 R481, R496, R500). -/

namespace Sys2Proof.Machine

/-- `rsplit` (20 R481), base word. -/
def execRsplit (w : Base) (s : State) : Host.Outcome State Fault Refusal :=
  issueBase 0x39 w (arith (fun x a _ _ => rsplitVal x.t x.mn a)) s

/-- `rsplit` (20 R481). -/
def execRsplitExt (f : Form) (s : State) : Host.Outcome State Fault Refusal :=
  issueForm 0x39 f (arith (fun x a _ _ => rsplitVal x.t x.mn a)) s

/-- `rmerge` (20 R500). -/
def execRmerge (f : Form) (s : State) : Host.Outcome State Fault Refusal :=
  issueForm 0x3A f (arith (fun _ a _ _ => rmergeVal a)) s

/-- `radd` (20 R481), base word. -/
def execRadd (w : Base) (s : State) : Host.Outcome State Fault Refusal :=
  issueBase 0x3B w (arith (fun x a b _ => raddVal x.mn a b)) s

/-- `radd` (20 R481). -/
def execRaddExt (f : Form) (s : State) : Host.Outcome State Fault Refusal :=
  issueForm 0x3B f (arith (fun x a b _ => raddVal x.mn a b)) s

/-- `rsub` (20 R481), base word. -/
def execRsub (w : Base) (s : State) : Host.Outcome State Fault Refusal :=
  issueBase 0x3C w (arith (fun x a b _ => rsubVal x.mn a b)) s

/-- `rsub` (20 R481). -/
def execRsubExt (f : Form) (s : State) : Host.Outcome State Fault Refusal :=
  issueForm 0x3C f (arith (fun x a b _ => rsubVal x.mn a b)) s

/-- `rmul` (20 R481), base word. -/
def execRmul (w : Base) (s : State) : Host.Outcome State Fault Refusal :=
  issueBase 0x3D w (arith (fun x a b _ => rmulVal x.mn a b)) s

/-- `rmul` (20 R481). -/
def execRmulExt (f : Form) (s : State) : Host.Outcome State Fault Refusal :=
  issueForm 0x3D f (arith (fun x a b _ => rmulVal x.mn a b)) s

/-- `rchk` (20 R496), base word. -/
def execRchk (w : Base) (s : State) : Host.Outcome State Fault Refusal :=
  issueBase 0x3E w (arith (fun _ a b _ => rchkVal a b)) s

/-- `rchk` (20 R496). -/
def execRchkExt (f : Form) (s : State) : Host.Outcome State Fault Refusal :=
  issueForm 0x3E f (arith (fun _ a b _ => rchkVal a b)) s

end Sys2Proof.Machine
end

