-- ==== Sys2Proof/Machine/Sync.lean ====
section
/-! DEFINITION. The barrier instructions (09 R206 to R213; 18, 20). -/

namespace Sys2Proof.Machine

/-- `pbinit` (20 R487). -/
def execPbinit (f : Form) (s : State) : Host.Outcome State Fault Refusal :=
  issueForm 0x71 f pbinitOp s

/-- `pbexp` (20 R486). -/
def execPbexp (f : Form) (s : State) : Host.Outcome State Fault Refusal :=
  issueForm 0x72 f pbexpOp s

/-- `pbarv` (20 R485). -/
def execPbarv (f : Form) (s : State) : Host.Outcome State Fault Refusal :=
  issueForm 0x73 f pbarvOp s

/-- `pbwait` (20 R488). -/
def execPbwait (f : Form) (s : State) : Host.Outcome State Fault Refusal :=
  issueForm 0x74 f pbwaitOp s

/-- `bdef` (18 R387). -/
def execBdef (f : Form) (s : State) : Host.Outcome State Fault Refusal :=
  issueForm 0x75 f bdefOp s

/-- `barv` (18 R386). -/
def execBarv (f : Form) (s : State) : Host.Outcome State Fault Refusal :=
  issueForm 0x76 f barvOp s

/-- `bwait` (18 R395). -/
def execBwait (f : Form) (s : State) : Host.Outcome State Fault Refusal :=
  issueForm 0x77 f bwaitOp s

/-- `bsync` (18 R394). -/
def execBsync (f : Form) (s : State) : Host.Outcome State Fault Refusal :=
  issueForm 0x78 f bsyncOp s

end Sys2Proof.Machine
end

