-- ==== Sys2Proof/Machine/Dispatch.lean ====
section
/-! DEFINITION. What each instruction and step does: one arm for each constructor of the syntax. -/

namespace Sys2Proof.Machine

/-- The meaning of an instruction or step. -/
def exec (i : Instr) (s : State) : Host.Outcome State Fault Refusal :=
  match i with
  | .iadd w => Sys2Proof.Machine.execIadd w s
  | .iaddExt f => Sys2Proof.Machine.execIaddExt f s
  | .isub w => Sys2Proof.Machine.execIsub w s
  | .isubExt f => Sys2Proof.Machine.execIsubExt f s
  | .iaddc f => Sys2Proof.Machine.execIaddc f s
  | .isubb f => Sys2Proof.Machine.execIsubb f s
  | .imul w => Sys2Proof.Machine.execImul w s
  | .imulExt f => Sys2Proof.Machine.execImulExt f s
  | .imad w => Sys2Proof.Machine.execImad w s
  | .imadExt f => Sys2Proof.Machine.execImadExt f s
  | .imadw w => Sys2Proof.Machine.execImadw w s
  | .imadwExt f => Sys2Proof.Machine.execImadwExt f s
  | .idiv w => Sys2Proof.Machine.execIdiv w s
  | .idivExt f => Sys2Proof.Machine.execIdivExt f s
  | .irem w => Sys2Proof.Machine.execIrem w s
  | .iremExt f => Sys2Proof.Machine.execIremExt f s
  | .imin w => Sys2Proof.Machine.execImin w s
  | .iminExt f => Sys2Proof.Machine.execIminExt f s
  | .imax w => Sys2Proof.Machine.execImax w s
  | .imaxExt f => Sys2Proof.Machine.execImaxExt f s
  | .iabs w => Sys2Proof.Machine.execIabs w s
  | .iabsExt f => Sys2Proof.Machine.execIabsExt f s
  | .ineg w => Sys2Proof.Machine.execIneg w s
  | .inegExt f => Sys2Proof.Machine.execInegExt f s
  | .icmp w => Sys2Proof.Machine.execIcmp w s
  | .icmpExt f => Sys2Proof.Machine.execIcmpExt f s
  | .isel f => Sys2Proof.Machine.execIsel f s
  | .idot4 w => Sys2Proof.Machine.execIdot4 w s
  | .idot4Ext f => Sys2Proof.Machine.execIdot4Ext f s
  | .isad f => Sys2Proof.Machine.execIsad f s
  | .andB w => Sys2Proof.Machine.execAndB w s
  | .andBExt f => Sys2Proof.Machine.execAndBExt f s
  | .orB w => Sys2Proof.Machine.execOrB w s
  | .orBExt f => Sys2Proof.Machine.execOrBExt f s
  | .xorB w => Sys2Proof.Machine.execXorB w s
  | .xorBExt f => Sys2Proof.Machine.execXorBExt f s
  | .notB w => Sys2Proof.Machine.execNotB w s
  | .notBExt f => Sys2Proof.Machine.execNotBExt f s
  | .lop3 f => Sys2Proof.Machine.execLop3 f s
  | .shl w => Sys2Proof.Machine.execShl w s
  | .shlExt f => Sys2Proof.Machine.execShlExt f s
  | .shr w => Sys2Proof.Machine.execShr w s
  | .shrExt f => Sys2Proof.Machine.execShrExt f s
  | .sar w => Sys2Proof.Machine.execSar w s
  | .sarExt f => Sys2Proof.Machine.execSarExt f s
  | .rotl w => Sys2Proof.Machine.execRotl w s
  | .rotlExt f => Sys2Proof.Machine.execRotlExt f s
  | .funl w => Sys2Proof.Machine.execFunl w s
  | .funlExt f => Sys2Proof.Machine.execFunlExt f s
  | .bfx w => Sys2Proof.Machine.execBfx w s
  | .bfxExt f => Sys2Proof.Machine.execBfxExt f s
  | .bfi w => Sys2Proof.Machine.execBfi w s
  | .bfiExt f => Sys2Proof.Machine.execBfiExt f s
  | .popc w => Sys2Proof.Machine.execPopc w s
  | .popcExt f => Sys2Proof.Machine.execPopcExt f s
  | .clz w => Sys2Proof.Machine.execClz w s
  | .clzExt f => Sys2Proof.Machine.execClzExt f s
  | .ctz w => Sys2Proof.Machine.execCtz w s
  | .ctzExt f => Sys2Proof.Machine.execCtzExt f s
  | .brev w => Sys2Proof.Machine.execBrev w s
  | .brevExt f => Sys2Proof.Machine.execBrevExt f s
  | .perm w => Sys2Proof.Machine.execPerm w s
  | .permExt f => Sys2Proof.Machine.execPermExt f s
  | .fadd w => Sys2Proof.Machine.execFadd w s
  | .faddExt f => Sys2Proof.Machine.execFaddExt f s
  | .fsub w => Sys2Proof.Machine.execFsub w s
  | .fsubExt f => Sys2Proof.Machine.execFsubExt f s
  | .fmul w => Sys2Proof.Machine.execFmul w s
  | .fmulExt f => Sys2Proof.Machine.execFmulExt f s
  | .ffma w => Sys2Proof.Machine.execFfma w s
  | .ffmaExt f => Sys2Proof.Machine.execFfmaExt f s
  | .fmin w => Sys2Proof.Machine.execFmin w s
  | .fminExt f => Sys2Proof.Machine.execFminExt f s
  | .fmax w => Sys2Proof.Machine.execFmax w s
  | .fmaxExt f => Sys2Proof.Machine.execFmaxExt f s
  | .fcmp w => Sys2Proof.Machine.execFcmp w s
  | .fcmpExt f => Sys2Proof.Machine.execFcmpExt f s
  | .frcp w => Sys2Proof.Machine.execFrcp w s
  | .frcpExt f => Sys2Proof.Machine.execFrcpExt f s
  | .frsq w => Sys2Proof.Machine.execFrsq w s
  | .frsqExt f => Sys2Proof.Machine.execFrsqExt f s
  | .fsqrt w => Sys2Proof.Machine.execFsqrt w s
  | .fsqrtExt f => Sys2Proof.Machine.execFsqrtExt f s
  | .fdiv w => Sys2Proof.Machine.execFdiv w s
  | .fdivExt f => Sys2Proof.Machine.execFdivExt f s
  | .fex2 w => Sys2Proof.Machine.execFex2 w s
  | .fex2Ext f => Sys2Proof.Machine.execFex2Ext f s
  | .flg2 w => Sys2Proof.Machine.execFlg2 w s
  | .flg2Ext f => Sys2Proof.Machine.execFlg2Ext f s
  | .fsin w => Sys2Proof.Machine.execFsin w s
  | .fsinExt f => Sys2Proof.Machine.execFsinExt f s
  | .fcos w => Sys2Proof.Machine.execFcos w s
  | .fcosExt f => Sys2Proof.Machine.execFcosExt f s
  | .ftanh w => Sys2Proof.Machine.execFtanh w s
  | .ftanhExt f => Sys2Proof.Machine.execFtanhExt f s
  | .fclass w => Sys2Proof.Machine.execFclass w s
  | .fclassExt f => Sys2Proof.Machine.execFclassExt f s
  | .frnd w => Sys2Proof.Machine.execFrnd w s
  | .frndExt f => Sys2Proof.Machine.execFrndExt f s
  | .cvt f => Sys2Proof.Machine.execCvt f s
  | .cvtsr f => Sys2Proof.Machine.execCvtsr f s
  | .packf4 f => Sys2Proof.Machine.execPackf4 f s
  | .unpkf4 f => Sys2Proof.Machine.execUnpkf4 f s
  | .qblk f => Sys2Proof.Machine.execQblk f s
  | .rsplit w => Sys2Proof.Machine.execRsplit w s
  | .rsplitExt f => Sys2Proof.Machine.execRsplitExt f s
  | .rmerge f => Sys2Proof.Machine.execRmerge f s
  | .radd w => Sys2Proof.Machine.execRadd w s
  | .raddExt f => Sys2Proof.Machine.execRaddExt f s
  | .rsub w => Sys2Proof.Machine.execRsub w s
  | .rsubExt f => Sys2Proof.Machine.execRsubExt f s
  | .rmul w => Sys2Proof.Machine.execRmul w s
  | .rmulExt f => Sys2Proof.Machine.execRmulExt f s
  | .rchk w => Sys2Proof.Machine.execRchk w s
  | .rchkExt f => Sys2Proof.Machine.execRchkExt f s
  | .mov w => Sys2Proof.Machine.execMov w s
  | .movExt f => Sys2Proof.Machine.execMovExt f s
  | .movi f => Sys2Proof.Machine.execMovi f s
  | .gets f => Sys2Proof.Machine.execGets f s
  | .sets f => Sys2Proof.Machine.execSets f s
  | .vote f => Sys2Proof.Machine.execVote f s
  | .shfl f => Sys2Proof.Machine.execShfl f s
  | .matchOp f => Sys2Proof.Machine.execMatchOp f s
  | .redx f => Sys2Proof.Machine.execRedx f s
  | .widthOp f => Sys2Proof.Machine.execWidthOp f s
  | .regang f => Sys2Proof.Machine.execRegang f s
  | .spawn f => Sys2Proof.Machine.execSpawn f s
  | .jinit f => Sys2Proof.Machine.execJinit f s
  | .jwait f => Sys2Proof.Machine.execJwait f s
  | .exitOp f => Sys2Proof.Machine.execExitOp f s
  | .lnch f => Sys2Proof.Machine.execLnch f s
  | .qtokNew f => Sys2Proof.Machine.execQtokNew f s
  | .qtokTest f => Sys2Proof.Machine.execQtokTest f s
  | .qtokFree f => Sys2Proof.Machine.execQtokFree f s
  | .bra f => Sys2Proof.Machine.execBra f s
  | .brx f => Sys2Proof.Machine.execBrx f s
  | .callOp f => Sys2Proof.Machine.execCallOp f s
  | .callx f => Sys2Proof.Machine.execCallx f s
  | .retOp f => Sys2Proof.Machine.execRetOp f s
  | .loopOp f => Sys2Proof.Machine.execLoopOp f s
  | .yieldOp f => Sys2Proof.Machine.execYieldOp f s
  | .nop f => Sys2Proof.Machine.execNop f s
  | .bkpt f => Sys2Proof.Machine.execBkpt f s
  | .trapOp f => Sys2Proof.Machine.execTrapOp f s
  | .tret f => Sys2Proof.Machine.execTret f s
  | .waitf f => Sys2Proof.Machine.execWaitf f s
  | .phint f => Sys2Proof.Machine.execPhint f s
  | .vcommit f => Sys2Proof.Machine.execVcommit f s
  | .ld f => Sys2Proof.Machine.execLd f s
  | .st f => Sys2Proof.Machine.execSt f s
  | .lds f => Sys2Proof.Machine.execLds f s
  | .sts f => Sys2Proof.Machine.execSts f s
  | .win f => Sys2Proof.Machine.execWin f s
  | .atom f => Sys2Proof.Machine.execAtom f s
  | .atomw f => Sys2Proof.Machine.execAtomw f s
  | .ratom f => Sys2Proof.Machine.execRatom f s
  | .fence f => Sys2Proof.Machine.execFence f s
  | .pref f => Sys2Proof.Machine.execPref f s
  | .discard f => Sys2Proof.Machine.execDiscard f s
  | .nzero f => Sys2Proof.Machine.execNzero f s
  | .ncopy f => Sys2Proof.Machine.execNcopy f s
  | .ncmp f => Sys2Proof.Machine.execNcmp f s
  | .nfence f => Sys2Proof.Machine.execNfence f s
  | .cpy f => Sys2Proof.Machine.execCpy f s
  | .cpyl f => Sys2Proof.Machine.execCpyl f s
  | .tdef f => Sys2Proof.Machine.execTdef f s
  | .tstat f => Sys2Proof.Machine.execTstat f s
  | .trel f => Sys2Proof.Machine.execTrel f s
  | .pbinit f => Sys2Proof.Machine.execPbinit f s
  | .pbexp f => Sys2Proof.Machine.execPbexp f s
  | .pbarv f => Sys2Proof.Machine.execPbarv f s
  | .pbwait f => Sys2Proof.Machine.execPbwait f s
  | .bdef f => Sys2Proof.Machine.execBdef f s
  | .barv f => Sys2Proof.Machine.execBarv f s
  | .bwait f => Sys2Proof.Machine.execBwait f s
  | .bsync f => Sys2Proof.Machine.execBsync f s
  | .mshape f => Sys2Proof.Machine.execMshape f s
  | .mzero f => Sys2Proof.Machine.execMzero f s
  | .mma f => Sys2Proof.Machine.execMma f s
  | .mldcRp8 f => Sys2Proof.Machine.execMldcRp8 f s
  | .mldcImg f => Sys2Proof.Machine.execMldcImg f s
  | .mdrain f => Sys2Proof.Machine.execMdrain f s
  | .msave f => Sys2Proof.Machine.execMsave f s
  | .mstat f => Sys2Proof.Machine.execMstat f s
  | .issueCycle core mismatch => Sys2Proof.Machine.execIssueCycle core mismatch s
  | .liftRecallDecision core => Sys2Proof.Machine.execLiftRecallDecision core s
  | .gangLiftComplete core slot => Sys2Proof.Machine.execGangLiftComplete core slot s
  | .gangRecallComplete core slot => Sys2Proof.Machine.execGangRecallComplete core slot s
  | .gangRetire core slot => Sys2Proof.Machine.execGangRetire core slot s
  | .geyserForm core => Sys2Proof.Machine.execGeyserForm core s
  | .refillBatchBegin core => Sys2Proof.Machine.execRefillBatchBegin core s
  | .spillRecordLand core => Sys2Proof.Machine.execSpillRecordLand core s
  | .barrierCompletionArrive core slot bar => Sys2Proof.Machine.execBarrierCompletionArrive core slot bar s
  | .barrierStallTimeout core gslot bar => Sys2Proof.Machine.execBarrierStallTimeout core gslot bar s
  | .regangComplete core gslot => Sys2Proof.Machine.execRegangComplete core gslot s
  | .regangTimeout core gslot => Sys2Proof.Machine.execRegangTimeout core gslot s
  | .watchdogExpiry core slot split => Sys2Proof.Machine.execWatchdogExpiry core slot split s
  | .longLatencyComplete core slot => Sys2Proof.Machine.execLongLatencyComplete core slot s
  | .engineFaultDelivery core slot => Sys2Proof.Machine.execEngineFaultDelivery core slot s
  | .copyAccept core => Sys2Proof.Machine.execCopyAccept core s
  | .copyChunkPerformed core => Sys2Proof.Machine.execCopyChunkPerformed core s
  | .matrixCmdAccept core => Sys2Proof.Machine.execMatrixCmdAccept core s
  | .scopeCommandStart core => Sys2Proof.Machine.execScopeCommandStart core s
  | .mmaRetire core => Sys2Proof.Machine.execMmaRetire core s
  | .mzeroDone core => Sys2Proof.Machine.execMzeroDone core s
  | .drainComplete core => Sys2Proof.Machine.execDrainComplete core s
  | .msaveComplete core => Sys2Proof.Machine.execMsaveComplete core s
  | .mldcComplete core => Sys2Proof.Machine.execMldcComplete core s
  | .inLayerComplete core => Sys2Proof.Machine.execInLayerComplete core s
  | .preemptDeadline ctx => Sys2Proof.Machine.execPreemptDeadline ctx s
  | .gangSave core slot => Sys2Proof.Machine.execGangSave core slot s
  | .contextSaved ctx => Sys2Proof.Machine.execContextSaved ctx s
  | .saveFailure ctx => Sys2Proof.Machine.execSaveFailure ctx s
  | .contextResume ctx => Sys2Proof.Machine.execContextResume ctx s
  | .contextKill ctx => Sys2Proof.Machine.execContextKill ctx s
  | .killComplete ctx dropped => Sys2Proof.Machine.execKillComplete ctx dropped s
  | .queueSwitchOut queue => Sys2Proof.Machine.execQueueSwitchOut queue s
  | .podJoinTimeout plid => Sys2Proof.Machine.execPodJoinTimeout plid s
  | .ventTakeover vcore => Sys2Proof.Machine.execVentTakeover vcore s
  | .shadowCompare core gslot => Sys2Proof.Machine.execShadowCompare core gslot s
  | .taskDiscardRetry core gslot reason => Sys2Proof.Machine.execTaskDiscardRetry core gslot reason s
  | .scoreboardRebuild core slot => Sys2Proof.Machine.execScoreboardRebuild core slot s
  | .scanTestStart pcore => Sys2Proof.Machine.execScanTestStart pcore s
  | .peerLost device => Sys2Proof.Machine.execPeerLost device s
  | .boilGovernorPeriod dies => Sys2Proof.Machine.execBoilGovernorPeriod dies s
  | .weltRepower welt => Sys2Proof.Machine.execWeltRepower welt s
  | .layerRepower layer => Sys2Proof.Machine.execLayerRepower layer s
  | .prsMapped v => Sys2Proof.Machine.execPrsMapped v s
  | .prsRefused v => Sys2Proof.Machine.execPrsRefused v s
  | .prsDiscard v => Sys2Proof.Machine.execPrsDiscard v s
  | .tlbiPage v => Sys2Proof.Machine.execTlbiPage v s
  | .tlbiContext v => Sys2Proof.Machine.execTlbiContext v s
  | .migCmd v => Sys2Proof.Machine.execMigCmd v s
  | .ctxCmdSuspend ctx => Sys2Proof.Machine.execCtxCmdSuspend ctx s
  | .ctxCmdResume ctx => Sys2Proof.Machine.execCtxCmdResume ctx s
  | .ctxCmdKill ctx => Sys2Proof.Machine.execCtxCmdKill ctx s
  | .qtailWrite queue v => Sys2Proof.Machine.execQtailWrite queue v s
  | .tokReqWrite v => Sys2Proof.Machine.execTokReqWrite v s
  | .podLaunchJoin plid device => Sys2Proof.Machine.execPodLaunchJoin plid device s
  | .podBatchClaim plid device stage count => Sys2Proof.Machine.execPodBatchClaim plid device stage count s
  | .podLeaderElection plid failed batches => Sys2Proof.Machine.execPodLeaderElection plid failed batches s
  | .podParticipantReport plid device => Sys2Proof.Machine.execPodParticipantReport plid device s
  | .quarScrub v => Sys2Proof.Machine.execQuarScrub v s
  | .awlAudit link held occupied returned total => Sys2Proof.Machine.execAwlAudit link held occupied returned total s
  | .sinterLayerLoss layer => Sys2Proof.Machine.execSinterLayerLoss layer s
  | .scanTestEnd pcore signature => Sys2Proof.Machine.execScanTestEnd pcore signature s
  | .peerRecoveryNotice device => Sys2Proof.Machine.execPeerRecoveryNotice device s
  | .podRemoteAccess port pa acc => Sys2Proof.Machine.execPodRemoteAccess port pa acc s
  | .powerLoss millivolts => Sys2Proof.Machine.execPowerLoss millivolts s
  | .firmwareStart good disabled expanders => Sys2Proof.Machine.execFirmwareStart good disabled expanders s
  | .railTelemetryUpdate rail volt curr temp ilim => Sys2Proof.Machine.execRailTelemetryUpdate rail volt curr temp ilim s
  | .currentLimit milliamps => Sys2Proof.Machine.execCurrentLimit milliamps s
  | .lastTrip temp => Sys2Proof.Machine.execLastTrip temp s
  | .weltTrip welt temp => Sys2Proof.Machine.execWeltTrip welt temp s
  | .connectorMeasure pins => Sys2Proof.Machine.execConnectorMeasure pins s
  | .mgmtMessage write offset v => Sys2Proof.Machine.execMgmtMessage write offset v s
  | .podCfgWrite v => Sys2Proof.Machine.execPodCfgWrite v s
  | .mxrValidSet n v => Sys2Proof.Machine.execMxrValidSet n v s
  | .mxrValidClear n => Sys2Proof.Machine.execMxrValidClear n s
  | .registerWrite offset wide v => Sys2Proof.Machine.execRegisterWrite offset wide v s
  | .bar2Access offset len write => Sys2Proof.Machine.execBar2Access offset len write s
  | .expanderFailure port => Sys2Proof.Machine.execExpanderFailure port s
  | .peerViralNotice device => Sys2Proof.Machine.execPeerViralNotice device s
  | .ualinkPortTrained port => Sys2Proof.Machine.execUalinkPortTrained port s
  | .weltFailure welt mode => Sys2Proof.Machine.execWeltFailure welt mode s
  | .tlbWalkComplete => Sys2Proof.Machine.execTlbWalkComplete s
  | .pageRequestRecordWrite => Sys2Proof.Machine.execPageRequestRecordWrite s
  | .tlbiComplete => Sys2Proof.Machine.execTlbiComplete s
  | .migrationComplete => Sys2Proof.Machine.execMigrationComplete s
  | .ventSchedulingPass => Sys2Proof.Machine.execVentSchedulingPass s
  | .launchCompletion => Sys2Proof.Machine.execLaunchCompletion s
  | .budgetPeriod => Sys2Proof.Machine.execBudgetPeriod s
  | .scrubComplete => Sys2Proof.Machine.execScrubComplete s
  | .weltDegradeSample => Sys2Proof.Machine.execWeltDegradeSample s
  | .powerOn => Sys2Proof.Machine.execPowerOn s
  | .conventionalReset => Sys2Proof.Machine.execConventionalReset s
  | .fwGo => Sys2Proof.Machine.execFwGo s
  | .attCmdReport => Sys2Proof.Machine.execAttCmdReport s
  | .attCmdCert => Sys2Proof.Machine.execAttCmdCert s
  | .containClrLog => Sys2Proof.Machine.execContainClrLog s
  | .containClrWcnt => Sys2Proof.Machine.execContainClrWcnt s
  | .cevClrDrop => Sys2Proof.Machine.execCevClrDrop s
  | .l2TagUncorrectableError => Sys2Proof.Machine.execL2TagUncorrectableError s

end Sys2Proof.Machine
end

