-- ==== Sys2Proof/Machine/Schedule.lean ====
section
/-! DEFINITION. Which of the machine's own agents moves next, when no split issues and nothing comes from outside
(log 1). -/

namespace Sys2Proof.Machine

/-- A device step, not an instruction. -/
def deviceStep (i : Instr) : Bool :=
  match encOf i with
  | .step => true
  | _ => false

/-- The period of the clock is active for a die at its duty: `n` of every 64 (00 R5, 15 R328), evenly (log 10). -/
def dieActive (s : State) (d : Nat) : Bool :=
  let n := dutyOf s d
  64 ≤ n || s.clock * n % 64 < n

/-- The die whose duty a step of a core follows: a layer's, or the Last's (15 R328). -/
def stepDie (s : State) (n : Nat) : Instr → Nat
  | .gangLiftComplete _ _ | .gangRecallComplete _ _ => 11 + physCore s n % 2
  | .inLayerComplete _ => 11 + ((getCore s n).near.head?.map (·.layer)).getD 0
  | _ => 0

/-- The work of one core in a cycle (00 R5): what forms gangs, the copy engine's credits (20 R519) and what issues come
first (04 R92, 16 R338, 14 R321), then what completes, then the rest. -/
def coreWork (s : State) (n : Nat) (c : Core) : List Instr :=
  let gangs := mapKeys c.gangs
  let groups := mapKeys c.groups
  let all : List Instr :=
    [.geyserForm n, .refillBatchBegin n, .copyChunkPerformed n, .issueCycle n [], .spillRecordLand n, .copyAccept n,
     .scopeCommandStart n, .matrixCmdAccept n, .mmaRetire n, .mzeroDone n, .drainComplete n, .msaveComplete n,
     .mldcComplete n, .inLayerComplete n] ++
    gangs.flatMap (fun k => Instr.longLatencyComplete n k :: (List.range 20).map (fun b => Instr.barrierCompletionArrive n k b)) ++
    groups.flatMap (fun k => [Instr.regangComplete n k, .shadowCompare n k]) ++
    gangs.flatMap (fun k => [Instr.engineFaultDelivery n k, .scoreboardRebuild n k, .gangLiftComplete n k,
      .gangRecallComplete n k, .gangSave n k, .gangRetire n k]) ++ [.liftRecallDecision n]
  all.filter (fun i => dieActive s (stepDie s n i))

/-- The timeouts of one core, which run on wall-clock time whatever the duty (00 R5): a wait that completes in the same
cycle comes first (13 R302). -/
def coreTimeouts (n : Nat) (c : Core) : List Instr :=
  (mapKeys c.groups).flatMap (fun k =>
    Instr.regangTimeout n k :: (List.range 20).map (fun b => Instr.barrierStallTimeout n k b)) ++
  (mapKeys c.gangs).flatMap (fun k => (List.range 8).map (fun i => Instr.watchdogExpiry n k i))

/-- The steps one core's agents take in a round. -/
def coreAgents (s : State) (n : Nat) (c : Core) : List Instr := coreWork s n c ++ coreTimeouts n c

/-- The parts that have cooled for 10 s (15 R330), and the governor's period when it is due (15 R328). -/
def boardAgents (s : State) : List Instr :=
  (s.tripped.filter (fun e => coolFor s (some e.2))).map (fun e => Instr.weltRepower e.1) ++
  (s.layersLost.filter (fun e => coolFor s (some e.2))).map (fun e => Instr.layerRepower e.1) ++
  (if s.powered && s.governed < s.clock / 8500 then [.boilGovernorPeriod s.sensors] else [])

/-- The steps of a round: the cores' by ascending physical core (06 R140, 14 R321). -/
def agents (s : State) : List Instr :=
  [.budgetPeriod, .ventSchedulingPass, .launchCompletion, .pageRequestRecordWrite, .tlbWalkComplete, .tlbiComplete,
   .migrationComplete, .scrubComplete, .weltDegradeSample] ++
  (mapKeys s.saved).map (fun x => Instr.contextResume x) ++
  (mapKeys s.preempts).flatMap (fun x => [.preemptDeadline x, .contextSaved x, .saveFailure x]) ++
  s.killing.map (fun x => Instr.killComplete x []) ++
  (s.peers.filter (fun e => peerOverdue s e.2)).map (fun e => Instr.peerLost e.1) ++
  (mapKeys s.pods).map (fun p => Instr.podJoinTimeout p) ++
  (if s.running then ((List.range 136).filter (scanDue s)).map (fun p => Instr.scanTestStart p) else []) ++
  boardAgents s ++
  (sortBy (fun e => physCore s e.1) s.cores).flatMap (fun e => coreAgents s e.1 e.2)

/-- A step from outside may come: any device step; while the module has no power (15 R327), power alone. -/
def comes (s : State) (i : Instr) : Bool := deviceStep i && (s.powered || i == .powerOn)

/-- The step of the agent whose turn it is. -/
def agentStep (s : State) : Instr := (agents s).getD s.phase .budgetPeriod

/-- The turn passes to the next agent; when every agent has had its turn the clock advances, and with it the count of the
cycles in which the machine works (00 R5). -/
def tick (s : State) : State :=
  if s.phase + 1 < (agents s).length then { s with phase := s.phase + 1 }
  else { s with phase := 0, clock := s.clock + 1, cycles := s.cycles + if dieActive s 0 then 1 else 0 }

end Sys2Proof.Machine
end

