-- ==== Sys2Proof/Machine/Step.lean ====
section
/-! DEFINITION. One step of the machine: the split at the head of the slot being issued fetches and executes its
instruction; when no split is chosen, the next step from outside comes, or the next of the machine's own agents moves
(log 1). -/

namespace Sys2Proof.Machine

/-- After a step, the cursors whose gang or split is gone leave the slot. -/
def settle : Host.Outcome State Fault Refusal → Host.Outcome State Fault Refusal
  | .next s => .next (prune s)
  | .fault f => .fault f
  | .refused r => .refused r

/-- The split at the head of the slot fetches and executes. -/
def runHead (c : Cursor) (g : Gang) (sp : Split) (s : State) : Host.Outcome State Fault Refusal :=
  match fetch c g.ctx sp s with
  | (.instr c' i, s) => exec i { s with issueQ := c' :: s.issueQ.tail }
  | (.illegal c', s) => .next (illegalWord c' sp s)
  | (.header w, s) => .next (illegalHeader c sp w s)
  | (.miss r va, s) => .next (fetchMiss c g sp r va s)

/-- One step. -/
def step (s : State) : Host.Outcome State Fault Refusal :=
  match s.issueQ with
  | _ :: _ => match issuer s with
    | some (c, g, sp) => settle (runHead c g sp s)
    | none => .next (prune { s with issueQ := s.issueQ.tail })
  | [] => match s.inbox with
    | i :: rest => if comes s i then settle (exec i { s with inbox := rest }) else .next { s with inbox := rest }
    | [] => settle (exec (agentStep s) (tick s))

/-- The state with the instruction of a word of the opcode table stored where `step` fetches next. -/
def State.withFetchWord (s : State) (nbits w : Nat) : State :=
  placeBytes ((tableWords nbits w).flatMap bytesOfWord) s

end Sys2Proof.Machine
end

