-- ==== Sys2Proof/Safety.lean ====
section
/-! DEFINITION. What counts as a safe run, and the terms in which the statements speak of an issue: that an instruction
issues, what it may change, and what its destination holds afterwards. -/

namespace Sys2Proof.Machine

/-! ## Runs -/

/-- The step gives a next state: the machine neither stops with a fault nor refuses. -/
def Completes (o : Host.Outcome State Fault Refusal) : Prop := ∃ s, o = .next s

/-- Every cursor of the slot being issued names a split of a gang that is present. -/
def State.issueLive (s : State) : Prop := ∀ c ∈ s.issueQ, liveCursor s c = true

/-- Physical memory and every scratchpad are in their canonical form. -/
def State.memoryWf (s : State) : Prop :=
  Memory.wf s.mem = true ∧ ∀ e ∈ s.cores, Memory.wf e.2.scratch = true

/-- A state from which the machine takes `n` steps without a fault or a refusal. -/
def SafeFor : Nat → State → Prop
  | 0, _ => True
  | n + 1, s => ∃ t, step s = .next t ∧ SafeFor n t

/-- A safe run goes on for ever. -/
def Safe (s : State) : Prop := ∀ n, SafeFor n s

/-! ## Issues -/

/-- An instruction is the next to issue, from a cursor, gang and split, with these fields; it is well formed, and its
vector registers lie within the gang's count, so that it is not illegal (16 R352, 02 R40). -/
structure Issuing (s : State) (i : Instr) (f : Fields) (c : Cursor) (g : Gang) (sp : Split) : Prop where
  head : issuer s = some (c, g, sp)
  fields : fieldsOf i = some f
  legal : i.WellFormed
  inRange : regsInRange g f = true

/-- The device apart from its cores and the slot being issued. -/
def State.apart (s : State) : State := { s with cores := [], issueQ := [] }

/-- A core apart from its gangs. -/
def Core.apart (c : Core) : Core := { c with gangs := [] }

/-- Two states agree but in one gang: the device and its memory, every other core, the same core's scratchpad, groups
and engines, and its other gangs are as they were; the slot being issued has lost its head. -/
structure SameButGang (core slot : Nat) (s t : State) : Prop where
  device : t.apart = s.apart
  queue : t.issueQ = s.issueQ.tail
  otherCores : ∀ n, n ≠ core → getCore t n = getCore s n
  sameCore : (getCore t core).apart = (getCore s core).apart
  otherGangs : ∀ k, k ≠ slot → getGang t core k = getGang s core k
  memory : ∀ a, physByte t a = physByte s a
  scratch : ∀ n a, memRead (getCore t n).scratch a = memRead (getCore s n).scratch a

/-- A gang apart from its vector, scalar and predicate registers, its splits and the clock of its last issue: its
windows, trap registers, flags in flight, joins, pending marks and everything else. (`endReplay` clears the mask of
unfinished lanes when the instruction was a replay outside a handler, 11 R248, and changes nothing of any other gang.) -/
def Gang.apart (g : Gang) : Gang := { g with v := [], s := [], p := [], q := 0, splits := [], lastIssue := none }

/-- The splits of a gang once its instruction has completed: the issuing split moves past it (16 R335). -/
def splitsAfter (c : Cursor) (g : Gang) : List Split :=
  (advanceSplit c (modSplit c.lane (fun sp => { sp with fresh := false, clause := c.clause }) g)).splits

/-- Vector registers after a write of `n` registers from register `d` in some lanes: those hold the value, register by
register, the first the least significant; every other register of every lane is as it was. -/
def vectorWrite (lanes : Mask) (d n : Nat) (val : Nat → Nat) (g g' : Gang) : Prop :=
  (∀ h j, laneIn lanes h → j < n → vreg g' (d + j) h = BitVec.ofNat 32 (val h / 2 ^ (32 * j))) ∧
  ∀ h m, h < 64 → (laneIn lanes h = false ∨ m < d ∨ d + n ≤ m) → vreg g' m h = vreg g m h

/-- Scalar registers after a write of `n` registers from register `d`. -/
def scalarWrite (d n val : Nat) (g g' : Gang) : Prop :=
  (∀ j, j < n → sreg g' (d + j) = BitVec.ofNat 32 (val / 2 ^ (32 * j))) ∧
  ∀ m, (m < d ∨ d + n ≤ m) → sreg g' m = sreg g m

/-- Lane predicates after a write of one in some lanes: nonzero is true; p7 reads true whatever is written (01 R27). -/
def predWrite (lanes : Mask) (k : Nat) (val : Nat → Nat) (g g' : Gang) : Prop :=
  (∀ h, laneIn lanes h → k ≠ 7 → (laneIn (preg g' k) h ↔ val h ≠ 0)) ∧
  (∀ h, h < 64 → (laneIn lanes h = false ∨ k = 7) → laneIn (preg g' k) h = laneIn (preg g k) h) ∧
  ∀ m, m ≠ k → preg g' m = preg g m

/-- Scalar predicates after a write of one: nonzero is true. -/
def flagWrite (k val : Nat) (g g' : Gang) : Prop :=
  (qreg g' k ↔ val ≠ 0) ∧ ∀ m, m < 4 → m ≠ k → qreg g' m = qreg g m

/-- The vector registers, the scalar registers, the lane predicates and the scalar predicates are as they were. -/
def sameV (g g' : Gang) : Prop := ∀ n h, h < 64 → vreg g' n h = vreg g n h
def sameS (g g' : Gang) : Prop := ∀ n, sreg g' n = sreg g n
def sameP (g g' : Gang) : Prop := ∀ n, preg g' n = preg g n
def sameQ (g g' : Gang) : Prop := g'.q = g.q

/-- All the registers of a gang are as they were. -/
def sameRegs (g g' : Gang) : Prop := sameV g g' ∧ sameS g g' ∧ sameP g g' ∧ sameQ g g'

/-- What destination d of an issue holds after it, and that no other register has changed (16 R344, R345, 17 R372): a
vector group in each acting lane; a scalar group once, when some lane acts; a lane predicate in each acting lane, p7
reading true whatever is written (01 R27); a scalar predicate once, when some lane acts. -/
def destAfter (x : Ctx) (val : Nat → Nat) (g g' : Gang) : Prop :=
  let e := x.f.e
  let d := e.d.toNat
  let n := x.row.d.count e.kd.toNat
  if e.kd = 0#2 then vectorWrite x.act d n val g g' ∧ sameS g g' ∧ sameP g g' ∧ sameQ g g'
  else if e.kd = 1#2 then
    (if x.act = 0 then sameS g g' else scalarWrite d n (val x.lane0) g g') ∧ sameV g g' ∧ sameP g g' ∧ sameQ g g'
  else match namedReg d with
    | some (.p, k) => predWrite x.act k val g g' ∧ sameV g g' ∧ sameS g g' ∧ sameQ g g'
    | some (.q, k) =>
      (if x.act = 0 then sameQ g g' else flagWrite k (val x.lane0) g g') ∧ sameV g g' ∧ sameS g g' ∧ sameP g g'
    | _ => sameRegs g g'

/-- An instruction completes, writes its destination with a value of its operands, and changes nothing else: not the
device, memory, another core, group, engine or gang, not the gang's windows, flags or trap registers, and no register
but its destination. -/
def Computes (i : Instr) (val : Ctx → State → Nat → Nat) : Prop :=
  ∀ s f c g sp, Issuing s i f c g sp →
    ∃ t g', exec i s = .next t ∧ SameButGang c.core c.slot s t ∧ getGang t c.core c.slot = some g' ∧
      g'.apart = (endReplay c.lane g).apart ∧ g'.splits = splitsAfter c g ∧
      destAfter (mkCtx c g sp f) (val (mkCtx c g sp f) s) g g'

/-- The operands of an issue in a lane as 64-bit patterns, and read under its TYPE as integers (05 R93). -/
def Ctx.aBits (x : Ctx) (h : Nat) : BitVec 64 := BitVec.ofNat 64 (x.a h)
def Ctx.bBits (x : Ctx) (h : Nat) : BitVec 64 := BitVec.ofNat 64 (x.b h)
def Ctx.cBits (x : Ctx) (h : Nat) : BitVec 64 := BitVec.ofNat 64 (x.c h)
def Ctx.aInt (x : Ctx) (h : Nat) : Int := readInt x.t (x.aBits h)
def Ctx.bInt (x : Ctx) (h : Nat) : Int := readInt x.t (x.bBits h)
def Ctx.cInt (x : Ctx) (h : Nat) : Int := readInt x.t (x.cBits h)

/-- An integer result as it is written: saturated under SAT, wrapped to the type and extended (05 R93, R95). -/
def Ctx.intResult (x : Ctx) (v : Int) : Nat := (writeInt x.t x.f.e.sat v).toNat

/-! ## Effects -/

/-- An instruction completes from every state and operands that meet a condition: it answers a next state, which stands
in a relation to the state before. -/
def Ends (i : Instr) (P : Ctx → State → Prop) (R : Ctx → State → State → Prop) : Prop :=
  ∀ s f c g sp, Issuing s i f c g sp → P (mkCtx c g sp f) s → ∃ t, exec i s = .next t ∧ R (mkCtx c g sp f) s t

/-- The gang of an issue as its instruction finds it: its split has issued from its clause. -/
def Ctx.issued (x : Ctx) (s : State) : Gang :=
  { modSplit x.cur.lane (fun sp => { sp with fresh := false, clause := x.cur.clause }) x.gang with lastIssue := some s.clock }

/-- Only the issuing gang has changed, and it is as given. -/
def becomes (x : Ctx) (s t : State) (g' : Gang) : Prop :=
  SameButGang x.cur.core x.cur.slot s t ∧ getGang t x.cur.core x.cur.slot = some g'

/-- The device and the issuing core, but for its gangs, are as two states give them; every other core, and every other
gang of the core, is as it was; the slot being issued has lost its head. -/
structure Leaves (x : Ctx) (s want t : State) : Prop where
  device : t.apart = want.apart
  queue : t.issueQ = s.issueQ.tail
  otherCores : ∀ n, n ≠ x.cur.core → getCore t n = getCore s n
  sameCore : (getCore t x.cur.core).apart = (getCore want x.cur.core).apart
  otherGangs : ∀ k, k ≠ x.cur.slot → getGang t x.cur.core k = getGang s x.cur.core k

/-- A trap of the issuing instruction (13 R283): its cause, `tinfo`, the lanes named and the lanes left to perform; the
split would continue at the next slot of its clause, or after the clause. -/
def Ctx.trapOf (x : Ctx) (cause : Nat) (tinfo : BitVec 64) (tmask unfinished : Mask) : TrapInfo :=
  { cause := cause, tinfo := tinfo, tmask := tmask, unfinished := unfinished,
    nextPc := if x.cur.last then x.cur.next else x.sp.pc, nextSlot := if x.cur.last then 0 else x.sp.slot + 1 }

/-- The instruction ends by taking a trap, and has no other effect; one after which the program goes on completes a clause
that it ends, so that the gang gives up its age under the clause's yield hint (02 R47, 13 R281). -/
def traps (x : Ctx) (tr : TrapInfo) (s t : State) : Prop :=
  t = takeTrap x.cur.core x.cur.slot x.cur.lane tr
    (if goesOn tr.cause then modGang (taken x.cur s) x.cur.core x.cur.slot (yieldAges x.cur) else taken x.cur s)

/-- The trap of a scratchpad access of `n` bytes at an offset, its cause and `tinfo`: misaligned, else past the group's range
(08 R177, 13 R544). -/
def scratchFault (g : Group) (n off : Nat) : Option (Nat × Nat) :=
  if off % n ≠ 0 then some (2, off) else if g.ssize < off + n then some (3, off % 2 ^ 19) else none

/-- The acting lanes whose access traps, and the cause and `tinfo` of the lowest of them (13 R283). -/
def firstFault (x : Ctx) (fault : Nat → Option (Nat × Nat)) (cause info : Nat) (m : Mask) : Prop :=
  (∀ k, laneIn m k = true ↔ laneIn x.act k = true ∧ fault k ≠ none) ∧
    ∃ h, laneIn m h = true ∧ fault h = some (cause, info) ∧ ∀ k, k < h → laneIn m k = false

/-- The issue with only the acting lanes outside a mask. -/
def Ctx.without (x : Ctx) (m : Mask) : Ctx := { x with act := x.act &&& ~~~m }

/-- The instruction ends by taking a trap after what its other lanes have done. -/
def trapsAfter (x : Ctx) (tr : TrapInfo) (u t : State) : Prop := t = takeTrap x.cur.core x.cur.slot x.cur.lane tr u

/-- When the issuing split began to wait in a way: now, or when it did while it waits in that way already (02 R51). -/
def Ctx.since (x : Ctx) (kind : WaitKind) (s : State) : Nat :=
  match x.sp.wait with
  | some w => if w.kind = kind then w.since else s.clock
  | none => s.clock

/-- The splits of a gang are those of the issuing gang with the issuing split changed, in any rotation (03 R61). -/
def splitBecomes (x : Ctx) (f : Split → Split) (s : State) (g' : Gang) : Prop :=
  ∀ sp, sp ∈ g'.splits ↔ sp ∈ (modSplit x.cur.lane f (x.issued s)).splits

/-- The issuing split has a wait at its instruction, since it began to wait in that way, and nothing else has changed but
the rotation of the gang's splits (03 R61). -/
def waitsAs (x : Ctx) (wait : Wait) (s t : State) : Prop :=
  SameButGang x.cur.core x.cur.slot s t ∧ ∃ g', getGang t x.cur.core x.cur.slot = some g' ∧ g'.apart = x.gang.apart ∧
    sameRegs x.gang g' ∧ splitBecomes x (fun sp => { sp with wait := some { wait with since := x.since wait.kind s } }) s g'

/-- The issuing split waits at its instruction in a way, for an object. -/
def waitsAt (x : Ctx) (kind : WaitKind) (obj : Nat) (acted : Bool) (s t : State) : Prop :=
  waitsAs x { kind := kind, obj := obj, acted := acted, since := 0 } s t

/-- A lane's split stands at an address, at the header there. -/
def standsAt (g : Gang) (lane : Nat) (pc : BitVec 52) : Prop := ∃ sp ∈ g.splits, laneIn sp.mask lane ∧ sp.pc = pc ∧ sp.slot = 0

/-- The splits of a gang hold lanes, no lane in two of them (03 R55). -/
def Gang.divided (g : Gang) : Prop :=
  g.splits.Pairwise (fun a b => a.mask &&& b.mask = 0) ∧ ∀ sp ∈ g.splits, sp.mask ≠ 0

/-! ## Memory -/

/-- What a global address of an issue maps to without a walk, through its window or an entry of the core's TLB: the
physical address, and the permissions to write and to execute (08 R197, 11 R241). -/
def mapped (s : State) (x : Ctx) (a : GAddr) : Option (Nat × Bool × Bool) :=
  match a.direct with
  | some (pa, w) => some (pa, w, false)
  | none => ((getCore s x.cur.core).tlb.find? (fun e => e.covers x.gang.ctx a.va)).map
      (fun e => (e.phys a.va, e.writable, e.executable))

/-- An access of a kind at a global address finds memory at a physical address, and needs no walk. -/
def finds (s : State) (x : Ctx) (k : AccessKind) (a : GAddr) (pa : Nat) : Prop :=
  ∃ p w e, mapped s x a = some (p, w, e) ∧ reachPhys s a.va p w e k = .ok pa

/-- An access to a physical address never waits for a way of L2 (11 R254, log 8): L2 does not hold it, or no transfer pins a
line of its set and versions leave the set a way. -/
def neverWaits (s : State) (pa : Nat) : Prop :=
  cachedL2 s pa true = false ∨
    ((∀ l, homeSet l = homeSet (pa / 128) → pinnedLine s l = false) ∧ versionWays s (pa / 128) < 24)

/-- The state with memory, the record of what running grids overwrite (16 R353), the read counts of L2, the lines of the
issuing core's L1 and the task versions of its groups as another state has them: what an access to memory may change outside
its gang. -/
def touched (x : Ctx) (s t : State) : State :=
  modCore { s with mem := t.mem, l2 := t.l2, overwritten := t.overwritten } x.cur.core
    (fun k => { k with l1 := (getCore t x.cur.core).l1, groups := (getCore t x.cur.core).groups })

/-- Stores of the acting lanes, in rising order of lane: `n` bytes of each lane from its address; a byte that two lanes
store to holds the later lane's; every other byte is as it was. -/
def stored (x : Ctx) (n : Nat) (addr : Nat → Nat) (bytes : Nat → List Byte) (old new : Nat → Byte) : Prop :=
  (∀ a, (∀ h, laneIn x.act h = true → a < addr h ∨ addr h + n ≤ a) → new a = old a) ∧
  ∀ h k, laneIn x.act h = true → k < n →
    (∀ j, h < j → laneIn x.act j = true → addr h + k < addr j ∨ addr j + n ≤ addr h + k) →
    new (addr h + k) = (bytes h).getD k 0

/-- The instruction is past, and of the gang only destination d and the operations in flight have changed. -/
def wrote (x : Ctx) (t : State) (ops : List Op) (val : Nat → Nat) : Prop :=
  ∃ g', getGang t x.cur.core x.cur.slot = some g' ∧ g'.apart = (endReplay x.cur.lane { x.gang with ops := ops }).apart ∧
    g'.splits = splitsAfter x.cur x.gang ∧ destAfter x val x.gang g'

/-- The instruction is past, and of the gang nothing has changed but the operations in flight. -/
def past (x : Ctx) (s t : State) (ops : List Op) : Prop :=
  getGang t x.cur.core x.cur.slot = some (advanceSplit x.cur { x.issued s with ops := ops })

/-- The operations in flight with one more, assigned to the flag that FS chooses of the clause's two; one that has waited
since its issue keeps its place and its flag (16 R337). -/
def Ctx.withOp (x : Ctx) (k : OpKind) : List Op :=
  if x.gang.ops.any x.resumes then x.gang.ops.map (fun o => if x.resumes o then { o with kind := k } else o)
  else x.gang.ops ++ [{ flag := if x.f.e.fs then x.cur.flagB else x.cur.flagA, kind := k }]

/-! ## Steps of the device -/

/-- A step completes from every state that meets a condition: it answers a next state, which stands in a relation to the
state before. -/
def Moves (i : Instr) (P : State → Prop) (R : State → State → Prop) : Prop := ∀ s, P s → ∃ t, exec i s = .next t ∧ R s t

/-- Only a core has changed, and it is as given. -/
structure OnlyCore (core : Nat) (s t : State) (c : Core) : Prop where
  device : t.apart = s.apart
  queue : t.issueQ = s.issueQ
  others : ∀ n, n ≠ core → getCore t n = getCore s n
  core : getCore t core = c

/-- Only a gang has changed, and it is as given. -/
structure OnlyGang (core slot : Nat) (s t : State) (g : Gang) : Prop where
  device : t.apart = s.apart
  queue : t.issueQ = s.issueQ
  others : ∀ n, n ≠ core → getCore t n = getCore s n
  sameCore : (getCore t core).apart = (getCore s core).apart
  otherGangs : ∀ k, k ≠ slot → getGang t core k = getGang s core k
  gang : getGang t core slot = some g

/-- Only words of the device control block have changed, those at some offsets. -/
def onlyWords (offs : List Nat) (s t : State) : Prop :=
  { t with dcb := s.dcb } = s ∧ ∀ o, (∀ w ∈ offs, o / 4 ≠ w / 4) → reg32 t o = reg32 s o

end Sys2Proof.Machine
end

