-- ==== Sys2Proof/Certificates/Slice0/Obligations.lean ====
section
/-! DEFINITION. The statements for the provers. -/

open Sys2Proof Sys2Proof.Machine

/-! ## Encoding -/

/-- 16 R339 to R343, 17 R366: the decoder reads from an instruction's words the instruction they encode, whatever
follows them, for every well-formed instruction of the opcode table. -/
def Obligations.DecodeOfEncode : Prop :=
  ∀ i rest, i.WellFormed → i.hasWords → decodeWords (encode i ++ rest) = .ok (i, (encode i).length)

/-- 16 R339 to R343, R352, 17 R366: what the decoder reads is a well-formed instruction, and encoding it gives back the
words it was read from, bit for bit: no bit of an accepted word is dropped, and no two words decode to one
instruction. -/
def Obligations.EncodeOfDecode : Prop :=
  ∀ ws i n, decodeWords ws = .ok (i, n) → i.WellFormed ∧ i.hasWords ∧ n ≤ ws.length ∧ encode i = ws.take n

/-- 16 R335, R336, R339: a clause header's fields are read from its word and give back that word; the words that hold no
header are those whose flag fields R336 makes illegal, a code of 12 to 15, a code beside a clear valid bit, or one flag named
by both, or whose upper bits are not 0. The length code of an instruction's first word gives its words: 1, 3, 3 or 5. -/
def Obligations.HeadersAndLengths : Prop :=
  (∀ w h, decodeHeader w = some h → encodeHeader h = w ∧ 1 ≤ h.count ∧ h.count ≤ 8 ∧ (∀ n, h.flagA = some n → n < 12) ∧
    (∀ n, h.flagB = some n → n < 12) ∧ ∀ n, h.flagA = some n → h.flagB ≠ some n) ∧
  (∀ h : Header, 1 ≤ h.count → h.count ≤ 8 → (∀ n, h.flagA = some n → n < 12) → (∀ n, h.flagB = some n → n < 12) →
    (∀ n, h.flagA = some n → h.flagB ≠ some n) → decodeHeader (encodeHeader h) = some h) ∧
  (∀ i, i.WellFormed → i.hasWords → ∃ w rest, encode i = w :: rest ∧ (encode i).length = lengthOf w)

/-- 16 R341, R343, 17 R366 to R371: words written out from the layouts decode to the instructions they stand for. The
first is the base word of `iadd.s32 v4, v4, v5` that 19 R437 gives. -/
def Obligations.DecodedWords : Prop :=
  decodeTableWord 32 0x02840800 = some (.iadd { g := 0, b := 5, a := 4, d := 4 }) ∧
  decodeTableWord 32 0x000A06EC = some (.radd { g := 0, b := 0, a := 10, d := 3 }) ∧
  decodeTableWord 32 0x83000A88 = some (.fadd { g := 2, b := 6, a := 0, d := 5 }) ∧
  decodeTableWord 96 0x000000000000000000000159 = some (.nop (.ext
    { gn := false, minor := 0, a := 0, d := 0, b := 0, c := 0, gp := 0, kd := 0, ka := 0, kb := 0, kc := 0, typ := 0,
      sat := false, rm := 0, sem := 0, agent := 0, stor := 0, md := 0, fs := false, imm := 0 })) ∧
  decodeTableWord 32 0x00000003 = none

/-! ## The step -/

/-- A step of a state with a split about to issue is the meaning of the instruction its fetch reads, at the state the
fetch leaves with what was read latched in the head of the slot; afterwards the cursors whose gang or split is gone
leave the slot (log 1, the model's own scheduling of 02 R47). -/
def Obligations.StepRunsFetched : Prop :=
  ∀ s t c c' g sp i, issuer s = some (c, g, sp) → fetch c g.ctx sp s = (.instr c' i, t) →
    step s = settle (exec i { t with issueQ := c' :: t.issueQ.tail })

/-- A clause lies at `pc` in one executable 2 MiB page of HBM4 that the core's TLB holds under the entry `e`, and under
no other: its header `h`, then the words of its instructions (16 R335). -/
structure ClauseAt (s : State) (core ctx : Nat) (pc : BitVec 52) (e : TlbEntry) (h : Header) (is : List Instr) : Prop where
  listed : e ∈ (getCore s core).tlb
  alone : ∀ x ∈ (getCore s core).tlb, x.ctx = ctx → x.va < e.va + 2 ^ 21 → e.va < x.va + 2 ^ x.size → x = e
  covers : e.covers ctx pc.toNat
  page : e.size = 21 ∧ e.va % 2 ^ 21 = 0 ∧ field e.pte 51 8 * 256 % 2 ^ 21 = 0 ∧ e.executable
  memory : tierOf (e.phys pc.toNat) = .hbm ∧ quarantined s (e.phys pc.toNat) = false
  aligned : pc.toNat % 4 = 0
  header : decodeHeader (encodeHeader h) = some h
  count : is.length = h.count
  legal : ∀ i ∈ is, i.WellFormed ∧ i.hasWords
  fits : pc.toNat + 4 * (1 + (is.flatMap encode).length) ≤ e.va + 2 ^ 21
  words : memReadBytes s.mem (e.phys pc.toNat) (4 * (1 + (is.flatMap encode).length)) =
    (encodeHeader h :: is.flatMap encode).flatMap bytesOfWord

/-- 16 R335, R339, 11 R244: a split in SLOT `k` of a clause fetches the clause's instruction `k`, and the fetch
changes nothing; the cursor latches the clause's address, words and flags, the address after the instruction, and whether
the instruction is the first and the last of its clause. The clause is read from memory where the split holds none of its
words and no grid that the gang cannot yet see has written them (16 R353); it is what the split holds, whatever memory and
the TLB hold now, where it does (log 116, the model's choice within R353). A word that such a grid has written reads as it
stands or as it stood before, and which of the two is free (log 26). -/
def Obligations.FetchReadsClause : Prop :=
  (∀ (s : State) (c : Cursor) (ctx : Nat) (sp : Split) (e : TlbEntry) (h : Header) (is : List Instr) (i : Instr),
    let words := encodeHeader h :: is.flatMap encode
    ((sp.clause = [] ∧ ClauseAt s c.core ctx sp.pc e h is ∧ ∀ m ∈ oldCode s c.core c.slot ctx, ∀ k, k < 4 * words.length →
        mapFind m (e.phys sp.pc.toNat + k) = none) ∨
      (sp.clause = words ∧ decodeHeader (encodeHeader h) = some h ∧ is.length = h.count ∧
        ∀ i ∈ is, i.WellFormed ∧ i.hasWords)) → is[sp.slot]? = some i →
    fetch c ctx sp s =
      (.instr { c with word := (encode i).headD 0, clause := words, header := sp.pc,
                       next := codeAfter sp.pc (1 + ((is.take (sp.slot + 1)).flatMap encode).length),
                       last := decide (sp.slot + 1 = h.count), first := decide (sp.slot = 0),
                       flagA := h.flagA, flagB := h.flagB, yield := h.yield, wait := h.wait } i, s)) ∧
  ∀ clock old pa cur, pickWord clock old pa cur = cur ∨
    ∃ m ∈ old, pickWord clock old pa cur = (List.range 4).map (fun k => (mapFind m (pa + k)).getD (cur.getD k 0))

/-- 13 R281, R283, 11 R247, 02 R46: every step answers a next state, from every state: what an instruction may not do is a
trap, what it cannot do yet is a wait, and no fault and no refusal stops the machine. The one fault, of an instruction
without a split that issues it (log 17, the model's own), is never raised by a step. -/
def Obligations.EveryStepCompletes : Prop := ∀ s, Safe s

/-- Every state after a step has in the slot being issued only splits of gangs that are present: a gang that a step
kills, retires, lifts or saves issues nothing more of the slot (02 R47, 13 R300; the slot as data is log 1). -/
def Obligations.IssueSlotKept : Prop := ∀ s t, s.issueLive → step s = .next t → t.issueLive

/-- Every state after a step keeps physical memory and every scratchpad in their canonical form: addresses strictly
rising, and no byte listed that an unlisted address reads as (the form is the model's own, log 4), so that equal memories
are equal data. -/
def Obligations.MemoryFormKept : Prop := ∀ s t, s.memoryWf → step s = .next t → t.memoryWf

/-- At reset no split is about to issue, and memory has nothing in it and keeps its canonical form. 14 R314, R320, 15 R328,
R329, R332, 12 R273, R279, 13 R287, 06 R139, 01 R21, R23, R24: registers of the device control block right after reset, as
the host reads them: `DEV_ID`, boot state 1, the boil governor enabled with its margin and critical flux, at full duty, and
every die at DTEMP 64; scans every 24 hours below level 8; the Vent cores' roles; the watchdog's 100 ms; budgets of 8,500
cycles at every level; `CONTAIN_LOG` with WELT 15 and the rest 0; the interrupt registers and `VIRAL` clear; every physical
core without a logical one; and no logical core mapped. -/
def Obligations.ResetState : Prop :=
  let word (off : Nat) : BitVec 64 := hostRead State.reset off false
  State.reset.issueLive ∧ State.reset.memoryWf ∧
  word 0 = 0x0D710188 ∧ word offLcmapStat = 0 ∧ (∀ n, n < 128 → word (offLcmap n) = 0) ∧
  word offBootStat = 0x20000000 ∧ word offWdogCfg = 100000 ∧ (∀ a p, a < 7 → p < 16 → word (offBudget a p) = 8500) ∧
  word offBoilCfg = 0x8C000280 ∧ word offBoilStat = 0x80000000 ∧ (∀ d, d < 13 → dtempOf State.reset d = 64) ∧
  word offScanCfg = 0xC0000018 ∧ word offVentStat = 0x1E800000 ∧ (∀ p, p < 136 → word (offCoreHealth p) = 0xFF00) ∧
  hostRead State.reset offContainLog true = 0x0007800000000000 ∧ word offIrqStat = 0 ∧ word offIrqMask = 0 ∧
  word offViral = 0

/-! ## Instructions that compute a value: 18, 19, 20 -/

/-- 19 R432, R433, R437, R442, R443, R446, R451, 05 R93, R95: `iadd`, `isub`, `imul`, `imad` and `imadw`, in every form,
write the exact sum, difference or product of their operands read under TYPE, wrapped or saturated once; `.hi` writes the
upper half of the product; `imadw` the 64-bit pair. Nothing but destination d changes, and the split moves past the instruction (`Computes`). -/
def Obligations.IntegerSumsAndProducts : Prop :=
  (∀ w, Computes (.iadd w) (fun x _ h => x.intResult (x.aInt h + x.bInt h))) ∧
  (∀ f, Computes (.iaddExt f) (fun x _ h => x.intResult (x.aInt h + x.bInt h))) ∧
  (∀ w, Computes (.isub w) (fun x _ h => x.intResult (x.aInt h - x.bInt h))) ∧
  (∀ f, Computes (.isubExt f) (fun x _ h => x.intResult (x.aInt h - x.bInt h))) ∧
  (∀ w, Computes (.imul w) (fun x _ h => if x.mn = 0 then x.intResult (x.aInt h * x.bInt h)
      else (wrapInt x.t (x.aInt h * x.bInt h / 2 ^ typeWidth x.t)).toNat)) ∧
  (∀ f, Computes (.imulExt f) (fun x _ h => if x.mn = 0 then x.intResult (x.aInt h * x.bInt h)
      else (wrapInt x.t (x.aInt h * x.bInt h / 2 ^ typeWidth x.t)).toNat)) ∧
  (∀ w, Computes (.imad w) (fun x _ h => if x.mn = 0 then x.intResult (x.aInt h * x.bInt h + x.cInt h)
      else (wrapInt x.t ((x.aInt h * x.bInt h + x.cInt h) / 2 ^ typeWidth x.t)).toNat)) ∧
  (∀ f, Computes (.imadExt f) (fun x _ h => if x.mn = 0 then x.intResult (x.aInt h * x.bInt h + x.cInt h)
      else (wrapInt x.t ((x.aInt h * x.bInt h + x.cInt h) / 2 ^ typeWidth x.t)).toNat)) ∧
  (∀ w, Computes (.imadw w) (fun x _ h => (BitVec.ofInt 64 (x.aInt h * x.bInt h + intOf 64 (typeSigned x.t) (x.cBits h))).toNat)) ∧
  (∀ f, Computes (.imadwExt f) (fun x _ h => (BitVec.ofInt 64 (x.aInt h * x.bInt h + intOf 64 (typeSigned x.t) (x.cBits h))).toNat))

/-- 19 R436, R439, R440, R441, R444, R445, R447 to R450: `idiv` and `irem` truncate toward zero, with the results R440 gives for
a zero divisor; `imin` and `imax` compare by the signedness of TYPE; `iabs` and `ineg` under `.sat` or not; `icmp` writes
all ones or a predicate; `isel` copies the chosen operand; `idot4` and `isad` sum four byte terms once. Nothing but destination d changes, and the split moves past the instruction (`Computes`). -/
def Obligations.IntegerOthers : Prop :=
  (∀ w, Computes (.idiv w) (fun x _ h => (wrapInt x.t (if x.bInt h = 0 then (if typeSigned x.t && decide (x.aInt h < 0) then typeMin x.t else typeMax x.t)
      else Int.tdiv (x.aInt h) (x.bInt h))).toNat)) ∧
  (∀ f, Computes (.idivExt f) (fun x _ h => (wrapInt x.t (if x.bInt h = 0 then (if typeSigned x.t && decide (x.aInt h < 0) then typeMin x.t else typeMax x.t)
      else Int.tdiv (x.aInt h) (x.bInt h))).toNat)) ∧
  (∀ w, Computes (.irem w) (fun x _ h => (wrapInt x.t (if x.bInt h = 0 then x.aInt h
      else x.aInt h - Int.tdiv (x.aInt h) (x.bInt h) * x.bInt h)).toNat)) ∧
  (∀ f, Computes (.iremExt f) (fun x _ h => (wrapInt x.t (if x.bInt h = 0 then x.aInt h
      else x.aInt h - Int.tdiv (x.aInt h) (x.bInt h) * x.bInt h)).toNat)) ∧
  (∀ w, Computes (.imin w) (fun x _ h => (wrapInt x.t (min (x.aInt h) (x.bInt h))).toNat)) ∧
  (∀ f, Computes (.iminExt f) (fun x _ h => (wrapInt x.t (min (x.aInt h) (x.bInt h))).toNat)) ∧
  (∀ w, Computes (.imax w) (fun x _ h => (wrapInt x.t (max (x.aInt h) (x.bInt h))).toNat)) ∧
  (∀ f, Computes (.imaxExt f) (fun x _ h => (wrapInt x.t (max (x.aInt h) (x.bInt h))).toNat)) ∧
  (∀ w, Computes (.iabs w) (fun x _ h => x.intResult (x.aInt h).natAbs)) ∧
  (∀ f, Computes (.iabsExt f) (fun x _ h => x.intResult (x.aInt h).natAbs)) ∧
  (∀ w, Computes (.ineg w) (fun x _ h => x.intResult (-x.aInt h))) ∧
  (∀ f, Computes (.inegExt f) (fun x _ h => x.intResult (-x.aInt h))) ∧
  (∀ w, Computes (.icmp w) (fun x _ h => if intCond x.mn (x.aInt h) (x.bInt h) then 0xFFFFFFFF else 0)) ∧
  (∀ f, Computes (.icmpExt f) (fun x _ h => if intCond x.mn (x.aInt h) (x.bInt h) then 0xFFFFFFFF else 0)) ∧
  (∀ f, Computes (.isel f) (fun x _ h => (wrapInt x.t (if x.cBits h = 0 then x.bInt h else x.aInt h)).toNat)) ∧
  (∀ w, Computes (.idot4 w) (fun x _ h => x.intResult (x.cInt h + ((List.range 4).map (fun k =>
      byteInt (x.mn % 2 = 1) (x.aBits h) k * byteInt (x.mn / 2 % 2 = 1) (x.bBits h) k)).sum))) ∧
  (∀ f, Computes (.idot4Ext f) (fun x _ h => x.intResult (x.cInt h + ((List.range 4).map (fun k =>
      byteInt (x.mn % 2 = 1) (x.aBits h) k * byteInt (x.mn / 2 % 2 = 1) (x.bBits h) k)).sum))) ∧
  (∀ f, Computes (.isad f) (fun x _ h => (wrapInt 4 (intOf 32 false (x.cBits h) + ((List.range 4).map (fun k =>
      ((byteInt false (x.aBits h) k - byteInt false (x.bBits h) k).natAbs : Int))).sum)).toNat))

/-- 18 R380, 19 R459, 20 R480: `and`, `or`, `xor` and `lop3` work on each bit of TYPE's width, and the shifts and the
rotation by the unsigned 32-bit count in b (`andVal` to `rotlVal`; the bits of their results are those of
`LogicAndShiftBits`). Nothing but destination d changes, and the split moves past the instruction (`Computes`). -/
def Obligations.LogicAndShifts : Prop :=
  (∀ w, Computes (.andB w) (fun x _ h => (andVal x.t (x.aBits h) (x.bBits h)).toNat)) ∧
  (∀ f, Computes (.andBExt f) (fun x _ h => (andVal x.t (x.aBits h) (x.bBits h)).toNat)) ∧
  (∀ w, Computes (.orB w) (fun x _ h => (orVal x.t (x.aBits h) (x.bBits h)).toNat)) ∧
  (∀ f, Computes (.orBExt f) (fun x _ h => (orVal x.t (x.aBits h) (x.bBits h)).toNat)) ∧
  (∀ w, Computes (.xorB w) (fun x _ h => (xorVal x.t (x.aBits h) (x.bBits h)).toNat)) ∧
  (∀ f, Computes (.xorBExt f) (fun x _ h => (xorVal x.t (x.aBits h) (x.bBits h)).toNat)) ∧
  (∀ f, Computes (.lop3 f) (fun x _ h => (lop3Val x.t x.immN (x.aBits h) (x.bBits h) (x.cBits h)).toNat)) ∧
  (∀ w, Computes (.shl w) (fun x _ h => (shlVal x.t (x.aBits h) (x.bBits h)).toNat)) ∧
  (∀ f, Computes (.shlExt f) (fun x _ h => (shlVal x.t (x.aBits h) (x.bBits h)).toNat)) ∧
  (∀ w, Computes (.shr w) (fun x _ h => (shrVal x.t (x.aBits h) (x.bBits h)).toNat)) ∧
  (∀ f, Computes (.shrExt f) (fun x _ h => (shrVal x.t (x.aBits h) (x.bBits h)).toNat)) ∧
  (∀ w, Computes (.sar w) (fun x _ h => (sarVal x.t (x.aBits h) (x.bBits h)).toNat)) ∧
  (∀ f, Computes (.sarExt f) (fun x _ h => (sarVal x.t (x.aBits h) (x.bBits h)).toNat)) ∧
  (∀ w, Computes (.rotl w) (fun x _ h => (rotlVal x.t (x.aBits h) (x.bBits h)).toNat)) ∧
  (∀ f, Computes (.rotlExt f) (fun x _ h => (rotlVal x.t (x.aBits h) (x.bBits h)).toNat))

/-- 18 R388, R389, R392, R398, R401, R428, 20 R480, R489: the funnel shift, bit fields, counts, reversal and permutation write
the value of `funlVal` to `permVal` (their bits are those of `FieldAndCountBits`). Nothing but destination d changes, and the split moves past the instruction (`Computes`). -/
def Obligations.FieldsAndCounts : Prop :=
  (∀ w, Computes (.funl w) (fun x _ h => (funlVal (x.aBits h) (x.bBits h) (x.cBits h)).toNat)) ∧
  (∀ f, Computes (.funlExt f) (fun x _ h => (funlVal (x.aBits h) (x.bBits h) (x.cBits h)).toNat)) ∧
  (∀ w, Computes (.bfx w) (fun x _ h => (bfxVal x.t x.mn (x.aBits h) (x.bBits h)).toNat)) ∧
  (∀ f, Computes (.bfxExt f) (fun x _ h => (bfxVal x.t x.mn (x.aBits h) (x.bBits h)).toNat)) ∧
  (∀ w, Computes (.bfi w) (fun x _ h => (bfiVal x.t (x.aBits h) (x.bBits h) (x.cBits h)).toNat)) ∧
  (∀ f, Computes (.bfiExt f) (fun x _ h => (bfiVal x.t (x.aBits h) (x.bBits h) (x.cBits h)).toNat)) ∧
  (∀ w, Computes (.popc w) (fun x _ h => (popcVal x.t (x.aBits h)).toNat)) ∧
  (∀ f, Computes (.popcExt f) (fun x _ h => (popcVal x.t (x.aBits h)).toNat)) ∧
  (∀ w, Computes (.clz w) (fun x _ h => (clzVal x.t (x.aBits h)).toNat)) ∧
  (∀ f, Computes (.clzExt f) (fun x _ h => (clzVal x.t (x.aBits h)).toNat)) ∧
  (∀ w, Computes (.ctz w) (fun x _ h => (ctzVal x.t (x.aBits h)).toNat)) ∧
  (∀ f, Computes (.ctzExt f) (fun x _ h => (ctzVal x.t (x.aBits h)).toNat)) ∧
  (∀ w, Computes (.brev w) (fun x _ h => (brevVal x.t (x.aBits h)).toNat)) ∧
  (∀ f, Computes (.brevExt f) (fun x _ h => (brevVal x.t (x.aBits h)).toNat)) ∧
  (∀ w, Computes (.perm w) (fun x _ h => (permVal x.mn (x.aBits h) (x.bBits h) (x.cBits h)).toNat)) ∧
  (∀ f, Computes (.permExt f) (fun x _ h => (permVal x.mn (x.aBits h) (x.bBits h) (x.cBits h)).toNat))

/-- 18 R377, R378, R409, R411, R413, R416, R418 to R420, R426: on each element of TYPE the sum, difference, product, fused
multiply-add and quotient are exact and rounded once under RM; `fmin` and `fmax` prefer a number to a NaN; `fcmp` writes
all ones or a predicate. Nothing but destination d changes, and the split moves past the instruction (`Computes`). -/
def Obligations.FloatArithmetic : Prop :=
  (∀ w, Computes (.fadd w) (fun x _ h => (onElems2 x.t (fun a b => (fmtOf x.t).ofVal x.rm (((fmtOf x.t).decode a).add x.rm ((fmtOf x.t).decode b))) (x.aBits h) (x.bBits h)).toNat)) ∧
  (∀ f, Computes (.faddExt f) (fun x _ h => (onElems2 x.t (fun a b => (fmtOf x.t).ofVal x.rm (((fmtOf x.t).decode a).add x.rm ((fmtOf x.t).decode b))) (x.aBits h) (x.bBits h)).toNat)) ∧
  (∀ w, Computes (.fsub w) (fun x _ h => (onElems2 x.t (fun a b => (fmtOf x.t).ofVal x.rm (((fmtOf x.t).decode a).add x.rm ((fmtOf x.t).decode b).neg)) (x.aBits h) (x.bBits h)).toNat)) ∧
  (∀ f, Computes (.fsubExt f) (fun x _ h => (onElems2 x.t (fun a b => (fmtOf x.t).ofVal x.rm (((fmtOf x.t).decode a).add x.rm ((fmtOf x.t).decode b).neg)) (x.aBits h) (x.bBits h)).toNat)) ∧
  (∀ w, Computes (.fmul w) (fun x _ h => (onElems2 x.t (fun a b => (fmtOf x.t).ofVal x.rm (((fmtOf x.t).decode a).mul ((fmtOf x.t).decode b))) (x.aBits h) (x.bBits h)).toNat)) ∧
  (∀ f, Computes (.fmulExt f) (fun x _ h => (onElems2 x.t (fun a b => (fmtOf x.t).ofVal x.rm (((fmtOf x.t).decode a).mul ((fmtOf x.t).decode b))) (x.aBits h) (x.bBits h)).toNat)) ∧
  (∀ w, Computes (.ffma w) (fun x _ h => (onElems3 x.t (fun a b c =>
      (fmtOf x.t).ofVal x.rm ((((fmtOf x.t).decode a).mul ((fmtOf x.t).decode b)).add x.rm ((fmtOf x.t).decode c)))
      (x.aBits h) (x.bBits h) (x.cBits h)).toNat)) ∧
  (∀ f, Computes (.ffmaExt f) (fun x _ h => (onElems3 x.t (fun a b c =>
      (fmtOf x.t).ofVal x.rm ((((fmtOf x.t).decode a).mul ((fmtOf x.t).decode b)).add x.rm ((fmtOf x.t).decode c)))
      (x.aBits h) (x.bBits h) (x.cBits h)).toNat)) ∧
  (∀ w, Computes (.fmin w) (fun x _ h => (onElems2 x.t (fun a b => (fmtOf x.t).minMax false a b) (x.aBits h) (x.bBits h)).toNat)) ∧
  (∀ f, Computes (.fminExt f) (fun x _ h => (onElems2 x.t (fun a b => (fmtOf x.t).minMax false a b) (x.aBits h) (x.bBits h)).toNat)) ∧
  (∀ w, Computes (.fmax w) (fun x _ h => (onElems2 x.t (fun a b => (fmtOf x.t).minMax true a b) (x.aBits h) (x.bBits h)).toNat)) ∧
  (∀ f, Computes (.fmaxExt f) (fun x _ h => (onElems2 x.t (fun a b => (fmtOf x.t).minMax true a b) (x.aBits h) (x.bBits h)).toNat)) ∧
  (∀ w, Computes (.fcmp w) (fun x _ h => if packed x.t then
        (onElems2 x.t (fun a b => if floatCond x.mn ((fmtOf x.t).decode a) ((fmtOf x.t).decode b) then 0xFFFF else 0)
          (x.aBits h) (x.bBits h)).toNat
      else if floatCond x.mn ((fmtOf x.t).decode (lowBits (typeWidth x.t) (x.aBits h)))
          ((fmtOf x.t).decode (lowBits (typeWidth x.t) (x.bBits h))) then 0xFFFFFFFF else 0)) ∧
  (∀ f, Computes (.fcmpExt f) (fun x _ h => if packed x.t then
        (onElems2 x.t (fun a b => if floatCond x.mn ((fmtOf x.t).decode a) ((fmtOf x.t).decode b) then 0xFFFF else 0)
          (x.aBits h) (x.bBits h)).toNat
      else if floatCond x.mn ((fmtOf x.t).decode (lowBits (typeWidth x.t) (x.aBits h)))
          ((fmtOf x.t).decode (lowBits (typeWidth x.t) (x.bBits h))) then 0xFFFFFFFF else 0)) ∧
  (∀ w, Computes (.fdiv w) (fun x _ h => (onElems2 x.t (fun a b => (fmtOf x.t).div x.rm ((fmtOf x.t).decode a) ((fmtOf x.t).decode b)) (x.aBits h) (x.bBits h)).toNat)) ∧
  (∀ f, Computes (.fdivExt f) (fun x _ h => (onElems2 x.t (fun a b => (fmtOf x.t).div x.rm ((fmtOf x.t).decode a) ((fmtOf x.t).decode b)) (x.aBits h) (x.bBits h)).toNat))

/-- 18 R410, R412, R415, R417, R421 to R425, R427: reciprocal, roots, powers, logarithm, sine, cosine, hyperbolic tangent, class
and rounding to an integral value, on each element of TYPE. Nothing but destination d changes, and the split moves past the instruction (`Computes`). -/
def Obligations.FloatFunctions : Prop :=
  (∀ w, Computes (.frcp w) (fun x _ h => (onElems1 x.t (fun a => (fmtOf x.t).div x.rm (.fin false 1 0) ((fmtOf x.t).decode a)) (x.aBits h)).toNat)) ∧
  (∀ f, Computes (.frcpExt f) (fun x _ h => (onElems1 x.t (fun a => (fmtOf x.t).div x.rm (.fin false 1 0) ((fmtOf x.t).decode a)) (x.aBits h)).toNat)) ∧
  (∀ w, Computes (.frsq w) (fun x _ h => (onElems1 x.t (fun a => (fmtOf x.t).rsqrt x.rm ((fmtOf x.t).decode a)) (x.aBits h)).toNat)) ∧
  (∀ f, Computes (.frsqExt f) (fun x _ h => (onElems1 x.t (fun a => (fmtOf x.t).rsqrt x.rm ((fmtOf x.t).decode a)) (x.aBits h)).toNat)) ∧
  (∀ w, Computes (.fsqrt w) (fun x _ h => (onElems1 x.t (fun a => (fmtOf x.t).sqrt x.rm ((fmtOf x.t).decode a)) (x.aBits h)).toNat)) ∧
  (∀ f, Computes (.fsqrtExt f) (fun x _ h => (onElems1 x.t (fun a => (fmtOf x.t).sqrt x.rm ((fmtOf x.t).decode a)) (x.aBits h)).toNat)) ∧
  (∀ w, Computes (.fex2 w) (fun x _ h => (onElems1 x.t (fun a => (fmtOf x.t).exp2 ((fmtOf x.t).decode a)) (x.aBits h)).toNat)) ∧
  (∀ f, Computes (.fex2Ext f) (fun x _ h => (onElems1 x.t (fun a => (fmtOf x.t).exp2 ((fmtOf x.t).decode a)) (x.aBits h)).toNat)) ∧
  (∀ w, Computes (.flg2 w) (fun x _ h => (onElems1 x.t (fun a => (fmtOf x.t).lg2 ((fmtOf x.t).decode a)) (x.aBits h)).toNat)) ∧
  (∀ f, Computes (.flg2Ext f) (fun x _ h => (onElems1 x.t (fun a => (fmtOf x.t).lg2 ((fmtOf x.t).decode a)) (x.aBits h)).toNat)) ∧
  (∀ w, Computes (.fsin w) (fun x _ h => (onElems1 x.t (fun a => (fmtOf x.t).trig false ((fmtOf x.t).decode a)) (x.aBits h)).toNat)) ∧
  (∀ f, Computes (.fsinExt f) (fun x _ h => (onElems1 x.t (fun a => (fmtOf x.t).trig false ((fmtOf x.t).decode a)) (x.aBits h)).toNat)) ∧
  (∀ w, Computes (.fcos w) (fun x _ h => (onElems1 x.t (fun a => (fmtOf x.t).trig true ((fmtOf x.t).decode a)) (x.aBits h)).toNat)) ∧
  (∀ f, Computes (.fcosExt f) (fun x _ h => (onElems1 x.t (fun a => (fmtOf x.t).trig true ((fmtOf x.t).decode a)) (x.aBits h)).toNat)) ∧
  (∀ w, Computes (.ftanh w) (fun x _ h => (onElems1 x.t (fun a => (fmtOf x.t).tanh ((fmtOf x.t).decode a)) (x.aBits h)).toNat)) ∧
  (∀ f, Computes (.ftanhExt f) (fun x _ h => (onElems1 x.t (fun a => (fmtOf x.t).tanh ((fmtOf x.t).decode a)) (x.aBits h)).toNat)) ∧
  (∀ w, Computes (.fclass w) (fun x _ h => (onElems1 x.t (fun a => (fmtOf x.t).classMask a) (x.aBits h)).toNat)) ∧
  (∀ f, Computes (.fclassExt f) (fun x _ h => (onElems1 x.t (fun a => (fmtOf x.t).classMask a) (x.aBits h)).toNat)) ∧
  (∀ w, Computes (.frnd w) (fun x _ h => (onElems1 x.t (fun a => (fmtOf x.t).rnd x.rm a) (x.aBits h)).toNat)) ∧
  (∀ f, Computes (.frndExt f) (fun x _ h => (onElems1 x.t (fun a => (fmtOf x.t).rnd x.rm a) (x.aBits h)).toNat))

/-- 18 R402 to R405, 20 R484, R492, R542, 05 R105, R112, R116: `cvt` converts each element once; `cvtsr` rounds with the device
generator's words for the launch's seed and the lane's counter c; `packf4` and `unpkf4` code FP4 blocks; `qblk` writes the
band exponent over the acting lanes. Nothing but destination d changes, and the split moves past the instruction
(`Computes`). What the values are: each element of a legal form is its source element converted, by the rows of 05 R106
and of `cvt` for integers, floats, infinities and NaN; a block has the least scale that holds its greatest magnitude,
and codes divided by it; a decoded element is the exact product; the band exponent is 18 less the greatest binade; and
the rules' own examples come out. -/
def Obligations.Conversions : Prop :=
  (∀ f, Computes (.cvt f) (fun x _ h => cvtVal x.t x.mn x.md x.rm x.f.e.sat (fun _ => none) (x.a h))) ∧
  (∀ f, Computes (.cvtsr f) (fun x s h =>
      cvtVal x.t x.mn x.md 0 false (fun k => some (randomWord (x.group s).seed (x.c h) k)) (x.a h))) ∧
  (∀ f, Computes (.packf4 f) (fun x _ h => packf4Val (x.a h))) ∧
  (∀ f, Computes (.unpkf4 f) (fun x _ h => unpkf4Val (x.a h))) ∧
  (∀ f, Computes (.qblk f) (fun x _ _ =>
      (BitVec.ofInt 32 (bandExponent (x.lanes.flatMap (fun h => qblkElems x.t (x.aBits h))))).toNat)) ∧
  -- element k of the result is element k of the source converted, extended in its register
  (let wide := [0, 1, 2, 3, 4, 5, 6, 7, 10, 11, 12, 13]
   ∀ t mn md rm sat x k, ∀ rnd : Nat → Option Nat,
    md = 0 ∧ t ∈ wide ∧ mn ∈ wide ∧ (packed t ∨ packed mn → typeWidth t ≠ 64 ∧ typeWidth mn ≠ 64) ∨
      md ∈ [1, 2] ∧ t ∈ [10, 12, 13] ∧ mn ∈ [0, 32] ∨ md ∈ [3, 4] ∧ t ∈ [0, 4, 10, 12, 13] ∧ mn ∈ [0, 32] →
    let src := (cvtSides t mn md).1
    let dst := (cvtSides t mn md).2
    k < src.2.2 →
    let code := convertElem rm (rnd k) sat src.1 dst.1 (x / 2 ^ (src.2.1 * k) % 2 ^ src.1.width)
    let held := cvtVal t mn md rm sat rnd x / 2 ^ (dst.2.1 * k) % 2 ^ dst.2.1
    held % 2 ^ dst.1.width = code ∧
      ∀ n sg, dst.1 = .int n sg → intOf dst.2.1 sg (BitVec.ofNat 64 held) = intOf n sg (BitVec.ofNat 64 code)) ∧
  -- integers: low bits, the bit pattern, the value extended, or saturated
  (∀ rm rnd sat n m sg sg' c, 0 < n → n ≤ 64 → 0 < m → m ≤ 64 → c < 2 ^ n →
    let v := intOf n sg (BitVec.ofNat 64 c)
    let r := convertElem rm rnd sat (.int n sg) (.int m sg') c
    (m ≤ n → sat = false → r = c % 2 ^ m) ∧
    (m ≤ n → sat = true → intOf m sg' (BitVec.ofNat 64 r) = satInt v (elemMin m sg') (elemMax m sg')) ∧
    (n < m → (r : Int) = v % 2 ^ m)) ∧
  (let floats := [f64, f32, f16, bf16, e4m3, e5m2]
   ∀ f ∈ floats, ∀ rm rnd sat c,
    (∀ m sg, 0 < m → m ≤ 64 →
      let r := convertElem rm rnd sat (.flt f) (.int m sg) c
      (f.decode c = .nan → r = 0) ∧
      (∀ neg, f.decode c = .inf neg → intOf m sg (BitVec.ofNat 64 r) = if neg then elemMin m sg else elemMax m sg) ∧
      ∀ neg n e, f.decode c = .fin neg n e →
        intOf m sg (BitVec.ofNat 64 r) = satInt (roundToInt rm neg n e) (elemMin m sg) (elemMax m sg)) ∧
    (∀ n sg, convertElem rm rnd sat (.int n sg) (.flt f) c =
      let v := intOf n sg (BitVec.ofNat 64 c)
      f.round rm (decide (v < 0)) v.natAbs 0) ∧
    (∀ g ∈ floats,
      let r := convertElem rm rnd sat (.flt f) (.flt g) c
      (f.decode c = .nan → r = g.nan) ∧
      (∀ neg, f.decode c = .inf neg → r = if g = e4m3 then 0x7F else g.infCode neg) ∧
      (∀ neg n e, f.decode c = .fin neg n e → rnd = none → r = g.round rm neg n e) ∧
      (∀ neg n e w, f.decode c = .fin neg n e → rnd = some w → r = g.roundSr w neg n e) ∧
      (g = f → c < 2 ^ f.width → f.decode c ≠ .nan → r = c)) ∧
    ∀ g ∈ floats, f.eb ≤ g.eb → f.mb < g.mb → rnd = none → ∀ neg n e, f.decode c = .fin neg n e →
      ∃ m h, g.decode (convertElem rm rnd sat (.flt f) (.flt g) c) = .fin neg m h ∧ (m : ℚ) * 2 ^ h = n * 2 ^ e) ∧
  -- FP4 blocks
  (let mag : FVal → ℚ := fun v => match v with
     | .fin _ n e => n * (2 : ℚ) ^ e
     | _ => 0
   (∀ x, let v (k : Nat) := f32.decode (x / 2 ^ (32 * k) % 2 ^ 32)
      let code (k : Nat) := packf4Val x / 2 ^ (4 * k) % 16
      let scale := packf4Val x / 2 ^ 32
      ((∃ k, k < 8 ∧ ∀ neg n e, v k ≠ .fin neg n e) → packf4Val x = 0xFF * 2 ^ 32) ∧
      ((∀ k, k < 8 → ∃ neg n e, v k = .fin neg n e) →
        ((∀ k, k < 8 → mag (v k) = 0) → scale = 0 ∧ ∀ k, k < 8 → code k = if (v k).sign then 8 else 0) ∧
        ((∃ k, k < 8 ∧ mag (v k) ≠ 0) → 1 ≤ scale ∧ scale ≤ 0xFE ∧
          ((∀ k, k < 8 → mag (v k) ≤ 6 * mag (e3m5.decode scale)) ∨ scale = 0xFE) ∧
          (∀ c, 1 ≤ c → c < scale → ∃ k, k < 8 ∧ 6 * mag (e3m5.decode c) < mag (v k)) ∧
          ∀ k, k < 8 → code k = e2m1.div 0 (v k) (e3m5.decode scale)))) ∧
   (∀ x k, k < 8 → let r := unpkf4Val x / 2 ^ (32 * k) % 2 ^ 32
      let code := x / 2 ^ (4 * k) % 16
      let scale := x / 2 ^ 32 % 256
      (scale = 0xFF → r = 0x7FC00000) ∧
      (scale ≠ 0xFF → ∃ n e, f32.decode r = .fin (decide (8 ≤ code)) n e ∧
        (n : ℚ) * 2 ^ e = mag (e2m1.decode code) * mag (e3m5.decode scale)))) ∧
  -- the band exponent
  (∀ n e neg, n ≠ 0 → ∃ E, binade (.fin neg n e) = some E ∧ (2 : ℚ) ^ E ≤ n * (2 : ℚ) ^ e ∧ n * (2 : ℚ) ^ e < (2 : ℚ) ^ (E + 1)) ∧
  (∀ e neg, binade .nan = none ∧ binade (.inf neg) = none ∧ binade (.fin neg 0 e) = none) ∧
  (∀ xs, (∀ x ∈ xs, binade x = none) → bandExponent xs = 0) ∧
  (∀ xs, ∀ x ∈ xs, ∀ E, binade x = some E → (∀ y ∈ xs, ∀ E', binade y = some E' → E' ≤ E) → bandExponent xs = 18 - E) ∧
  -- the rules' own examples
  cvtVal 10 0 1 0 false (fun _ => none) (0x3F800000 + 2 ^ 32 * 0x43EB0000 + 2 ^ 64 * 0x80000000 + 2 ^ 96 * 0x7FC00000) = 0x7F807E38 ∧
  randomWord 0 0 0 = 0xE220 ∧
  cvtVal 13 10 0 0 false (fun k => some (randomWord 0 0 k)) (0x3F801234 + 2 ^ 32 * 0x40000000) = 0x40003F80 ∧
  convertElem 0 (some 0x1233) false (.flt f32) (.flt bf16) 0x3F801234 = 0x3F81 ∧
  convertElem 0 (some 0x7FFF) false (.flt f32) (.flt f16) 0x3F801000 = 0x3C01 ∧
  convertElem 0 (some 0x8000) false (.flt f32) (.flt f16) 0x3F801000 = 0x3C00 ∧
  packf4Val (0x41100000 + 2 ^ 32 * 0xBFC00000 + 2 ^ 64 * 0x40100000 + 2 ^ 128 * 0x3F400000 + 2 ^ 160 * 0x40A00000 +
    2 ^ 192 * 0xC0400000 + 2 ^ 224 * 0x3FF00000) = 0x2C5103A7 + 2 ^ 32 * 0x70 ∧
  bandExponent ([0x40400000, 0x3FC00000, 0xBF400000, 0, 0x7FC00000].map f32.decode) = 17

/-- 20 R481, R482, R496, R500, 06 R121, R123, R131, R134: `rsplit`, `radd`, `rsub` and `rmul` compute in the channel of MINOR;
`rmerge` reconstructs the signed value of eight working residues, or 0x8000_0000_0000_0000 when one is invalid; `rchk`
judges ten residues as a certified drain would. Nothing but destination d changes, and the split moves past the instruction (`Computes`). -/
def Obligations.ResidueInstructions : Prop :=
  (∀ w, Computes (.rsplit w) (fun x _ h => ((intOf (if x.t = 3 then 64 else 32) true (x.aBits h)) % (modulus x.mn : Int)).toNat % 2 ^ 64)) ∧
  (∀ f, Computes (.rsplitExt f) (fun x _ h => ((intOf (if x.t = 3 then 64 else 32) true (x.aBits h)) % (modulus x.mn : Int)).toNat % 2 ^ 64)) ∧
  (∀ w, Computes (.radd w) (fun x _ h => (lowBits 32 (x.aBits h) + lowBits 32 (x.bBits h)) % modulus x.mn % 2 ^ 64)) ∧
  (∀ f, Computes (.raddExt f) (fun x _ h => (lowBits 32 (x.aBits h) + lowBits 32 (x.bBits h)) % modulus x.mn % 2 ^ 64)) ∧
  (∀ w, Computes (.rsub w) (fun x _ h => (((lowBits 32 (x.aBits h) : Int) - lowBits 32 (x.bBits h)) % (modulus x.mn : Int)).toNat % 2 ^ 64)) ∧
  (∀ f, Computes (.rsubExt f) (fun x _ h => (((lowBits 32 (x.aBits h) : Int) - lowBits 32 (x.bBits h)) % (modulus x.mn : Int)).toNat % 2 ^ 64)) ∧
  (∀ w, Computes (.rmul w) (fun x _ h => lowBits 32 (x.aBits h) * lowBits 32 (x.bBits h) % modulus x.mn % 2 ^ 64)) ∧
  (∀ f, Computes (.rmulExt f) (fun x _ h => lowBits 32 (x.aBits h) * lowBits 32 (x.bBits h) % modulus x.mn % 2 ^ 64)) ∧
  (∀ f, Computes (.rmerge f) (fun x _ h => if (List.range 8).any (fun j => !residueValid j ((workingOf (x.aBits h)).getD j 0)) then 2 ^ 63
      else (BitVec.ofInt 64 (crtValue (workingOf (x.aBits h)))).toNat)) ∧
  (∀ w, Computes (.rchk w) (fun x _ h => match judge true (workingOf (x.aBits h) ++ redundantOf (x.bBits h)) with
      | .clean _ => 0
      | .fixed v j => (2 ^ 31 + j + 2 ^ 32 * residueOf j v) % 2 ^ 64
      | _ => 0xC000000F)) ∧
  (∀ f, Computes (.rchkExt f) (fun x _ h => match judge true (workingOf (x.aBits h) ++ redundantOf (x.bBits h)) with
      | .clean _ => 0
      | .fixed v j => (2 ^ 31 + j + 2 ^ 32 * residueOf j v) % 2 ^ 64
      | _ => 0xC000000F))

/-- 19 R435, R465, R466, 16 R345, R347, R361, R362: `mov` copies a register, a pair or a predicate; `movi` writes the immediate
value at TYPE's width; `gets` writes the system value of its selector, sampled at issue, and each selector names its
value. Nothing but destination d changes, and the split moves past the instruction (`Computes`). -/
def Obligations.MovesAndSystemValues : Prop :=
  (∀ w, Computes (.mov w) (fun x _ h => x.a h)) ∧
  (∀ f, Computes (.movExt f) (fun x _ h => x.a h)) ∧
  (∀ f, Computes (.movi f) (fun x _ _ => (if isInt x.t then wrapInt x.t (readInt x.t (immediateOf x.f))
      else if typeWidth x.t = 64 then immediateOf x.f else immediateOf x.f &&& 0xFFFFFFFF).toNat)) ∧
  (∀ f, Computes (.gets f) (fun x s h => systemValue x s h)) ∧
  ∀ x : Ctx, ∀ s h,
    let lanes (n : Nat) := (List.range n).countP (laneIn x.sp.mask)
    let value (sel v : Nat) : Prop := x.immN = sel → systemValue x s h = v
    value 0x00 h ∧ (h ≤ 64 → value 0x01 (lanes h)) ∧ value 0x02 (lanes 64) ∧ value 0x03 x.gang.width ∧ value 0x04 x.gang.id ∧
    value 0x05 (x.group s).x ∧ value 0x06 (x.group s).y ∧ value 0x07 (x.group s).z ∧
    value 0x08 ((x.group s).size * (x.group s).width) ∧ value 0x09 (x.group s).rank ∧ value 0x0A (x.group s).stage ∧
    value 0x0B (x.group s).lcoreSeen ∧ value 0x0C s.clock ∧ value 0x0D x.gang.quantum ∧ value 0x0E x.gang.deadline ∧
    value 0x10 x.gang.tcause.toNat ∧ value 0x11 x.gang.tpc.toNat ∧ value 0x12 x.gang.tmask.toNat ∧
    value 0x13 x.gang.tinfo.toNat ∧ value 0x14 x.gang.peerStatus.toNat

/-- 03 R65 to R67, 19 R460, 20 R497, R502, R514: `vote`, `shfl`, `match` and `redx` write a value of the whole split,
in every guard-true lane or once (`CollectiveValues` says what the masks, classes and reductions hold). Nothing but destination d changes, and the split moves past the instruction (`Computes`). -/
def Obligations.Collectives : Prop :=
  (∀ f, Computes (.vote f) (fun x _ _ => voteVal x)) ∧
  (∀ f, Computes (.shfl f) (fun x _ h =>
      if 0 ≤ shflSource x h ∧ shflSource x h < laneCount x.sp.mask then x.a (x.ranks.getD (shflSource x h).toNat h) else x.a h)) ∧
  (∀ f, Computes (.matchOp f) (fun x _ h =>
      if x.mn = 0 then x.rankMask (matchClass x h)
      else if x.mn = 1 then x.rank (lowestLane (maskOf (matchClass x h)))
      else if x.mn = 2 then (x.lanes.filter (fun k => lowestLane (maskOf (matchClass x k)) == k)).length
      else ((matchClass x h).filter (fun k => k < h)).length)) ∧
  (∀ f, Computes (.redx f) (fun x _ _ => if x.act = 0 then 0 else redxVal x))

/-- 19 R476, the whole rule: `not` writes the bitwise complement of a at TYPE's width, bit by bit, in the base word and in
the extended form; `not.b32` of 0x0F0F_0000 gives 0xF0F0_FFFF. Nothing but destination d changes, and the split moves
past the instruction (`Computes`). -/
def Obligations.NotComplements : Prop :=
  let complement (t : Nat) (a : BitVec 64) : Nat := if typeWidth t = 64 then (~~~a).toNat else (~~~(a.setWidth 32)).toNat
  (∀ w, Computes (.notB w) (fun x _ h => complement x.t (x.aBits h))) ∧
  (∀ f, Computes (.notBExt f) (fun x _ h => complement x.t (x.aBits h))) ∧
  typeWidth 8 = 32 ∧ complement 8 0x0F0F0000 = 0xF0F0FFFF

/-- 20 R516, the whole rule: `width` writes the number of lanes of its split to d and the width of its gang to d + 1, in
each guard-true lane for a vector pair, or once for a scalar pair (`Computes`, `destAfter`). -/
def Obligations.WidthOfSplit : Prop :=
  ∀ f, Computes (.widthOp f) (fun x _ _ => laneCount x.sp.mask + 2 ^ 32 * x.gang.width)

/-- 19 R438: `iaddc` and `isubb` add or subtract with the carry or borrow of lane predicate MINOR, write the wrapped
result to d, and write that predicate in the acting lanes with the carry or borrow out; p7 reads true (01 R27). -/
def Obligations.CarryInstructions : Prop :=
  ∀ f, (∀ sub : Bool, Ends (if sub then .isubb f else .iaddc f) (fun _ _ => True) (fun x s t =>
    let cin (h : Nat) : Int := if laneIn (preg x.gang x.mn) h then 1 else 0
    let sum (h : Nat) : Int := if sub then x.aInt h - x.bInt h - cin h else x.aInt h + x.bInt h + cin h
    let out (h : Nat) : Nat := if (if sub then sum h < 0 else (2 : Int) ^ typeWidth x.t ≤ sum h) then 1 else 0
    SameButGang x.cur.core x.cur.slot s t ∧ ∃ g' g1, getGang t x.cur.core x.cur.slot = some g' ∧
      g'.apart = (endReplay x.cur.lane x.gang).apart ∧ g'.splits = splitsAfter x.cur x.gang ∧
      destAfter x (fun h => (wrapInt x.t (sum h)).toNat) x.gang g1 ∧ predWrite x.act x.mn out g1 g' ∧
      sameV g1 g' ∧ sameS g1 g' ∧ sameQ g1 g'))

/-- A split's fetch finds the words of its clause: those it holds, or those it reads. -/
def Reads (s : State) (c : Cursor) (ctx : Nat) (sp : Split) (ws : List Word) (t : State) : Prop :=
  (sp.clause = ws ∧ ws ≠ [] ∧ t = s) ∨
    (sp.clause = [] ∧ readClause c.core ctx (oldCode s c.core c.slot ctx) sp s = (.inl ws, t))

/-- 16 R336, R352, 02 R40, 13 R281: an instruction that is ill formed, or that names a vector register at or above the gang's
count, takes the trap illegal-instruction, with its first word in `tinfo` and every lane of the split in `tmask`, and
has no other effect (that every lane is named is log 11, the model's reading). So does a step whose fetch finds at the
split's place a word that the decoder refuses, or a header whose fields are illegal, the header's with `tpc` at SLOT 0 (where
the handler's return goes is log 13). -/
def Obligations.IllegalInstructions : Prop :=
  (∀ s i c g sp f, issuer s = some (c, g, sp) → fieldsOf i = some f → (¬ i.WellFormed ∨ regsInRange g f = false) →
    ∃ t, exec i s = .next t ∧ traps (mkCtx c g sp f) ((mkCtx c g sp f).trapOf 1 (c.word.setWidth 64) sp.mask 0) s t) ∧
  (∀ s c ctx sp t h (is : List Instr) w rest, Reads s c ctx sp (encodeHeader h :: (is.flatMap encode ++ w :: rest)) t →
    decodeHeader (encodeHeader h) = some h → (∀ i ∈ is, i.WellFormed ∧ i.hasWords) → sp.slot = is.length →
    (∀ r, decodeWords ((w :: rest).take (lengthOf w)) ≠ .ok r) →
    fetch c ctx sp s = (.illegal { c with
      word := w, clause := encodeHeader h :: (is.flatMap encode ++ w :: rest), header := sp.pc,
      next := codeAfter sp.pc (1 + (is.flatMap encode).length + lengthOf w), last := decide (h.count ≤ sp.slot + 1),
      first := decide (sp.slot = 0), flagA := h.flagA, flagB := h.flagB, yield := h.yield, wait := h.wait }, t)) ∧
  (∀ s c ctx sp t w rest, Reads s c ctx sp (w :: rest) t → decodeHeader w = none → fetch c ctx sp s = (.header w, t)) ∧
  (∀ s t c c' g sp f, issuer s = some (c, g, sp) → fetch c g.ctx sp s = (.illegal c', t) → ∃ u, step s = .next (prune u) ∧
    traps (mkCtx c' g sp f) ((mkCtx c' g sp f).trapOf 1 (c'.word.setWidth 64) sp.mask 0) t u) ∧
  ∀ s t c g sp w, issuer s = some (c, g, sp) → fetch c g.ctx sp s = (.header w, t) →
    step s = .next (prune (takeTrap c.core c.slot c.lane
      { cause := 1, tinfo := w.setWidth 64, tmask := sp.mask, nextPc := sp.pc, nextSlot := 1 }
      (modGang (taken c t) c.core c.slot (modSplit c.lane (fun x => { x with slot := 0 })))))

/-- 13 R282 to R285: a trap of a split is delivered when the launch has a handler, no handler runs in the gang, the
task is not held and the cause is not the version overflow: `tcause` holds ACTIVE and the cause, `tpc` the address of
the clause and the slot, `tmask` and `tinfo` what the trap names; the split goes to the handler's first clause; nothing
else changes. While another split's handler runs, a trap is held with its split, in the order of the traps, and the
trap registers keep their values; without a handler, in the handler's own split, in a held task, or of cause 0xA, the
hardware acts: the task fails with reason 1 when it is held, any other context is killed. -/
def Obligations.TakingATrap : Prop :=
  ∀ (s : State) (core slot lane : Nat) (g : Gang) (sp : Split) (grp : Group) (tr : TrapInfo),
    getGang s core slot = some g → getGroup s core g.gslot = some grp → splitOf g lane = some sp →
    (grp.handler ≠ 0 → grp.held = false → tr.cause ≠ 0x0A → tr.cause < 256 → g.tcause.getLsbD 31 = false → sp.slot < 8 →
      ∃ g', takeTrap core slot lane tr s = modGang s core slot (fun _ => g') ∧
        g'.tcause.toNat = 2 ^ 31 + tr.cause ∧ field g'.tpc 63 14 * 4 = sp.pc.toNat / 4 * 4 ∧ field g'.tpc 13 11 = sp.slot ∧
        field g'.tpc 10 0 = 0 ∧ g'.tmask = tr.tmask ∧ g'.tinfo = tr.tinfo ∧
        (2 ≤ tr.cause → tr.cause ≤ 5 → g'.unfinished = tr.unfinished) ∧
        (∃ sp', splitOf g' lane = some sp' ∧ sp'.mask = sp.mask ∧ sp'.pc = grp.handler ∧ sp'.slot = 0 ∧ sp'.handler = true ∧
          sp'.wait = none ∧ sp'.replay = none ∧ sp'.fresh = true ∧
          sp'.resume = some { wait := sp.wait, fresh := sp.fresh, replay := sp.replay }) ∧
        g'.splits.map (fun x => (x.mask, x.age, x.starve)) = g.splits.map (fun x => (x.mask, x.age, x.starve)) ∧
        sameRegs g g' ∧ g'.w = g.w ∧ g'.held = g.held ∧ g'.ops = g.ops ∧ g'.join = g.join ∧ g'.quantum = g.quantum) ∧
    (grp.handler ≠ 0 → grp.held = false → tr.cause ≠ 0x0A → g.tcause.getLsbD 31 = true → sp.handler = false →
      ∃ g', takeTrap core slot lane tr s = modGang s core slot (fun _ => g') ∧
        g'.held.map (fun h => (h.cause, h.lane, h.tinfo, h.tmask)) =
          g.held.map (fun h => (h.cause, h.lane, h.tinfo, h.tmask)) ++ [(tr.cause, lane, tr.tinfo, tr.tmask)] ∧
        g'.tcause = g.tcause ∧ g'.tpc = g.tpc ∧ g'.tmask = g.tmask ∧ g'.tinfo = g.tinfo ∧ sameRegs g g' ∧
        ∃ sp', splitOf g' lane = some sp' ∧ sp'.trapPend = true ∧ sp'.pc = sp.pc ∧ sp'.slot = sp.slot) ∧
    ((grp.handler = 0 ∨ grp.held = true ∨ tr.cause = 0x0A ∨ (g.tcause.getLsbD 31 = true ∧ sp.handler = true)) →
      takeTrap core slot lane tr s =
        if grp.held then failTask core g.gslot 1 tr.cause s else killContext g.ctx s)

/-- 13 R281, 18 R390, 20 R509: `bkpt` traps with cause 0xC and `tinfo` 0, `trap` with cause 0xB and its immediate, the
lanes that act named and none left to perform. -/
def Obligations.SoftwareTraps : Prop :=
  (∀ f, Ends (.bkpt f) (fun x _ => x.act ≠ 0) (fun x s t => traps x (x.trapOf 0x0C 0 x.act 0) s t)) ∧
  (∀ f, Ends (.trapOp f) (fun x _ => x.act ≠ 0) (fun x s t => traps x (x.trapOf 0x0B (BitVec.ofNat 64 x.immN) x.act 0) s t))

/-- 20 R511, 13 R286: `tret`, at the end of its clause and while a handler runs, clears ACTIVE; with no trap held, the
split continues at the address and slot of `tpc` after a trap of an access (causes 2 to 5) with the lanes that are left, at the
clause's first slot after an engine fault (8), and at the address and slot after the instruction after causes 1, 6, 0xB
and 0xC; where `sets` wrote `tpc` it continues there whatever the cause. No register changes. Elsewhere `tret` is
illegal, with every lane of the split named (log 11, the model's reading). It ignores its guard. -/
def Obligations.TrapReturn : Prop :=
  (∀ f, Ends (.tret f) (fun x _ => x.cur.last = true ∧ x.gang.tcause.getLsbD 31 = true ∧ x.gang.held = [] ∧
      x.gang.divided ∧ ∀ sp ∈ x.gang.splits, sp.handler = true → laneIn sp.mask x.cur.lane = true)
    (fun x s t => SameButGang x.cur.core x.cur.slot s t ∧ ∃ g', getGang t x.cur.core x.cur.slot = some g' ∧
      g'.tcause = x.gang.tcause &&& 0x7FFFFFFF ∧ g'.tpc = x.gang.tpc ∧ g'.tmask = x.gang.tmask ∧ g'.tinfo = x.gang.tinfo ∧
      sameRegs x.gang g' ∧ ∃ sp', splitOf g' x.cur.lane = some sp' ∧ sp'.handler = false ∧
        (let at_ (pc : BitVec 52) (slot : Nat) := sp'.pc = pc ∧ sp'.slot = slot
         let pc := BitVec.ofNat 52 (field x.gang.tpc 63 14 * 4)
         let slot := field x.gang.tpc 13 11
         if x.gang.tpcWritten then at_ pc slot ∧ sp'.replay = none
         else if 2 ≤ x.gang.delivered ∧ x.gang.delivered ≤ 5 then
           at_ pc slot ∧ sp'.replay = some (x.gang.unfinished &&& ~~~(x.gang.tmaskAt &&& ~~~x.gang.tmask))
         else if x.gang.delivered = 0x08 then at_ pc 0
         else if x.gang.delivered = 0x01 ∨ x.gang.delivered = 0x06 ∨ x.gang.delivered = 0x0B ∨ x.gang.delivered = 0x0C then
           at_ x.gang.nextPc x.gang.nextSlot
         else at_ pc slot))) ∧
  (∀ f, Ends (.tret f) (fun x _ => x.cur.last = false ∨ x.gang.tcause.getLsbD 31 = false)
    (fun x s t => traps x (x.trapOf 1 (x.cur.word.setWidth 64) x.sp.mask 0) s t))

/-- 20 R501, 03 R62, 13 R282, R286, R291: `sets`, once per issue, writes the system value of its selector and nothing
else: the quantum (1 to 3 are stored as 4, more than 255 as 255; STARVE returns to 0), the deadline, the cause field of
`tcause`, `tpc`, `tmask`, `tinfo`, and a write of `peer.status` clears it; with no acting lane it writes nothing; a
`tpc` whose low bits are not 0 is illegal, with every lane of the split named (log 11, the model's reading). -/
def Obligations.SetSystemValues : Prop :=
  (∀ f, Ends (.sets f) (fun x _ => x.act ≠ 0 ∧ (x.immN = 0x11 → x.a x.lane0 % 2 ^ 11 = 0)) (fun x s t =>
    let v := x.a x.lane0
    let g := x.issued s
    becomes x s t (advanceSplit x.cur (
      if x.immN = 0x0D then { g with quantum := if v = 0 then 0 else min (max v 4) 255,
                                     splits := g.splits.map (fun sp => { sp with starve := 0 }) }
      else if x.immN = 0x0E then { g with deadline := min v 65535 }
      else if x.immN = 0x10 then { g with tcause := setField g.tcause 7 0 v }
      else if x.immN = 0x11 then { g with tpc := BitVec.ofNat 64 v, tpcWritten := true }
      else if x.immN = 0x12 then { g with tmask := BitVec.ofNat 64 v }
      else if x.immN = 0x13 then { g with tinfo := BitVec.ofNat 64 v }
      else { g with peerStatus := 0 })))) ∧
  (∀ f, Ends (.sets f) (fun x _ => x.act = 0) (fun x s t => becomes x s t (advanceSplit x.cur (x.issued s)))) ∧
  (∀ f, Ends (.sets f) (fun x _ => x.act ≠ 0 ∧ x.immN = 0x11 ∧ x.a x.lane0 % 2 ^ 11 ≠ 0)
    (fun x s t => traps x (x.trapOf 1 (x.cur.word.setWidth 64) x.sp.mask 0) s t))

/-- 19 R475, 20 R490, R513, R515, R518, 14 R310: `nop` and `yield`, a `waitf` that is the first of its clause and whose
flags the header waits for, a `phint` of an aligned range in the group's scratchpad with no pre-emption pending, and a
`vcommit` outside a held task change nothing: the split moves past them, past a `yield` to the header after its clause also
where the clause goes on after it (log 104, the model's reading). So does an access to memory, a trap, an `exit`
or a command of an engine with no acting lane (16 R344). 13 R290, R291: with a pre-emption of the context pending, a `phint`
whose guard is true stops its split after it, with its live set joined to the gang's and its range recorded, unless the
split reaches the header of a sibling and merges with it (03 R63; what the merged split does is log 56). -/
def Obligations.HintInstructions : Prop :=
  (∀ f, Ends (.nop f) (fun _ _ => True) (fun x s t => becomes x s t (advanceSplit x.cur (x.issued s)))) ∧
  (∀ f, Ends (.yieldOp f) (fun _ _ => True) (fun x s t => becomes x s t (advanceSplit x.cur.ended (x.issued s)))) ∧
  (∀ f, Ends (.waitf f) (fun x _ => x.cur.first = true ∧ ∀ n, n < 12 → x.immN.testBit n → x.cur.wait.getLsbD n)
    (fun x s t => becomes x s t (advanceSplit x.cur (x.issued s)))) ∧
  (∀ f, Ends (.phint f) (fun x s => mapFind s.preempts x.gang.ctx = none ∧ x.b x.lane0 % 2 ^ 32 % 16 = 0 ∧
      x.b x.lane0 / 2 ^ 32 % 16 = 0 ∧ (x.b x.lane0 / 2 ^ 32 = 0 ∨ x.b x.lane0 % 2 ^ 32 + x.b x.lane0 / 2 ^ 32 ≤ (x.group s).ssize))
    (fun x s t => becomes x s t (advanceSplit x.cur (x.issued s)))) ∧
  (∀ f, Ends (.vcommit f) (fun x s => (x.group s).held = false)
    (fun x s t => becomes x s t (advanceSplit x.cur (x.issued s)))) ∧
  (∀ f i, i ∈ [Instr.ld f, .st f, .lds f, .sts f, .jinit f, .jwait f, .atom f, .atomw f, .ratom f, .fence f, .nfence f, .win f,
      .discard f, .pref f, .exitOp f, .bkpt f, .trapOp f, .nzero f, .ncopy f, .ncmp f, .cpy f, .cpyl f, .pbinit f, .pbexp f,
      .pbarv f, .pbwait f, .mshape f] →
    Ends i (fun x s => x.act = 0 ∧ (x.group s).shadow = false ∧
        (i = .ld f ∨ i = .lds f → x.f.e.kd = 1#2 → x.uniform 1 = true))
      (fun x s t => becomes x s t (advanceSplit x.cur (x.issued s)))) ∧
  ∀ f, Ends (.phint f) (fun x s => x.act ≠ 0 ∧ x.gang.divided ∧ mapFind s.preempts x.gang.ctx ≠ none ∧
      x.b x.lane0 % 2 ^ 32 % 16 = 0 ∧
      x.b x.lane0 / 2 ^ 32 % 16 = 0 ∧ (x.b x.lane0 / 2 ^ 32 = 0 ∨ x.b x.lane0 % 2 ^ 32 + x.b x.lane0 / 2 ^ 32 ≤ (x.group s).ssize))
    (fun x s t => SameButGang x.cur.core x.cur.slot s t ∧ ∃ g', getGang t x.cur.core x.cur.slot = some g' ∧
      g'.live = x.gang.live ||| BitVec.ofNat 256 (x.a x.lane0) ∧ sameRegs x.gang g' ∧
      ∃ sp', splitOf g' x.cur.lane = some sp' ∧
        (sp'.stop = some (.phint (x.b x.lane0 % 2 ^ 32) (x.b x.lane0 / 2 ^ 32)) ∨
          (x.cur.last = true ∧ ∃ y ∈ x.gang.splits, laneIn y.mask x.cur.lane = false ∧ y.pc = x.cur.next ∧ y.atHeader = true)) ∧
        (sp'.pc, sp'.slot) = (if x.cur.last then (x.cur.next, 0) else (x.sp.pc, x.sp.slot + 1)))

/-- The lanes of a branch that have left its clause, as a branch leaves them (18 R376, 03 R58): each acting lane stands
at its target, each other lane of the split at the header after the clause; every lane of another split stands where it
stood; nothing but the gang changes, and of it the splits and destination d. -/
def branched (x : Ctx) (target : Nat → BitVec 52) (regs : Gang → Gang → Prop) (s t : State) : Prop :=
  SameButGang x.cur.core x.cur.slot s t ∧ ∃ g', getGang t x.cur.core x.cur.slot = some g' ∧
    g'.apart = (endReplay x.cur.lane x.gang).apart ∧ regs x.gang g' ∧
    (∀ h, laneIn x.sp.mask h → standsAt g' h (if laneIn x.act h then target h else x.cur.next)) ∧
    ∀ h sp, laneIn x.sp.mask h = false → splitOf x.gang h = some sp →
      ∃ sp', splitOf g' h = some sp' ∧ sp'.pc = sp.pc ∧ sp'.slot = sp.slot

/-- A branch that may divide its split: it ends its clause, some lane acts, and the gang has a record for every header
that its lanes go to (03 R58). -/
def mayBranch (x : Ctx) (target : Nat → BitVec 52) : Prop :=
  x.cur.last = true ∧ x.act ≠ 0 ∧ x.gang.divided ∧
    (groupMoves (fun h => if laneIn x.act h then target h else x.cur.next) (lanesOf x.sp.mask)).length + x.gang.splits.length ≤ 9

/-- 18 R376, R391, R393, R396, R397, 19 R458, 20 R499, 03 R58: `bra` and `call` take their acting lanes to the code
address of the immediate, counted in words from the header of the clause; `brx`, `callx` and `ret` to the address each
lane's pair holds; `loop` to the immediate's address where the counter less one is not 0. The calls write the header
after the clause to d, `loop` the counter; no other register changes. -/
def Obligations.Branches : Prop :=
  let here (x : Ctx) (_ : Nat) : BitVec 52 := BitVec.ofInt 52 ((x.cur.header.toNat : Int) + 4 * (immediateOf x.f).toInt)
  let pair (x : Ctx) (h : Nat) : BitVec 52 := BitVec.ofNat 52 (x.a h)
  let aligned (x : Ctx) : Prop := ∀ h, laneIn x.act h → x.a h % 4 = 0
  let count (x : Ctx) (h : Nat) : Nat := (x.d h + 2 ^ 32 - 1) % 2 ^ 32
  let turn (x : Ctx) (h : Nat) : BitVec 52 := if count x h = 0 then x.cur.next else here x h
  (∀ f, Ends (.bra f) (fun x _ => mayBranch x (here x)) (fun x s t => branched x (here x) sameRegs s t)) ∧
  (∀ f, Ends (.brx f) (fun x _ => mayBranch x (pair x) ∧ aligned x) (fun x s t => branched x (pair x) sameRegs s t)) ∧
  (∀ f, Ends (.retOp f) (fun x _ => mayBranch x (pair x) ∧ aligned x) (fun x s t => branched x (pair x) sameRegs s t)) ∧
  (∀ f, Ends (.callOp f) (fun x _ => mayBranch x (here x))
    (fun x s t => branched x (here x) (destAfter x (fun _ => x.cur.next.toNat)) s t)) ∧
  (∀ f, Ends (.callx f) (fun x _ => mayBranch x (pair x) ∧ aligned x)
    (fun x s t => branched x (pair x) (destAfter x (fun _ => x.cur.next.toNat)) s t)) ∧
  (∀ f, Ends (.loopOp f) (fun x _ => mayBranch x (turn x)) (fun x s t => branched x (turn x) (destAfter x (count x)) s t))

/-- 18 R376, 20 R511, 03 R58, 02 R51: a branch that does not end its clause is illegal, with every lane of the split
named (log 11, the model's reading); one of a register to an address that is no multiple of 4 traps with cause 2, the
lowest such lane's address in `tinfo`, and no lane moves; one with no acting lane moves past its clause; a `bra` that
needs a record while the gang's eight are in use, and no lane of which can join another split, issues again after the
other splits of its gang in the slot, whose merges may free a record in the cycle (03 R74; that it issues again at the
slot's end is log 79, the model's choice), and waits for a record when none of them is still to issue. -/
def Obligations.BranchesThatStay : Prop :=
  let stuck (x : Ctx) : Prop := x.cur.last = true ∧ x.act ≠ 0 ∧ x.act ≠ x.sp.mask ∧ 8 ≤ x.gang.splits.length ∧
    x.codeTarget ≠ x.cur.next ∧ ∀ sp ∈ x.gang.splits, sp.mask ≠ x.sp.mask → sp.pc ≠ x.codeTarget ∧ sp.pc ≠ x.cur.next
  let others (x : Ctx) (s : State) : Prop :=
    ∃ c ∈ s.issueQ.tail, c.core = x.cur.core ∧ c.slot = x.cur.slot ∧ c.clause = []
  (∀ f i, (i = Instr.bra f ∨ i = .brx f ∨ i = .callOp f ∨ i = .callx f ∨ i = .retOp f ∨ i = .loopOp f) →
    Ends i (fun x _ => x.cur.last = false) (fun x s t => traps x (x.trapOf 1 (x.cur.word.setWidth 64) x.sp.mask 0) s t) ∧
    Ends i (fun x _ => x.cur.last = true ∧ x.act = 0) (fun x s t => becomes x s t (advanceSplit x.cur (x.issued s)))) ∧
  (∀ f i, (i = Instr.brx f ∨ i = .callx f ∨ i = .retOp f) →
    Ends i (fun x _ => x.cur.last = true ∧ ∃ h, laneIn x.act h = true ∧ x.a h % 4 ≠ 0) (fun x s t =>
      ∃ h, laneIn x.act h = true ∧ x.a h % 4 ≠ 0 ∧ (∀ k, k < h → laneIn x.act k = true → x.a k % 4 = 0) ∧
        ∃ m, (∀ k, k < 64 → (laneIn m k = true ↔ laneIn x.act k = true ∧ x.a k % 4 ≠ 0)) ∧
          traps x (x.trapOf 2 (BitVec.ofNat 64 (x.a h % 2 ^ 52)) m x.act) s t)) ∧
  (∀ f, Ends (.bra f) (fun x s => stuck x ∧ ¬ others x s) (fun x s t => waitsAt x .record 0 false s t)) ∧
  (∀ f, Ends (.bra f) (fun x s => stuck x ∧ others x s)
    (fun x s t => t = { taken x.cur s with issueQ := s.issueQ.tail ++ [x.cur] }))

/-! ## Values -/

/-- 18 R380, 19 R459, R476, 20 R480: the bits of the results of the logic instructions and the shifts, at TYPE's width
of 32 or 64: a count is 32 bits, unsigned; a shift by the width or more gives zeros, `sar` the sign; `rotl` turns by the
count modulo the width. -/
def Obligations.LogicAndShiftBits : Prop :=
  ∀ (t w : Nat) (a b c : BitVec 64), typeWidth t = w → (w = 32 ∨ w = 64) →
    (∀ i, i < 64 → (andVal t a b).getLsbD i = (decide (i < w) && (a.getLsbD i && b.getLsbD i))) ∧
    (∀ i, i < 64 → (orVal t a b).getLsbD i = (decide (i < w) && (a.getLsbD i || b.getLsbD i))) ∧
    (∀ i, i < 64 → (xorVal t a b).getLsbD i = (decide (i < w) && (a.getLsbD i != b.getLsbD i))) ∧
    (∀ i, i < 64 → (notVal t a).getLsbD i = (decide (i < w) && !a.getLsbD i)) ∧
    (∀ table i, i < 64 → (lop3Val t table a b c).getLsbD i = (decide (i < w) && table.testBit
      ((if a.getLsbD i then 1 else 0) + (if b.getLsbD i then 2 else 0) + (if c.getLsbD i then 4 else 0)))) ∧
    let n := b.toNat % 2 ^ 32
    (∀ i, i < 64 → (shlVal t a b).getLsbD i = (decide (i < w) && decide (n ≤ i) && a.getLsbD (i - n))) ∧
    (∀ i, i < 64 → (shrVal t a b).getLsbD i = (decide (i + n < w) && a.getLsbD (i + n))) ∧
    (∀ i, i < 64 → (sarVal t a b).getLsbD i = (decide (i < w) && a.getLsbD (min (i + n) (w - 1)))) ∧
    (∀ i, i < 64 → (rotlVal t a b).getLsbD i = (decide (i < w) && a.getLsbD ((i + w - n % w) % w)))

/-- 18 R388, R389, R392, R398, R401, R428, 20 R480, R489: the bits of the funnel shift, of the bit fields (position in
b[7:0], length in b[15:8], cut at the width), of the reversal and of the permutations, and what the counts count. -/
def Obligations.FieldAndCountBits : Prop :=
  ∀ (t w : Nat) (a b c : BitVec 64), typeWidth t = w → (w = 32 ∨ w = 64) →
    let pos := b.toNat % 256
    let len := min (pos + b.toNat / 256 % 256) w - pos
    (∀ i, i < 64 → (funlVal a b c).getLsbD i = (decide (i < 32) &&
      (let k := i + 32 - min (b.toNat % 2 ^ 32) 32; if k < 32 then c.getLsbD k else a.getLsbD (k - 32)))) ∧
    (∀ i, i < 64 → (bfxVal t 0 a b).getLsbD i = (decide (i < len) && a.getLsbD (pos + i))) ∧
    (∀ i, i < 64 → (bfxVal t 1 a b).getLsbD i =
      (decide (i < w) && decide (0 < len) && a.getLsbD (pos + min i (len - 1)))) ∧
    (∀ i, i < 64 → (bfiVal t a b c).getLsbD i =
      (decide (i < w) && if pos ≤ i ∧ i < pos + len then a.getLsbD (i - pos) else c.getLsbD i)) ∧
    (popcVal t a).toNat = (List.range w).countP (fun i => a.getLsbD i) ∧
    (let z := (clzVal t a).toNat
     z ≤ w ∧ (∀ i, w - z ≤ i → i < w → a.getLsbD i = false) ∧ (z < w → a.getLsbD (w - 1 - z) = true)) ∧
    (let z := (ctzVal t a).toNat
     z ≤ w ∧ (∀ i, i < z → a.getLsbD i = false) ∧ (z < w → a.getLsbD z = true)) ∧
    (∀ i, i < 64 → (brevVal t a).getLsbD i = (decide (i < w) && a.getLsbD (w - 1 - i))) ∧
    (let src := c.toNat % 2 ^ 32 * 2 ^ 32 + a.toNat % 2 ^ 32
     let sel (k : Nat) := b.toNat / 16 ^ k % 16
     (∀ k, k < 16 → (permVal 0 a b c).toNat / 16 ^ k % 16 = if k < 8 then src / 16 ^ sel k % 16 else 0) ∧
     ∀ k, k < 8 → (permVal 1 a b c).toNat / 256 ^ k % 256 =
       if 4 ≤ k then 0
       else if sel k ≤ 7 then src / 256 ^ sel k % 256
       else if sel k = 8 then 0
       else if sel k = 9 then 255
       else if 128 ≤ src / 256 ^ (sel k - 10) % 256 then 255 else 0)

/-- 05 R97, R102, R103, 18 R378, R410, R413, R415, R417, R422 to R425: rounding a finite code's own value gives the code
back, in every format and rounding mode; an operation on a NaN, infinity less infinity, infinity times zero, zero by
zero and infinity by infinity give the canonical NaN; a finite value but zero divided by zero is infinity with the sign of the
quotient; `fmin` and `fmax` of one NaN give the other operand. Roots, powers of two, logarithms, sine, cosine and the
hyperbolic tangent have the results their rules give for NaN, infinities, zeros and negatives; the root of a square, the
power of an integer and the logarithm of a power of two are exact before their one rounding; rounded toward zero a root
and its reciprocal are the greatest codes not above the true value. The class is by value, rounding to an integral value
is exact in each mode, and the rules' own examples come out. The last points of the functions are the true values
rounded to nearest. -/
def Obligations.FloatResults : Prop :=
  ∀ f ∈ [f64, f32, f16, bf16, e4m3, e5m2, e2m1, e3m5],
    (∀ rm c neg n e, c < 2 ^ f.width → f.decode c = .fin neg n e → f.round rm neg n e = c) ∧
    (∀ rm a b, f.decode a = .nan ∨ f.decode b = .nan → f.addC rm a b = f.nan ∧ f.subC rm a b = f.nan ∧
      f.mulC rm a b = f.nan ∧ f.div rm (f.decode a) (f.decode b) = f.nan ∧ ∀ c, f.fmaC rm a b c = f.nan ∧ f.fmaC rm c a b = f.nan) ∧
    (∀ rm a b sa sb, f.decode a = .inf sa → f.decode b = .inf sb →
      (sa = sb → f.subC rm a b = f.nan ∧ f.addC rm a b = f.infCode sa) ∧ (sa ≠ sb → f.addC rm a b = f.nan) ∧
      f.div rm (f.decode a) (f.decode b) = f.nan ∧ f.mulC rm a b = f.infCode (sa != sb)) ∧
    (∀ rm a b sa sb e, f.decode a = .inf sa → f.decode b = .fin sb 0 e → f.mulC rm a b = f.nan ∧ f.mulC rm b a = f.nan) ∧
    (∀ rm a b sa sb n ea eb, f.decode a = .fin sa n ea → f.decode b = .fin sb 0 eb →
      f.div rm (f.decode a) (f.decode b) = if n = 0 then f.nan else f.infCode (sa != sb)) ∧
    (∀ isMax a b, f.decode a = .nan → f.decode b ≠ .nan → f.minMax isMax a b = b ∧ f.minMax isMax b a = b) ∧
    -- roots
    (∀ rm s n e, f.sqrt rm .nan = f.nan ∧ f.sqrt rm (.inf false) = f.infCode false ∧ f.sqrt rm (.inf true) = f.nan ∧
      f.sqrt rm (.fin s 0 e) = f.signCode s 0 ∧ (n ≠ 0 → f.sqrt rm (.fin true n e) = f.nan) ∧
      f.rsqrt rm .nan = f.nan ∧ f.rsqrt rm (.inf false) = f.signCode false 0 ∧ f.rsqrt rm (.inf true) = f.nan ∧
      f.rsqrt rm (.fin s 0 e) = f.infCode s ∧ (n ≠ 0 → f.rsqrt rm (.fin true n e) = f.nan) ∧
      f.sqrt rm (.fin false (n * n) (2 * e)) = f.round rm false n e) ∧
    (∀ a n e, f.decode a = .fin false n e → n ≠ 0 →
      (∃ m g, f.decode (f.sqrt 2 (f.decode a)) = .fin false m g ∧
        ((m : ℚ) * 2 ^ g) ^ 2 ≤ n * 2 ^ e ∧ n * 2 ^ e < ((m + 1 : ℚ) * 2 ^ g) ^ 2) ∧
      ∃ m g, f.decode (f.rsqrt 2 (f.decode a)) = .fin false m g ∧
        ((m : ℚ) * 2 ^ g) ^ 2 * (n * 2 ^ e) ≤ 1 ∧ 1 < ((m + 1 : ℚ) * 2 ^ g) ^ 2 * (n * 2 ^ e)) ∧
    -- powers, logarithms and the rest
    (∀ s n e, ∀ k : Int, ∀ j : Nat,
      f.exp2 .nan = f.nan ∧ f.exp2 (.inf true) = f.signCode false 0 ∧ f.exp2 (.inf false) = f.infCode false ∧
      f.exp2 (.fin s 0 e) = f.round 0 false 1 0 ∧ f.exp2 (FVal.ofInt k) = f.round 0 false 1 k ∧
      f.lg2 .nan = f.nan ∧ f.lg2 (.inf false) = f.infCode false ∧ f.lg2 (.inf true) = f.nan ∧
      f.lg2 (.fin s 0 e) = f.infCode true ∧ (n ≠ 0 → f.lg2 (.fin true n e) = f.nan) ∧
      f.lg2 (.fin false (2 ^ j) e) = f.ofVal 0 (FVal.ofInt (j + e)) ∧
      f.trig false .nan = f.nan ∧ f.trig true .nan = f.nan ∧ f.trig false (.inf s) = f.nan ∧ f.trig true (.inf s) = f.nan ∧
      f.trig false (.fin s 0 e) = f.signCode s 0 ∧ f.trig true (.fin s 0 e) = f.round 0 false 1 0 ∧
      f.tanh .nan = f.nan ∧ f.tanh (.inf s) = f.round 0 s 1 0 ∧ f.tanh (.fin s 0 e) = f.signCode s 0) ∧
    -- classes and integral values
    (∀ c, (f.decode c = .nan → f.classMask c = 256) ∧ (f.decode c = .inf true → f.classMask c = 1) ∧
      (f.decode c = .inf false → f.classMask c = 128) ∧
      ∀ s n e, f.decode c = .fin s n e →
        let x : ℚ := n * 2 ^ e
        (x = 0 → f.classMask c = if s then 8 else 16) ∧
        (0 < x → x < 2 ^ f.emin → f.classMask c = if s then 4 else 32) ∧
        ((2 : ℚ) ^ f.emin ≤ x → f.classMask c = if s then 2 else 64)) ∧
    (∀ rm neg n e, rm < 5 →
      let v := roundToInt rm neg n e
      let scaled := n * 2 ^ e.toNat
      let one := 2 ^ (-e).toNat
      let r := scaled % one
      let up : Prop := match rm with
        | 0 => one < 2 * r ∨ 2 * r = one ∧ scaled / one % 2 = 1
        | 1 => one ≤ 2 * r
        | 2 => False
        | 3 => r ≠ 0 ∧ neg = false
        | _ => r ≠ 0 ∧ neg = true
      (up → v.natAbs = scaled / one + 1) ∧ (¬up → v.natAbs = scaled / one) ∧ (if neg then v ≤ 0 else 0 ≤ v)) ∧
    (∀ rm c, c < 2 ^ f.width →
      (f.decode c = .nan → f.rnd rm c = f.nan) ∧ (∀ s, f.decode c = .inf s → f.rnd rm c = c) ∧
      ∀ s n e, f.decode c = .fin s n e →
        (2 ^ (-e).toNat ∣ n → f.rnd rm c = c) ∧
        ∃ m g, f.decode (f.rnd rm c) = .fin s m g ∧ (m : ℚ) * 2 ^ g = (roundToInt rm s n e).natAbs) ∧
    -- the rules' own examples, and points of the functions
    f32.rcpC 0 0x40400000 = 0x3EAAAAAB ∧ f32.rcpC 2 0x40400000 = 0x3EAAAAAA ∧
    f32.rnd 0 0x40200000 = 0x40000000 ∧ f32.rnd 1 0x40200000 = 0x40400000 ∧ f32.rnd 4 0xBE800000 = 0xBF800000 ∧
    f32.rnd 0 0xBE800000 = 0x80000000 ∧ bf16.classMask 1 = 32 ∧ bf16.classMask 0xFF80 = 1 ∧
    f32.sqrt 0 (f32.decode 0x40000000) = 0x3FB504F3 ∧ f32.exp2 (f32.decode 0x3F000000) = 0x3FB504F3 ∧
    f32.lg2 (f32.decode 0x40400000) = 0x3FCAE00D ∧ f32.trig false (f32.decode 0x3F800000) = 0x3F576AA4 ∧
    f32.trig true (f32.decode 0x3F800000) = 0x3F0A5140 ∧ f32.tanh (f32.decode 0x3F800000) = 0x3F42F7D6

/-- 06 R123, R130 to R135, R137: an integer of the certified range is judged clean from its ten residues; with the
residue of any one channel replaced by anything it is still judged, as that integer with that channel at fault: a fault
within one channel is corrected in every element, and the value is exact. Its redundant residues are regenerated from
its working ones. -/
def Obligations.OneChannelCorrected : Prop :=
  ∀ v, -(2 ^ 62 : Int) ≤ v → v < 2 ^ 62 →
    judge true (residues v) = .clean v ∧
    (∀ j r, j < 10 → r ≠ residueOf j v → judge true ((residues v).set j r) = .fixed v j) ∧
    extendResidues ((residues v).take 8) = some (residues v)

/-- 03 R65, R67, 19 R460, 20 R497, R502, R514: what the collectives hold. `vote.ballot` has the bit of the rank of each
acting lane whose predicate is true, `vote.count` their number, `vote.first` the lowest rank or all ones; the lanes of
one class of `match` are the acting lanes whose a is equal; the rank `shfl` reads is, by mode, b, the lane's rank and b
(modulo the split's width but under `.edge`), their exclusive or, and b less the lane's rank; an integer `redx` over the acting lanes is the sum, wrapped
or saturated once, the least, or the greatest; a logic one works bit by bit. -/
def Obligations.CollectiveValues : Prop :=
  ∀ x : Ctx,
    (∀ k, (namedReg x.f.e.a.toNat).map (·.2) = some k →
      let on (h : Nat) : Prop := laneIn x.act h = true ∧ laneIn (preg x.gang k) h = true
      (x.mn = 0 → x.act &&& ~~~x.sp.mask = 0 → ∀ r, (voteVal x).testBit r = true ↔ ∃ h, h < 64 ∧ on h ∧ rankIn x.sp.mask h = r) ∧
      (x.mn = 1 → x.f.e.kd ≠ 2#2 → voteVal x = laneCount (x.act &&& preg x.gang k)) ∧
      (x.mn = 2 → ((∀ h, h < 64 → ¬ on h) → voteVal x = 0xFFFFFFFF) ∧
        ∀ h, h < 64 → on h → (∀ i, i < h → ¬ on i) → voteVal x = rankIn x.sp.mask h)) ∧
    (∀ h k, k ∈ matchClass x h ↔ k < 64 ∧ laneIn x.act k = true ∧ x.a k = x.a h) ∧
    (∀ h, h < 64 → laneIn x.sp.mask h = true →
      let w := laneCount x.sp.mask
      let r := rankIn x.sp.mask h
      let k : Nat := x.b h % 2 ^ 32
      let ks : Int := if k < 2 ^ 31 then k else (k : Int) - 2 ^ 32
      (x.mn = 0 → shflSource x h = k) ∧
      (x.mn = 1 → x.md = 1 → shflSource x h = r + ks) ∧
      (x.mn = 1 → x.md ≠ 1 → 0 ≤ shflSource x h ∧ shflSource x h < w ∧ (w : Int) ∣ r + ks - shflSource x h) ∧
      (x.mn = 2 → ∃ n : Nat, shflSource x h = n ∧ ∀ i, n.testBit i = (r.testBit i ^^ k.testBit i)) ∧
      (x.mn = 3 → shflSource x h = ks - r)) ∧
    (x.act ≠ 0 → x.act &&& ~~~x.sp.mask = 0 →
      let ints := (lanesOf x.act).map x.aInt
      (x.mn = 0 → isFlt x.t = false → redxVal x = x.intResult ints.sum) ∧
      (x.mn = 1 → isFlt x.t = false → ∃ m ∈ ints, (∀ n ∈ ints, m ≤ n) ∧ redxVal x % 2 ^ typeWidth x.t = (m % 2 ^ typeWidth x.t).toNat) ∧
      (x.mn = 2 → isFlt x.t = false → ∃ m ∈ ints, (∀ n ∈ ints, n ≤ m) ∧ redxVal x % 2 ^ typeWidth x.t = (m % 2 ^ typeWidth x.t).toNat) ∧
      (x.mn = 3 → ∀ i, i < typeWidth x.t → ((redxVal x).testBit i = true ↔ ∀ h ∈ lanesOf x.act, (x.a h).testBit i = true)) ∧
      (x.mn = 4 → ∀ i, i < typeWidth x.t → ((redxVal x).testBit i = true ↔ ∃ h ∈ lanesOf x.act, (x.a h).testBit i = true)))

/-! ## Groups, spawning and launches -/

/-- 03 R70 to R72, 20 R498: at a `regang` that no rendezvous of the gang precedes, with every lane of the split acting,
the split waits with its effect made, and the group has a rendezvous of the gangs that take part, at this instruction,
with the split's lanes arrived. When a rendezvous is complete, the live lanes of its gangs, in order of `gang.id` and
lane, take places 0, 1, … of the same gangs, a gang's width to each: each keeps its lane predicates and the vector
registers of the live set, and the survivors stand after the instruction as one split. -/
def Obligations.Regang : Prop :=
  (∀ f, Ends (.regang f) (fun x s => x.act ≠ 0 ∧ x.act = x.sp.mask ∧ x.sp.wait = none ∧
      (128 ≤ x.gang.id → x.mn = 0 ∨ x.mn = 4) ∧ (∀ r ∈ (x.group s).rendezvous, x.cur.slot ∉ r.parts) ∧
      (getGroup s x.cur.core x.gang.gslot).isSome ∧ x.gang.divided ∧
      mixedMembers (taken x.cur s) x.cur.core (x.group s)
        (regangSet (taken x.cur s) x.cur.core (x.group s) x.cur.slot x.gang x.mn) = false)
    (fun x s t =>
      (∃ sp', (getGang t x.cur.core x.cur.slot).bind (fun g => splitOf g x.cur.lane) = some sp' ∧ sp'.pc = x.sp.pc ∧
        sp'.slot = x.sp.slot ∧ sp'.wait = some { kind := .regang, obj := 0, since := s.clock, acted := true }) ∧
      (∀ a, physByte t a = physByte s a) ∧
      ∃ r ∈ (x.group t).rendezvous, r.parts = regangSet (taken x.cur s) x.cur.core (x.group s) x.cur.slot x.gang x.mn ∧
        r.pc = x.sp.pc ∧ r.slot = x.sp.slot ∧ r.mode = x.mn ∧ r.live = BitVec.ofNat 256 (x.a x.lane0) ∧
        r.timer = s.clock ∧ mapGet 0 r.arrived x.cur.slot = x.act)) ∧
  ∀ (s : State) (core gslot : Nat) (r : Rendezvous) (gangs : List (Nat × Gang)) (w : Nat),
    0 < w → w ≤ 64 → gangs.map (·.1) = r.parts → r.parts.Nodup → gangs ≠ [] →
    (∀ e ∈ gangs, getGang s core e.1 = some e.2 ∧ e.2.width = w ∧ risingFrom 0 e.2.v = true) →
    (gangs.map (·.2.id)).Pairwise (· < ·) →
    let lanes := gangs.flatMap (fun e => (lanesOf (liveLanes e.2)).map (fun h => (e.2, h)))
    let t := migrateLanes core gslot r s
    ∀ i k (g : Gang), gangs[i]? = some (k, g) →
      ∃ g', getGang t core k = some g' ∧ g'.s = g.s ∧ g'.q = g.q ∧
        (∀ n old h, n < w → lanes[w * i + n]? = some (old, h) →
          (∀ m, m < 256 → r.live.getLsbD m = true → vreg g' m n = vreg old m h) ∧
          (∀ p, p < 8 → laneIn (preg g' p) n = laneIn (preg old p) h) ∧ mapFind g'.join n = mapFind old.join h) ∧
        liveLanes g' = firstLanes (min w (lanes.length - w * i)) ∧
        ∀ sp ∈ g'.splits, sp.pc = r.nextPc ∧ sp.slot = r.nextSlot

/-- 04 R75 to R81, 20 R503, R504: `spawn` asks in rank order for every acting lane whose join address may be used, writes
to d which requests were accepted, and moves on. A lane's request is refused, with no effect, when its join counter
holds all ones; it is accepted into the queue when the group has nothing spilled, holds fewer records than its quota,
the queue has room and the slot demand allows: the record joins the queue's end with the lane's payload, and the join
counter gains one. -/
def Obligations.SpawnRequests : Prop :=
  (∀ f, Ends (.spawn f) (fun x s => (x.group s).quota ≠ 0 ∧ ((x.group s).roles = true → (x.group s).counts.getD 3 0 ≠ 0) ∧
      x.act ≠ 0 ∧ (x.md = 1 → ∀ h, laneIn x.act h = true → x.b h % 4 = 0 ∧ x.b h + 4 ≤ (x.group s).ssize))
    (fun x s t =>
      let entry := if x.f.e.kc = 1#2 then BitVec.ofNat 52 (x.c 0) else x.codeTarget
      let r := spawnLanes x (entry &&& ~~~3#52) (lanesOf x.act) 0 (taken x.cur s)
      t = complete x (onGang x (fun g => setPreg g x.f.e.d.toNat x.act r.1) r.2))) ∧
  ∀ (x : Ctx) (entry : BitVec 52) (h : Nat) (s : State),
    let core := x.cur.core
    let g := x.group s
    let k := getCore s core
    (x.md = 1 → scratchRead s core g (x.b h) 4 = 2 ^ 32 - 1 → spawnLane x entry h s = (false, s)) ∧
    ((x.md = 1 → scratchRead s core g (x.b h) 4 ≠ 2 ^ 32 - 1) → g.spilled = [] → queuedOf k x.gang.gslot < g.quota →
      k.spawnq.length < 2048 →
      let fits := slotDemand k + queueRise k g x.gang.gslot entry ≤ 48 - launchedGangs k
      (¬ fits → spawnLane x entry h s = (false, s)) ∧
      (fits → ∃ t, spawnLane x entry h s = (true, t) ∧ (getCore t core).seq = k.seq + 1 ∧
        (getCore t core).spawnq = k.spawnq ++ [{
          payload := (List.range x.mn).map (fun i => vreg x.gang (x.f.e.a.toNat + i) h), npay := x.mn,
          jaddr := if x.md = 1 then x.b h else 0, join := decide (x.md = 1), gslot := x.gang.gslot,
          ggen := mapGet 0 k.ggen x.gang.gslot, seq := k.seq % 65536, entry := entry, landed := some s.cycles }] ∧
        (x.md ≠ 1 → (getCore t core).scratch = k.scratch) ∧
        (x.md = 1 → scratchRead t core g (x.b h) 4 = scratchRead s core g (x.b h) 4 + 1) ∧
        t.mem = s.mem ∧ (getCore t core).gangs = k.gangs ∧ (getCore t core).groups = k.groups))

/-- 04 R87, R89, 19 R452, R453, 20 R507, 08 R175, R177, 09 R206: `jinit` and `sts` store each acting lane's value at its
offset of the group's scratchpad and change nothing else; an `sts` that meets a phase barrier with operations pending
changes at most that object besides; `jwait` goes on when every acting lane's counter reads 0, and waits
otherwise. 13 R283, R544, 19 R453: a lane whose offset is misaligned, or past the group's range, traps with cause 2 or 3,
`tinfo` the offset of the lowest such lane and `tmask` all of them; the other lanes of `jinit` and `sts` have stored, and a
`jwait` reads no counter and leaves every acting lane unfinished. -/
def Obligations.ScratchpadStores : Prop :=
  let inRange (n : Nat) (x : Ctx) (s : State) : Prop :=
    ∀ h, laneIn x.act h = true → x.scratchAddr h true % n = 0 ∧ x.scratchAddr h true + n ≤ (x.group s).ssize
  let storesAt (n : Nat) (x : Ctx) (s t : State) : Prop :=
    let m := (getCore t x.cur.core).scratch
    Leaves x s (modCore s x.cur.core (fun k => { k with scratch := m })) t ∧ past x s t x.gang.ops ∧
    stored x n (fun h => (x.group s).sbase + x.scratchAddr h true) (fun h => natToBytes n (x.c h))
      (memRead (getCore s x.cur.core).scratch) (memRead m)
  let fault (n : Nat) (x : Ctx) (s : State) (h : Nat) : Option (Nat × Nat) := scratchFault (x.group s) n (x.scratchAddr h true)
  let othersStore (n : Nat) (x : Ctx) (s t : State) : Prop :=
    ∃ cause info m u, firstFault x (fault n x s) cause info m ∧ trapsAfter x (x.trapOf cause (b64 info) m m) u t ∧
      Leaves x s (modCore s x.cur.core (fun k => { k with scratch := (getCore u x.cur.core).scratch })) u ∧
      getGang u x.cur.core x.cur.slot = some (x.issued s) ∧
      stored (x.without m) n (fun h => (x.group s).sbase + x.scratchAddr h true) (fun h => natToBytes n (x.c h))
        (memRead (getCore s x.cur.core).scratch) (memRead (getCore u x.cur.core).scratch)
  (∀ f, Ends (.jinit f) (inRange 4) (storesAt 4)) ∧
  (∀ f, Ends (.sts f) (fun x s => inRange (typeWidth x.t / 8) x s ∧
      ∀ h, laneIn x.act h = true → ∀ o ∈ pendingPhases s x.cur.core x.gang.gslot,
        o + 16 ≤ x.scratchAddr h true ∨ x.scratchAddr h true + typeWidth x.t / 8 ≤ o)
    (fun x s t => storesAt (typeWidth x.t / 8) x s t)) ∧
  (∀ f, Ends (.sts f) (fun x s => inRange (typeWidth x.t / 8) x s) (fun x s t =>
    let m := (getCore t x.cur.core).scratch
    Leaves x s { modCore s x.cur.core (fun k => { k with scratch := m }) with free := t.free } t ∧ past x s t x.gang.ops ∧
    ∀ a, (∀ h, laneIn x.act h = true →
        a < (x.group s).sbase + x.scratchAddr h true ∨ (x.group s).sbase + x.scratchAddr h true + typeWidth x.t / 8 ≤ a) →
      (∀ o ∈ pendingPhases s x.cur.core x.gang.gslot, a < (x.group s).sbase + o ∨ (x.group s).sbase + o + 16 ≤ a) →
      memRead m a = memRead (getCore s x.cur.core).scratch a)) ∧
  (∀ f, Ends (.jwait f) (fun x s => inRange 4 x s ∧ ∀ h, laneIn x.act h = true →
      scratchRead s x.cur.core (x.group s) (x.scratchAddr h true) 4 = 0)
    (fun x s t => becomes x s t (advanceSplit x.cur (x.issued s)))) ∧
  (∀ f, Ends (.jwait f) (fun x s => inRange 4 x s ∧ ∃ h, laneIn x.act h = true ∧
      scratchRead s x.cur.core (x.group s) (x.scratchAddr h true) 4 ≠ 0)
    (fun x s t => waitsAt x .join 0 false s t)) ∧
  (∀ f, Ends (.jinit f) (fun x s => ∃ h, laneIn x.act h = true ∧ fault 4 x s h ≠ none) (othersStore 4)) ∧
  (∀ f, Ends (.sts f) (fun x s => (∃ h, laneIn x.act h = true ∧ fault (typeWidth x.t / 8) x s h ≠ none) ∧
      ∀ h, laneIn x.act h = true → fault (typeWidth x.t / 8) x s h = none → ∀ o ∈ pendingPhases s x.cur.core x.gang.gslot,
        o + 16 ≤ x.scratchAddr h true ∨ x.scratchAddr h true + typeWidth x.t / 8 ≤ o)
    (fun x s t => othersStore (typeWidth x.t / 8) x s t)) ∧
  (∀ f, Ends (.jwait f) (fun x s => ∃ h, laneIn x.act h = true ∧ fault 4 x s h ≠ none) (fun x s t =>
    ∃ cause info m, firstFault x (fault 4 x s) cause info m ∧ traps x (x.trapOf cause (b64 info) m x.act) s t))

/-- 04 R88, 18 R408, 03 R59: `exit` takes its acting lanes out of their split and of the gang, with their join addresses;
the split's other lanes go on; no register and no byte of memory changes; a lane with a join address in the group's
scratchpad takes one from its counter. -/
def Obligations.ExitLeaves : Prop :=
  ∀ f, Ends (.exitOp f) (fun x _ => x.act ≠ 0 ∧ x.sp.handler = false ∧ x.gang.divided)
    (fun x s t => (∀ a, memRead t.mem a = memRead s.mem a) ∧
      (∀ n, n ≠ x.cur.core → (getCore t n).scratch = (getCore s n).scratch) ∧
      ((∀ h, laneIn x.act h = true → mapFind x.gang.join h = none) →
        (getCore t x.cur.core).scratch = (getCore s x.cur.core).scratch) ∧
      (∀ h j, x.lanes = [h] → mapFind x.gang.join h = some j → j % 4 = 0 → j + 4 ≤ (x.group s).ssize →
        scratchRead t x.cur.core (x.group s) j 4 = (scratchRead s x.cur.core (x.group s) j 4 + 2 ^ 32 - 1) % 2 ^ 32) ∧
      ∃ g', getGang t x.cur.core x.cur.slot = some g' ∧ sameRegs x.gang g' ∧
        (∀ h, laneIn x.act h = true → splitOf g' h = none ∧ mapFind g'.join h = none) ∧
        (∀ h, laneIn x.sp.mask h = true → laneIn x.act h = false → ∃ sp', splitOf g' h = some sp' ∧
          (sp'.pc, sp'.slot) = if x.cur.last then (x.cur.next, 0) else (x.sp.pc, x.sp.slot + 1)) ∧
        ∀ h sp, laneIn x.sp.mask h = false → splitOf x.gang h = some sp →
          ∃ sp', splitOf g' h = some sp' ∧ sp'.pc = sp.pc ∧ sp'.slot = sp.slot)

/-- 12 R267, R269, R271, 19 R457: `lnch` copies a launch record from scratchpad to the tail of a queue, slot after slot modulo
2^32 (they are kept for the queue until the Vent reads them, 12 R268), moves TAIL past it, sets the queue's kick bit and
writes the slot it starts at to d, all ones where the queue does not take it; no other queue, no other slot, no register of
the device but the kick bits and no memory outside the queue's descriptor changes; `qtok.new` arms the lowest free token for the
context, or writes all ones when there is none; `qtok.test` writes the token's state: 4 of another context or out of
range, 0 when free; a result of 2 is an acquire, of the pod-window lines of L2 too when the signal crossed the pod (10
R226, R235); `qtok.free` frees a signalled or failed token of the context and writes whether it did. A token that changes
state is an entry of the Vent's journal (12 R277). -/
def Obligations.LaunchesAndTokens : Prop :=
  (∀ f, Ends (.lnch f) (fun x s => (x.group s).shadow = false ∧ x.act ≠ 0 ∧ x.b x.lane0 < 1024 ∧ x.a x.lane0 % 64 = 0 ∧
      x.a x.lane0 + 64 * (fieldN (scratchRead s x.cur.core (x.group s) (x.a x.lane0) 64) 385 383 + 2) ≤ (x.group s).ssize)
    (fun x s t =>
      let g := x.group s
      let n := fieldN (scratchRead s x.cur.core g (x.a x.lane0) 64) 385 383 + 2
      let q := x.b x.lane0
      let d := queueDesc s q
      let used := (queueTail s q + n + 2 ^ 32 - queueProg s q) % 2 ^ 32
      let takes := qEnabled d = true ∧ qDev d = true ∧ qCtx d = x.gang.ctx ∧ used ≤ 2 ^ qLogN d
      wrote x t x.gang.ops (fun _ => if takes then queueTail s q else 2 ^ 32 - 1) ∧
      (¬ takes → Leaves x s s t) ∧ (takes →
        Leaves x s { s with queues := t.queues, mem := t.mem, dcb := t.dcb, journal := t.journal } t ∧
        queueTail t q = (queueTail s q + n) % 2 ^ 32 ∧
        (∀ k, k < n → mapFind (mapGet {} t.queues q).recv ((queueTail s q + k) % 2 ^ 32) =
          some (BitVec.ofNat 512 (scratchRead s x.cur.core g (x.a x.lane0 + 64 * k) 64))) ∧
        (∀ i, (∀ k, k < n → i ≠ (queueTail s q + k) % 2 ^ 32) →
          mapFind (mapGet {} t.queues q).recv i = mapFind (mapGet {} s.queues q).recv i) ∧
        (∀ p, p ≠ q → mapFind t.queues p = mapFind s.queues p) ∧
        (∀ i, i < 32 → field (reg32 t (offKick (q / 32))) i i = if i = q % 32 then 1 else field (reg32 s (offKick (q / 32))) i i) ∧
        (∀ o, o / 4 ≠ offKick (q / 32) / 4 → reg32 t o = reg32 s o) ∧
        ∀ a, a < queueDescAddr s q ∨ queueDescAddr s q + 64 ≤ a → memRead t.mem a = memRead s.mem a))) ∧
  (∀ f, Ends (.qtokNew f) (fun x s => (x.group s).shadow = false ∧ x.act ≠ 0) (fun x s t =>
    let k := lowestGap s.tokens 0
    Leaves x s (if k < 4096 then journal (.token k 1) { s with tokens := mapSet s.tokens k { ctx := x.gang.ctx, st := 1 } }
      else s) t ∧
    wrote x t x.gang.ops (fun _ => if k < 4096 then k else 2 ^ 32 - 1))) ∧
  (∀ f, Ends (.qtokTest f) (fun x _ => x.act ≠ 0) (fun x s t =>
    let k := x.a x.lane0
    let v := if 4096 ≤ k then 4 else match mapFind s.tokens k with
      | none => 0
      | some e => if e.ctx = x.gang.ctx then e.st else 4
    let pod := ∃ e, mapFind s.tokens k = some e ∧ e.pod = true
    Leaves x s (if v = 2 then
        { modCore s x.cur.core (fun c => { c with l1 := [] }) with
          l2 := if pod then s.l2.filter (fun e => (peerOf (e.1 * 128)).isNone) else s.l2 }
      else s) t ∧
    wrote x t x.gang.ops (fun _ => v))) ∧
  (∀ f, Ends (.qtokFree f) (fun x s => (x.group s).shadow = false ∧ x.act ≠ 0) (fun x s t =>
    let k := x.a x.lane0
    let mine := k < 4096 ∧ ∃ e, mapFind s.tokens k = some e ∧ e.ctx = x.gang.ctx ∧ 2 ≤ e.st
    (mine → Leaves x s (journal (.token k 0) { s with tokens := mapErase s.tokens k }) t ∧ wrote x t x.gang.ops (fun _ => 1)) ∧
    (¬ mine → Leaves x s s t ∧ wrote x t x.gang.ops (fun _ => 0)))) ∧
  (∀ (m : SMap Token), risingFrom 0 m = true → mapFind m (lowestGap m 0) = none ∧ ∀ k, k < lowestGap m 0 → (mapFind m k).isSome)

/-! ## Memory -/

/-- 19 R454 to R456, 08 R175, R178, R182, 05 R93: `lds` and `ld` write the value at each acting lane's address to d,
extended for 8- and 16-bit types, and store nothing. `ld` reads the task's own version of a byte, else the core's L1
line, else memory: where the L1 holds the lines that are read, it reads them; where those it holds are as memory is, it
reads memory. It is a long-latency operation of the flag that FS chooses. -/
def Obligations.Loads : Prop :=
  (∀ f, Ends (.lds f) (fun x s => (x.f.e.kd = 1#2 → x.uniform 1 = true) ∧ ∀ h, laneIn x.act h = true →
      x.scratchAddr h true % (typeWidth x.t / 8) = 0 ∧ x.scratchAddr h true + typeWidth x.t / 8 ≤ (x.group s).ssize)
    (fun x s t => Leaves x s (x.acquire s) t ∧ wrote x t x.gang.ops (fun h => loadedVal x.t
      (bytesToNat (memReadBytes (getCore s x.cur.core).scratch ((x.group s).sbase + x.scratchAddr h true) (typeWidth x.t / 8)))))) ∧
  (∀ f (pa : Nat → Nat), Ends (.ld f) (fun x s => x.act ≠ 0 ∧ (x.f.e.kd = 1#2 → x.uniform 1 = true) ∧ ∀ h, laneIn x.act h = true →
      finds s x {} (x.globalAddr h true) (pa h) ∧ (x.globalAddr h true).va % (typeWidth x.t / 8) = 0 ∧
      pa h % (typeWidth x.t / 8) = 0 ∧ neverWaits s (pa h) ∧ (cachedL1 s x.cur.core (pa h) = true → ∀ l,
        mapFind (getCore s x.cur.core).l1 (pa h / 128) = some l → l = BitVec.ofNat 1024 (peek s (pa h / 128 * 128) 128)))
    (fun x s t => Leaves x s (touched x s t) t ∧ t.mem = s.mem ∧ t.overwritten = s.overwritten ∧
      (∀ k, getGroup t x.cur.core k = getGroup s x.cur.core k) ∧
      wrote x t (x.withOp (.lane true)) (fun h => loadedVal x.t
        (bytesToNat (physRead s (some (x.group s)) (pa h) (typeWidth x.t / 8)))))) ∧
  (∀ f (pa : Nat → Nat) (line : Nat → BitVec 1024), Ends (.ld f) (fun x s => x.act ≠ 0 ∧ (x.f.e.kd = 1#2 → x.uniform 1 = true) ∧ x.f.e.sem.toNat % 2 = 0 ∧
      (x.group s).version = [] ∧ ∀ h, laneIn x.act h = true →
      finds s x {} (x.globalAddr h true) (pa h) ∧ (x.globalAddr h true).va % (typeWidth x.t / 8) = 0 ∧
      cachedL1 s x.cur.core (pa h) = true ∧ mapFind (getCore s x.cur.core).l1 (pa h / 128) = some (line h))
    (fun x s t => Leaves x s s t ∧ wrote x t (x.withOp (.lane true)) (fun h =>
      loadedVal x.t ((line h).toNat / 256 ^ (pa h % 128) % 2 ^ typeWidth x.t))))

/-- 20 R505, R506, 10 R231, R232, 08 R178, 14 R309: `st` stores the bytes of c, the least significant first, at each
acting lane's address, and every other byte of memory is as it was; a task copy that is held stores to its version and
leaves memory as it was, unless the store is direct. A direct store of a shadow copy is illegal, with every lane of the
split named and whatever the guards (logs 11 and 78, the model's readings). -/
def Obligations.Stores : Prop :=
  (∀ f (pa : Nat → Nat), Ends (.st f) (fun x s => x.act ≠ 0 ∧ (x.group s).held = false ∧ (x.group s).shadow = false ∧ ∀ h, laneIn x.act h = true →
      finds s x { write := true } (x.globalAddr h true) (pa h) ∧ (x.globalAddr h true).va % (typeWidth x.t / 8) = 0 ∧
      neverWaits s (pa h) ∧ tierOf (pa h) ≠ .mx)
    (fun x s t => Leaves x s (touched x s t) t ∧ past x s t (x.withOp (.lane false)) ∧
      (∀ k, getGroup t x.cur.core k = getGroup s x.cur.core k) ∧
      stored x (typeWidth x.t / 8) pa (fun h => natToBytes (typeWidth x.t / 8) (x.c h)) (memRead s.mem) (memRead t.mem))) ∧
  (∀ f h (pa : Nat), Ends (.st f) (fun x s => (getGroup s x.cur.core x.gang.gslot).isSome ∧ (x.group s).held = true ∧ x.md ≠ 1 ∧ x.lanes = [h] ∧
      finds s x { write := true } (x.globalAddr h true) pa ∧ (x.globalAddr h true).va % (typeWidth x.t / 8) = 0 ∧
      versionRoom s (x.group s) (pa / 128) = .room)
    (fun x s t => Leaves x s (touched x s t) t ∧ past x s t (x.withOp (.lane false)) ∧ t.mem = s.mem ∧
      (∀ k, k < typeWidth x.t / 8 → mapFind (x.group t).version (pa + k) = some ((natToBytes (typeWidth x.t / 8) (x.c h)).getD k 0)) ∧
      (∀ a, a < pa ∨ pa + typeWidth x.t / 8 ≤ a → mapFind (x.group t).version a = mapFind (x.group s).version a) ∧
      (x.group t).sign = (x.group s).sign + signMix (signMix (BitVec.ofNat 64
        ((x.globalAddr h true).va + typeWidth x.t / 8 * 2 ^ 52)) ^^^ BitVec.ofNat 64 (x.c h % 2 ^ typeWidth x.t)))) ∧
  (∀ f, Ends (.st f) (fun x s => x.md = 1 ∧ (x.group s).shadow = true)
    (fun x s t => traps x (x.trapOf 1 (x.cur.word.setWidth 64) x.sp.mask 0) s t))

/-- 11 R243, R245, R247, 13 R281, R283, R544, 08 R177, 19 R454 to R456, 20 R505: a lane of `ld`, `st` or `lds` traps with cause 2 and
the address where it is misaligned; `lds` with cause 3 and the offset past the group's range; `ld` and `st` with cause 4 and
the access-fault cause where the mapping forbids the access: 1 for a store without permission to write, 2 for nothing behind
the address, 5 for a quarantined granule, the first of them (that order is log 12, the model's reading). The trap is that of
the lowest such lane, `tmask` names them all and they alone stay unfinished; a lane that traps stores nothing and writes no
register, and the other lanes of the instruction have made their access. -/
def Obligations.AccessTraps : Prop :=
  let size (x : Ctx) : Nat := typeWidth x.t / 8
  let fault (store : Bool) (x : Ctx) (s : State) (h : Nat) : Option (Nat × Nat) :=
    let a := x.globalAddr h true
    let info (k : Nat) : Nat := k + a.va % 2 ^ 52 / 4096 * 2 ^ 24
    if a.va % size x ≠ 0 then some (2, a.va)
    else match mapped s x a with
      | none => none
      | some (p, w, _) =>
        if store = true ∧ w = false then some (4, info 1)
        else if present s p = false ∨ present s (localPa s p) = false then some (4, info 2)
        else if quarantined s (localPa s p) = true then some (4, info 5)
        else none
  let some_ (flt : Nat → Option (Nat × Nat)) (x : Ctx) : Prop := ∃ h, laneIn x.act h = true ∧ flt h ≠ none
  let loaded (flt : Nat → Option (Nat × Nat)) (x : Ctx) (s t : State) (R : State → Mask → Gang → Prop) : Prop :=
    ∃ cause info m u g', firstFault x flt cause info m ∧ trapsAfter x (x.trapOf cause (b64 info) m m) u t ∧
      getGang u x.cur.core x.cur.slot = some g' ∧ g'.apart = x.gang.apart ∧ g'.splits = (x.issued s).splits ∧ R u m g'
  (∀ f (pa : Nat → Nat), Ends (.ld f) (fun x s => (x.f.e.kd = 1#2 → x.uniform 1 = true) ∧ some_ (fault false x s) x ∧
      ∀ h, laneIn x.act h = true → fault false x s h = none → finds s x {} (x.globalAddr h true) (pa h) ∧ neverWaits s (pa h))
    (fun x s t => loaded (fault false x s) x s t (fun u m g' =>
      Leaves x s (touched x s u) u ∧ u.mem = s.mem ∧ u.overwritten = s.overwritten ∧ sameS x.gang g' ∧ sameP x.gang g' ∧
      sameQ x.gang g' ∧
      ∀ n k, k < 64 → (laneIn x.act k = false ∨ laneIn m k = true) → vreg g' n k = vreg x.gang n k))) ∧
  (∀ f (pa : Nat → Nat), Ends (.st f) (fun x s => (x.md = 1 → (x.group s).shadow = false) ∧ some_ (fault true x s) x ∧
      ∀ h, laneIn x.act h = true → fault true x s h = none → (x.group s).held = false ∧
        finds s x { write := true } (x.globalAddr h true) (pa h) ∧ neverWaits s (pa h) ∧ tierOf (pa h) ≠ .mx)
    (fun x s t => loaded (fault true x s) x s t (fun u m g' =>
      Leaves x s (touched x s u) u ∧ sameRegs x.gang g' ∧
      stored (x.without m) (size x) pa (fun h => natToBytes (size x) (x.c h)) (memRead s.mem) (memRead u.mem)))) ∧
  ∀ f, Ends (.lds f) (fun x s => (x.f.e.kd = 1#2 → x.uniform 1 = true) ∧
      some_ (fun h => scratchFault (x.group s) (size x) (x.scratchAddr h true)) x)
    (fun x s t => loaded (fun h => scratchFault (x.group s) (size x) (x.scratchAddr h true)) x s t (fun u m g' =>
      Leaves x s (x.acquire s) u ∧ destAfter (x.without m) (fun h => loadedVal x.t
        (bytesToNat (memReadBytes (getCore s x.cur.core).scratch ((x.group s).sbase + x.scratchAddr h true) (size x)))) x.gang g'))

/-- 08 R195, R196, 20 R517, 10 R223, R226, R229, 18 R406, R407, R414, 19 R474, 20 R491: `win` loads a window register with the leaf of
its address, cut at the end of the page, or clears VALID when the length is 0; a `fence` that no in-layer operation holds back is
the acquire its fields ask for, dropping the L1 lines of near windows with in-layer scope, and `nfence` is
`fence.ar.device.nr`; both wait for the in-layer operations that the gang has issued before them, and for nothing else (log 6,
the model's choice: accesses are performed as they issue); `pref` changes nothing but cached lines; `discard` leaves every line of its
range as it was or zeroed, and every other byte as it was. -/
def Obligations.WindowsFencesHints : Prop :=
  (∀ f (e : TlbEntry) n, Ends (.win f) (fun x s => x.act ≠ 0 ∧ x.b x.lane0 ≠ 0 ∧ namedReg x.f.e.d.toNat = some (.w, n) ∧
      (getCore s x.cur.core).tlb.find? (fun e => e.covers x.gang.ctx (x.a x.lane0 % 2 ^ 52)) = some e ∧
      x.b x.lane0 < 2 ^ 32 ∧ e.size ≤ 21 ∧ e.phys (x.a x.lane0 % 2 ^ 52) < 2 ^ 52)
    (fun x s t => SameButGang x.cur.core x.cur.slot s t ∧ ∃ g', getGang t x.cur.core x.cur.slot = some g' ∧
      g'.apart = (endReplay x.cur.lane { x.gang with w := g'.w, wCached := g'.wCached }).apart ∧ sameRegs x.gang g' ∧
      g'.splits = splitsAfter x.cur x.gang ∧ (∀ m, m ≠ n → wreg g' m = wreg x.gang m) ∧
      (∀ m, m < 8 → g'.wCached.getLsbD m = if m = n then e.cacheable else x.gang.wCached.getLsbD m) ∧
      (let va := x.a x.lane0 % 2 ^ 52
       field (wreg g' n) 191 191 = 1 ∧ field (wreg g' n) 190 190 = (if e.writable then 1 else 0) ∧
       field (wreg g' n) 51 0 = va ∧ field (wreg g' n) 115 64 = e.phys va ∧
       field (wreg g' n) 149 128 = min (x.b x.lane0) (e.va + 2 ^ e.size - va)))) ∧
  (∀ f n, Ends (.win f) (fun x _ => x.act ≠ 0 ∧ x.b x.lane0 = 0 ∧ namedReg x.f.e.d.toNat = some (.w, n))
    (fun x s t => becomes x s t (advanceSplit x.cur
      { x.issued s with w := mapPut 0 x.gang.w n (setField (wreg x.gang n) 191 191 0) }))) ∧
  (∀ f, Ends (.fence f) (fun x s => x.act ≠ 0 ∧ ((x.f.e.stor = 2#2 ∨ x.f.e.stor = 3#2) → nearBusy x s = false))
    (fun x s t =>
      let layer := x.f.e.stor = 2#2 ∨ x.f.e.stor = 3#2
      let s1 := if layer then dropNearLines x.cur.core s else s
      Leaves x s (if x.f.e.sem = 2#2 then s1 else acquire x.cur.core x.f.e.agent.toNat x.f.e.stor.toNat s1) t ∧ past x s t x.gang.ops)) ∧
  (∀ f, Ends (.nfence f) (fun x s => x.act ≠ 0 ∧ nearBusy x s = false)
    (fun x s t => Leaves x s (acquire x.cur.core 3 2 (dropNearLines x.cur.core s)) t ∧ past x s t x.gang.ops)) ∧
  (∀ f, Ends (.nfence f) (fun x s => x.act ≠ 0 ∧ nearBusy x s = true)
    (fun x s t => waitsAt x .fence (x.fenceFrom s) false s t)) ∧
  (∀ f, Ends (.fence f) (fun x s => x.act ≠ 0 ∧ (x.f.e.stor = 2#2 ∨ x.f.e.stor = 3#2) ∧ nearBusy x s = true)
    (fun x s t => waitsAt x .fence (x.fenceFrom s) false s t)) ∧
  (∀ f, Ends (.pref f) (fun _ _ => True) (fun x s t => Leaves x s (touched x s t) t ∧ t.mem = s.mem ∧ t.overwritten = s.overwritten ∧ past x s t x.gang.ops ∧
    (∀ k, getGroup t x.cur.core k = getGroup s x.cur.core k))) ∧
  (∀ f (pa : Nat), Ends (.discard f) (fun x s => x.act ≠ 0 ∧ 0 < x.c x.lane0 ∧ x.c x.lane0 ≤ 2 ^ 21 ∧ x.c x.lane0 % 128 = 0 ∧
      (x.globalAddr x.lane0 false).va % 128 = 0 ∧ finds s x { write := true, unsupported := fun t => t == .mx } (x.globalAddr x.lane0 false) pa ∧
      pa % 128 = 0 ∧ pa % 2 ^ leafLog2 (tierOf pa) + x.c x.lane0 ≤ 2 ^ leafLog2 (tierOf pa))
    (fun x s t => past x s t (x.withOp (.lane false)) ∧
      (∀ a, a < pa ∨ pa + x.c x.lane0 ≤ a → memRead t.mem a = memRead s.mem a) ∧
      ∀ l, pa ≤ 128 * l → 128 * l < pa + x.c x.lane0 →
        (∀ k, k < 128 → memRead t.mem (128 * l + k) = memRead s.mem (128 * l + k)) ∨
        (∀ k, k < 128 → memRead t.mem (128 * l + k) = 0)))

/-- 18 R381 to R385, 20 R494, R495: `atom` and `atomw` take the value at each lane's address to d and store the combined
one, in memory or, with a 32-bit vector base, in scratchpad, for lanes whose bytes do not overlap: an integer sum wraps,
the exchange stores c, the compare and swap stores c where the old value is b; `ratom` adds each residue in its channel,
or stores all ones in every plane where a residue is invalid. Every other byte is as it was. -/
def Obligations.Atomics : Prop :=
  let apartBy (n : Nat) (x : Ctx) (addr : Nat → Nat) : Prop :=
    ∀ h k, laneIn x.act h = true → laneIn x.act k = true → h < k → addr h + n ≤ addr k ∨ addr k + n ≤ addr h
  let inMemory (n : Nat) (pcie : Ctx → Bool) (indexed : Ctx → Bool) (pa : Nat → Nat) (x : Ctx) (s : State) : Prop :=
    x.f.e.ka ≠ 0#2 ∧ (x.group s).shadow = false ∧ apartBy n x pa ∧ ∀ h, laneIn x.act h = true →
      finds s x (atomAccess (pcie x)) (x.globalAddr h (indexed x)) (pa h) ∧
      (x.globalAddr h (indexed x)).va % n = 0 ∧ neverWaits s (pa h)
  let inScratch (n : Nat) (indexed : Ctx → Bool) (x : Ctx) (s : State) : Prop :=
    x.f.e.ka = 0#2 ∧ (x.group s).shadow = false ∧ apartBy n x (fun h => (x.group s).sbase + x.scratchAddr h (indexed x)) ∧
      ∀ h, laneIn x.act h = true → x.scratchAddr h (indexed x) % n = 0 ∧ x.scratchAddr h (indexed x) + n ≤ (x.group s).ssize
  let old (n : Nat) (m : Memory) (a : Nat) : Nat := bytesToNat (memReadBytes m a n)
  let word (x : Ctx) : Nat := typeWidth x.t / 8
  let sum (x : Ctx) (v : Nat) (h : Nat) : Nat := if x.mn = 0 ∧ x.t ≠ 10 then (v + x.c h) % 2 ^ typeWidth x.t
    else if x.mn = 6 then x.c h % 2 ^ typeWidth x.t
    else if x.mn = 7 then (if v = x.b h % 2 ^ typeWidth x.t then x.c h % 2 ^ typeWidth x.t else v)
    else atomVal x.mn x.t v 0 (x.c h)
  (∀ f (pa : Nat → Nat), Ends (.atom f) (fun x s => inMemory (word x) (fun x => (x.mn == 0 && x.t != 10) || x.mn == 6 || x.mn == 7)
      (fun x => x.mn != 7) pa x s)
    (fun x s t => let n := word x
      (∃ g', getGang t x.cur.core x.cur.slot = some g' ∧ g'.splits = splitsAfter x.cur x.gang ∧
        destAfter x (fun h => old n s.mem (pa h)) x.gang g') ∧
      stored x n pa (fun h => natToBytes n (sum x (old n s.mem (pa h)) h)) (memRead s.mem) (memRead t.mem))) ∧
  (∀ f, Ends (.atom f) (fun x s => x.act ≠ 0 ∧ inScratch (word x) (fun x => x.mn != 7) x s)
    (fun x s t => let n := word x
      let at_ (h : Nat) := (x.group s).sbase + x.scratchAddr h (x.mn != 7)
      let m := (getCore s x.cur.core).scratch
      t.mem = s.mem ∧ (∃ g', getGang t x.cur.core x.cur.slot = some g' ∧ g'.splits = splitsAfter x.cur x.gang ∧
        destAfter x (fun h => old n m (at_ h)) x.gang g') ∧
      stored x n at_ (fun h => natToBytes n (sum x (old n m (at_ h)) h)) (memRead m) (memRead (getCore t x.cur.core).scratch))) ∧
  (∀ f (pa : Nat → Nat), Ends (.atomw f) (fun x s => inMemory 32 (fun _ => false) (fun _ => true) pa x s)
    (fun x s t =>
      (∃ g', getGang t x.cur.core x.cur.slot = some g' ∧ g'.splits = splitsAfter x.cur x.gang ∧
        vectorWrite x.act x.f.e.d.toNat 8 (fun h => old 32 s.mem (pa h)) x.gang g') ∧
      stored x 32 pa (fun h => natToBytes 32 (let v := old 32 s.mem (pa h)
        if x.mn = 0 then v ||| x.c h else if x.mn = 1 then v &&& x.c h else if x.mn = 2 then v ^^^ x.c h else x.c h))
        (memRead s.mem) (memRead t.mem))) ∧
  (∀ f, Ends (.atomw f) (inScratch 32 (fun _ => true))
    (fun x s t =>
      let at_ (h : Nat) := (x.group s).sbase + x.scratchAddr h true
      let m := (getCore s x.cur.core).scratch
      t.mem = s.mem ∧ (∃ g', getGang t x.cur.core x.cur.slot = some g' ∧ g'.splits = splitsAfter x.cur x.gang ∧
        vectorWrite x.act x.f.e.d.toNat 8 (fun h => old 32 m (at_ h)) x.gang g') ∧
      stored x 32 at_ (fun h => natToBytes 32 (atomwVal x.mn (old 32 m (at_ h)) (x.c h))) (memRead m)
        (memRead (getCore t x.cur.core).scratch))) ∧
  (∀ f h (pa : Nat), Ends (.ratom f) (fun x s => x.f.e.ka ≠ 0#2 ∧ (x.group s).shadow = false ∧ x.lanes = [h] ∧
      finds s x (atomAccess false) (x.globalAddr h true) pa ∧
      (x.globalAddr h true).va % 512 < 64 ∧ pa % 512 < 64 ∧ ∀ j, j < 8 → neverWaits s (pa + 64 * j))
    (fun x s t =>
      let at_ (j : Nat) := pa + 64 * j
      let r (j : Nat) := (x.c h / 256 ^ j) % 256
      let v (j : Nat) := (memRead s.mem (at_ j)).toNat
      past x s t (x.withOp (.lane false)) ∧ (∀ a, (∀ j, j < 8 → a ≠ at_ j) → memRead t.mem a = memRead s.mem a) ∧
      ∀ j, j < 8 → memRead t.mem (at_ j) =
        if ∀ i, i < 8 → r i < modulus i ∧ v i < modulus i then BitVec.ofNat 8 ((v j + r j) % modulus j) else 0xFF)) ∧
  (∀ f h, Ends (.ratom f) (fun x s => x.f.e.ka = 0#2 ∧ (x.group s).shadow = false ∧ x.lanes = [h] ∧
      x.scratchAddr h true % 512 < 64 ∧ x.scratchAddr h true / 512 * 512 + 512 ≤ (x.group s).ssize)
    (fun x s t =>
      let at_ (j : Nat) := (x.group s).sbase + x.scratchAddr h true + 64 * j
      let m := memRead (getCore s x.cur.core).scratch
      let r (j : Nat) := (x.c h / 256 ^ j) % 256
      past x s t (x.withOp (.lane false)) ∧ t.mem = s.mem ∧
      (∀ a, (∀ j, j < 8 → a ≠ at_ j) → memRead (getCore t x.cur.core).scratch a = m a) ∧
      ∀ j, j < 8 → memRead (getCore t x.cur.core).scratch (at_ j) =
        if ∀ i, i < 8 → r i < modulus i ∧ (m (at_ i)).toNat < modulus i
        then BitVec.ofNat 8 (((m (at_ j)).toNat + r j) % modulus j) else 0xFF))

/-! ## Engines and barriers -/

/-- 08 R188 to R190, 19 R471 to R473, R477: `nzero`, `ncopy` and `ncmp` with ranges of 64-byte multiples in one page and one
layer, which the TLB maps and which may be used, join the core's in-layer operations while fewer than four are under
way, and change no byte; performed, `nzero` zeroes its range, `ncopy` copies the source as it was, `ncmp` writes the
offset of the first byte that differs, or all ones, to its scalar register, while its gang is there; no other byte changes,
and the operation is over. (Where it was the last work of a group whose gangs have retired, the group retires, log 35.) -/
def Obligations.NearOperations : Prop :=
  let goes (kind len : Nat) (ranges : List NearRange) (pas : List Nat) (x : Ctx) (s : State) : Prop :=
    x.act ≠ 0 ∧ (kind = 2 ∨ (x.group s).shadow = false) ∧ len % 64 = 0 ∧ 0 < len ∧ len ≤ 2 ^ 21 ∧
      (getCore s x.cur.core).near.length < 4 ∧ pas.length = ranges.length ∧
      ∀ e ∈ ranges.zip pas, e.1.va % 64 = 0 ∧ e.1.va % 2 ^ 21 + len ≤ 2 ^ 21 ∧ nearLayer e.2 = nearLayer (pas.headD 0) ∧
        ∃ l, (getCore s x.cur.core).tlb.find? (fun l => l.covers x.gang.ctx e.1.va) = some l ∧ e.2 = localPa s (l.phys e.1.va) ∧
          nearCause s e.2 len l.writable e.1 (kind == 0) = none
  let queued (kind len dreg : Nat) (pas : List Nat) (x : Ctx) (s t : State) : Prop :=
    let k := getCore s x.cur.core
    Leaves x s (modCore s x.cur.core (fun c => { c with
      near := k.near ++ [{ kind := kind, dst := pas.headD 0, src := pas.getD 1 0, len := len, dreg := dreg,
                           layer := (nearLayer (pas.headD 0)).getD 0, arrived := s.clock, slot := x.cur.slot,
                           gslot := x.gang.gslot, ctx := x.gang.ctx, id := k.opSeq }],
      opSeq := k.opSeq + 1, groups := (getCore t x.cur.core).groups })) t ∧
    past x s t (x.withOp (.engine k.opSeq))
  let va (v : Nat) (write : Bool) : NearRange := { va := v % 2 ^ 52, write := write }
  (∀ f pas, Ends (.nzero f) (fun x s => goes 0 (x.c x.lane0) [va (x.a x.lane0) true] pas x s)
    (fun x s t => queued 0 (x.c x.lane0) 0 pas x s t)) ∧
  (∀ f pas, Ends (.ncopy f) (fun x s => goes 1 (x.c x.lane0) [va (x.d x.lane0) true, va (x.a x.lane0) false] pas x s)
    (fun x s t => queued 1 (x.c x.lane0) 0 pas x s t)) ∧
  (∀ f pas, Ends (.ncmp f) (fun x s => goes 2 (x.c x.lane0) [va (x.a x.lane0) false, va (x.b x.lane0) false] pas x s)
    (fun x s t => queued 2 (x.c x.lane0) x.f.e.d.toNat pas x s t)) ∧
  ∀ s core o rest, (getCore s core).near = o :: rest → layerBusy s core o = false → tierOf o.dst ≠ .mx →
    ∃ t, exec (.inLayerComplete core) s = .next (endGroup core t) ∧
      ((∀ e ∈ (getCore t core).groups, groupSpent t core e.1 e.2 = false) → endGroup core t = t) ∧
      (getCore t core).near = rest ∧
      (∀ g g', getGang s core o.slot = some g → getGang t core o.slot = some g' →
        g'.ops = g.ops.filter (fun p => p.kind != .engine o.id) ∧ g'.splits = g.splits) ∧
      (o.kind = 0 → (∀ a, o.dst ≤ a → a < o.dst + o.len → memRead t.mem a = 0) ∧
        ∀ a, a < o.dst ∨ o.dst + o.len ≤ a → memRead t.mem a = memRead s.mem a) ∧
      (o.kind = 1 → (∀ k, k < o.len → memRead t.mem (o.dst + k) = memRead s.mem (o.src + k)) ∧
        ∀ a, a < o.dst ∨ o.dst + o.len ≤ a → memRead t.mem a = memRead s.mem a) ∧
      (o.kind = 2 → t.mem = s.mem ∧ ∀ g g', getGang s core o.slot = some g → getGang t core o.slot = some g' →
        (∃ p ∈ g.ops, p.kind = .engine o.id) →
        (∀ n, n ≠ o.dreg → sreg g' n = sreg g n) ∧
        ((∀ k, k < o.len → memRead s.mem (o.dst + k) = memRead s.mem (o.src + k)) → sreg g' o.dreg = 0xFFFFFFFF) ∧
        ∀ k, k < o.len → memRead s.mem (o.dst + k) ≠ memRead s.mem (o.src + k) →
          (∀ j, j < k → memRead s.mem (o.dst + j) = memRead s.mem (o.src + j)) → sreg g' o.dreg = BitVec.ofNat 32 k)

/-- 09 R199, R201, 08 R191 to R194, 18 R399, R400, 20 R508, R510, R512: `cpy` and `cpyl` join the copy queue while it
holds fewer than 32, and are not ready otherwise; `tdef` sets the base and size of an empty tile and leaves its state,
`tstat` reads the tile's word, `trel` releases a ready tile, which drains while it has readers and is empty without;
`tdef` and `trel` wait for the tile's state; a tile at or above the group's count is illegal in all three, every lane of the
split named (log 11, the model's reading). No memory changes. -/
def Obligations.CopiesAndTiles : Prop :=
  let queued (slot : Nat → CopySlot) (x : Ctx) (s t : State) : Prop :=
    let k := getCore s x.cur.core
    Leaves x s (modCore s x.cur.core (fun c => { c with copyq := k.copyq ++ [slot k.opSeq], opSeq := k.opSeq + 1 })) t ∧
    past x s t (x.withOp (.engine k.opSeq))
  let list (x : Ctx) (id : Nat) : CopySlot :=
    { listAt := x.scratchAddr x.lane0 false, count := x.c x.lane0, slot := x.cur.slot, gslot := x.gang.gslot,
      ctx := x.gang.ctx, id := id }
  let tile (d : Nat) (x : Ctx) (s : State) (e : Nat) : Prop :=
    ∃ r, namedReg d = some r ∧ (x.group s).tiles[r.2]? = some e
  let retiled (e : Nat) (x : Ctx) (s t : State) (w : Word) : Prop :=
    Leaves x s (modCore s x.cur.core (fun c => { c with tileTab := (getCore t x.cur.core).tileTab })) t ∧
    past x s t x.gang.ops ∧ tileWord t x.cur.core e = w ∧ ∀ n, n ≠ e → tileWord t x.cur.core n = tileWord s x.cur.core n
  (∀ f, Ends (.cpy f) (fun x s => x.act ≠ 0 ∧ (getCore s x.cur.core).copyq.length < 32)
    (fun x s t => queued (fun id =>
      { request := BitVec.ofNat 512 (x.a x.lane0), slot := x.cur.slot, gslot := x.gang.gslot, ctx := x.gang.ctx,
        id := id }) x s t)) ∧
  (∀ f, Ends (.cpyl f) (fun x s => x.act ≠ 0 ∧ (getCore s x.cur.core).copyq.length < 32 ∧ 0 < x.c x.lane0 ∧ x.c x.lane0 ≤ 256 ∧
      x.scratchAddr x.lane0 false % 64 = 0 ∧ x.scratchAddr x.lane0 false + 64 * x.c x.lane0 ≤ (x.group s).ssize)
    (fun x s t => queued (list x) x s t)) ∧
  (∀ f, Ends (.cpy f) (fun x s => x.act ≠ 0 ∧ 32 ≤ (getCore s x.cur.core).copyq.length) (fun x s t => t = taken x.cur s)) ∧
  (∀ f, Ends (.cpyl f) (fun x s => x.act ≠ 0 ∧ 32 ≤ (getCore s x.cur.core).copyq.length ∧ 0 < x.c x.lane0 ∧ x.c x.lane0 ≤ 256 ∧
      x.scratchAddr x.lane0 false % 64 = 0 ∧ x.scratchAddr x.lane0 false + 64 * x.c x.lane0 ≤ (x.group s).ssize)
    (fun x s t => t = taken x.cur s)) ∧
  (∀ f e, Ends (.tdef f) (fun x s => x.act ≠ 0 ∧ tile x.f.e.d.toNat x s e ∧ field (tileWord s x.cur.core e) 31 30 = 0 ∧
      x.a x.lane0 % 256 = 0 ∧ x.b x.lane0 % 256 = 0 ∧ 256 ≤ x.b x.lane0 ∧ x.b x.lane0 ≤ 65536 ∧ x.a x.lane0 < 2 ^ 19 ∧
      x.a x.lane0 + x.b x.lane0 ≤ (x.group s).ssize)
    (fun x s t => ∃ w, retiled e x s t w ∧ field w 31 25 = field (tileWord s x.cur.core e) 31 25 ∧
      field w 24 14 * 256 = x.a x.lane0 ∧ (field w 13 6 + 1) * 256 = x.b x.lane0)) ∧
  (∀ f e, Ends (.tstat f) (fun x s => x.act ≠ 0 ∧ tile x.f.e.a.toNat x s e)
    (fun x s t => Leaves x s s t ∧ wrote x t x.gang.ops (fun _ => (tileWord s x.cur.core e).toNat))) ∧
  (∀ f e, Ends (.trel f) (fun x s => x.act ≠ 0 ∧ tile x.f.e.d.toNat x s e ∧ field (tileWord s x.cur.core e) 31 30 = 2)
    (fun x s t => ∃ w, retiled e x s t w ∧ field w 29 0 = field (tileWord s x.cur.core e) 29 0 ∧
      field w 31 30 = if field (tileWord s x.cur.core e) 29 25 = 0 then 0 else 3)) ∧
  (∀ f e, Ends (.tdef f) (fun x s => x.act ≠ 0 ∧ tile x.f.e.d.toNat x s e ∧ field (tileWord s x.cur.core e) 31 30 ≠ 0)
    (fun x s t => waitsAt x .tile (8 * e) false s t)) ∧
  (∀ f e, Ends (.trel f) (fun x s => x.act ≠ 0 ∧ tile x.f.e.d.toNat x s e ∧ field (tileWord s x.cur.core e) 31 30 ≠ 2)
    (fun x s t => waitsAt x .tile (8 * e + 2) false s t)) ∧
  (∀ f i, i = Instr.tdef f ∨ i = .trel f →
    Ends i (fun x s => ∀ r, namedReg x.f.e.d.toNat = some r → (x.group s).tiles.length ≤ r.2)
      (fun x s t => traps x (x.trapOf 1 (x.cur.word.setWidth 64) x.sp.mask 0) s t)) ∧
  (∀ f, Ends (.tstat f) (fun x s => ∀ r, namedReg x.f.e.a.toNat = some r → (x.group s).tiles.length ≤ r.2)
    (fun x s t => traps x (x.trapOf 1 (x.cur.word.setWidth 64) x.sp.mask 0) s t))

/-- 09 R206 to R208, 20 R485 to R488: `pbinit` sets a phase barrier's count and clears its other fields; `pbexp` adds to the
bytes due, `pbarv` arrives once, or once for each acting lane; where the arrivals reach the count and the bytes got those due,
the phase flips: the generation gains one and the rest returns to 0, but not a second time where a credit of the cycle has
flipped it (20 R519). More than 32 bits of bytes due traps with cause 6 and reason 3, more arrivals than the count with reason
2, each acting lane named (log 27, the model's reading). `pbwait` goes on when the generation is not its value, and waits
otherwise. No other byte changes. -/
def Obligations.PhaseBarriers : Prop :=
  let at_ (x : Ctx) (s : State) : Prop := x.act ≠ 0 ∧ x.phaseAt % 16 = 0 ∧ x.phaseAt + 16 ≤ (x.group s).ssize
  let phase (x : Ctx) (s : State) : Phase := readPhase s x.cur.core (x.group s) x.phaseAt
  let flip (p : Phase) : Phase := if p.arrived = p.count ∧ p.got = p.due
    then { p with gen := (p.gen + 1) % 2 ^ 16, due := 0, got := 0, arrived := 0 } else p
  let set (x : Ctx) (s t : State) (p : Phase) : Prop :=
    let m := (getCore t x.cur.core).scratch
    Leaves x s (modCore s x.cur.core (fun k => { k with scratch := m })) t ∧ past x s t x.gang.ops ∧ phase x t = p ∧
    ∀ a, a < (x.group s).sbase + x.phaseAt ∨ (x.group s).sbase + x.phaseAt + 16 ≤ a →
      memRead m a = memRead (getCore s x.cur.core).scratch a
  let n (x : Ctx) : Nat := if x.mn = 0 then 1 else laneCount x.act
  (∀ f, Ends (.pbinit f) (fun x s => at_ x s ∧ 0 < x.c x.lane0 ∧ x.c x.lane0 ≤ 65535) (fun x s t =>
    set x s t { due := 0, got := 0, gen := 0, arrived := 0, count := x.c x.lane0, rsv := 0 })) ∧
  (∀ f, Ends (.pbexp f) (fun x s => at_ x s ∧ (phase x s).due + x.c x.lane0 < 2 ^ 32) (fun x s t =>
    set x s t (flip { phase x s with due := (phase x s).due + x.c x.lane0 }))) ∧
  (∀ f, Ends (.pbexp f) (fun x s => at_ x s ∧ 2 ^ 32 ≤ (phase x s).due + x.c x.lane0)
    (fun x s t => traps x (x.trapOf 6 3 x.act x.act) s t)) ∧
  (∀ f, Ends (.pbarv f) (fun x s => at_ x s ∧ (phase x s).arrived + n x ≤ (phase x s).count ∧ justFlipped x x.phaseAt s = false)
    (fun x s t => set x s t (flip { phase x s with arrived := (phase x s).arrived + n x }))) ∧
  (∀ f, Ends (.pbarv f) (fun x s => at_ x s ∧ (phase x s).arrived + n x ≤ (phase x s).count ∧ justFlipped x x.phaseAt s = true)
    (fun x s t => set x s t { phase x s with arrived := (phase x s).arrived + n x })) ∧
  (∀ f, Ends (.pbarv f) (fun x s => at_ x s ∧ (phase x s).count < (phase x s).arrived + n x)
    (fun x s t => traps x (x.trapOf 6 2 x.act x.act) s t)) ∧
  (∀ f, Ends (.pbwait f) (fun x s => at_ x s ∧ (phase x s).gen ≠ x.c x.lane0 % 2 ^ 16)
    (fun x s t => becomes x s t (advanceSplit x.cur (x.issued s)))) ∧
  (∀ f, Ends (.pbwait f) (fun x s => at_ x s ∧ (phase x s).gen = x.c x.lane0 % 2 ^ 16)
    (fun x s t => waitsAt x .phase x.phaseAt false s t))

/-- What a barrier instruction may change outside its own gang: the barrier's part in the groups that share it, and, when a
generation completes, the pending marks of their gangs (09 R209, R210). -/
structure BarrierFrame (x : Ctx) (bar : Nat) (done : Prop) (s t : State) : Prop where
  device : t.apart = s.apart
  queue : t.issueQ = s.issueQ.tail
  cores : ∀ n, { (getCore t n).apart with groups := [] } = { (getCore s n).apart with groups := [] }
  groups : ∀ c k g, getGroup s c k = some g → ∃ g', getGroup t c k = some g' ∧ g' = { g with barriers := g'.barriers } ∧
    (∀ n, n ≠ bar → g'.barrier n = g.barrier n) ∧
    ((∀ h, (c, k, h) ∉ barrierGroups s x.cur.core x.gang.gslot bar) → g' = g)
  gangs : ∀ c k g, (c, k) ≠ (x.cur.core, x.cur.slot) → getGang s c k = some g → ∃ g', getGang t c k = some g' ∧
    (done → (∃ h, (c, g.gslot, h) ∈ barrierGroups s x.cur.core x.gang.gslot bar) → g' = { g with pend := mapErase g.pend bar }) ∧
    ((¬ done ∨ ∀ h, (c, g.gslot, h) ∉ barrierGroups s x.cur.core x.gang.gslot bar) → g' = g)

/-- 09 R209 to R213, 18 R386, R387, R394, R395, 04 R86, at the barriers of a group and those of a cohort of any size: `bdef`
sets the gang's group's members between generations, and waits for its boundary elsewhere; `barv` and `bsync` add the acting
lanes of a member gang to the arrivals, the first of a generation starting its timer, but for lanes that are pending: those
wait and arrive later, and all of them wait while a `bdef` that has come to its boundary goes first; when the arrivals of the
barrier's groups reach the live lanes of their member gangs the generation gains one in each, the arrivals and the timer
return to none, and the pending marks are cleared. `bsync` after its arrival and `bwait` wait for the generation's completion,
starting a timer that stands still, and go on when it has reached them, also where a `bdef` has changed the members since. A
spawned gang is illegal, whatever the guards, with every lane named (logs 11, 78, the model's readings), and a gang that is no
member traps with cause 6 and reason 4, each acting lane named (log 27). No register and no byte of memory changes. -/
def Obligations.NamedBarriers : Prop :=
  let bar (x : Ctx) : Nat := barrierName x.f.e.a.toNat
  let groups (x : Ctx) (s : State) : List (Nat × Nat × Group) := barrierGroups s x.cur.core x.gang.gslot (bar x)
  let keyed (x : Ctx) (s : State) : Prop := bar x < 16 ∨ (x.group s).cohortSize ≤ 1 ∨
    (risingFrom 0 s.cores = true ∧ ∀ e ∈ s.cores, risingFrom 0 e.2.groups = true)
  let ours (x : Ctx) (s : State) : Prop :=
    x.gang.id < 128 ∧ x.act ≠ 0 ∧ (getGroup s x.cur.core x.gang.gslot).isSome ∧ keyed x s
  let member (x : Ctx) (s : State) : Prop := isMember (x.group s) x.gang (bar x) = true ∧ barrierWait x = none
  let own (x : Ctx) (s : State) : Barrier := (x.group s).barrier (bar x)
  let obj (x : Ctx) (s : State) : Nat := bar x + 32 * (own x s).gen.toNat
  let late (x : Ctx) : Mask := mapGet 0 x.gang.pend (bar x) &&& x.act
  let undefined (x : Ctx) (s : State) : Prop := definesDue s x.cur.core x.gang.gslot (bar x) = []
  let count (x : Ctx) (s : State) (lanes : Mask) : Nat := barrierArrived s x.cur.core x.gang.gslot (bar x) + laneCount lanes
  let done (x : Ctx) (s : State) (lanes : Mask) : Prop :=
    count x s lanes = barrierExpected (taken x.cur s) x.cur.core x.gang.gslot (bar x) ∧ 0 < count x s lanes
  let parts (restarts : Prop) (lanes : Mask) (x : Ctx) (s t : State) : Prop :=
    ∀ c k g, (c, k, g) ∈ groups x s → ∃ g', getGroup t c k = some g' ∧
      let b := g.barrier (bar x)
      let b' := g'.barrier (bar x)
      b'.members = b.members ∧
      (done x s lanes → b'.gen = b.gen + 1 ∧ b'.arrived = 0 ∧ b'.begun = false ∧ b'.timer = none) ∧
      (¬ done x s lanes → b'.gen = b.gen ∧
        b'.arrived = b.arrived + (if (c, k) = (x.cur.core, x.gang.gslot) then laneCount lanes else 0) ∧
        ((own x s).begun = false → b'.begun = true ∧ b'.timer = some s.clock) ∧
        ((own x s).begun = true → b'.begun = b.begun ∧
          (restarts → (own x s).timer = none → b'.timer = some s.clock) ∧
          (¬ restarts ∨ (own x s).timer ≠ none → b'.timer = b.timer)))
  let arrives (restarts : Prop) (lanes : Mask) (R : Gang → Prop) (x : Ctx) (s t : State) : Prop :=
    BarrierFrame x (bar x) (done x s lanes) s t ∧ parts restarts lanes x s t ∧
    ∃ g', getGang t x.cur.core x.cur.slot = some g' ∧ sameRegs x.gang g' ∧
      (∀ n, n ≠ bar x → mapGet 0 g'.pend n = mapGet 0 x.gang.pend n) ∧ (done x s lanes → mapGet 0 g'.pend (bar x) = 0) ∧
      (¬ done x s lanes → mapGet 0 g'.pend (bar x) = mapGet 0 x.gang.pend (bar x) ||| lanes) ∧ R g'
  let waiting (x : Ctx) (s : State) (o : Nat) (acted : Bool) : Wait :=
    { kind := .barrier, obj := o, acted := acted, since := x.since .barrier s }
  let stays (x : Ctx) (f : Split → Split) (s : State) (g' : Gang) : Prop :=
    g'.apart = { x.gang.apart with pend := g'.pend } ∧ splitBecomes x f s g'
  let awaits (o : Nat) (x : Ctx) (s t : State) : Prop :=
    BarrierFrame x (bar x) False s t ∧
    (∀ c k g, (c, k, g) ∈ groups x s → ∃ g', getGroup t c k = some g' ∧ ∃ tm, g'.barrier (bar x) = { g.barrier (bar x) with timer := tm } ∧
      ((own x s).begun = true → (own x s).timer = none → tm = some s.clock) ∧
      ((own x s).begun = false ∨ (own x s).timer ≠ none → tm = (g.barrier (bar x)).timer)) ∧
    ∃ g', getGang t x.cur.core x.cur.slot = some g' ∧ sameRegs x.gang g' ∧ g'.apart = x.gang.apart ∧
      splitBecomes x (fun sp => { sp with wait := some (waiting x s o true) }) s g'
  let goesOn (x : Ctx) (s t : State) : Prop :=
    Leaves x s (if bar x < 16 then s else modCore s x.cur.core (fun c => { c with l1 := [] })) t ∧ past x s t x.gang.ops
  let illegal (x : Ctx) (s t : State) : Prop := traps x (x.trapOf 1 (x.cur.word.setWidth 64) x.sp.mask 0) s t
  (∀ f, Ends (.bdef f) (fun x s => ours x s ∧ barrierArrived s x.cur.core x.gang.gslot (bar x) = 0) (fun x s t =>
    (own x t).members = BitVec.ofNat 64 (x.b x.lane0) &&& firstLanes (x.group s).size ∧
    { own x t with members := (own x s).members } = own x s ∧ (∀ n, n ≠ bar x → (x.group t).barrier n = (x.group s).barrier n) ∧
    (∀ k, k ≠ x.gang.gslot → getGroup t x.cur.core k = getGroup s x.cur.core k) ∧ past x s t x.gang.ops ∧
    Leaves x s (modCore s x.cur.core (fun c => { c with groups := (getCore t x.cur.core).groups })) t)) ∧
  (∀ f, Ends (.bdef f) (fun x s => ours x s ∧ barrierArrived s x.cur.core x.gang.gslot (bar x) ≠ 0)
    (fun x s t => waitsAs x { kind := .barrier, obj := obj x s, since := 0, defines := true } s t)) ∧
  (∀ f, Ends (.barv f) (fun x s => ours x s ∧ member x s ∧ late x = 0 ∧ undefined x s)
    (fun x s t => arrives False x.act (fun g' => g'.apart = { (endReplay x.cur.lane x.gang).apart with pend := g'.pend } ∧
      g'.splits = splitsAfter x.cur x.gang) x s t)) ∧
  (∀ f, Ends (.bsync f) (fun x s => ours x s ∧ member x s ∧ late x = 0 ∧ undefined x s)
    (fun x s t => arrives True x.act (stays x (fun sp => { sp with wait := some (waiting x s (obj x s) true) }) s) x s t)) ∧
  (∀ f i, i = Instr.barv f ∨ i = .bsync f →
    Ends i (fun x s => ours x s ∧ member x s ∧ late x ≠ 0 ∧ late x ≠ x.act ∧ undefined x s)
      (fun x s t => arrives False (x.act &&& ~~~(late x)) (stays x (fun sp =>
        { sp with wait := some (waiting x s (obj x s) false), replay := some (late x) }) s) x s t) ∧
    Ends i (fun x s => ours x s ∧ member x s ∧ (late x = x.act ∨ ¬ undefined x s))
      (fun x s t => waitsAt x .barrier (obj x s) false s t)) ∧
  (∀ f, Ends (.bwait f) (fun x s => ours x s ∧ member x s) (fun x s t => awaits (obj x s) x s t)) ∧
  (∀ f i w, i = Instr.bsync f ∨ i = .bwait f →
    Ends i (fun x s => ours x s ∧ barrierWait x = some w ∧ w.ended = false) (fun x s t => awaits w.obj x s t) ∧
    Ends i (fun x _ => x.gang.id < 128 ∧ x.act ≠ 0 ∧ barrierWait x = some w ∧ w.ended = true) goesOn) ∧
  (∀ f i, i ∈ [Instr.bdef f, .barv f, .bwait f, .bsync f] → Ends i (fun x _ => 128 ≤ x.gang.id) illegal) ∧
  (∀ f i, i ∈ [Instr.barv f, .bwait f, .bsync f] →
    Ends i (fun x s => x.gang.id < 128 ∧ x.act ≠ 0 ∧ isMember (x.group s) x.gang (bar x) = false ∧ barrierWait x = none)
      (fun x s t => traps x (x.trapOf 6 4 x.act x.act) s t))

/-- 07 R144 to R147, R154, R158, R169, 19 R461 to R470: `mshape` writes the grant word of its request, or 0 where the
scope cannot be granted, and a granted request is the gang's shape; the matrix commands that name a tile of the group,
issued by the leader of their scope, join the matrix queue with their operands as they stand at issue, while it holds
fewer than 32; `mstat` reads the engine word, the row of the running `mma`, or a tile's status or count, and clears the
status bits where MOD asks. A tile at or above the group's count, and an `mma` without a shape, are illegal, whatever the
guards, with every lane of the split named (logs 78, 11, the model's readings). No memory changes. -/
def Obligations.MatrixInstructions : Prop :=
  let ok (x : Ctx) (s : State) (n : Nat) : Prop :=
    x.accName s = some n ∧ leads x (taken x.cur s) n = true ∧ x.act ≠ 0 ∧ (getCore s x.cur.core).mqueue.length < 32
  let queued (kind : Ctx → MKind) (n : Nat) (x : Ctx) (s t : State) : Prop :=
    let k := getCore s x.cur.core
    Leaves x s (modCore s x.cur.core (fun c => { c with
      mqueue := k.mqueue ++ [{ kind := kind x, scope := x.mn, tile := n, slot := x.cur.slot, gslot := x.gang.gslot,
                               ctx := x.gang.ctx, id := k.opSeq }], opSeq := k.opSeq + 1 })) t ∧
    past x s t (x.withOp (.engine k.opSeq))
  let at_ (x : Ctx) (r : Nat) : Nat := ((sreg x.gang r).toNat + 2 ^ 32 * (sreg x.gang (r + 1)).toNat) % 2 ^ 52
  let stride (x : Ctx) (r : Nat) : Nat := (sreg x.gang (r + 2)).toNat
  let operand (x : Ctx) (kind field len : Nat) : MOperand :=
    if kind = 2 then .ring (((namedReg field).map (·.2)).getD 0) (len + 1) else .addr (at_ x field) (stride x field)
  let request (x : Ctx) : BitVec 64 := BitVec.ofNat 64 (x.a x.lane0)
  let legal (x : Ctx) : Prop := x.act ≠ 0 ∧ field (request x) 63 40 = 0 ∧ field (request x) 18 16 = 0 ∧
    shapeScope (request x) ≠ 3 ∧ shapeScope (request x) = x.mn
  let illegal (x : Ctx) (s t : State) : Prop := traps x (x.trapOf 1 (x.cur.word.setWidth 64) x.sp.mask 0) s t
  (∀ f, Ends (.mshape f) (fun x s => legal x ∧ grants (taken x.cur s) x.cur.core x.gang.gslot x.mn = true) (fun x s t =>
    let r := request x
    let long := 20 < max (shapeWa r) (shapeWb r)
    let head := shapeWa r + shapeWb r + clog2 (shapeK r)
    SameButGang x.cur.core x.cur.slot s t ∧ ∃ g', getGang t x.cur.core x.cur.slot = some g' ∧
      g'.apart = (endReplay x.cur.lane { x.gang with shape := some r }).apart ∧ g'.splits = splitsAfter x.cur x.gang ∧
      destAfter x (fun _ => 2 ^ 31 + shapeScope r * 2 ^ 29 + (if long then 2 ^ 28 else 0) + head % 128 * 2 ^ 21 +
        (if head ≤ 62 then 2 ^ 20 else 0) + shapeK r * (if long then 2 else 1)) x.gang g')) ∧
  (∀ f, Ends (.mshape f) (fun x s => legal x ∧ grants (taken x.cur s) x.cur.core x.gang.gslot x.mn = false) (fun x s t =>
    Leaves x s s t ∧ wrote x t x.gang.ops (fun _ => 0))) ∧
  (∀ f n, Ends (.mzero f) (fun x s => ok x s n) (queued (fun _ => .mzero) n)) ∧
  (∀ f n r, Ends (.mma f) (fun x s => ok x s n ∧ x.gang.shape = some r ∧ shapeScope r = x.mn)
    (queued (fun x => .mma (operand x x.f.e.ka.toNat x.f.e.a.toNat (x.immN % 16))
      (operand x x.f.e.kb.toNat x.f.e.b.toNat (x.immN / 16)) r x.f.e.sat (x.md == 1)) n)) ∧
  (∀ f n, Ends (.mldcRp8 f) (fun x s => ok x s n)
    (queued (fun x => .mldcRp8 (at_ x x.f.e.a.toNat) (stride x x.f.e.a.toNat) x.immN) n)) ∧
  (∀ f n, Ends (.mldcImg f) (fun x s => ok x s n) (queued (fun x => .mldcImg (at_ x x.f.e.a.toNat)) n)) ∧
  (∀ f n, Ends (.mdrain f) (fun x s => ok x s n ∧ x.a x.lane0 % 32 = 0 ∧ x.a x.lane0 + 32 ≤ (x.group s).ssize)
    (queued (fun x => .mdrain (x.a x.lane0)) n)) ∧
  (∀ f n, Ends (.msave f) (fun x s => ok x s n) (queued (fun x => .msave (at_ x x.f.e.a.toNat)) n)) ∧
  (∀ f, Ends (.mma f) (fun x _ => x.gang.shape = none) illegal) ∧
  (∀ f i, i ∈ [Instr.mzero f, .mma f, .mldcRp8 f, .mldcImg f, .mdrain f, .msave f] →
    Ends i (fun x s => x.accName s = none) illegal) ∧
  (∀ f, Ends (.mstat f) (fun x _ => x.act ≠ 0 ∧ x.immN < 4) (fun x s t =>
    let k := getCore s x.cur.core
    let runs := k.mrun ++ match k.slaved with
      | some leader => (getCore s leader).mrun.filter (fun m => m.scope != 0)
      | none => []
    Leaves x s s t ∧ wrote x t x.gang.ops (fun _ => if x.immN = 0 then
        (if runs.any (fun m => match m.onPage with | some (.page _) => true | _ => false) then 2 ^ 31 else 0) + (if k.slaved.isSome then 2 ^ 30 else 0) +
          k.mqueue.length % 64 * 2 ^ 24
      else ((runs.find? (fun m => match m.kind with | .mma .. => true | _ => false)).map (fun m => m.row)).getD 0))) ∧
  (∀ f n, Ends (.mstat f) (fun x s => x.act ≠ 0 ∧ 4 ≤ x.immN ∧ (x.group s).acc[x.immN % 4]? = some n) (fun x s t =>
    let e := accTile s x.cur.core n
    let bit (b : Bool) (k : Nat) : Nat := if b then 2 ^ k else 0
    let word := bit e.cert 31 + e.hr % 128 * 2 ^ 24 + e.hb % 64 * 2 ^ 18 + (bit e.hlim 4 + bit e.unc 3 + bit e.ovf 2 + bit e.pois 1 + bit e.sat 0)
    wrote x t x.gang.ops (fun _ => if 8 ≤ x.immN then e.kacc else word) ∧
    Leaves x s (if x.immN < 8 ∧ x.md = 1 then modAcc x.cur.core n (fun e =>
      { e with sat := false, pois := false, ovf := false, unc := false, hlim := false }) s else s) t))

/-! ## Device steps -/

/-- 02 R44, R47, R53, 03 R74, 04 R81, R83, R84, 08 R176, 14 R311, 16 R337: one cycle of issue fills the slot with at most four splits of its
core and moves the round-robin pointer, and a gang whose scoreboards differ is squashed and counted; a squashed gang
without operations issues again; the gang's oldest lane operation completes; a gang that wants room and fits is present
at once or recalled; lifts and recalls complete, and a recalled gang takes the traps that fell due while it was lifted, the
oldest first (log 70); a gang without lanes and matrix commands retires and leaves the
rendezvous it takes part in, and the last of a group without engine work frees it, zeroes its scratchpad and reports,
while fewer than 4,096 reports wait; a gang that retires with an engine fault undelivered loses its context, or its held
task fails (the model's reading, log 80); a bucket with as many landed records as the group is wide forms a gang with
a record to each lane; a refill batch takes its records into the queue; the first record on its way lands. -/
def Obligations.IssueAndResidency : Prop :=
  (∀ core, Moves (.issueCycle core []) (fun s => lcoreValid s core = true ∨ (getCore s core).gangs ≠ []) (fun s t =>
    t.issueQ.length ≤ 4 ∧ (∀ c ∈ t.issueQ, c.core = core) ∧ (getCore t core).rr = ((getCore s core).rr + 1) % 48 ∧
    t.apart = s.apart ∧ (∀ n, n ≠ core → getCore t n = getCore s n) ∧ (getCore t core).scratch = (getCore s core).scratch)) ∧
  (∀ core slot g, Moves (.issueCycle core [slot]) (fun s => getGang s core slot = some g ∧ g.rebuilt = none) (fun s t =>
    (∃ g', getGang t core slot = some g' ∧ g'.squashed = true) ∧
    let off := offCoreHealth (physCore s core)
    field (reg32 t off) 31 24 = min (field (reg32 s off) 31 24 + 1) 255)) ∧
  (∀ core slot g, Moves (.scoreboardRebuild core slot)
    (fun s => getGang s core slot = some g ∧ g.squashed = true ∧ ∀ o ∈ g.ops, o.kind.waits = true)
    (fun s t => OnlyGang core slot s t { g with squashed := false, rebuilt := some s.cycles })) ∧
  (∀ core slot g pre o post, Moves (.longLatencyComplete core slot)
    (fun s => getGang s core slot = some g ∧ g.ops = pre ++ o :: post ∧ (o.kind.isLane || o.made g) = true ∧
      ∀ p ∈ pre, (p.kind.isLane || p.made g) = false)
    (fun s t => OnlyGang core slot s t { g with ops := pre ++ post })) ∧
  (∀ core slot g, Moves (.liftRecallDecision core)
    (fun s => getGang s core slot = some g ∧ wantsRoom s core slot g = true ∧ moveBudget s core g = true ∧
      imageFits (getCore s core) g = true ∧ ∀ e ∈ (getCore s core).gangs, e ≠ (slot, g) → wantsRoom s core e.1 e.2 = false)
    (fun s t => getGang t core slot = some { g with
        residency := if g.residency = .waitingRoom then .present else .recalling, since := s.cycles } ∧
      (∀ k, k ≠ slot → getGang t core k = getGang s core k) ∧ (∀ n, n ≠ core → getCore t n = getCore s n) ∧ t.mem = s.mem)) ∧
  (∀ core slot g, Moves (.gangLiftComplete core slot) (fun s => getGang s core slot = some g ∧ g.residency = .lifting)
    (fun s t => OnlyGang core slot s t { g with residency := .lifted, since := s.cycles })) ∧
  (∀ core slot g, Moves (.gangRecallComplete core slot) (fun s => getGang s core slot = some g ∧ g.residency = .recalling)
    (fun s t => ∃ u, OnlyGang core slot s u { g with residency := .present, since := s.cycles, due := [] } ∧
      t = g.due.foldl (fun s h => takeTrap core slot h.lane
        { cause := h.cause, tinfo := h.tinfo, tmask := h.tmask, unfinished := h.tmask } s) u)) ∧
  (∀ core slot g k g', Moves (.gangRetire core slot)
    (fun s => getGang s core slot = some g ∧ gangSpent s core slot g = true ∧ k ≠ slot ∧ getGang s core k = some g' ∧
      g'.gslot = g.gslot ∧ ∀ f ∈ (getCore s core).faults, f.slot ≠ slot)
    (fun s t => getGang t core slot = none ∧ (∀ n, n ≠ slot → getGang t core n = getGang s core n) ∧
      (getCore t core).groups = mapModify (getCore s core).groups g.gslot (leaveRendezvous slot) ∧ (∀ n, n ≠ core → getCore t n = getCore s n) ∧ t.mem = s.mem)) ∧
  (∀ core slot g grp, Moves (.gangRetire core slot)
    (fun s => getGang s core slot = some g ∧ gangSpent s core slot g = true ∧ getGroup s core g.gslot = some grp ∧
      grp.held = false ∧ grp.spilled = [] ∧ queuedOf (getCore s core) g.gslot = 0 ∧ s.completions.length < 4096 ∧
      (∀ f ∈ (getCore s core).faults, f.slot ≠ slot) ∧ (∀ q ∈ (getCore s core).copyq, q.gslot ≠ g.gslot) ∧
      (∀ r ∈ (getCore s core).copyrun, r.gslot ≠ g.gslot) ∧ (∀ o ∈ (getCore s core).near, o.gslot ≠ g.gslot) ∧
      ∀ e ∈ (getCore s core).gangs, e.2.gslot = g.gslot → e.1 = slot)
    (fun s t => getGang t core slot = none ∧ getGroup t core g.gslot = none ∧
      t.completions = s.completions ++ [(grp.queue, grp.lslot, grp.stage)] ∧ t.mem = s.mem ∧
      (∀ a, grp.sbase ≤ a → a < grp.sbase + grp.ssize → memRead (getCore t core).scratch a = 0) ∧
      ∀ a, a < grp.sbase ∨ grp.sbase + grp.ssize ≤ a →
        memRead (getCore t core).scratch a = memRead (getCore s core).scratch a)) ∧
  (∀ core slot g, Moves (.gangRetire core slot)
    (fun s => getGang s core slot = some g ∧ gangSpent s core slot g = true ∧ ∃ f ∈ (getCore s core).faults, f.slot = slot)
    (fun s t => t = if ((getGroup s core g.gslot).map (·.held)).getD false then failTask core g.gslot 1 0x08 s
      else killContext g.ctx s)) ∧
  (∀ core slot gslot grp entry, Moves (.geyserForm core)
    (fun s => let c := getCore s core
      0 < grp.width ∧ grp.width ≤ 64 ∧ c.spawnq.length = grp.width ∧ getGroup s core gslot = some grp ∧
      freeSlotOf c = some slot ∧ mapFind s.preempts grp.ctx = none ∧ ∀ r ∈ c.spawnq, r.gslot = gslot ∧ r.entry = entry ∧ r.landed ≠ none ∧
        r.ggen = mapGet 0 c.ggen gslot)
    (fun s t => (getCore t core).spawnq = [] ∧ ∃ g, getGang t core slot = some g ∧ g.id = 128 + slot ∧ g.ctx = grp.ctx ∧
      g.gslot = gslot ∧ g.width = grp.width ∧ g.regs = grp.generalRegs ∧
      (∃ sp, g.splits = [sp] ∧ sp.mask = firstLanes grp.width ∧ sp.pc = entry ∧ sp.slot = 0) ∧
      (g.residency = if imageFits (getCore s core) g then .present else .waitingRoom) ∧
      ∀ h, h < grp.width → ∃ r ∈ (getCore s core).spawnq, ∀ i, i < r.payload.length → vreg g i h = r.payload.getD i 0)) ∧
  (∀ core k g recs u, Moves (.refillBatchBegin core)
    (fun s => let n := min (batchSize g) g.spilled.length
      (getCore s core).groups.find? (fun e => refillReady s core e.1 e.2) = some (k, g) ∧
      readSpill core g n g.spillHead (chargeBudget 3 core (levelOf s g) n s) = (some recs, u))
    (fun _ t => let n := min (batchSize g) g.spilled.length
      (getCore t core).spawnq = (getCore u core).spawnq ++ recs.map (fun r =>
        { r with gslot := k, ggen := mapGet 0 (getCore u core).ggen k, landed := none }) ∧
      t.mem = u.mem ∧ (getGroup t core k = (getGroup u core k).map (fun g =>
        { g with spilled := g.spilled.drop n, spillHead := g.spillHead + n })))) ∧
  (∀ core pre r post, Moves (.spillRecordLand core)
    (fun s => (getCore s core).spawnq = pre ++ r :: post ∧ r.landed = none ∧ ∀ q ∈ pre, q.landed ≠ none)
    (fun s t => OnlyCore core s t { getCore s core with spawnq := pre ++ { r with landed := some s.cycles } :: post }))

/-- 03 R71, R72, R74, 07 R162, 09 R210, R213, 13 R281, R287, R288, 14 R306, R307, R310: the completion of a barrier ends the
waits on an earlier generation; a barrier's expired timer traps a waiting split with cause 7 and starts again, or stands
still where no split waits, and starts when a split waits; a rendezvous with every lane there migrates its lanes (`Regang`
says how), or traps where its gangs are members of different barriers, and its expired timer traps the awaited gang's
waiting split; a wait at the watchdog's limit that no recovering peer holds traps with cause 9 and the kind of the wait. Which
of several waiting splits takes a stall trap is the model's reading (log 36); a gang that is lifted takes these traps when
it is recalled. An engine
fault traps with cause 8 at a clause boundary; two copies at a `vcommit` with equal signatures go on, and differing ones
fail; a held copy that fails is discarded and placed again, until its retries are used up. -/
def Obligations.WaitsAndTasks : Prop :=
  let stalls (core slot : Nat) (g : Gang) (h : HeldTrap) (u : State) : State :=
    if g.residency = .present ∨ g.residency = .waitingRoom then
      takeTrap core slot h.lane { cause := h.cause, tinfo := h.tinfo, tmask := h.tmask } u
    else modGang u core slot (fun g => { g with due := g.due ++ [h] })
  (∀ core slot bar g grp, Moves (.barrierCompletionArrive core slot bar)
    (fun s => getGang s core slot = some g ∧ getGroup s core g.gslot = some grp)
    (fun s t => let ends (w : Wait) : Wait :=
        if w.kind = .barrier ∧ w.acted = true ∧ w.obj % 32 = bar ∧ w.obj / 32 ≠ (grp.barrier bar).gen.toNat
        then { w with ended := true } else w
      OnlyGang core slot s t { g with splits := g.splits.map (fun (sp : Split) =>
        { sp with wait := sp.wait.map ends, resume := sp.resume.map (fun r => { r with wait := r.wait.map ends }) }) })) ∧
  (∀ core gslot bar grp t0 k g sp, Moves (.barrierStallTimeout core gslot bar)
    (fun s => getGroup s core gslot = some grp ∧ (grp.barrier bar).timer = some t0 ∧ t0 + 850 * grp.bst ≤ s.clock ∧
      barrierGangs s core gslot bar = [(core, k, grp, g)] ∧ getGang s core k = some g ∧
      waitingSplit g (waitsBarrier bar (grp.barrier bar).gen.toNat) = some sp)
    (fun s t => t = stalls core k g
      { cause := 7, lane := lowestLane sp.mask, tinfo := b64 (stallInfo s core gslot bar), tmask := missingAt grp g bar }
      (modBarrier core gslot bar (fun b => { b with timer := some s.clock }) s))) ∧
  (∀ core gslot bar grp t0, Moves (.barrierStallTimeout core gslot bar)
    (fun s => getGroup s core gslot = some grp ∧ (grp.barrier bar).timer = some t0 ∧ t0 + 850 * grp.bst ≤ s.clock ∧
      barrierWaiters s core gslot bar = false)
    (fun s t => t = modBarrier core gslot bar (fun b => { b with timer := none }) s)) ∧
  (∀ core gslot bar grp t0, Moves (.barrierStallTimeout core gslot bar)
    (fun s => getGroup s core gslot = some grp ∧ (grp.barrier bar).timer = some t0 ∧ s.clock < t0 + 850 * grp.bst)
    (fun s t => t = s)) ∧
  (∀ core gslot bar grp, Moves (.barrierStallTimeout core gslot bar)
    (fun s => getGroup s core gslot = some grp ∧ (grp.barrier bar).timer = none)
    (fun s t => t = if (grp.barrier bar).begun ∧ barrierWaiters s core gslot bar = true
      then modBarrier core gslot bar (fun b => { b with timer := some s.clock }) s else s)) ∧
  (∀ core gslot grp r, Moves (.regangComplete core gslot)
    (fun s => getGroup s core gslot = some grp ∧ grp.rendezvous = [r] ∧ rendezvousDone s core r = true ∧
      writesDrained s core r = true ∧ rendezvousStopped s core r = false ∧
      (regangPresent (getCore s core) r = true ∨ regangFits (getCore s core) r = false))
    (fun s t => t = if mixedMembers s core grp r.parts then trapRendezvous core gslot r s
      else migrateLanes core gslot r s)) ∧
  (∀ core gslot grp r k g mask sp, Moves (.regangTimeout core gslot)
    (fun s => getGroup s core gslot = some grp ∧ grp.rendezvous = [r] ∧ r.timer + 850 * grp.bst ≤ s.clock ∧
      rendezvousDone s core r = false ∧ awaitedGangs s core r = [(k, g, mask)] ∧ mask ≠ 0 ∧
      waitingSplit g (fun w => w.kind == .regang && w.acted) = some sp)
    (fun s t => t = stalls core k g
      { cause := 7, lane := lowestLane sp.mask, tmask := mask,
        tinfo := b64 (0x1F + laneCount mask % 2 ^ 13 * 2 ^ 16 + g.id % 64 * 2 ^ 32) }
      (modGroup s core gslot (fun x => { x with rendezvous := [{ r with timer := s.clock }] })))) ∧
  (∀ core slot n g sp w k, Moves (.watchdogExpiry core slot n)
    (fun s => let limit := field (reg32 s offWdogCfg) 23 0
      getGang s core slot = some g ∧ g.splits[n]? = some sp ∧ sp.wait = some w ∧ watchKind w.kind = some k ∧
      sp.trapPend = false ∧ g.owes sp = false ∧ sp.stop = none ∧ limit ≠ 0 ∧ w.since + 850 * limit ≤ s.clock ∧
      waitStands s core g w = false ∧
      waitOver s core slot g (peekSplit s core slot g sp).ctx w = false)
    (fun s t => t = stalls core slot g { cause := 9, lane := lowestLane sp.mask, tinfo := b64 k, tmask := sp.mask } s)) ∧
  (∀ core slot g pre f post sp, Moves (.engineFaultDelivery core slot)
    (fun s => getGang s core slot = some g ∧ (getCore s core).faults = pre ++ f :: post ∧ f.slot = slot ∧
      (∀ x ∈ pre, x.slot ≠ slot) ∧ g.splits ≠ [] ∧ boundarySplit g = some sp)
    (fun s t => t = takeTrap core slot (lowestLane sp.mask) { cause := 8, tinfo := f.tinfo, tmask := sp.mask }
      (modCore s core (fun c => { c with faults := pre ++ post })))) ∧
  (∀ core gslot c k g c' k' g', Moves (.shadowCompare core gslot)
    (fun s => taskCopies core gslot s = [(c, k, g), (c', k', g')] ∧ (c, k) ≠ (c', k') ∧ getGroup s c k = some g ∧
      getGroup s c' k' = some g' ∧ g.atCommit = 1 ∧ g'.atCommit = 1 ∧ g.sign = g'.sign)
    (fun _ t => ∃ a b, getGroup t c k = some a ∧ getGroup t c' k' = some b ∧ a.atCommit = 0 ∧ b.atCommit = 0 ∧
      a.commits = g.commits + 1 ∧ b.commits = g'.commits + 1 ∧ a.version = [] ∧ b.version = [])) ∧
  (∀ core gslot c k g c' k' g', Moves (.shadowCompare core gslot)
    (fun s => taskCopies core gslot s = [(c, k, g), (c', k', g')] ∧ g.atCommit ≠ 0 ∧ g'.atCommit ≠ 0 ∧ g.sign ≠ g'.sign)
    (fun s t => t = failTask core gslot 2 0 s)) ∧
  (∀ core gslot reason g, Moves (.taskDiscardRetry core gslot reason)
    (fun s => getGroup s core gslot = some g ∧ g.held = true ∧ g.task = .retryable ∧ g.twin = none ∧
      bindsNow s core gslot = false ∧ (reason = 2 ∨ reason = 3))
    (fun s t => getGroup t core gslot = none ∧ t.launches = s.launches.map (fun l =>
      if l.queue = g.queue ∧ l.slot = g.lslot then
        (if g.retries < g.retryLimit then
          { l with again := l.again ++ [{ stage := g.stage, index := g.index, retries := g.retries + 1, failedOn := [core] }],
                   retries := max l.retries (g.retries + 1) }
        else { l with doom := 6 })
      else l)))

/-- 07 R148 to R151, R153, R155, R156, R159, R161, R164 to R169, 09 R201, R202: the copy engine accepts a request of the
queue's head; a copy of one chunk within scratchpad moves its bytes, changes no other, and is over; the matrix engine
accepts a command when none runs, and a command of a wider scope makes the other cores' engines follow; a k-step of an `mma`
reads a word of A for each row and one of B for each column, adds to each element the product of its row and column in every
channel, and the poison code is read at the operand's width; `mzero` zeroes its tile; a drain writes 64 elements to
scratchpad, or an RP8 unit to memory, each as its format gives it, and sets the tile's status bits; `mldc` takes an RP8 unit,
or a whole image; a save writes the bytes of its next 64 elements of the tile's image; a command that has no step left
retires. How much one step of an engine does is the model's choice (log 1). -/
def Obligations.EngineSteps : Prop :=
  let noGroupSpent (s : State) (core : Nat) : Prop :=
    ∀ e ∈ (getCore s core).groups, gangsOfGroup (getCore s core) e.1 ≠ []
  let finished (core : Nat) (m : MCommand) (s t : State) : Prop :=
    (getCore t core).mrun = (getCore s core).mrun.filter (fun x => x.id != m.id) ∧ t.mem = s.mem ∧
    ∀ g, getGang s core m.slot = some g →
      getGang t core m.slot = some { g with ops := g.ops.filter (fun o => o.kind != .engine m.id) }
  let runs (core : Nat) (s : State) (m : MCommand) (code : Nat) : Prop :=
    (getCore s core).mrun = [m] ∧ kindCode m.kind = code ∧ m.onPage = none ∧ m.scope = 0
  let queued (core : Nat) (s : State) (m : MCommand) (rest : List MCommand) : Prop :=
    (getCore s core).mqueue = m :: rest ∧ m.kind = .mzero ∧ (getCore s core).mrun = [] ∧ (getCore s core).slaved = none ∧
    heldForSave s core m.ctx (rest.length + 1) = false ∧ cmdBudget s core m = true
  let alone (core : Nat) (s : State) (m : MCommand) (g : Group) : Prop :=
    cmdParts s core m = [(core, m.gslot, g)] ∧ cmdBudget s core m = true
  let rows (core : Nat) (t : State) : List (Nat × Nat) := (getCore t core).mrun.map (fun x => (x.id, x.row))
  let charged (core : Nat) (g : Group) (n : Nat) (s : State) : State := chargeBudget 1 core (levelOf s g) n s
  (∀ core q rest g, Moves (.copyAccept core)
    (fun s => let r := copyOf q.request
      (getCore s core).copyq = q :: rest ∧ (∀ x ∈ rest, x.id ≠ q.id) ∧ q.count = 0 ∧ (getCore s core).copyrun = [] ∧
      getGroup s core q.gslot = some g ∧ hasBudget s 0 core (levelOf s g) = true ∧
      heldForSave s core q.ctx (rest.length + 1) = false ∧
      r.reason s core g = none ∧ r.stile = false ∧ r.dtile = false ∧ r.direct = false ∧ noGroupSpent s core)
    (fun s t => OnlyCore core s t { getCore s core with
      copyq := rest,
      copyrun := [{ request := q.request, slot := q.slot, gslot := q.gslot, ctx := q.ctx, id := q.id, index := q.index }] })) ∧
  (∀ core run g, Moves (.copyChunkPerformed core)
    (fun s => let r := copyOf run.request
      (getCore s core).copyrun = [run] ∧ (∀ x ∈ (getCore s core).copyq, x.id ≠ run.id) ∧ run.onPage = none ∧
      run.chunk = 0 ∧ getGroup s core run.gslot = some g ∧ hasBudget s 0 core (levelOf s g) = true ∧ r.ssp = true ∧
      r.dsp = true ∧ r.stile = false ∧ r.dtile = false ∧ r.conv = 0 ∧ r.pbv = false ∧ r.tr = false ∧ r.rows = 1 ∧
      0 < r.rowb ∧ r.rowb ≤ 512 ∧ noGroupSpent s core)
    (fun s t => let r := copyOf run.request
      (getCore t core).copyrun = [] ∧ t.mem = s.mem ∧
      (∀ k, k < r.rowb → memRead (getCore t core).scratch (g.sbase + r.dst + k) =
        memRead (getCore s core).scratch (g.sbase + r.src + k)) ∧
      (∀ a, a < g.sbase + r.dst ∨ g.sbase + r.dst + r.rowb ≤ a →
        memRead (getCore t core).scratch a = memRead (getCore s core).scratch a) ∧
      ∀ x, getGang s core run.slot = some x →
        getGang t core run.slot = some { x with ops := x.ops.map (fun o =>
          if o.kind = .engine run.id then { o with kind := .lane false } else o) })) ∧
  (∀ core m rest, Moves (.matrixCmdAccept core) (fun s => queued core s m rest ∧ m.scope = 0)
    (fun s t => OnlyCore core s t { getCore s core with mqueue := rest, mrun := [m] })) ∧
  (∀ core m rest, Moves (.scopeCommandStart core)
    (fun s => queued core s m rest ∧ m.scope ≠ 0 ∧ followersFree s core m = true)
    (fun s t => (getCore t core).mqueue = rest ∧ (getCore t core).mrun = [m] ∧ t.mem = s.mem ∧
      ∀ e ∈ cmdParts s core m, e.1 ≠ core → (getCore t e.1).slaved = some core)) ∧
  (∀ (l r : List OpWord) (t : AccTile) i j a b, r.length ≤ 256 → l[i]? = some a → r[j]? = some b →
    (addStep l r t).elem (accIndex i j) =
      if a.val = 0 ∧ a.poison = false then t.elem (accIndex i j) else
        { res := (List.range 10).map (fun c => ((t.elem (accIndex i j)).res.getD c 0 +
            residueOf c a.val * residueOf c b.val) % modulus c),
          poison := (t.elem (accIndex i j)).poison || a.poison || b.poison }) ∧
  (∀ w, 1 ≤ w → w ≤ 32 → operandWord w 0xFFF80000 =
    { val := if w < 20 then 0 else -524288, poison := decide (17 ≤ w ∧ w ≤ 20) }) ∧
  (∀ core m a b r sat rel g col p u row q v, Moves (.mmaRetire core)
    (fun s => runs core s m 2 ∧ m.kind = .mma a b r sat rel ∧ m.row < shapeK r ∧ alone core s m g ∧
      heldForSave s core m.ctx (getCore s core).mqueue.length = false ∧
      readStep core g m a true (shapeWa r) (shapeRows r) 128 (shapeK r) m.row 0 (m.ringA.headD {}) s = (.words col, p, u) ∧
      let spares : Prop := (∀ x ∈ col, x.val = 0 ∧ x.poison = false) ∧ ∃ base stride, b = .addr base stride
      (spares → row = [] ∧ q = m.ringB ∧ v = u) ∧
      (¬ spares → readStep core g m b false (shapeWb r) (shapeCols r) 256 (shapeK r) m.row 0 m.ringB u = (.words row, q, v)))
    (fun _ t => accTile t core (physTile g m) = addStep col row (accTile v core (physTile g m)) ∧
      (∀ n, n ≠ physTile g m → accTile t core n = accTile v core n) ∧ t.mem = v.mem ∧
      (getCore t core).scratch = (getCore v core).scratch ∧
      rows core t = (rows core v).map (fun x => if x.1 = m.id then (m.id, m.row + 1) else x))) ∧
  (∀ s core g m first len isA w n lines kAll k rank (p : RingPos) e i,
    p.reading = true → ringEntry g first len p = some e → i < n → ∃ l,
      readStep core g m (.ring first len) isA w n lines kAll k rank p s = (.words l, p, s) ∧ l.length = n ∧
      l[i]? = some (operandWord w (scratchRead s core g (tileBase (tileWord s core e) +
        ((k - p.start) * lines + i) * containerOf w) (containerOf w)))) ∧
  (∀ s core g m base stride w n lines kAll k rank p bs u i,
    cmdRead core m g (base + k * stride) (n * containerOf w) s = (.inl bs, u) → i < n → ∃ l,
      readStep core g m (.addr base stride) false w n lines kAll k rank p s = (.words l, p, u) ∧ l.length = n ∧
      l[i]? = some (operandWord w (bytesToNat ((bs.drop (containerOf w * i)).take (containerOf w))))) ∧
  (∀ core m a b r sat rel, Moves (.mmaRetire core)
    (fun s => runs core s m 2 ∧ m.kind = .mma a b r sat rel ∧ shapeK r ≤ m.row) (fun s t => finished core m s t)) ∧
  (∀ core m g, Moves (.mzeroDone core)
    (fun s => runs core s m 1 ∧ cmdBudget s core m = true ∧ cmdParts s core m = [(core, m.gslot, g)])
    (fun s t => finished core m s t ∧ accTile t core (physTile g m) =
      { accTile s core (physTile g m) with
        unspec := none, stale := [], elems := [], kacc := 0, wmax := 0, hb := 0, hr := 0, cert := true } ∧
      (∀ e, ((accTile t core (physTile g m)).elem e) = { res := List.replicate 10 0, poison := false }) ∧
      ∀ n, n ≠ physTile g m → accTile t core n = accTile s core n)) ∧
  (∀ core m d g, Moves (.drainComplete core)
    (fun s => runs core s m 4 ∧ alone core s m g ∧ m.descs = [d] ∧ dSp d = true ∧ dBand d = false ∧
      dFmt d ∈ [0, 1, 2, 3, 4, 5, 8] ∧ 64 ∣ m.row ∧ m.row < 32768)
    (fun s t =>
      let tile := accTile s core (physTile g m)
      let tile' := accTile t core (physTile g m)
      let x (k : Nat) := drainElem s tile (m.row + k)
      let o (k : Nat) := convertDrain s core g d (x k)
      let n := unitBytes (dFmt d)
      let first := g.sbase + dDst d + m.row / 256 * dRow d + m.row % 256 * n
      (∀ k b, k < 64 → b < n → memRead (getCore t core).scratch (first + k * n + b) = (natToBytes n (o k).code).getD b 0) ∧
      (∀ a, a < first ∨ first + 64 * n ≤ a → memRead (getCore t core).scratch a = memRead (getCore s core).scratch a) ∧
      (∀ e, tile'.elem e = tile.elem e) ∧ tile'.sat = (tile.sat || (List.range 64).any (fun k => (o k).sat)) ∧
      tile'.pois = (tile.pois || (List.range 64).any (fun k => (x k).val.isNone || (o k).poison)) ∧
      tile'.ovf = (tile.ovf || (List.range 64).any (fun k => (x k).verdict == .overflow)) ∧
      tile'.unc = (tile.unc || (List.range 64).any (fun k => (x k).verdict == .uncorrectable)) ∧
      ((∀ k, k < 64 → (x k).verdict ≠ .uncorrectable) → t.mem = s.mem) ∧
      rows core t = if m.row + 64 < 32768 then [(m.id, m.row + 64)] else [])) ∧
  (∀ core m d g u, Moves (.drainComplete core)
    (fun s => runs core s m 4 ∧ alone core s m g ∧ m.descs = [d] ∧ dSp d = false ∧ dFmt d = 7 ∧ 64 ∣ m.row ∧ m.row < 32768 ∧
      cmdWrite core core m.gslot g m [(dDst d + m.row / 256 * dRow d + m.row % 256 / 64 * 512,
        (List.range 8).flatMap (fun j => (List.range 64).map (fun k =>
          match (drainElem s (accTile s core (physTile g m)) (m.row + k)).val with
          | some v => BitVec.ofNat 8 (residueOf j v)
          | none => 0xFF)))] (charged core g 1 s) = (.done, u))
    (fun s t =>
      ((∀ k, k < 64 → (drainElem s (accTile s core (physTile g m)) (m.row + k)).verdict ≠ .uncorrectable) → t.mem = u.mem) ∧
      (∀ e, (accTile t core (physTile g m)).elem e = (accTile u core (physTile g m)).elem e) ∧
      (m.row + 64 < 32768 → rows core t = (rows core u).map (fun x => if x.1 = m.id then (m.id, m.row + 64) else x)))) ∧
  (∀ core m d g u, Moves (.drainComplete core)
    (fun s => runs core s m 4 ∧ alone core s m g ∧ m.descs = [d] ∧ dSp d = false ∧ dFmt d = 2 ∧ m.row < 32768 ∧
      cmdWrite core core m.gslot g m [(dDst d + m.row / 256 * dRow d + m.row % 256 * 4,
        natToBytes 4 (convertDrain s core g d (drainElem s (accTile s core (physTile g m)) m.row)).code)]
        (charged core g 1 s) = (.full, u))
    (fun _ t => t = u)) ∧
  (∀ core m g, Moves (.drainComplete core) (fun s => runs core s m 4 ∧ alone core s m g ∧ 32768 ≤ m.row)
    (fun s t => finished core m s t)) ∧
  (∀ core m base g, Moves (.msaveComplete core)
    (fun s => runs core s m 5 ∧ m.kind = .msave base ∧ getGroup s core m.gslot = some g ∧ 512 ≤ m.row)
    (fun s t => finished core m s t)) ∧
  (∀ core m base g u, Moves (.msaveComplete core)
    (fun s => let image (a n : Nat) := (base + a, (List.range n).map (fun k =>
        imageByte s (accTile s core (physTile g m)) (a + k)))
      runs core s m 5 ∧ m.kind = .msave base ∧ getGroup s core m.gslot = some g ∧ m.row < 512 ∧
      cmdBudget s core m = true ∧ cmdWrite core core m.gslot g m
        ([image (512 * m.row) 512, image (262144 + 256 * m.row) 256, image (393216 + 8 * m.row) 8] ++
          (if m.row = 511 then [image 397312 4096] else [])) s = (.done, u))
    (fun _ t => t.mem = u.mem ∧ (getCore t core).mrun = (getCore u core).mrun.map (fun x =>
      if x.id = m.id then { x with row := m.row + 1, peer := none, refs := [] } else x))) ∧
  (∀ core m base stride hb g bs v, Moves (.mldcComplete core)
    (fun s => runs core s m 3 ∧ m.kind = .mldcRp8 base stride hb ∧ getGroup s core m.gslot = some g ∧ alone core s m g ∧
      m.row < 512 ∧ cmdRead core m g (base + m.row / 4 * stride + m.row % 4 * 512) 512 s = (.inl bs, v))
    (fun _ t =>
      let byte (j k : Nat) := bytesToNat ((bs.drop (64 * j + k)).take 1)
      let work (k : Nat) := (List.range 8).map (fun j => byte j k)
      (∀ k, k < 64 → (accTile t core (physTile g m)).elem (64 * m.row + k) =
        { res := extendBytes (work k), poison := !bytesValid (work k) }) ∧
      (∀ e, e < 64 * m.row ∨ 64 * m.row + 64 ≤ e →
        (accTile t core (physTile g m)).elem e = (accTile v core (physTile g m)).elem e) ∧
      (∀ n, n ≠ physTile g m → accTile t core n = accTile v core n) ∧ t.mem = v.mem ∧
      rows core t = (rows core v).map (fun x => if x.1 = m.id then (m.id, m.row + 1) else x))) ∧
  (∀ core m base g bs v, Moves (.mldcComplete core)
    (fun s => runs core s m 3 ∧ m.kind = .mldcImg base ∧ getGroup s core m.gslot = some g ∧ cmdBudget s core m = true ∧
      cmdRead core m g base 401408 s = (.inl bs, v))
    (fun _ t => if imageBad bs = true then t = faultReason core m 4 v
      else accTile t core (physTile g m) = tileOfImage bs ∧ t.mem = v.mem ∧
        (∀ n, n ≠ physTile g m → accTile t core n = accTile v core n) ∧
        (getCore t core).mrun = (getCore v core).mrun.filter (fun x => x.id != m.id))) ∧
  (∀ core m base stride hb g, Moves (.mldcComplete core)
    (fun s => runs core s m 3 ∧ m.kind = .mldcRp8 base stride hb ∧ getGroup s core m.gslot = some g ∧
      cmdBudget s core m = true ∧ 512 * (cmdParts s core m).length ≤ m.row)
    (fun s t => finished core m s t))

/-- 13 R289, R291, R296 to R301, 12 R280, 16 R365: a pending context's splits that wait stop in their wait, and past the
deadline those at a clause header stop (where others stop at the deadline is the model's reading, log 33); the save engine
takes a stopped gang and writes its record once its place is known (log 44); the image of a group that is ready is written,
and once all are, the directory and the header, and the context leaves its cores and is saved; a save that cannot be made is
requested again the first time, with memory as it was (log 87), and kills the context the second, the gangs running on; a
saved context whose groups all find room is no longer saved, and none resumes partly; a corrupt save area kills; a kill
advances GEN, sets STATE killing and removes the context's groups; kill-complete sets STATE killed, ends its launches with
status 4 and frees its tokens; the commands suspend, at level 15 (log 45), let resume and kill an active context and report
one that is not active. -/
def Obligations.SavesAndKills : Prop :=
  let idle (s : State) (ctx : Nat) : Prop := cmdBusy s = false ∧ ctx < 2 ^ 16 ∧ ctxState s ctx = 1
  let whateverGangs (s : State) (p : State → Prop) : Prop :=
    ∀ u : State, u.apart = s.apart → (∀ n, (getCore u n).apart = (getCore s n).apart) → p u
  let stopped (core slot : Nat) (g : Gang) (n : Nat) (sp : Split) (why : Stop → Prop) (s t : State) : Prop :=
    t.apart = s.apart ∧ ∃ g', getGang t core slot = some g' ∧ g'.apart = g.apart ∧ sameRegs g g' ∧
      g'.splits.length = g.splits.length ∧ ∃ w, g'.splits[n]? = some { sp with stop := some w } ∧ why w
  let plain (a n : Nat) : Prop := ∀ k, k < n → tierOf (a + k) ≠ .mx
  (∀ ctx core slot g n sp, Moves (.preemptDeadline ctx)
    (fun s => mapFind s.preempts ctx ≠ none ∧ getGang s core slot = some g ∧ g.ctx = ctx ∧ deadlinePassed s g = true ∧
      g.splits[n]? = some sp ∧ sp.slot = 0 ∧ sp.fresh = true ∧
      whateverGangs s (fun u => illegalHeaderDue u core slot g sp = false))
    (fun s t => stopped core slot g n sp (fun _ => True) s t)) ∧
  (∀ ctx core slot g n sp w, Moves (.preemptDeadline ctx)
    (fun s => mapFind s.preempts ctx ≠ none ∧ getGang s core slot = some g ∧ g.ctx = ctx ∧ g.splits[n]? = some sp ∧
      sp.stop = none ∧ sp.wait = some w ∧ w.kind ≠ .fence ∧
      whateverGangs s (fun u => waitOver u core slot g (peekSplit u core slot g sp).ctx w = false))
    (fun s t => stopped core slot g n sp (fun w => w = .wait) s t)) ∧
  (∀ ctx core slot g, Moves (.preemptDeadline ctx) (fun s => getGang s core slot = some g ∧ g.ctx ≠ ctx)
    (fun _ t => getGang t core slot = some g)) ∧
  (∀ core slot g p, Moves (.gangSave core slot)
    (fun s => getGang s core slot = some g ∧ mapFind s.preempts g.ctx = some p ∧ g.saved = false ∧
      gangSettled s core slot g = true ∧ hasBudget s 2 core p.level = true ∧ viralBlocks s (ctxSave s g.ctx) = false)
    (fun s t => getGang t core slot = some { g with saved := true, squashed := false } ∧
      (∀ k, k ≠ slot → getGang t core k = getGang s core k) ∧ (∀ n, n ≠ core → getCore t n = getCore s n) ∧
      let u := modGang s core slot (fun g => { g with saved := true, squashed := false })
      ((∀ e ∈ savedGangs (getCore u core) g.gslot, recordPlace u core e.1 e.2 = none) → t.mem = s.mem) ∧
      ∀ k x off, savedGangs (getCore u core) g.gslot = [(k, x)] → recordPlace u core k x = some off →
          saveRoom u x.ctx off (gangBytes u x).length = true → plain (ctxSave s x.ctx + off) (gangBytes u x).length →
          ∀ b, b < (gangBytes u x).length → memRead t.mem (ctxSave s x.ctx + off + b) = (gangBytes u x).getD b 0)) ∧
  (∀ ctx p core gslot g, Moves (.contextSaved ctx)
    (fun s => mapFind s.preempts ctx = some p ∧ viralBlocks s (ctxSave s ctx) = false ∧
      readyGroups s ctx = [(core, gslot, g)] ∧ g.imaged = false ∧ hasBudget s 2 core p.level = true ∧
      saveImpossible s ctx (imagesOf s (readyGroups s ctx)) = false ∧ getGroup s core gslot = some g ∧
      plain (ctxSave s ctx + 65536) (groupImage s core gslot g).length)
    (fun s t => getGroup t core gslot = some { g with imaged := true } ∧
      (∀ n, n ≠ core → getCore t n = getCore s n) ∧ mapFind t.preempts ctx = some p ∧
      ∀ b, b < (groupImage s core gslot g).length →
        memRead t.mem (ctxSave s ctx + 65536 + b) = (groupImage s core gslot g).getD b 0)) ∧
  (∀ ctx p, Moves (.contextSaved ctx)
    (fun s => mapFind s.preempts ctx = some p ∧ viralBlocks s (ctxSave s ctx) = false ∧ contextReady s ctx = true ∧
      allImaged s ctx = true ∧ hasBudget s 2 (headCore s ctx) p.level = true ∧
      saveImpossible s ctx (contextImages s ctx) = false)
    (fun s t => mapFind t.preempts ctx = none ∧
      (discardedGroupsOf s ctx = [] → let head := saveHead (ctxGen s ctx) (contextImages s ctx)
        plain (ctxSave s ctx + 8) head.length → ∀ b, b < head.length →
          memRead t.mem (ctxSave s ctx + 8 + b) = head.getD b 0) ∧
      (∀ e ∈ savedGroupsOf s ctx ++ discardedGroupsOf s ctx, getGroup t e.1 e.2.1 = none) ∧
      ∃ v, mapFind t.saved ctx = some v ∧ v.byDriver = p.byDriver ∧ v.gen = ctxGen s ctx ∧ v.since = s.clock ∧
        v.groups.map (fun x => (x.core, x.gslot, x.group)) =
          (savedGroupsOf s ctx).map (fun e => (e.1, e.2.1, { e.2.2 with imaged := false })))) ∧
  (∀ ctx p, Moves (.saveFailure ctx)
    (fun s => mapFind s.preempts ctx = some p ∧ (contextReady s ctx = true ∨ readyGroups s ctx ≠ []) ∧
      viralBlocks s (ctxSave s ctx) = false ∧ saveImpossible s ctx (imagesOf s (readyGroups s ctx)) = true)
    (fun s t => (p.failures = 0 → mapFind t.preempts ctx = none ∧ t.mem = s.mem ∧
        mapFind t.preemptAgain ctx = some { p with failures := 1 } ∧
        (∀ core slot g, getGang t core slot = some g → g.ctx = ctx → core ∈ coreIds s →
          g.saved = false ∧ ∀ sp ∈ g.splits, sp.stop = none) ∧
        field (reg32 t offCtxCmdStat) 30 28 = 1) ∧
      (0 < p.failures → ctx ∈ t.killing ∧ field (reg32 t offCtxCmdStat) 30 28 = 2))) ∧
  (∀ ctx v u, Moves (.contextResume ctx)
    (fun s => let groups := v.groups.map (decodeGroup s ctx v.groups)
      mapFind s.saved ctx = some v ∧ v.byDriver = false ∧ starvedAbove s ctx = false ∧ saveCorrupt s ctx v = false ∧
      resumeQuads (s.clock - v.since) groups (distinct (sortBy id (groups.map (fun x => x.core / 4)))) s = some u)
    (fun _ t => mapFind t.saved ctx = none ∧
      ((∀ n, ∀ e ∈ (getCore u n).gangs, e.2.due = []) → t.mem = u.mem))) ∧
  (∀ ctx v, Moves (.contextResume ctx)
    (fun s => let groups := v.groups.map (decodeGroup s ctx v.groups)
      mapFind s.saved ctx = some v ∧ v.byDriver = false ∧ starvedAbove s ctx = false ∧ saveCorrupt s ctx v = false ∧
      resumeQuads (s.clock - v.since) groups (distinct (sortBy id (groups.map (fun x => x.core / 4)))) s = none)
    (fun s t => t = s)) ∧
  (∀ ctx v, Moves (.contextResume ctx)
    (fun s => mapFind s.saved ctx = some v ∧ v.byDriver = false ∧ starvedAbove s ctx = false ∧ saveCorrupt s ctx v = true)
    (fun _ t => ctx ∈ t.killing ∧ field (reg32 t offCtxCmdStat) 30 28 = 4)) ∧
  (∀ ctx, Moves (.contextKill ctx) (fun s => ctxState s ctx = 1 ∧ ctx ∉ s.killing ∧ s.migration = none)
    (fun s t => ctx ∈ t.killing ∧ ctxState t ctx = 2 ∧ ctxGen t ctx = (ctxGen s ctx + 1) % 2 ^ 16 ∧
      mapFind t.preempts ctx = none ∧ mapFind t.saved ctx = none ∧ (∀ r ∈ t.pages, r.ctx ≠ ctx) ∧
      ∀ core k g, getGroup t core k = some g → g.ctx ≠ ctx)) ∧
  (∀ ctx, Moves (.killComplete ctx []) (fun s => ctx ∈ s.killing)
    (fun s t => ctx ∉ t.killing ∧ fieldN (peek t (ctxRecordAddr s ctx) 16) 39 38 = 3 ∧ mapFind t.ctxBase ctx = none ∧ (∀ n k, mapFind t.tokens n = some k → k.ctx ≠ ctx) ∧
      t.launches = s.launches.map (fun l => if l.ctx = ctx ∧ l.finished = false then { l with doom := 4 } else l))) ∧
  (∀ ctx, Moves (.ctxCmdSuspend ctx)
    (fun s => idle s ctx ∧ mapFind s.saved ctx = none ∧ mapFind s.preempts ctx = none ∧ mapFind s.preemptAgain ctx = none)
    (fun s t => mapFind t.preempts ctx = some { since := s.clock, byDriver := true, level := 15 } ∧ t.cores = s.cores ∧
      reg32 t offCtxCmdStat = BitVec.ofNat 32 (2 ^ 31 + ctx))) ∧
  (∀ ctx v, Moves (.ctxCmdResume ctx) (fun s => idle s ctx ∧ mapFind s.saved ctx = some v)
    (fun s t => mapFind t.saved ctx = some { v with byDriver := false } ∧ t.cores = s.cores ∧
      reg32 t offCtxCmdStat = BitVec.ofNat 32 (2 ^ 31 + ctx))) ∧
  (∀ ctx, Moves (.ctxCmdKill ctx) (fun s => idle s ctx)
    (fun _ t => ctx ∈ t.killing ∧ reg32 t offCtxCmdStat = BitVec.ofNat 32 (2 ^ 31 + ctx))) ∧
  (∀ ctx i, i ∈ [Instr.ctxCmdSuspend ctx, .ctxCmdResume ctx, .ctxCmdKill ctx] → Moves i
    (fun s => cmdBusy s = false ∧ ctx < 2 ^ 16 ∧ ctxState s ctx ≠ 1)
    (fun s t => reg32 t offCtxCmdStat = BitVec.ofNat 32 (3 * 2 ^ 28 + ctx) ∧ t.cores = s.cores ∧ t.mem = s.mem))

/-- 12 R258 to R260, R265, R269 to R276, R278, R279, 14 R314, 15 R325: a queue switched out leaves its pointers in its
descriptor; a tail write sets TAIL and the kick; the lowest free token is armed, or none is; the budgets' period begins anew,
with what one step has spent beyond the last (log 69); a pass of a Vent that is not running does what the ROM and the firmware
have been asked for (log 101), and a running one serves its levels from 15 down, each level's pointer going one queue on
(log 41); a launch waits for its tokens, is refused for a failed
one, and without OVL waits for the earlier launches of its queue; a launch that can finish publishes PROG, writes its
completion word unless its queue takes none, and settles its token; pod launches join, elect the lowest device, grant whole
units of a range that was lost, else of the counter, report, and time out after two seconds, and do nothing on a device outside the pod; the standby takes the roles of a halted
Vent core, and without a standby, or with a journal entry that fails in both copies (log 93), the device is viral. -/
def Obligations.VentSteps : Prop :=
  (∀ q m, Moves (.queueSwitchOut q) (fun s => mappedQueue s q = some m ∧ m.recv = []) (fun s t =>
    mappedQueue t q = none ∧ qTail (queueDesc t q) = m.tail % 2 ^ 32 ∧ qProg (queueDesc t q) = m.prog % 2 ^ 32 ∧
    qHead (queueDesc t q) = m.head % 2 ^ 32 ∧ qRing (queueDesc t q) = qRing (queueDesc s q) ∧
    ∀ a, a < queueDescAddr s q ∨ queueDescAddr s q + 64 ≤ a → memRead t.mem a = memRead s.mem a)) ∧
  (∀ (q : Nat) (v : BitVec 32) m, Moves (.qtailWrite q v)
    (fun s => q < 1024 ∧ qDev (queueDesc s q) = false ∧ mappedQueue s q = some m)
    (fun s t => mappedQueue t q = some { m with tail := v.toNat } ∧ t.mem = s.mem ∧
      field (reg32 t (offKick (q / 32))) (q % 32) (q % 32) = 1)) ∧
  (∀ (v : BitVec 32) n, Moves (.tokReqWrite v)
    (fun s => risingFrom 0 s.tokens = true ∧ n < 4096 ∧ mapFind s.tokens n = none ∧ ∀ k, k < n → mapFind s.tokens k ≠ none)
    (fun s t => reg32 t offTokRes = BitVec.ofNat 32 n ∧ mapFind t.tokens n = some { ctx := field v 15 0, st := 1 } ∧
      ∀ k, k ≠ n → mapFind t.tokens k = mapFind s.tokens k)) ∧
  (∀ v : BitVec 32, Moves (.tokReqWrite v) (fun s => risingFrom 0 s.tokens = true ∧ ∀ k, k < 4096 → mapFind s.tokens k ≠ none)
    (fun s t => reg32 t offTokRes = 0xFFFFFFFF ∧ t.tokens = s.tokens)) ∧
  Moves .budgetPeriod (fun s => s.clock % 8500 = 0 ∧ risingFrom 0 s.spent = true) (fun s t =>
    { t with spent := s.spent } = s ∧ ∀ activity core level, core < 128 → level < 16 →
      let k := spentKey activity core level
      mapGet 0 t.spent k =
        if 8500 ≤ budgetCycles s activity level then 0 else mapGet 0 s.spent k - budgetCycles s activity level) ∧
  Moves .budgetPeriod (fun s => s.clock % 8500 ≠ 0) (fun s t => t = s) ∧
  Moves .ventSchedulingPass (fun s => s.running = false) (fun s t => t = serveRequests s) ∧
  Moves .ventSchedulingPass (fun s => s.running = true) (fun s t => ∃ u, let r := refillMap (dropQueueBases (serveRequests s))
    { u with preempts := r.preempts, preemptAgain := r.preemptAgain } = r ∧ u.preemptAgain = [] ∧
    (∀ ctx p, mapFind r.preemptAgain ctx = some p → mapFind u.preempts ctx ≠ none) ∧
    t = [15, 14, 13, 12, 11, 10, 9, 8, 7, 6, 5, 4, 3, 2, 1, 0].foldl (fun s k => serveLevel k s) u) ∧
  (∀ s level, let u := (levelQueues s level).foldl (fun s q => serveQueue level q s) s
    mapGet 0 (serveLevel level s).levels level = (mapGet 0 u.levels level + 1) % 1024) ∧
  (∀ s level q, q ∈ levelQueues s level → q < 1024 ∧ qEnabled (queueDesc s q) = true ∧ qPrio (queueDesc s q) = level) ∧
  (∀ level l s, (l.begun = true ∨ ∀ k ∈ hWaits l.header, testToken l.ctx k s ≠ 3) →
    (∃ k ∈ hWaits l.header, testToken l.ctx k s ≠ 2) → serveLaunch level l s = s) ∧
  (∀ level l s, l.begun = false → (∃ k ∈ hWaits l.header, testToken l.ctx k s = 3) →
    serveLaunch level l s = { s with launches := s.launches.map (fun x =>
      if x.queue = l.queue ∧ x.slot = l.slot then { x with doom := 7 } else x) }) ∧
  (∀ level l s a b c x, s.launches = a ++ x :: b ++ l :: c → x.queue = l.queue → x.finished = false → hOvl l.header = false →
    (∀ y ∈ a ++ x :: b, y.queue ≠ l.queue ∨ y.slot ≠ l.slot) → hWaits l.header = [] → serveLaunch level l s = s) ∧
  (∀ l k, Moves .launchCompletion
    (fun s => s.completions = [] ∧ s.launches = [l] ∧ l.finished = false ∧ hPod l.header = false ∧ l.doom ≠ 0 ∧ l.doom ≠ 1 ∧
      launchLives s l = false ∧ (mapGet {} s.queues l.queue).onPage = none ∧ wordless s l.queue = true ∧
      hSigV l.header = true ∧ mapFind s.tokens (hSig l.header) = some k ∧ k.ctx = l.ctx ∧ k.st = 1)
    (fun _ t => t.launches = [] ∧ qProg (queueDesc t l.queue) = (l.slot + l.slots) % 2 ^ 32 ∧
      mapFind t.tokens (hSig l.header) = some { k with st := 3, pod := false })) ∧
  (∀ l pa, Moves .launchCompletion
    (fun s => s.completions = [] ∧ s.launches = [l] ∧ l.finished = false ∧ hPod l.header = false ∧ l.doom ≠ 0 ∧
      launchLives s l = false ∧ (mapGet {} s.queues l.queue).onPage = none ∧ wordless s l.queue = false ∧
      ventReach s l.ctx ((qCpl (queueDesc s l.queue) + 8 * (l.slot % 2 ^ qLogN (queueDesc s l.queue))) % 2 ^ 52) true = .ok pa ∧
      tierOf pa ≠ .mx)
    (fun _ t => t.launches = [] ∧ memReadBytes t.mem pa 8 = natToBytes 8 (l.doom * 2 ^ 56 + l.retries % 8 * 2 ^ 53))) ∧
  (∀ plid d stage count failed batches i, i ∈ [Instr.podLaunchJoin plid d, .podBatchClaim plid d stage count,
      .podLeaderElection plid failed batches, .podParticipantReport plid d] →
    Moves i (fun s => podActive s = false) (fun s t => t = s)) ∧
  (∀ plid d p l, Moves (.podLaunchJoin plid d)
    (fun s => podActive s = true ∧ (mapGet {} s.peers d).recovering = none ∧ mapFind s.pods plid = some p ∧ podLaunchOf s plid = some l ∧
      d ∉ p.joined ∧ p.leader = none)
    (fun _ t => ∃ p', mapFind t.pods plid = some p' ∧ p'.joined = p.joined ++ [d] ∧
      (p.joined.length + 1 < hPodn l.header → p'.leader = none) ∧
      (hPodn l.header ≤ p.joined.length + 1 → ∃ n ∈ p'.joined, p'.leader = some n ∧ ∀ k ∈ p'.joined, n ≤ k))) ∧
  (∀ plid d stage count p l, Moves (.podBatchClaim plid d stage count)
    (fun s => podActive s = true ∧ (mapGet {} s.peers d).recovering = none ∧ mapFind s.pods plid = some p ∧ podLaunchOf s plid = some l ∧
      p.leader ≠ none ∧ d ∈ p.joined ∧ d ≠ podSelf s ∧ stage < l.stages.length ∧ p.lost = [] ∧
      stUnit (l.stage stage) ≤ min 64 count ∧ p.counters.getD stage 0 < stGroups (l.stage stage))
    (fun s t => let n := min 64 count - min 64 count % stUnit (l.stage stage)
      let m := min n (stGroups (l.stage stage) - p.counters.getD stage 0)
      t.launches = s.launches ∧ ∃ p', mapFind t.pods plid = some p' ∧ p'.batches = p.batches ++ [(d, stage, p.counters.getD stage 0, m)] ∧
        p'.counters.getD stage 0 = p.counters.getD stage 0 + m ∧
        ∀ k, k < l.stages.length → k ≠ stage → p'.counters.getD k 0 = p.counters.getD k 0)) ∧
  (∀ plid d stage count p l a n, Moves (.podBatchClaim plid d stage count)
    (fun s => podActive s = true ∧ (mapGet {} s.peers d).recovering = none ∧ mapFind s.pods plid = some p ∧ podLaunchOf s plid = some l ∧
      p.leader ≠ none ∧ d ∈ p.joined ∧ d ≠ podSelf s ∧ stage < l.stages.length ∧ p.lost = [(stage, a, n)] ∧ 0 < n ∧
      stUnit (l.stage stage) ≤ min 64 count)
    (fun s t => let m := min (min 64 count - min 64 count % stUnit (l.stage stage)) n
      t.launches = s.launches ∧ mapFind t.pods plid = some { p with
        batches := p.batches ++ [(d, stage, a, m)], reported := p.reported.filter (fun x => x != d),
        lost := if m < n then [(stage, a + m, n - m)] else [] })) ∧
  (∀ plid failed n p l, Moves (.podLeaderElection plid failed [(0, 0, n)])
    (fun s => podActive s = true ∧ mapFind s.pods plid = some p ∧ podLaunchOf s plid = some l ∧ p.leader = some failed ∧ l.batches = [] ∧
      l.stages.length = 1)
    (fun s t => t.launches = s.launches ∧ ∃ p', mapFind t.pods plid = some p' ∧ p'.joined = p.joined.filter (fun d => d != failed) ∧
      p'.counters = [n] ∧ (p'.joined ≠ [] → ∃ d ∈ p'.joined, p'.leader = some d ∧ ∀ k ∈ p'.joined, d ≤ k))) ∧
  (∀ plid d p l, Moves (.podParticipantReport plid d)
    (fun s => podActive s = true ∧ (mapGet {} s.peers d).recovering = none ∧ mapFind s.pods plid = some p ∧ podLaunchOf s plid = some l ∧ d ∈ p.joined)
    (fun s t => ∃ p', mapFind t.pods plid = some p' ∧ (∀ k, k ∈ p'.reported ↔ k ∈ p.reported ∨ k = d) ∧
      (p'.done = true ↔ (∀ k, k < l.stages.length → podExhausted s l k = true) ∧ ∀ k ∈ p.joined, k ∈ p'.reported))) ∧
  (∀ plid p, Moves (.podJoinTimeout plid)
    (fun s => mapFind s.pods plid = some p ∧ p.leader = none ∧ p.since + 1700000000 ≤ s.clock)
    (fun s t => mapFind t.pods plid = none ∧ t.launches = s.launches.map (fun l =>
      if hPod l.header = true ∧ hPlid l.header = plid ∧ l.finished = false ∧ l.doom = 0 then { l with doom := 5 } else l))) ∧
  (∀ v, Moves (.ventTakeover v)
    (fun s => v < 4 ∧ v ∉ s.ventDead ∧ field (reg32 s offVentStat) 23 23 = 1 ∧ field (reg32 s offVentStat) 25 24 ≠ v)
    (fun s t => let old := reg32 s offVentStat
      let now := reg32 t offVentStat
      let role (hi lo : Nat) : Prop := field now hi lo = if field old hi lo = v then field old 25 24 else field old hi lo
      v ∈ t.ventDead ∧ t.completions = [] ∧ field now 23 23 = 0 ∧ field now (19 + v) (19 + v) = 1 ∧
      field now 7 0 = min (field old 7 0 + 1) 255 ∧ role 27 26 ∧ role 29 28 ∧ role 31 30 ∧
      ((∃ e ∈ s.journal, e.seq ∈ (s.upsets.headD ([], [])).1 ∧ e.seq ∈ (s.upsets.headD ([], [])).2) →
        isViral t = true))) ∧
  (∀ v, Moves (.ventTakeover v) (fun s => v < 4 ∧ v ∉ s.ventDead ∧ field (reg32 s offVentStat) 23 23 = 0)
    (fun _ t => isViral t = true))

/-- 00 R545, 03 R74, 11 R242, R247 to R255, 12 R272, 14 R314: a mapped page's response retires the request and its waiters
walk again; a refused one traps the waiting lanes with cause 5, a lifted gang's when it is recalled; any other is discarded and
counted; the oldest request without a record is written to the ring; an invalidation is queued while fewer than 64 are
pending, and its completion removes the entries of its range from every TLB and no other; a migration marks the entry of its
range, or is refused with its result, and its completion, which waits for references, on a viral device for what it may not
write, and for the budget of its level (which level that is, is the model's choice, log 69), moves the range's bytes, rewrites
the entry and lets what waited walk again; the walks that wait for room start again. The half written of a register that acts
is recorded (log 97). -/
def Obligations.PagingSteps : Prop :=
  let walks (g : Gang) : Gang :=
    { g with parked := none, splits := g.splits.map (fun (sp : Split) => { sp with missed := false }) }
  (∀ v r core slot lane, Moves (.prsMapped v)
    (fun s => answered s v = some r ∧ field v 1 0 = 0 ∧ r.waiters = [.gang core slot lane])
    (fun s t => t.pages = dropWaiters (Waiter.ofCore core [slot] []) (s.pages.filter (fun x => x.tag != r.tag)) ∧ t.mem = s.mem ∧
      getGang t core slot = (getGang s core slot).map walks)) ∧
  (∀ v r core slot lane g sp, Moves (.prsRefused v)
    (fun s => answered s v = some r ∧ field v 1 0 = 1 ∧ r.waiters = [.gang core slot lane] ∧ getGang s core slot = some g ∧
      splitOf g lane = some sp ∧ (sp.replay ≠ none ∨ sp.missed = true))
    (fun s t => let left := sp.replay.getD sp.mask
      let info := b64 (r.va % 2 ^ 52 / 4096 * 2 ^ 24)
      let u := wakeGang core slot { recordLow offPrs v s with pages := s.pages.filter (fun x => x.tag != r.tag) }
      if g.residency = .present ∨ g.residency = .waitingRoom then
        t = takeTrap core slot lane { cause := 5, tinfo := info, tmask := left, unfinished := left } u
      else t = modGang u core slot (fun g =>
        { g with due := g.due ++ [{ cause := 5, lane := lane, tinfo := info, tmask := left }] }))) ∧
  (∀ v r core slot lane g sp, Moves (.prsRefused v)
    (fun s => answered s v = some r ∧ field v 1 0 = 1 ∧ r.waiters = [.gang core slot lane] ∧ getGang s core slot = some g ∧
      splitOf g lane = some sp ∧ sp.replay = none ∧ sp.missed = false)
    (fun s t => t.pages = s.pages.filter (fun x => x.tag != r.tag) ∧ t.cores = s.cores ∧ t.mem = s.mem)) ∧
  (∀ v, Moves (.prsDiscard v) (fun s => answered s v = none ∨ 1 < field v 1 0)
    (fun s t => onlyWords [offPrs, offXlatStat] s t ∧ reg32 t offPrs = v.extractLsb' 0 32 ∧ reg32 t offXlatStat =
      setField (reg32 s offXlatStat) 15 0 (min (field (reg32 s offXlatStat) 15 0 + 1) 0xFFFF))) ∧
  (∀ v i, i = (if field v 7 6 < 3 then Instr.tlbiPage v else .tlbiContext v) → Moves i (fun s => s.tlbi.length < 64)
    (fun s t => t.tlbi = s.tlbi ++ [v] ∧ field (reg32 t offXlatStat) 30 24 = s.tlbi.length + 1 ∧ t.cores = s.cores)) ∧
  (∀ v i, i = (if field v 7 6 < 3 then Instr.tlbiPage v else .tlbiContext v) → Moves i (fun s => 64 ≤ s.tlbi.length)
    (fun s t => onlyWords [offTlbi, offXlatStat] s t ∧ reg32 t offTlbi = v.extractLsb' 0 32 ∧ field (reg32 t offXlatStat) 31 31 = 1)) ∧
  (∀ core slot g, Moves .tlbWalkComplete
    (fun s => getGang s core slot = some g ∧ risingFrom 0 (getCore s core).gangs = true)
    (fun s t => getGang t core slot = some (if stopIdle s g.ctx g.parked then walks g else g) ∧ t.mem = s.mem ∧
      t.pages.map (·.tag) = s.pages.map (·.tag))) ∧
  (∀ r pre post, Moves .pageRequestRecordWrite
    (fun s => s.pages = pre ++ r :: post ∧ (∀ x ∈ pre, x.written = true ∧ x.tag ≠ r.tag) ∧ (∀ x ∈ post, x.tag ≠ r.tag) ∧
      r.written = false ∧ prqRoom s = true ∧ isViral s = false)
    (fun s t => let base := reg64 s offPrqBase
      let tail := field (reg32 s offPrqPtr) 31 16
      t.pages = pre ++ { r with written := true } :: post ∧
      field (reg32 t offPrqPtr) 31 16 = (tail + 1) % 2 ^ 16 ∧ field (reg32 t offIrqStat) 0 0 = 1 ∧
      peek t (hostAddr (field base 51 12 * 4096) + 16 * (tail % 2 ^ field base 4 0)) 16 = r.bits)) ∧
  (∀ v rest, Moves .tlbiComplete (fun s => s.tlbi = v :: rest ∧ translatedWork s (field v 63 48) = false)
    (fun s t => t.tlbi = rest ∧ t.mem = s.mem ∧
      (∀ core e, e ∈ (getCore t core).tlb ↔ e ∈ (getCore s core).tlb ∧ (tlbiRange v).hits e = false) ∧
      ∀ quad e, e ∈ mapGet [] t.tlb2 quad ↔ e ∈ mapGet [] s.tlb2 quad ∧ (tlbiRange v).hits e = false)) ∧
  (∀ (v : BitVec 128) at_, Moves (.migCmd v)
    (fun s => let e := peek s at_ 8
      s.migration = none ∧ entryAt s (field v 52 22 * 2 ^ 21) 1 3 (ctxRoot s (field v 21 6)) = some at_ ∧
      rangeShape s e = true ∧ destinationOk s e (field v 83 53 * 2 ^ 21) = true ∧ leavesAlike (rangeLeaves s e) = true)
    (fun s t => fieldN (peek t at_ 8) 63 63 = 1 ∧ fieldN (peek t at_ 8) 62 0 = fieldN (peek s at_ 8) 62 0 ∧
      field (reg32 t offXlatStat) 23 23 = 1 ∧ ∃ m, t.migration = some m ∧ m.ctx = field v 21 6 ∧
        m.va = field v 52 22 * 2 ^ 21 ∧ m.dpa = field v 83 53 * 2 ^ 21 ∧ m.tpa = field v 127 84 * 256 ∧ m.entry = at_)) ∧
  (∀ v : BitVec 128, Moves (.migCmd v)
    (fun s => s.migration = none ∧ entryAt s (field v 52 22 * 2 ^ 21) 1 3 (ctxRoot s (field v 21 6)) = none)
    (fun s t => onlyWords [offXlatStat, offMigCmd, offMigCmd + 4, offMigCmd + 8] s t ∧ field (reg32 t offXlatStat) 22 20 = 1 ∧ field (reg32 t offXlatStat) 23 23 = 0)) ∧
  (∀ v m, Moves (.migCmd v) (fun s => s.migration = some m)
    (fun s t => onlyWords [offMigCmd, offMigCmd + 4, offMigCmd + 8] s t ∧ reg64 t offMigCmd = v.extractLsb' 0 64 ∧
      reg32 t (offMigCmd + 8) = v.extractLsb' 64 32)) ∧
  (∀ m, Moves .migrationComplete (fun s => s.migration = some m ∧
      (referenced s (rangePages s (peek s m.entry 8)) = true ∨ moveBlocked s m = true ∨
        hasBudget s 4 0 (levelOfCtx s m.ctx) = false))
    (fun s t => t = s)) ∧
  (∀ m, Moves .migrationComplete
    (fun s => s.migration = some m ∧ referenced s (rangePages s (peek s m.entry 8)) = false ∧ moveBlocked s m = false ∧
      hasBudget s 4 0 (levelOfCtx s m.ctx) = true ∧ m.toHbm = false ∧ fieldN (peek s m.entry 8) 3 2 = 2 ∧
      m.tpa < 2 ^ 60 ∧ (m.tpa + 256 ≤ m.dpa ∨ m.dpa + 2 ^ 21 ≤ m.tpa) ∧ (m.entry + 8 ≤ m.dpa ∨ m.dpa + 2 ^ 21 ≤ m.entry))
    (fun s t => t.migration = none ∧ field (reg32 t offXlatStat) 22 20 = 0 ∧ field (reg32 t offXlatStat) 23 23 = 0 ∧
      peek t m.entry 8 = m.tpa + 5 ∧
      (∀ core slot, getGang t core slot = (getGang s core slot).map (fun g =>
        if g.parked = some .migration then walks g else g)) ∧
      ∀ k, k < 2 ^ 21 → memRead t.mem (m.dpa + k) = memRead s.mem (leafPa (peek s m.entry 8) + k)))

/-- 00 R7, R545, 01 R20, R22, 06 R141, 08 R186, 12 R261, 14 R305, R313, 15 R322, R323, R325, R331 to R334: a write of the
host changes the fields that the access code lets it, a clear-on-one bit where a one is written unless its source sets it in
the same cycle, or acts; a read gives a register of 32 or 64 bits, and zero where it is write-only (log 77); an access that
is not aligned is ignored, and a wide write writes both words (log 97); `QDESC_BASE` may move without the descriptors of
enabled queues (log 60); `POD_CFG` takes one write; an MX region becomes valid where its registers are legal, its backing
leaving the L1s, and invalid at once; a management message reads or writes what it may, and nothing else; BAR2 reaches HBM4;
the clears clear what they name alone; a scrub begins on a quarantined granule; `FW_GO` begins the measuring, and the ROM's
next turn (the model's reading of when that is, log 101) accepts the image or says why not, by checks in the model's order
(log 74); the firmware maps the cores that passed, in rising order (log 49), four to a quad, and keeps the rest as spares; the
attestation commands set BUSY, are ignored while it is set, and write the report and the certificate, or say that they
cannot, where the buffer runs past host memory too (log 50). -/
def Obligations.HostSteps : Prop :=
  (∀ (off rw w1c : Nat) (v : BitVec 64), (off, rw, w1c) ∈ [(0x0404, 0, 0x80000000), (0x0470, 0xF800FFFF, 0),
      (0x0A08, 0, 0x80000000), (0x0B28, 0xFFFFFF, 0), (0x2004, 0x3F, 0), (0x2200, 0xFF00FFFF, 0)] →
    Moves (.registerWrite off false v) (fun _ => True) (fun s t => onlyWords [off] s t ∧ ∀ k, k < 32 →
      (reg32 t off).getLsbD k = if rw.testBit k then v.getLsbD k
        else (reg32 s off).getLsbD k && !(w1c.testBit k && v.getLsbD k))) ∧
  (∀ v : BitVec 64, Moves (.registerWrite 0x2000 false v) (fun s => ∀ n, n < 6 → mapGet 0 s.irqSet n ≠ s.clock + 1)
    (fun s t => onlyWords [0x2000] s t ∧ ∀ k, k < 32 →
      (reg32 t 0x2000).getLsbD k = ((reg32 s 0x2000).getLsbD k && !(decide (k < 6) && v.getLsbD k)))) ∧
  (∀ (v : BitVec 64) n, Moves (.registerWrite 0x2000 false v)
    (fun s => n < 6 ∧ mapGet 0 s.irqSet n = s.clock + 1 ∧ (reg32 s 0x2000).getLsbD n = true)
    (fun _ t => (reg32 t 0x2000).getLsbD n = true)) ∧
  (∀ s off, off % 4 = 0 → writeOnly off = false → (off < 0x10000 ∨ 0x12000 ≤ off) →
    hostRead s off false = (reg32 s off).setWidth 64) ∧
  (∀ s off wide, writeOnly off = true → writeOnly (off + 4) = true → hostRead s off wide = 0) ∧
  (∀ s off, off % 8 = 0 → hostRead s off true =
    (hostRead s (off + 4) false).setWidth 32 ++ (hostRead s off false).setWidth 32) ∧
  (∀ (off : Nat) (v : BitVec 64), Moves (.registerWrite off false v) (fun _ => off % 4 ≠ 0) (fun s t => t = s)) ∧
  (∀ v : BitVec 64, Moves (.registerWrite 0x0A00 true v) (fun s => s.tlbi.length < 64) (fun s t => t.tlbi = s.tlbi ++ [v])) ∧
  (∀ v : BitVec 32, Moves (.podCfgWrite v) (fun s => field (reg32 s offPodCfg) 31 31 = 0)
    (fun s t => onlyWords [offPodCfg] s t ∧ field (reg32 t offPodCfg) 31 31 = field v 31 31 ∧ podSelf t = field v 8 0 ∧
      field (reg32 t offPodCfg) 30 9 = 0)) ∧
  (∀ v : BitVec 32, Moves (.podCfgWrite v) (fun s => field (reg32 s offPodCfg) 31 31 = 1) (fun s t => t = s)) ∧
  (∀ (n : Nat) (v : BitVec 64), Moves (.mxrValidSet n v) (fun s => n < 16 ∧ mxAlias s n = none ∧ field v 63 63 = 1)
    (fun s t => onlyWords [offMxr n 0, offMxr n 0 + 4] { s with cores := t.cores } t ∧
      (∀ core, ∃ l, getCore t core = { getCore s core with l1 := l } ∧ (∀ e ∈ l, e ∈ (getCore s core).l1) ∧
        ((mxAlias t n).isSome = true → ∀ e ∈ l, mxBacking t (e.1 * 128) = false)) ∧
      field (reg64 t (offMxr n 0)) 38 21 = field v 38 21 ∧
      ((mxAlias t n).isSome = true ↔ regionLegal (setReg64 s (offMxr n 0) (v &&& 0x7FFFE00000)) n = true))) ∧
  (∀ n, Moves (.mxrValidClear n) (fun s => n < 16 ∧ mxAlias s n ≠ none)
    (fun s t => onlyWords [offMxr n 0, offMxr n 0 + 4] s t ∧ mxAlias t n = none ∧
      field (reg64 t (offMxr n 0)) 62 0 = field (reg64 s (offMxr n 0)) 62 0)) ∧
  (∀ (off : Nat) (v : BitVec 32), Moves (.mgmtMessage false off v) (fun _ => True) (fun s t =>
    t = { s with answer := if off < 0x0500 ∨ (0x2000 ≤ off ∧ off < 0x2500) then (dcbRead s off).setWidth 64 else 0 })) ∧
  (∀ v : BitVec 32, Moves (.mgmtMessage true 0x2200 v) (fun _ => True) (fun s t => onlyWords [0x2200] s t ∧
    field (reg32 t 0x2200) 15 0 = field v 15 0 ∧ field (reg32 t 0x2200) 31 24 = field v 31 24)) ∧
  (∀ v : BitVec 32, Moves (.mgmtMessage true 0x2300 v) (fun _ => True) (fun s t => onlyWords [0x2300, offConnData] s t ∧
    field (reg32 t 0x2300) 10 0 = field v 10 0 ∧ field (reg32 t 0x2300) 31 11 = field (reg32 s 0x2300) 31 11 ∧
    reg32 t offConnData = ((s.connLast[field v 10 0]?).map pinWord).getD 0)) ∧
  (∀ (off : Nat) (v : BitVec 32), Moves (.mgmtMessage true off v) (fun _ => 0x2440 ≤ off ∧ off < 0x2468 ∧ off % 4 = 0)
    (fun s t => onlyWords [off] s t ∧ reg32 t off = v)) ∧
  (∀ v : BitVec 32, Moves (.mgmtMessage true 0x2468 v) (fun s => attBusy s = false ∧ (v = 1 ∨ v = 2))
    (fun s t => reg32 t offAttStat = 0x80000000 ∧ t.attCmd = v.toNat ∧ t.mem = s.mem)) ∧
  (∀ v : BitVec 32, Moves (.mgmtMessage true 0x2468 v) (fun s => attBusy s = true ∨ (v ≠ 1 ∧ v ≠ 2)) (fun s t => t = s)) ∧
  (∀ v : BitVec 32, Moves (.mgmtMessage true 0x246C v) (fun _ => True)
    (fun s t => onlyWords [] s t)) ∧
  (∀ (off : Nat) (v : BitVec 32), Moves (.mgmtMessage true off v)
    (fun _ => off % 4 ≠ 0 ∨ (off ≠ 0x2200 ∧ off ≠ 0x2300 ∧ (off < 0x2440 ∨ 0x2470 ≤ off))) (fun s t => t = s)) ∧
  (∀ q (v : BitVec 64), Moves (.registerWrite 0x0B00 true v) (fun s => q < 1024 ∧ qEnabled (queueDesc s q) = true)
    (fun s t => queueDescAddr t q = queueDescAddr s q ∧ field (reg64 t 0x0B00) 51 16 = field v 51 16 ∧ t.mem = s.mem)) ∧
  (∀ off len bs, Moves (.bar2Access off len (some bs)) (fun _ => off + bs.length ≤ 0x8000000000) (fun s t =>
    (∀ k, k < bs.length → memRead t.mem (off + k) = bs.getD k 0) ∧
    ∀ a, a < off ∨ off + bs.length ≤ a → memRead t.mem a = memRead s.mem a)) ∧
  (∀ off len, Moves (.bar2Access off len none) (fun _ => off + len ≤ 0x8000000000)
    (fun s t => t = { s with bar2 := memReadBytes s.mem off len })) ∧
  Moves .containClrLog (fun _ => True) (fun s t => onlyWords [offContainLog, offContainLog + 4] s t ∧
    field (reg64 t offContainLog) 63 63 = field (reg64 s offContainLog) 63 63 ∧ field (reg64 t offContainLog) 62 51 = 0 ∧
    field (reg64 t offContainLog) 50 47 = 0xF ∧ field (reg64 t offContainLog) 46 0 = 0) ∧
  Moves .containClrWcnt (fun _ => True) (fun s t => onlyWords ((List.range 10).map offWcnt) s t ∧
    ∀ w, w < 10 → reg32 t (offWcnt w) = 0) ∧
  Moves .cevClrDrop (fun _ => True) (fun s t => onlyWords [offCevPtr, offCevPtr + 4] s t ∧
    field (reg64 t offCevPtr) 47 32 = 0 ∧ field (reg64 t offCevPtr) 31 0 = field (reg64 s offCevPtr) 31 0) ∧
  (∀ v, Moves (.quarScrub v)
    (fun s => field v 63 63 = 1 ∧ s.scrub = none ∧ mapFind s.quarantine (field v 51 21) ≠ none)
    (fun s t => t.scrub = some (field v 51 21) ∧ t.mem = s.mem ∧ field (reg32 t offQuarStat) 31 31 = 1 ∧
      reg32 t offQuarCmd = v.extractLsb' 0 32)) ∧
  Moves .fwGo (fun s => bootState s = 1 ∨ bootState s = 3) (fun s t =>
    bootState t = 2 ∧ t.mem = s.mem ∧ t.fwMeasure = s.fwMeasure ∧ field (reg32 t offIrqStat) 5 5 = 1) ∧
  Moves .ventSchedulingPass (fun s => s.running = false ∧ bootState s = 2 ∧ s.attCmd = 0 ∧ imageUnread s = false) (fun s t =>
    let n := (reg32 s 0x2410).toNat
    let image := if n ≤ 2 ^ 24 then memReadBytes s.mem (hostAddr (reg64 s 0x2408).toNat) n else []
    t.mem = s.mem ∧ field (reg32 t offIrqStat) 5 5 = 1 ∧
    (imageFault n image = 0 → bootState t = 4 ∧
      t.fwMeasure = BitVec.ofNat 512 (bytesToNat (sha512 (image.take (n - 512))))) ∧
    (imageFault n image ≠ 0 → bootState t = 3 ∧ field (reg32 t offBootStat) 28 24 = imageFault n image)) ∧
  Moves .ventSchedulingPass (fun s => s.running = false ∧ bootState s = 2 ∧ s.attCmd = 0 ∧ imageUnread s = true ∧
      1536 ≤ (reg32 s 0x2410).toNat ∧ (reg32 s 0x2410).toNat ≤ 2 ^ 24)
    (fun _ t => bootState t = 3 ∧ field (reg32 t offBootStat) 28 24 = 5) ∧
  Moves .fwGo (fun s => bootState s ≠ 1 ∧ bootState s ≠ 3) (fun s t => t = s) ∧
  (∀ good disabled ports, Moves (.firmwareStart good disabled ports) (fun s => bootState s = 4) (fun s t =>
    let ok := (List.range 136).filter (fun p => good.contains p && !disabled.contains p)
    let n := min 128 (ok.length / 4 * 4)
    bootState t = 5 ∧ t.running = true ∧ t.mem = s.mem ∧ t.spares = ok.drop n ∧
    (∀ l, l < n → lcoreValid t l = true ∧ physCore t l = ok.getD l 0 ∧ coreState t (ok.getD l 0) = 0) ∧
    ∀ p, p < 136 → p ∉ ok → coreState t p = if disabled.contains p then 2 else 3)) ∧
  (∀ i cmd, (i, cmd) ∈ [(Instr.attCmdReport, 1), (.attCmdCert, 2)] → Moves i (fun s => attBusy s = false)
    (fun s t => reg32 t offAttStat = 0x80000000 ∧ t.attCmd = cmd ∧ t.mem = s.mem ∧ field (reg32 t offIrqStat) 5 5 = 1)) ∧
  (∀ i, i ∈ [Instr.attCmdReport, .attCmdCert] → Moves i (fun s => attBusy s = true) (fun s t => t = s)) ∧
  (∀ s, s.attCmd = 1 ∨ s.attCmd = 2 → bootState s ≠ 5 → let t := serveRequests s
    reg32 t offAttStat = 1 ∧ t.attCmd = 0 ∧ t.mem = s.mem) ∧
  (∀ s, s.attCmd = 1 → bootState s = 5 → (reg64 s 0x2460).toNat % 2 ^ 51 + 1024 ≤ 2 ^ 51 → let t := serveRequests s
    let h := hostAddr ((reg64 s 0x2460).toNat % 2 ^ 51)
    reg32 t offAttStat = 0 ∧ memReadBytes t.mem h 64 = natToBytes 64 s.fwMeasure.toNat ∧
    (∀ i, i < 8 → memReadBytes t.mem (h + 64 + 4 * i) 4 = natToBytes 4 (reg32 s (0x2440 + 4 * i)).toNat) ∧
    memReadBytes t.mem (h + 96) 8 = natToBytes 8 s.fwVersion.toNat ∧
    ∀ a, a < h ∨ h + 1024 ≤ a → memRead t.mem a = memRead s.mem a) ∧
  (∀ s, s.attCmd = 2 → bootState s = 5 → (reg64 s 0x2460).toNat % 2 ^ 51 + 1024 ≤ 2 ^ 51 → let t := serveRequests s
    reg32 t offAttStat = 0 ∧
    t.mem = memWriteBytes s.mem (hostAddr ((reg64 s 0x2460).toNat % 2 ^ 51)) ((Config.certChain ()).take 1024)) ∧
  (∀ s, s.attCmd = 1 ∨ s.attCmd = 2 → bootState s = 5 → 2 ^ 51 < (reg64 s 0x2460).toNat % 2 ^ 51 + 1024 →
    let t := serveRequests s
    reg32 t offAttStat = 2 ∧ t.attCmd = 0 ∧ t.mem = s.mem)

/-- 01 R29, 06 R137, 08 R184, 13 R288, 14 R312 to R319, 15 R324: a scan that is due closes its core, and a matching
signature after 200 µs returns it, a differing one is counted and run again; a scrub zeroes its granule and lifts the
quarantine; an audit that does not add up is counted and the link suspected, a second resets a port's link, and a link within
the device that is reset a third time in one second makes it viral; a lost layer loses what it held, and reads as memory that
nothing has written (log 4); the welts' counts are sampled once a second; a peer is lost, recovers or is viral as it says,
and when it is back (log 46) the timers of the waits on it run on; a trained port carries traffic unless it has failed; a
peer's access reads or writes this device's memory where it may, and nothing otherwise; a welt fails as it is said to, in the
model's modes (log 83); an uncorrectable tag makes the device viral and ends the active contexts with groups on it (log 96);
an expander that fails has no memory behind it. -/
def Obligations.ReliabilitySteps : Prop :=
  (∀ p, Moves (.scanTestStart p) (fun s => scanDue s p = true) (fun s t => coreState t p = 4 ∧
    mapFind t.scans p = some { since := s.clock, rerun := false } ∧ t.spares = s.spares.erase p ∧ t.mem = s.mem)) ∧
  (∀ p sig x, Moves (.scanTestEnd p sig)
    (fun s => mapFind s.scans p = some x ∧ x.since + 170000 ≤ s.clock ∧ sig = Config.scanGolden p ∧ coreSlotOf s p ≠ 0xFF)
    (fun s t => coreState t p = 0 ∧ mapFind t.scans p = none ∧ mapGet 0 t.scanned p = s.clock ∧ t.spares = s.spares)) ∧
  (∀ p sig x, Moves (.scanTestEnd p sig)
    (fun s => mapFind s.scans p = some x ∧ x.since + 170000 ≤ s.clock ∧ sig ≠ Config.scanGolden p ∧ x.rerun = false)
    (fun s t => coreState t p = 4 ∧ mapFind t.scans p = some { since := s.clock, rerun := true } ∧
      field (reg32 t (offCoreHealth p)) 23 16 = min (field (reg32 s (offCoreHealth p)) 23 16 + 1) 255)) ∧
  (∀ p sig x, Moves (.scanTestEnd p sig) (fun s => mapFind s.scans p = some x ∧ s.clock < x.since + 170000)
    (fun s t => t = s)) ∧
  (∀ g, Moves .scrubComplete
    (fun s => s.scrub = some g ∧ nearLayer (g * 2 ^ 21) = none ∧ tierOf (g * 2 ^ 21) ≠ .mx ∧
      viralBlocks s (g * 2 ^ 21) = false)
    (fun s t => t.scrub = none ∧ field (reg32 t offQuarStat) 31 31 = 0 ∧
      (mapFind t.quarantine g).isSome = (s.scrubKeep && (mapFind s.quarantine g).isSome) ∧
      (∀ a, g * 2 ^ 21 ≤ a → a < g * 2 ^ 21 + 2 ^ 21 → memRead t.mem a = 0) ∧
      ∀ a, a < g * 2 ^ 21 ∨ g * 2 ^ 21 + 2 ^ 21 ≤ a → memRead t.mem a = memRead s.mem a)) ∧
  (∀ link held occ ret total, Moves (.awlAudit link held occ ret total)
    (fun _ => isLink link = true ∧ held + occ + ret = total)
    (fun s t => t = { s with suspects := s.suspects.erase link })) ∧
  (∀ link held occ ret total, Moves (.awlAudit link held occ ret total)
    (fun s => isLink link = true ∧ held + occ + ret ≠ total ∧ isViral s = false ∧ link ∉ s.suspects)
    (fun s t => link ∈ t.suspects ∧ field (reg64 t offAwlStat) 63 48 = min (field (reg64 s offAwlStat) 63 48 + 1) 0xFFFF ∧
      field (reg64 t offAwlStat) 47 32 = link ∧ field (reg64 t offAwlStat) 31 16 = total % 2 ^ 16 ∧
      field (reg64 t offAwlStat) 15 0 = (held + occ + ret) % 2 ^ 16)) ∧
  (∀ n held occ ret total, Moves (.awlAudit (0x2000 + n) held occ ret total)
    (fun s => n < 16 ∧ held + occ + ret ≠ total ∧ isViral s = false ∧ 0x2000 + n ∈ s.suspects)
    (fun s t => t.suspects = s.suspects.erase (0x2000 + n) ∧ t.ports = s.ports.erase n ∧ t.mem = s.mem)) ∧
  (∀ link held occ ret total, Moves (.awlAudit link held occ ret total)
    (fun s => isLink link = true ∧ link < 0x2000 ∧ held + occ + ret ≠ total ∧ isViral s = false ∧ link ∈ s.suspects ∧
      2 ≤ ((mapGet [] s.linkResets link).filter (fun t => s.clock < t + second)).length)
    (fun _ t => isViral t = true ∧ field (reg32 t offViral) 27 24 = 5)) ∧
  (∀ layer, Moves (.sinterLayerLoss layer) (fun s => layer < 2 ∧ layerLost s layer = false)
    (fun _ t => layerLost t layer = true ∧ field (reg64 t (offDieTel (11 + layer))) 20 20 = 1 ∧
      ∀ a, nearLayer a = some layer → memRead t.mem a = 0)) ∧
  Moves .weltDegradeSample (fun s => s.clock % second ≠ 0) (fun s t => t = s) ∧
  Moves .weltDegradeSample (fun s => s.clock % second = 0)
    (fun s t => t.weltCounts = (List.range 10).map (fun w => (reg32 s (offWcnt w)).toNat) ∧
      ∀ w, w < 10 → reg32 t (offWcnt w) = reg32 s (offWcnt w)) ∧
  (∀ d, Moves (.peerLost d) (fun _ => True)
    (fun s t => t = { s with peers := mapSet s.peers d { mapGet {} s.peers d with lost := true } })) ∧
  (∀ d, Moves (.peerRecoveryNotice d)
    (fun s => (mapGet {} s.peers d).lost = false ∧ (mapGet {} s.peers d).recovering = none)
    (fun s t => t = { s with peers := mapSet s.peers d { mapGet {} s.peers d with recovering := some s.clock } })) ∧
  (∀ d, Moves (.peerViralNotice d) (fun _ => True)
    (fun s t => t = { s with peers := mapSet s.peers d { mapGet {} s.peers d with viral := true } })) ∧
  (∀ n, Moves (.ualinkPortTrained n) (fun s => n < 16 ∧ n ∉ s.deadPorts) (fun s t =>
    (∀ k, k ∈ t.ports ↔ k ∈ s.ports ∨ k = n) ∧ t.mem = s.mem)) ∧
  (∀ n, Moves (.ualinkPortTrained n) (fun s => n ∈ s.deadPorts) (fun s t => t = s)) ∧
  (∀ port pa len, Moves (.podRemoteAccess port pa (.read len)) (fun s => podReaches s port pa (.read len) = true)
    (fun s t => t = { s with podAnswer := physRead s none (pa % 0x20000000000) len })) ∧
  (∀ port pa bs, Moves (.podRemoteAccess port pa (.write bs)) (fun s => podReaches s port pa (.write bs) = true)
    (fun s t => (∀ k, k < bs.length → memRead t.mem (pa % 0x20000000000 + k) = bs.getD k 0) ∧
      ∀ a, a < pa % 0x20000000000 ∨ pa % 0x20000000000 + bs.length ≤ a → memRead t.mem a = memRead s.mem a)) ∧
  (∀ port pa acc, Moves (.podRemoteAccess port pa acc) (fun s => podReaches s port pa acc = false)
    (fun s t => t = { s with podAnswer := [] })) ∧
  (∀ w mode, Moves (.weltFailure w mode) (fun _ => w < 10)
    (fun s t => t = { s with welts := mapSet s.welts w mode })) ∧
  Moves .l2TagUncorrectableError (fun s => isViral s = false)
    (fun s t => isViral t = true ∧ field (reg32 t offViral) 27 24 = 3 ∧ ∀ core k g, getGroup s core k = some g →
      ctxState (enterViral 3 s) g.ctx = 1 → g.ctx ∈ t.killing) ∧
  (∀ plid d r, Moves (.podParticipantReport plid d)
    (fun s => podActive s = true ∧ mapFind s.pods plid = none ∧ (mapGet {} s.peers d).recovering = some r ∧
      (mapGet {} s.peers d).lost = false ∧ ∀ e ∈ peersRecovering s, e.1 = d)
    (fun s t => (mapGet {} t.peers d).recovering = none ∧ t.mem = s.mem ∧
      ∀ core slot (g : Gang) (n : Nat) (sp : Split) (w : Wait), getGang s core slot = some g → g.splits[n]? = some sp → sp.wait = some w → w.peer = some d →
        ∃ (g' : Gang) (sp' : Split), getGang t core slot = some g' ∧ g'.splits[n]? = some sp' ∧ sp'.mask = sp.mask ∧
          sp'.wait = some { w with since := w.since + (s.clock - max r w.since) })) ∧
  (∀ port, Moves (.expanderFailure port) (fun _ => True) (fun s t => t = { s with expanders := mapErase s.expanders port } ∧
    ∀ pa, tierOf pa = .expander port → present t pa = false))

/-- 01 R29, 14 R314, 15 R326 to R332: below 700 V nothing of the device survives, and its memory is gone; power returns it
to boot state 1, and a conventional reset ends viral state (what is not the device's own, and stays, is the model's reading,
log 47); a rail's telemetry is what was measured; above 3,600 A every die loses four steps of DUTY, down to 1; a period of the
boil governor sets DTEMP, kept in 1 to 64 (log 48), by each die's temperature, and DUTY from DT, which is 64 while the governor
is off (log 75), and DTEMP; the trip of the Last makes the device viral and ends every active context with a group there
(log 96); a welt that trips is cut, and a welt or layer that has been cool for ten
seconds is not cut any more; the connector's values are those measured, and one out of its limits raises telemetry's
interrupt. -/
def Obligations.PowerSteps : Prop :=
  let outside (a : Nat) : Prop := tierOf a = .host ∨ (∃ d, tierOf a = .pod d) ∨ ∃ p, tierOf a = .expander p
  let lost (s t : State) : Prop := t.cores = [] ∧ t.dcb = [] ∧ t.queues = [] ∧ t.launches = [] ∧ bootState t = 1 ∧
    isViral t = false ∧ t.connFirst = s.connFirst ∧ (∀ a, outside a → memRead t.mem a = memRead s.mem a) ∧ ∀ a, ¬ outside a → memRead t.mem a = 0
  (∀ mv, Moves (.powerLoss mv) (fun _ => mv < 700000) (fun s t => lost s t ∧ t.powered = false)) ∧
  (∀ mv, Moves (.powerLoss mv) (fun _ => 700000 ≤ mv) (fun s t => t = s)) ∧
  Moves .powerOn (fun s => s.powered = false) (fun s t => lost s t ∧ t.powered = true) ∧
  Moves .conventionalReset (fun _ => True) (fun s t => lost s t ∧ t.powered = s.powered) ∧
  (∀ rail volt curr temp ilim, Moves (.railTelemetryUpdate rail volt curr temp ilim) (fun _ => rail < 7) (fun s t =>
    let v := reg64 t (offRailTel rail)
    onlyWords [offRailTel rail, offRailTel rail + 4] s t ∧ field v 63 44 = volt % 2 ^ 20 ∧ field v 43 26 = curr % 2 ^ 18 ∧
    field v 25 14 = temp.toNat ∧ (field v 13 13 = 1 ↔ ilim = true))) ∧
  (∀ ma, Moves (.currentLimit ma) (fun _ => 3600000 < ma) (fun s t =>
    field (reg64 t (offRailTel 0)) 13 13 = 1 ∧ field (reg64 t (offRailTel 1)) 13 13 = 1 ∧
    ∀ d, d < 13 → dutyOf t d = max 1 (dutyOf s d - 4))) ∧
  (∀ ma, Moves (.currentLimit ma) (fun _ => ma ≤ 3600000) (fun s t => t = s)) ∧
  (∀ dies, Moves (.boilGovernorPeriod dies) (fun _ => dies.length = 13) (fun s t =>
    let dt := field (reg32 t offBoilStat) 31 25
    (∀ d x, dies[d]? = some x → dtempOf t d = if dieLimit d < x.tmax then max 1 (dtempOf s d - 1)
      else if x.tmax ≤ dieLimit d - 32 then min 64 (dtempOf s d + 1) else dtempOf s d) ∧
    dt ≤ 64 ∧ (field (reg32 s offBoilCfg) 31 31 = 0 → dt = 64) ∧
    (∀ d, d ≤ 10 → dutyOf t d = dutyOf t 0 ∧ dutyOf t d ≤ max 1 (min dt (dtempOf t d))) ∧
    ∀ d, d = 11 ∨ d = 12 → dutyOf t d = max 1 (min dt (dtempOf t d)))) ∧
  (∀ temp, Moves (.lastTrip temp) (fun s => 2000 ≤ temp ∧ isViral s = false ∧ field (reg64 s (offDieTel 0)) 20 20 = 0)
    (fun s t => isViral t = true ∧ field (reg32 t offViral) 27 24 = 6 ∧ field (reg64 t (offDieTel 0)) 20 20 = 1 ∧
      ∀ core k g, getGroup s core k = some g →
        ctxState (enterViral 6 (setReg64Field s (offDieTel 0) 20 20 1)) g.ctx = 1 → g.ctx ∈ t.killing)) ∧
  (∀ temp, Moves (.lastTrip temp) (fun _ => temp < 2000) (fun s t => t = s)) ∧
  (∀ w temp, Moves (.weltTrip w temp) (fun s => w < 10 ∧ 2000 ≤ temp ∧ mapFind s.tripped w = none) (fun _ t =>
    mapFind t.tripped w = some none ∧ field (reg64 t (offDieTel (w + 1))) 20 20 = 1)) ∧
  (∀ w c, Moves (.weltRepower w) (fun s => mapFind s.tripped w = some (some c) ∧ c + 10 * second ≤ s.clock) (fun s t =>
    mapFind t.tripped w = none ∧ field (reg64 t (offDieTel (w + 1))) 20 20 = 0 ∧ t.mem = s.mem ∧
    ∀ e ∈ t.cores, ∀ x ∈ e.2.acc, w ∈ x.2.stale)) ∧
  (∀ layer c, Moves (.layerRepower layer) (fun s => mapFind s.layersLost layer = some (some c) ∧ c + 10 * second ≤ s.clock)
    (fun s t => layerLost t layer = false ∧ field (reg64 t (offDieTel (11 + layer))) 20 20 = 0 ∧ t.mem = s.mem ∧
      t.quarantine = s.quarantine)) ∧
  (∀ pins, Moves (.connectorMeasure pins) (fun _ => True) (fun s t => t.connLast = pins ∧
    (s.connFirst ≠ [] → t.connFirst = s.connFirst) ∧ (s.connFirst = [] → t.connFirst = pins) ∧
    ∀ (n : Nat) x y, pins[n]? = some y → t.connFirst[n]? = some x →
      (2 * x.res < y.res ∨ (2 ≤ y.cls ∧ y.cls ≤ 4 ∧ y.margin < 8)) → field (reg32 t offIrqStat) 4 4 = 1))
end

