-- ==== Sys2Proof/Laws/Map.lean ====
section
/-! SUPPORT. Laws of finite maps and of memory: a read after a write gives the value written, a write leaves every
other key alone, and memory keeps its canonical form. -/

namespace Sys2Proof.Machine

/-! ## Maps -/

@[simp] theorem mapFind_mapSet_same {α : Type} (m : SMap α) (n : Nat) (x : α) : mapFind (mapSet m n x) n = some x := by
  induction m with
  | nil => simp [mapSet, mapFind]
  | cons e m ih =>
    obtain ⟨k, v⟩ := e
    simp only [mapSet]
    split
    · simp [mapFind]
    · split
      · simp [mapFind]
      · rename_i h
        have h : n ≠ k := by simpa using h
        simp [mapFind, Ne.symm h, ih]

@[simp] theorem mapFind_mapSet_ne {α : Type} (m : SMap α) (n k : Nat) (x : α) (h : k ≠ n) :
    mapFind (mapSet m n x) k = mapFind m k := by
  induction m with
  | nil => simp [mapSet, mapFind, Ne.symm h]
  | cons e m ih =>
    obtain ⟨j, v⟩ := e
    simp only [mapSet]
    split
    · simp [mapFind, Ne.symm h]
    · split
      · rename_i h2
        have h3 : n = j := by simpa using h2
        subst h3
        simp [mapFind, Ne.symm h]
      · simp only [mapFind, ih]

@[simp] theorem mapFind_mapErase_same {α : Type} (m : SMap α) (n : Nat) : mapFind (mapErase m n) n = none := by
  induction m with
  | nil => rfl
  | cons e m ih =>
    obtain ⟨k, v⟩ := e
    simp only [mapErase]
    split
    · exact ih
    · rename_i h
      simp [mapFind, ih, h]

@[simp] theorem mapFind_mapErase_ne {α : Type} (m : SMap α) (n k : Nat) (h : k ≠ n) :
    mapFind (mapErase m n) k = mapFind m k := by
  induction m with
  | nil => rfl
  | cons e m ih =>
    obtain ⟨j, v⟩ := e
    simp only [mapErase]
    split
    · rename_i h2
      have h3 : j = n := by simpa using h2
      subst h3
      simp [mapFind, ih, Ne.symm h]
    · simp only [mapFind, ih]

@[simp] theorem mapGet_mapSet_same {α : Type} (d : α) (m : SMap α) (n : Nat) (x : α) : mapGet d (mapSet m n x) n = x := by
  simp [mapGet]

@[simp] theorem mapGet_mapSet_ne {α : Type} (d : α) (m : SMap α) (n k : Nat) (x : α) (h : k ≠ n) :
    mapGet d (mapSet m n x) k = mapGet d m k := by
  simp [mapGet, h]

@[simp] theorem mapGet_mapPut_same {α : Type} [DecidableEq α] (d : α) (m : SMap α) (n : Nat) (x : α) :
    mapGet d (mapPut d m n x) n = x := by
  by_cases h : x = d <;> simp [mapPut, mapGet, h]

@[simp] theorem mapGet_mapPut_ne {α : Type} [DecidableEq α] (d e : α) (m : SMap α) (n k : Nat) (x : α) (h : k ≠ n) :
    mapGet d (mapPut e m n x) k = mapGet d m k := by
  by_cases hx : x = e <;> simp [mapPut, mapGet, hx, h]

@[simp] theorem mapFind_mapModify_same {α : Type} (m : SMap α) (n : Nat) (f : α → α) :
    mapFind (mapModify m n f) n = (mapFind m n).map f := by
  unfold mapModify
  split <;> simp_all

@[simp] theorem mapFind_mapModify_ne {α : Type} (m : SMap α) (n k : Nat) (f : α → α) (h : k ≠ n) :
    mapFind (mapModify m n f) k = mapFind m k := by
  unfold mapModify
  split <;> simp [h]

/-! ## Memory -/

@[simp] theorem memRead_memWrite_same (m : Memory) (a : Nat) (b : Byte) : memRead (memWrite m a b) a = b := by
  simp [memRead, memWrite]

@[simp] theorem memRead_memWrite_ne (m : Memory) (a x : Nat) (b : Byte) (h : x ≠ a) :
    memRead (memWrite m a b) x = memRead m x := by
  simp [memRead, memWrite, h]

/-- A write of bytes leaves every byte outside them alone. -/
theorem memRead_memWriteBytes_outside (bs : List Byte) (m : Memory) (a x : Nat) (h : x < a ∨ a + bs.length ≤ x) :
    memRead (memWriteBytes m a bs) x = memRead m x := by
  induction bs generalizing m a with
  | nil => rfl
  | cons b bs ih =>
    simp only [List.length_cons] at h
    simp only [memWriteBytes]
    rw [ih _ _ (by omega), memRead_memWrite_ne _ _ _ _ (by omega)]

/-- A byte written is read back. -/
theorem memRead_memWriteBytes_inside (bs : List Byte) (m : Memory) (a k : Nat) (h : k < bs.length) :
    memRead (memWriteBytes m a bs) (a + k) = bs.getD k 0 := by
  induction bs generalizing m a k with
  | nil => simp at h
  | cons b bs ih =>
    simp only [memWriteBytes]
    cases k with
    | zero =>
      rw [memRead_memWriteBytes_outside _ _ _ _ (by omega)]
      simp
    | succ k =>
      have := ih (memWrite m a b) (a + 1) k (by simpa using h)
      rw [show a + (k + 1) = a + 1 + k by omega, this]
      simp

/-! ## The canonical form -/

theorem risingFrom_weaken {α : Type} (m : SMap α) (i j : Nat) (h : i ≤ j) (hm : risingFrom j m = true) :
    risingFrom i m = true := by
  cases m with
  | nil => rfl
  | cons e m =>
    simp only [risingFrom, Bool.and_eq_true, decide_eq_true_eq] at hm ⊢
    exact ⟨by omega, hm.2⟩

theorem risingFrom_mapErase {α : Type} (m : SMap α) (i n : Nat) (hm : risingFrom i m = true) :
    risingFrom i (mapErase m n) = true := by
  induction m generalizing i with
  | nil => rfl
  | cons e m ih =>
    obtain ⟨k, v⟩ := e
    simp only [risingFrom, Bool.and_eq_true, decide_eq_true_eq] at hm
    simp only [mapErase]
    split
    · exact risingFrom_weaken _ _ _ (by omega) (ih _ hm.2)
    · simp only [risingFrom, Bool.and_eq_true, decide_eq_true_eq]
      exact ⟨hm.1, ih _ hm.2⟩

theorem risingFrom_mapSet {α : Type} (m : SMap α) (i n : Nat) (x : α) (hn : i ≤ n) (hm : risingFrom i m = true) :
    risingFrom i (mapSet m n x) = true := by
  induction m generalizing i with
  | nil => simp [mapSet, risingFrom, hn]
  | cons e m ih =>
    obtain ⟨k, v⟩ := e
    have hm' := hm
    simp only [risingFrom, Bool.and_eq_true, decide_eq_true_eq] at hm
    simp only [mapSet]
    split
    · simp only [risingFrom, Bool.and_eq_true, decide_eq_true_eq]
      exact ⟨hn, by omega, hm.2⟩
    · split
      · rename_i h
        have h : n = k := by simpa using h
        subst h
        simp only [risingFrom, Bool.and_eq_true, decide_eq_true_eq]
        exact hm
      · rename_i h1 h2
        have h2 : n ≠ k := by simpa using h2
        simp only [risingFrom, Bool.and_eq_true, decide_eq_true_eq]
        exact ⟨hm.1, ih _ (by omega) hm.2⟩

theorem all_mapErase {α : Type} (p : Nat × α → Bool) (m : SMap α) (n : Nat) (hm : m.all p = true) :
    (mapErase m n).all p = true := by
  induction m with
  | nil => rfl
  | cons e m ih =>
    obtain ⟨k, v⟩ := e
    simp only [List.all_cons, Bool.and_eq_true] at hm
    simp only [mapErase]
    split
    · exact ih hm.2
    · simp only [List.all_cons, Bool.and_eq_true]
      exact ⟨hm.1, ih hm.2⟩

theorem all_mapSet {α : Type} (p : Nat × α → Bool) (m : SMap α) (n : Nat) (x : α) (hx : p (n, x) = true)
    (hm : m.all p = true) : (mapSet m n x).all p = true := by
  induction m with
  | nil => simp [mapSet, hx]
  | cons e m ih =>
    obtain ⟨k, v⟩ := e
    have hm' := hm
    simp only [List.all_cons, Bool.and_eq_true] at hm
    simp only [mapSet]
    split
    · simp only [List.all_cons, Bool.and_eq_true]
      exact ⟨hx, hm⟩
    · split
      · simp only [List.all_cons, Bool.and_eq_true]
        exact ⟨hx, hm.2⟩
      · simp only [List.all_cons, Bool.and_eq_true]
        exact ⟨hm.1, ih hm.2⟩

/-- A write of a byte keeps the canonical form. -/
theorem memWrite_wf (m : Memory) (a : Nat) (b : Byte) (h : m.wf = true) : (memWrite m a b).wf = true := by
  simp only [Memory.wf, Bool.and_eq_true] at h ⊢
  unfold memWrite mapPut
  split
  · exact ⟨risingFrom_mapErase _ _ _ h.1, all_mapErase _ _ _ h.2⟩
  · rename_i hb
    exact ⟨risingFrom_mapSet _ _ _ _ (by omega) h.1, all_mapSet _ _ _ _ (by simpa using hb) h.2⟩

/-- A write of bytes keeps the canonical form. -/
theorem memWriteBytes_wf (bs : List Byte) (m : Memory) (a : Nat) (h : m.wf = true) :
    (memWriteBytes m a bs).wf = true := by
  induction bs generalizing m a with
  | nil => exact h
  | cons b bs ih => exact ih _ _ (memWrite_wf _ _ _ h)

theorem risingFrom_filter {α : Type} (p : Nat × α → Bool) (m : SMap α) (i : Nat) (hm : risingFrom i m = true) :
    risingFrom i (m.filter p) = true := by
  induction m generalizing i with
  | nil => rfl
  | cons e m ih =>
    obtain ⟨k, v⟩ := e
    simp only [risingFrom, Bool.and_eq_true, decide_eq_true_eq] at hm
    by_cases hp : p (k, v) = true
    · rw [List.filter_cons_of_pos hp]
      simp only [risingFrom, Bool.and_eq_true, decide_eq_true_eq]
      exact ⟨hm.1, ih _ hm.2⟩
    · rw [List.filter_cons_of_neg hp]
      exact risingFrom_weaken _ _ _ (by omega) (ih _ hm.2)

/-- Memory with the bytes outside a set kept has the canonical form. -/
theorem filter_wf (p : Host.Cell → Bool) (m : Memory) (h : m.wf = true) : Memory.wf (m.filter p) = true := by
  simp only [Memory.wf, Bool.and_eq_true] at h ⊢
  refine ⟨risingFrom_filter _ _ _ h.1, ?_⟩
  simp only [List.all_eq_true, List.mem_filter] at h ⊢
  exact fun x hx => h.2 x hx.1

end Sys2Proof.Machine
end

