-- ==== Sys2Proof/Laws/State.lean ====
section
/-! SUPPORT. What each update of the state leaves alone, field by field, and what is read after it. -/

namespace Sys2Proof.Machine

/-! ## `setCore` -/

@[simp] theorem setCore_clock (s : State) (n : Nat) (c : Core) : (setCore s n c).clock = s.clock := rfl
@[simp] theorem setCore_cycles (s : State) (n : Nat) (c : Core) : (setCore s n c).cycles = s.cycles := rfl
@[simp] theorem setCore_dcb (s : State) (n : Nat) (c : Core) : (setCore s n c).dcb = s.dcb := rfl
@[simp] theorem setCore_mem (s : State) (n : Nat) (c : Core) : (setCore s n c).mem = s.mem := rfl
@[simp] theorem setCore_l2 (s : State) (n : Nat) (c : Core) : (setCore s n c).l2 = s.l2 := rfl
@[simp] theorem setCore_quarantine (s : State) (n : Nat) (c : Core) : (setCore s n c).quarantine = s.quarantine := rfl
@[simp] theorem setCore_tlb2 (s : State) (n : Nat) (c : Core) : (setCore s n c).tlb2 = s.tlb2 := rfl
@[simp] theorem setCore_pages (s : State) (n : Nat) (c : Core) : (setCore s n c).pages = s.pages := rfl
@[simp] theorem setCore_nextTag (s : State) (n : Nat) (c : Core) : (setCore s n c).nextTag = s.nextTag := rfl
@[simp] theorem setCore_tlbi (s : State) (n : Nat) (c : Core) : (setCore s n c).tlbi = s.tlbi := rfl
@[simp] theorem setCore_migration (s : State) (n : Nat) (c : Core) : (setCore s n c).migration = s.migration := rfl
@[simp] theorem setCore_killing (s : State) (n : Nat) (c : Core) : (setCore s n c).killing = s.killing := rfl
@[simp] theorem setCore_queues (s : State) (n : Nat) (c : Core) : (setCore s n c).queues = s.queues := rfl
@[simp] theorem setCore_queueBase (s : State) (n : Nat) (c : Core) : (setCore s n c).queueBase = s.queueBase := rfl
@[simp] theorem setCore_ctxBase (s : State) (n : Nat) (c : Core) : (setCore s n c).ctxBase = s.ctxBase := rfl
@[simp] theorem setCore_ctxSeen (s : State) (n : Nat) (c : Core) : (setCore s n c).ctxSeen = s.ctxSeen := rfl
@[simp] theorem setCore_launches (s : State) (n : Nat) (c : Core) : (setCore s n c).launches = s.launches := rfl
@[simp] theorem setCore_overwritten (s : State) (n : Nat) (c : Core) : (setCore s n c).overwritten = s.overwritten := rfl
@[simp] theorem setCore_tokens (s : State) (n : Nat) (c : Core) : (setCore s n c).tokens = s.tokens := rfl
@[simp] theorem setCore_levels (s : State) (n : Nat) (c : Core) : (setCore s n c).levels = s.levels := rfl
@[simp] theorem setCore_spent (s : State) (n : Nat) (c : Core) : (setCore s n c).spent = s.spent := rfl
@[simp] theorem setCore_journal (s : State) (n : Nat) (c : Core) : (setCore s n c).journal = s.journal := rfl
@[simp] theorem setCore_completions (s : State) (n : Nat) (c : Core) : (setCore s n c).completions = s.completions := rfl
@[simp] theorem setCore_preempts (s : State) (n : Nat) (c : Core) : (setCore s n c).preempts = s.preempts := rfl
@[simp] theorem setCore_spillFaults (s : State) (n : Nat) (c : Core) : (setCore s n c).spillFaults = s.spillFaults := rfl
@[simp] theorem setCore_preemptAgain (s : State) (n : Nat) (c : Core) : (setCore s n c).preemptAgain = s.preemptAgain := rfl
@[simp] theorem setCore_saved (s : State) (n : Nat) (c : Core) : (setCore s n c).saved = s.saved := rfl
@[simp] theorem setCore_ctxOp (s : State) (n : Nat) (c : Core) : (setCore s n c).ctxOp = s.ctxOp := rfl
@[simp] theorem setCore_peers (s : State) (n : Nat) (c : Core) : (setCore s n c).peers = s.peers := rfl
@[simp] theorem setCore_pods (s : State) (n : Nat) (c : Core) : (setCore s n c).pods = s.pods := rfl
@[simp] theorem setCore_ports (s : State) (n : Nat) (c : Core) : (setCore s n c).ports = s.ports := rfl
@[simp] theorem setCore_podAnswer (s : State) (n : Nat) (c : Core) : (setCore s n c).podAnswer = s.podAnswer := rfl
@[simp] theorem setCore_answer (s : State) (n : Nat) (c : Core) : (setCore s n c).answer = s.answer := rfl
@[simp] theorem setCore_msix (s : State) (n : Nat) (c : Core) : (setCore s n c).msix = s.msix := rfl
@[simp] theorem setCore_irqSet (s : State) (n : Nat) (c : Core) : (setCore s n c).irqSet = s.irqSet := rfl
@[simp] theorem setCore_irqSent (s : State) (n : Nat) (c : Core) : (setCore s n c).irqSent = s.irqSent := rfl
@[simp] theorem setCore_cplSet (s : State) (n : Nat) (c : Core) : (setCore s n c).cplSet = s.cplSet := rfl
@[simp] theorem setCore_bar2 (s : State) (n : Nat) (c : Core) : (setCore s n c).bar2 = s.bar2 := rfl
@[simp] theorem setCore_welts (s : State) (n : Nat) (c : Core) : (setCore s n c).welts = s.welts := rfl
@[simp] theorem setCore_tripped (s : State) (n : Nat) (c : Core) : (setCore s n c).tripped = s.tripped := rfl
@[simp] theorem setCore_layersLost (s : State) (n : Nat) (c : Core) : (setCore s n c).layersLost = s.layersLost := rfl
@[simp] theorem setCore_dtemp (s : State) (n : Nat) (c : Core) : (setCore s n c).dtemp = s.dtemp := rfl
@[simp] theorem setCore_dutyLow (s : State) (n : Nat) (c : Core) : (setCore s n c).dutyLow = s.dutyLow := rfl
@[simp] theorem setCore_scans (s : State) (n : Nat) (c : Core) : (setCore s n c).scans = s.scans := rfl
@[simp] theorem setCore_scanned (s : State) (n : Nat) (c : Core) : (setCore s n c).scanned = s.scanned := rfl
@[simp] theorem setCore_suspects (s : State) (n : Nat) (c : Core) : (setCore s n c).suspects = s.suspects := rfl
@[simp] theorem setCore_deadPorts (s : State) (n : Nat) (c : Core) : (setCore s n c).deadPorts = s.deadPorts := rfl
@[simp] theorem setCore_scrub (s : State) (n : Nat) (c : Core) : (setCore s n c).scrub = s.scrub := rfl
@[simp] theorem setCore_scrubKeep (s : State) (n : Nat) (c : Core) : (setCore s n c).scrubKeep = s.scrubKeep := rfl
@[simp] theorem setCore_linkResets (s : State) (n : Nat) (c : Core) : (setCore s n c).linkResets = s.linkResets := rfl
@[simp] theorem setCore_connFirst (s : State) (n : Nat) (c : Core) : (setCore s n c).connFirst = s.connFirst := rfl
@[simp] theorem setCore_connLast (s : State) (n : Nat) (c : Core) : (setCore s n c).connLast = s.connLast := rfl
@[simp] theorem setCore_weltCounts (s : State) (n : Nat) (c : Core) : (setCore s n c).weltCounts = s.weltCounts := rfl
@[simp] theorem setCore_weltReported (s : State) (n : Nat) (c : Core) : (setCore s n c).weltReported = s.weltReported := rfl
@[simp] theorem setCore_expanders (s : State) (n : Nat) (c : Core) : (setCore s n c).expanders = s.expanders := rfl
@[simp] theorem setCore_fwMeasure (s : State) (n : Nat) (c : Core) : (setCore s n c).fwMeasure = s.fwMeasure := rfl
@[simp] theorem setCore_fwVersion (s : State) (n : Nat) (c : Core) : (setCore s n c).fwVersion = s.fwVersion := rfl
@[simp] theorem setCore_fwSvn (s : State) (n : Nat) (c : Core) : (setCore s n c).fwSvn = s.fwSvn := rfl
@[simp] theorem setCore_attCmd (s : State) (n : Nat) (c : Core) : (setCore s n c).attCmd = s.attCmd := rfl
@[simp] theorem setCore_sensors (s : State) (n : Nat) (c : Core) : (setCore s n c).sensors = s.sensors := rfl
@[simp] theorem setCore_governed (s : State) (n : Nat) (c : Core) : (setCore s n c).governed = s.governed := rfl
@[simp] theorem setCore_powered (s : State) (n : Nat) (c : Core) : (setCore s n c).powered = s.powered := rfl
@[simp] theorem setCore_running (s : State) (n : Nat) (c : Core) : (setCore s n c).running = s.running := rfl
@[simp] theorem setCore_spares (s : State) (n : Nat) (c : Core) : (setCore s n c).spares = s.spares := rfl
@[simp] theorem setCore_gone (s : State) (n : Nat) (c : Core) : (setCore s n c).gone = s.gone := rfl
@[simp] theorem setCore_ventDead (s : State) (n : Nat) (c : Core) : (setCore s n c).ventDead = s.ventDead := rfl
@[simp] theorem setCore_free (s : State) (n : Nat) (c : Core) : (setCore s n c).free = s.free := rfl
@[simp] theorem setCore_issueQ (s : State) (n : Nat) (c : Core) : (setCore s n c).issueQ = s.issueQ := rfl
@[simp] theorem setCore_inbox (s : State) (n : Nat) (c : Core) : (setCore s n c).inbox = s.inbox := rfl
@[simp] theorem setCore_upsets (s : State) (n : Nat) (c : Core) : (setCore s n c).upsets = s.upsets := rfl
@[simp] theorem setCore_phase (s : State) (n : Nat) (c : Core) : (setCore s n c).phase = s.phase := rfl
@[simp] theorem setCore_cevNow (s : State) (n : Nat) (c : Core) : (setCore s n c).cevNow = s.cevNow := rfl
@[simp] theorem setCore_cevClock (s : State) (n : Nat) (c : Core) : (setCore s n c).cevClock = s.cevClock := rfl

/-! ## `modCore` -/

@[simp] theorem modCore_clock (s : State) (n : Nat) (f : Core → Core) : (modCore s n f).clock = s.clock := rfl
@[simp] theorem modCore_cycles (s : State) (n : Nat) (f : Core → Core) : (modCore s n f).cycles = s.cycles := rfl
@[simp] theorem modCore_dcb (s : State) (n : Nat) (f : Core → Core) : (modCore s n f).dcb = s.dcb := rfl
@[simp] theorem modCore_mem (s : State) (n : Nat) (f : Core → Core) : (modCore s n f).mem = s.mem := rfl
@[simp] theorem modCore_l2 (s : State) (n : Nat) (f : Core → Core) : (modCore s n f).l2 = s.l2 := rfl
@[simp] theorem modCore_quarantine (s : State) (n : Nat) (f : Core → Core) : (modCore s n f).quarantine = s.quarantine := rfl
@[simp] theorem modCore_tlb2 (s : State) (n : Nat) (f : Core → Core) : (modCore s n f).tlb2 = s.tlb2 := rfl
@[simp] theorem modCore_pages (s : State) (n : Nat) (f : Core → Core) : (modCore s n f).pages = s.pages := rfl
@[simp] theorem modCore_nextTag (s : State) (n : Nat) (f : Core → Core) : (modCore s n f).nextTag = s.nextTag := rfl
@[simp] theorem modCore_tlbi (s : State) (n : Nat) (f : Core → Core) : (modCore s n f).tlbi = s.tlbi := rfl
@[simp] theorem modCore_migration (s : State) (n : Nat) (f : Core → Core) : (modCore s n f).migration = s.migration := rfl
@[simp] theorem modCore_killing (s : State) (n : Nat) (f : Core → Core) : (modCore s n f).killing = s.killing := rfl
@[simp] theorem modCore_queues (s : State) (n : Nat) (f : Core → Core) : (modCore s n f).queues = s.queues := rfl
@[simp] theorem modCore_queueBase (s : State) (n : Nat) (f : Core → Core) : (modCore s n f).queueBase = s.queueBase := rfl
@[simp] theorem modCore_ctxBase (s : State) (n : Nat) (f : Core → Core) : (modCore s n f).ctxBase = s.ctxBase := rfl
@[simp] theorem modCore_ctxSeen (s : State) (n : Nat) (f : Core → Core) : (modCore s n f).ctxSeen = s.ctxSeen := rfl
@[simp] theorem modCore_launches (s : State) (n : Nat) (f : Core → Core) : (modCore s n f).launches = s.launches := rfl
@[simp] theorem modCore_overwritten (s : State) (n : Nat) (f : Core → Core) : (modCore s n f).overwritten = s.overwritten := rfl
@[simp] theorem modCore_tokens (s : State) (n : Nat) (f : Core → Core) : (modCore s n f).tokens = s.tokens := rfl
@[simp] theorem modCore_levels (s : State) (n : Nat) (f : Core → Core) : (modCore s n f).levels = s.levels := rfl
@[simp] theorem modCore_spent (s : State) (n : Nat) (f : Core → Core) : (modCore s n f).spent = s.spent := rfl
@[simp] theorem modCore_journal (s : State) (n : Nat) (f : Core → Core) : (modCore s n f).journal = s.journal := rfl
@[simp] theorem modCore_completions (s : State) (n : Nat) (f : Core → Core) : (modCore s n f).completions = s.completions := rfl
@[simp] theorem modCore_preempts (s : State) (n : Nat) (f : Core → Core) : (modCore s n f).preempts = s.preempts := rfl
@[simp] theorem modCore_spillFaults (s : State) (n : Nat) (f : Core → Core) : (modCore s n f).spillFaults = s.spillFaults := rfl
@[simp] theorem modCore_preemptAgain (s : State) (n : Nat) (f : Core → Core) : (modCore s n f).preemptAgain = s.preemptAgain := rfl
@[simp] theorem modCore_saved (s : State) (n : Nat) (f : Core → Core) : (modCore s n f).saved = s.saved := rfl
@[simp] theorem modCore_ctxOp (s : State) (n : Nat) (f : Core → Core) : (modCore s n f).ctxOp = s.ctxOp := rfl
@[simp] theorem modCore_peers (s : State) (n : Nat) (f : Core → Core) : (modCore s n f).peers = s.peers := rfl
@[simp] theorem modCore_pods (s : State) (n : Nat) (f : Core → Core) : (modCore s n f).pods = s.pods := rfl
@[simp] theorem modCore_ports (s : State) (n : Nat) (f : Core → Core) : (modCore s n f).ports = s.ports := rfl
@[simp] theorem modCore_podAnswer (s : State) (n : Nat) (f : Core → Core) : (modCore s n f).podAnswer = s.podAnswer := rfl
@[simp] theorem modCore_answer (s : State) (n : Nat) (f : Core → Core) : (modCore s n f).answer = s.answer := rfl
@[simp] theorem modCore_msix (s : State) (n : Nat) (f : Core → Core) : (modCore s n f).msix = s.msix := rfl
@[simp] theorem modCore_irqSet (s : State) (n : Nat) (f : Core → Core) : (modCore s n f).irqSet = s.irqSet := rfl
@[simp] theorem modCore_irqSent (s : State) (n : Nat) (f : Core → Core) : (modCore s n f).irqSent = s.irqSent := rfl
@[simp] theorem modCore_cplSet (s : State) (n : Nat) (f : Core → Core) : (modCore s n f).cplSet = s.cplSet := rfl
@[simp] theorem modCore_bar2 (s : State) (n : Nat) (f : Core → Core) : (modCore s n f).bar2 = s.bar2 := rfl
@[simp] theorem modCore_welts (s : State) (n : Nat) (f : Core → Core) : (modCore s n f).welts = s.welts := rfl
@[simp] theorem modCore_tripped (s : State) (n : Nat) (f : Core → Core) : (modCore s n f).tripped = s.tripped := rfl
@[simp] theorem modCore_layersLost (s : State) (n : Nat) (f : Core → Core) : (modCore s n f).layersLost = s.layersLost := rfl
@[simp] theorem modCore_dtemp (s : State) (n : Nat) (f : Core → Core) : (modCore s n f).dtemp = s.dtemp := rfl
@[simp] theorem modCore_dutyLow (s : State) (n : Nat) (f : Core → Core) : (modCore s n f).dutyLow = s.dutyLow := rfl
@[simp] theorem modCore_scans (s : State) (n : Nat) (f : Core → Core) : (modCore s n f).scans = s.scans := rfl
@[simp] theorem modCore_scanned (s : State) (n : Nat) (f : Core → Core) : (modCore s n f).scanned = s.scanned := rfl
@[simp] theorem modCore_suspects (s : State) (n : Nat) (f : Core → Core) : (modCore s n f).suspects = s.suspects := rfl
@[simp] theorem modCore_deadPorts (s : State) (n : Nat) (f : Core → Core) : (modCore s n f).deadPorts = s.deadPorts := rfl
@[simp] theorem modCore_scrub (s : State) (n : Nat) (f : Core → Core) : (modCore s n f).scrub = s.scrub := rfl
@[simp] theorem modCore_scrubKeep (s : State) (n : Nat) (f : Core → Core) : (modCore s n f).scrubKeep = s.scrubKeep := rfl
@[simp] theorem modCore_linkResets (s : State) (n : Nat) (f : Core → Core) : (modCore s n f).linkResets = s.linkResets := rfl
@[simp] theorem modCore_connFirst (s : State) (n : Nat) (f : Core → Core) : (modCore s n f).connFirst = s.connFirst := rfl
@[simp] theorem modCore_connLast (s : State) (n : Nat) (f : Core → Core) : (modCore s n f).connLast = s.connLast := rfl
@[simp] theorem modCore_weltCounts (s : State) (n : Nat) (f : Core → Core) : (modCore s n f).weltCounts = s.weltCounts := rfl
@[simp] theorem modCore_weltReported (s : State) (n : Nat) (f : Core → Core) : (modCore s n f).weltReported = s.weltReported := rfl
@[simp] theorem modCore_expanders (s : State) (n : Nat) (f : Core → Core) : (modCore s n f).expanders = s.expanders := rfl
@[simp] theorem modCore_fwMeasure (s : State) (n : Nat) (f : Core → Core) : (modCore s n f).fwMeasure = s.fwMeasure := rfl
@[simp] theorem modCore_fwVersion (s : State) (n : Nat) (f : Core → Core) : (modCore s n f).fwVersion = s.fwVersion := rfl
@[simp] theorem modCore_fwSvn (s : State) (n : Nat) (f : Core → Core) : (modCore s n f).fwSvn = s.fwSvn := rfl
@[simp] theorem modCore_attCmd (s : State) (n : Nat) (f : Core → Core) : (modCore s n f).attCmd = s.attCmd := rfl
@[simp] theorem modCore_sensors (s : State) (n : Nat) (f : Core → Core) : (modCore s n f).sensors = s.sensors := rfl
@[simp] theorem modCore_governed (s : State) (n : Nat) (f : Core → Core) : (modCore s n f).governed = s.governed := rfl
@[simp] theorem modCore_powered (s : State) (n : Nat) (f : Core → Core) : (modCore s n f).powered = s.powered := rfl
@[simp] theorem modCore_running (s : State) (n : Nat) (f : Core → Core) : (modCore s n f).running = s.running := rfl
@[simp] theorem modCore_spares (s : State) (n : Nat) (f : Core → Core) : (modCore s n f).spares = s.spares := rfl
@[simp] theorem modCore_gone (s : State) (n : Nat) (f : Core → Core) : (modCore s n f).gone = s.gone := rfl
@[simp] theorem modCore_ventDead (s : State) (n : Nat) (f : Core → Core) : (modCore s n f).ventDead = s.ventDead := rfl
@[simp] theorem modCore_free (s : State) (n : Nat) (f : Core → Core) : (modCore s n f).free = s.free := rfl
@[simp] theorem modCore_issueQ (s : State) (n : Nat) (f : Core → Core) : (modCore s n f).issueQ = s.issueQ := rfl
@[simp] theorem modCore_inbox (s : State) (n : Nat) (f : Core → Core) : (modCore s n f).inbox = s.inbox := rfl
@[simp] theorem modCore_upsets (s : State) (n : Nat) (f : Core → Core) : (modCore s n f).upsets = s.upsets := rfl
@[simp] theorem modCore_phase (s : State) (n : Nat) (f : Core → Core) : (modCore s n f).phase = s.phase := rfl
@[simp] theorem modCore_cevNow (s : State) (n : Nat) (f : Core → Core) : (modCore s n f).cevNow = s.cevNow := rfl
@[simp] theorem modCore_cevClock (s : State) (n : Nat) (f : Core → Core) : (modCore s n f).cevClock = s.cevClock := rfl

/-! ## `setGang` -/

@[simp] theorem setGang_clock (s : State) (n k : Nat) (g : Gang) : (setGang s n k g).clock = s.clock := rfl
@[simp] theorem setGang_cycles (s : State) (n k : Nat) (g : Gang) : (setGang s n k g).cycles = s.cycles := rfl
@[simp] theorem setGang_dcb (s : State) (n k : Nat) (g : Gang) : (setGang s n k g).dcb = s.dcb := rfl
@[simp] theorem setGang_mem (s : State) (n k : Nat) (g : Gang) : (setGang s n k g).mem = s.mem := rfl
@[simp] theorem setGang_l2 (s : State) (n k : Nat) (g : Gang) : (setGang s n k g).l2 = s.l2 := rfl
@[simp] theorem setGang_quarantine (s : State) (n k : Nat) (g : Gang) : (setGang s n k g).quarantine = s.quarantine := rfl
@[simp] theorem setGang_tlb2 (s : State) (n k : Nat) (g : Gang) : (setGang s n k g).tlb2 = s.tlb2 := rfl
@[simp] theorem setGang_pages (s : State) (n k : Nat) (g : Gang) : (setGang s n k g).pages = s.pages := rfl
@[simp] theorem setGang_nextTag (s : State) (n k : Nat) (g : Gang) : (setGang s n k g).nextTag = s.nextTag := rfl
@[simp] theorem setGang_tlbi (s : State) (n k : Nat) (g : Gang) : (setGang s n k g).tlbi = s.tlbi := rfl
@[simp] theorem setGang_migration (s : State) (n k : Nat) (g : Gang) : (setGang s n k g).migration = s.migration := rfl
@[simp] theorem setGang_killing (s : State) (n k : Nat) (g : Gang) : (setGang s n k g).killing = s.killing := rfl
@[simp] theorem setGang_queues (s : State) (n k : Nat) (g : Gang) : (setGang s n k g).queues = s.queues := rfl
@[simp] theorem setGang_queueBase (s : State) (n k : Nat) (g : Gang) : (setGang s n k g).queueBase = s.queueBase := rfl
@[simp] theorem setGang_ctxBase (s : State) (n k : Nat) (g : Gang) : (setGang s n k g).ctxBase = s.ctxBase := rfl
@[simp] theorem setGang_ctxSeen (s : State) (n k : Nat) (g : Gang) : (setGang s n k g).ctxSeen = s.ctxSeen := rfl
@[simp] theorem setGang_launches (s : State) (n k : Nat) (g : Gang) : (setGang s n k g).launches = s.launches := rfl
@[simp] theorem setGang_overwritten (s : State) (n k : Nat) (g : Gang) : (setGang s n k g).overwritten = s.overwritten := rfl
@[simp] theorem setGang_tokens (s : State) (n k : Nat) (g : Gang) : (setGang s n k g).tokens = s.tokens := rfl
@[simp] theorem setGang_levels (s : State) (n k : Nat) (g : Gang) : (setGang s n k g).levels = s.levels := rfl
@[simp] theorem setGang_spent (s : State) (n k : Nat) (g : Gang) : (setGang s n k g).spent = s.spent := rfl
@[simp] theorem setGang_journal (s : State) (n k : Nat) (g : Gang) : (setGang s n k g).journal = s.journal := rfl
@[simp] theorem setGang_completions (s : State) (n k : Nat) (g : Gang) : (setGang s n k g).completions = s.completions := rfl
@[simp] theorem setGang_preempts (s : State) (n k : Nat) (g : Gang) : (setGang s n k g).preempts = s.preempts := rfl
@[simp] theorem setGang_spillFaults (s : State) (n k : Nat) (g : Gang) : (setGang s n k g).spillFaults = s.spillFaults := rfl
@[simp] theorem setGang_preemptAgain (s : State) (n k : Nat) (g : Gang) : (setGang s n k g).preemptAgain = s.preemptAgain := rfl
@[simp] theorem setGang_saved (s : State) (n k : Nat) (g : Gang) : (setGang s n k g).saved = s.saved := rfl
@[simp] theorem setGang_ctxOp (s : State) (n k : Nat) (g : Gang) : (setGang s n k g).ctxOp = s.ctxOp := rfl
@[simp] theorem setGang_peers (s : State) (n k : Nat) (g : Gang) : (setGang s n k g).peers = s.peers := rfl
@[simp] theorem setGang_pods (s : State) (n k : Nat) (g : Gang) : (setGang s n k g).pods = s.pods := rfl
@[simp] theorem setGang_ports (s : State) (n k : Nat) (g : Gang) : (setGang s n k g).ports = s.ports := rfl
@[simp] theorem setGang_podAnswer (s : State) (n k : Nat) (g : Gang) : (setGang s n k g).podAnswer = s.podAnswer := rfl
@[simp] theorem setGang_answer (s : State) (n k : Nat) (g : Gang) : (setGang s n k g).answer = s.answer := rfl
@[simp] theorem setGang_msix (s : State) (n k : Nat) (g : Gang) : (setGang s n k g).msix = s.msix := rfl
@[simp] theorem setGang_irqSet (s : State) (n k : Nat) (g : Gang) : (setGang s n k g).irqSet = s.irqSet := rfl
@[simp] theorem setGang_irqSent (s : State) (n k : Nat) (g : Gang) : (setGang s n k g).irqSent = s.irqSent := rfl
@[simp] theorem setGang_cplSet (s : State) (n k : Nat) (g : Gang) : (setGang s n k g).cplSet = s.cplSet := rfl
@[simp] theorem setGang_bar2 (s : State) (n k : Nat) (g : Gang) : (setGang s n k g).bar2 = s.bar2 := rfl
@[simp] theorem setGang_welts (s : State) (n k : Nat) (g : Gang) : (setGang s n k g).welts = s.welts := rfl
@[simp] theorem setGang_tripped (s : State) (n k : Nat) (g : Gang) : (setGang s n k g).tripped = s.tripped := rfl
@[simp] theorem setGang_layersLost (s : State) (n k : Nat) (g : Gang) : (setGang s n k g).layersLost = s.layersLost := rfl
@[simp] theorem setGang_dtemp (s : State) (n k : Nat) (g : Gang) : (setGang s n k g).dtemp = s.dtemp := rfl
@[simp] theorem setGang_dutyLow (s : State) (n k : Nat) (g : Gang) : (setGang s n k g).dutyLow = s.dutyLow := rfl
@[simp] theorem setGang_scans (s : State) (n k : Nat) (g : Gang) : (setGang s n k g).scans = s.scans := rfl
@[simp] theorem setGang_scanned (s : State) (n k : Nat) (g : Gang) : (setGang s n k g).scanned = s.scanned := rfl
@[simp] theorem setGang_suspects (s : State) (n k : Nat) (g : Gang) : (setGang s n k g).suspects = s.suspects := rfl
@[simp] theorem setGang_deadPorts (s : State) (n k : Nat) (g : Gang) : (setGang s n k g).deadPorts = s.deadPorts := rfl
@[simp] theorem setGang_scrub (s : State) (n k : Nat) (g : Gang) : (setGang s n k g).scrub = s.scrub := rfl
@[simp] theorem setGang_scrubKeep (s : State) (n k : Nat) (g : Gang) : (setGang s n k g).scrubKeep = s.scrubKeep := rfl
@[simp] theorem setGang_linkResets (s : State) (n k : Nat) (g : Gang) : (setGang s n k g).linkResets = s.linkResets := rfl
@[simp] theorem setGang_connFirst (s : State) (n k : Nat) (g : Gang) : (setGang s n k g).connFirst = s.connFirst := rfl
@[simp] theorem setGang_connLast (s : State) (n k : Nat) (g : Gang) : (setGang s n k g).connLast = s.connLast := rfl
@[simp] theorem setGang_weltCounts (s : State) (n k : Nat) (g : Gang) : (setGang s n k g).weltCounts = s.weltCounts := rfl
@[simp] theorem setGang_weltReported (s : State) (n k : Nat) (g : Gang) : (setGang s n k g).weltReported = s.weltReported := rfl
@[simp] theorem setGang_expanders (s : State) (n k : Nat) (g : Gang) : (setGang s n k g).expanders = s.expanders := rfl
@[simp] theorem setGang_fwMeasure (s : State) (n k : Nat) (g : Gang) : (setGang s n k g).fwMeasure = s.fwMeasure := rfl
@[simp] theorem setGang_fwVersion (s : State) (n k : Nat) (g : Gang) : (setGang s n k g).fwVersion = s.fwVersion := rfl
@[simp] theorem setGang_fwSvn (s : State) (n k : Nat) (g : Gang) : (setGang s n k g).fwSvn = s.fwSvn := rfl
@[simp] theorem setGang_attCmd (s : State) (n k : Nat) (g : Gang) : (setGang s n k g).attCmd = s.attCmd := rfl
@[simp] theorem setGang_sensors (s : State) (n k : Nat) (g : Gang) : (setGang s n k g).sensors = s.sensors := rfl
@[simp] theorem setGang_governed (s : State) (n k : Nat) (g : Gang) : (setGang s n k g).governed = s.governed := rfl
@[simp] theorem setGang_powered (s : State) (n k : Nat) (g : Gang) : (setGang s n k g).powered = s.powered := rfl
@[simp] theorem setGang_running (s : State) (n k : Nat) (g : Gang) : (setGang s n k g).running = s.running := rfl
@[simp] theorem setGang_spares (s : State) (n k : Nat) (g : Gang) : (setGang s n k g).spares = s.spares := rfl
@[simp] theorem setGang_gone (s : State) (n k : Nat) (g : Gang) : (setGang s n k g).gone = s.gone := rfl
@[simp] theorem setGang_ventDead (s : State) (n k : Nat) (g : Gang) : (setGang s n k g).ventDead = s.ventDead := rfl
@[simp] theorem setGang_free (s : State) (n k : Nat) (g : Gang) : (setGang s n k g).free = s.free := rfl
@[simp] theorem setGang_issueQ (s : State) (n k : Nat) (g : Gang) : (setGang s n k g).issueQ = s.issueQ := rfl
@[simp] theorem setGang_inbox (s : State) (n k : Nat) (g : Gang) : (setGang s n k g).inbox = s.inbox := rfl
@[simp] theorem setGang_upsets (s : State) (n k : Nat) (g : Gang) : (setGang s n k g).upsets = s.upsets := rfl
@[simp] theorem setGang_phase (s : State) (n k : Nat) (g : Gang) : (setGang s n k g).phase = s.phase := rfl
@[simp] theorem setGang_cevNow (s : State) (n k : Nat) (g : Gang) : (setGang s n k g).cevNow = s.cevNow := rfl
@[simp] theorem setGang_cevClock (s : State) (n k : Nat) (g : Gang) : (setGang s n k g).cevClock = s.cevClock := rfl

/-! ## `modGang` -/

@[simp] theorem modGang_clock (s : State) (n k : Nat) (f : Gang → Gang) : (modGang s n k f).clock = s.clock := rfl
@[simp] theorem modGang_cycles (s : State) (n k : Nat) (f : Gang → Gang) : (modGang s n k f).cycles = s.cycles := rfl
@[simp] theorem modGang_dcb (s : State) (n k : Nat) (f : Gang → Gang) : (modGang s n k f).dcb = s.dcb := rfl
@[simp] theorem modGang_mem (s : State) (n k : Nat) (f : Gang → Gang) : (modGang s n k f).mem = s.mem := rfl
@[simp] theorem modGang_l2 (s : State) (n k : Nat) (f : Gang → Gang) : (modGang s n k f).l2 = s.l2 := rfl
@[simp] theorem modGang_quarantine (s : State) (n k : Nat) (f : Gang → Gang) : (modGang s n k f).quarantine = s.quarantine := rfl
@[simp] theorem modGang_tlb2 (s : State) (n k : Nat) (f : Gang → Gang) : (modGang s n k f).tlb2 = s.tlb2 := rfl
@[simp] theorem modGang_pages (s : State) (n k : Nat) (f : Gang → Gang) : (modGang s n k f).pages = s.pages := rfl
@[simp] theorem modGang_nextTag (s : State) (n k : Nat) (f : Gang → Gang) : (modGang s n k f).nextTag = s.nextTag := rfl
@[simp] theorem modGang_tlbi (s : State) (n k : Nat) (f : Gang → Gang) : (modGang s n k f).tlbi = s.tlbi := rfl
@[simp] theorem modGang_migration (s : State) (n k : Nat) (f : Gang → Gang) : (modGang s n k f).migration = s.migration := rfl
@[simp] theorem modGang_killing (s : State) (n k : Nat) (f : Gang → Gang) : (modGang s n k f).killing = s.killing := rfl
@[simp] theorem modGang_queues (s : State) (n k : Nat) (f : Gang → Gang) : (modGang s n k f).queues = s.queues := rfl
@[simp] theorem modGang_queueBase (s : State) (n k : Nat) (f : Gang → Gang) : (modGang s n k f).queueBase = s.queueBase := rfl
@[simp] theorem modGang_ctxBase (s : State) (n k : Nat) (f : Gang → Gang) : (modGang s n k f).ctxBase = s.ctxBase := rfl
@[simp] theorem modGang_ctxSeen (s : State) (n k : Nat) (f : Gang → Gang) : (modGang s n k f).ctxSeen = s.ctxSeen := rfl
@[simp] theorem modGang_launches (s : State) (n k : Nat) (f : Gang → Gang) : (modGang s n k f).launches = s.launches := rfl
@[simp] theorem modGang_overwritten (s : State) (n k : Nat) (f : Gang → Gang) : (modGang s n k f).overwritten = s.overwritten := rfl
@[simp] theorem modGang_tokens (s : State) (n k : Nat) (f : Gang → Gang) : (modGang s n k f).tokens = s.tokens := rfl
@[simp] theorem modGang_levels (s : State) (n k : Nat) (f : Gang → Gang) : (modGang s n k f).levels = s.levels := rfl
@[simp] theorem modGang_spent (s : State) (n k : Nat) (f : Gang → Gang) : (modGang s n k f).spent = s.spent := rfl
@[simp] theorem modGang_journal (s : State) (n k : Nat) (f : Gang → Gang) : (modGang s n k f).journal = s.journal := rfl
@[simp] theorem modGang_completions (s : State) (n k : Nat) (f : Gang → Gang) : (modGang s n k f).completions = s.completions := rfl
@[simp] theorem modGang_preempts (s : State) (n k : Nat) (f : Gang → Gang) : (modGang s n k f).preempts = s.preempts := rfl
@[simp] theorem modGang_spillFaults (s : State) (n k : Nat) (f : Gang → Gang) : (modGang s n k f).spillFaults = s.spillFaults := rfl
@[simp] theorem modGang_preemptAgain (s : State) (n k : Nat) (f : Gang → Gang) : (modGang s n k f).preemptAgain = s.preemptAgain := rfl
@[simp] theorem modGang_saved (s : State) (n k : Nat) (f : Gang → Gang) : (modGang s n k f).saved = s.saved := rfl
@[simp] theorem modGang_ctxOp (s : State) (n k : Nat) (f : Gang → Gang) : (modGang s n k f).ctxOp = s.ctxOp := rfl
@[simp] theorem modGang_peers (s : State) (n k : Nat) (f : Gang → Gang) : (modGang s n k f).peers = s.peers := rfl
@[simp] theorem modGang_pods (s : State) (n k : Nat) (f : Gang → Gang) : (modGang s n k f).pods = s.pods := rfl
@[simp] theorem modGang_ports (s : State) (n k : Nat) (f : Gang → Gang) : (modGang s n k f).ports = s.ports := rfl
@[simp] theorem modGang_podAnswer (s : State) (n k : Nat) (f : Gang → Gang) : (modGang s n k f).podAnswer = s.podAnswer := rfl
@[simp] theorem modGang_answer (s : State) (n k : Nat) (f : Gang → Gang) : (modGang s n k f).answer = s.answer := rfl
@[simp] theorem modGang_msix (s : State) (n k : Nat) (f : Gang → Gang) : (modGang s n k f).msix = s.msix := rfl
@[simp] theorem modGang_irqSet (s : State) (n k : Nat) (f : Gang → Gang) : (modGang s n k f).irqSet = s.irqSet := rfl
@[simp] theorem modGang_irqSent (s : State) (n k : Nat) (f : Gang → Gang) : (modGang s n k f).irqSent = s.irqSent := rfl
@[simp] theorem modGang_cplSet (s : State) (n k : Nat) (f : Gang → Gang) : (modGang s n k f).cplSet = s.cplSet := rfl
@[simp] theorem modGang_bar2 (s : State) (n k : Nat) (f : Gang → Gang) : (modGang s n k f).bar2 = s.bar2 := rfl
@[simp] theorem modGang_welts (s : State) (n k : Nat) (f : Gang → Gang) : (modGang s n k f).welts = s.welts := rfl
@[simp] theorem modGang_tripped (s : State) (n k : Nat) (f : Gang → Gang) : (modGang s n k f).tripped = s.tripped := rfl
@[simp] theorem modGang_layersLost (s : State) (n k : Nat) (f : Gang → Gang) : (modGang s n k f).layersLost = s.layersLost := rfl
@[simp] theorem modGang_dtemp (s : State) (n k : Nat) (f : Gang → Gang) : (modGang s n k f).dtemp = s.dtemp := rfl
@[simp] theorem modGang_dutyLow (s : State) (n k : Nat) (f : Gang → Gang) : (modGang s n k f).dutyLow = s.dutyLow := rfl
@[simp] theorem modGang_scans (s : State) (n k : Nat) (f : Gang → Gang) : (modGang s n k f).scans = s.scans := rfl
@[simp] theorem modGang_scanned (s : State) (n k : Nat) (f : Gang → Gang) : (modGang s n k f).scanned = s.scanned := rfl
@[simp] theorem modGang_suspects (s : State) (n k : Nat) (f : Gang → Gang) : (modGang s n k f).suspects = s.suspects := rfl
@[simp] theorem modGang_deadPorts (s : State) (n k : Nat) (f : Gang → Gang) : (modGang s n k f).deadPorts = s.deadPorts := rfl
@[simp] theorem modGang_scrub (s : State) (n k : Nat) (f : Gang → Gang) : (modGang s n k f).scrub = s.scrub := rfl
@[simp] theorem modGang_scrubKeep (s : State) (n k : Nat) (f : Gang → Gang) : (modGang s n k f).scrubKeep = s.scrubKeep := rfl
@[simp] theorem modGang_linkResets (s : State) (n k : Nat) (f : Gang → Gang) : (modGang s n k f).linkResets = s.linkResets := rfl
@[simp] theorem modGang_connFirst (s : State) (n k : Nat) (f : Gang → Gang) : (modGang s n k f).connFirst = s.connFirst := rfl
@[simp] theorem modGang_connLast (s : State) (n k : Nat) (f : Gang → Gang) : (modGang s n k f).connLast = s.connLast := rfl
@[simp] theorem modGang_weltCounts (s : State) (n k : Nat) (f : Gang → Gang) : (modGang s n k f).weltCounts = s.weltCounts := rfl
@[simp] theorem modGang_weltReported (s : State) (n k : Nat) (f : Gang → Gang) : (modGang s n k f).weltReported = s.weltReported := rfl
@[simp] theorem modGang_expanders (s : State) (n k : Nat) (f : Gang → Gang) : (modGang s n k f).expanders = s.expanders := rfl
@[simp] theorem modGang_fwMeasure (s : State) (n k : Nat) (f : Gang → Gang) : (modGang s n k f).fwMeasure = s.fwMeasure := rfl
@[simp] theorem modGang_fwVersion (s : State) (n k : Nat) (f : Gang → Gang) : (modGang s n k f).fwVersion = s.fwVersion := rfl
@[simp] theorem modGang_fwSvn (s : State) (n k : Nat) (f : Gang → Gang) : (modGang s n k f).fwSvn = s.fwSvn := rfl
@[simp] theorem modGang_attCmd (s : State) (n k : Nat) (f : Gang → Gang) : (modGang s n k f).attCmd = s.attCmd := rfl
@[simp] theorem modGang_sensors (s : State) (n k : Nat) (f : Gang → Gang) : (modGang s n k f).sensors = s.sensors := rfl
@[simp] theorem modGang_governed (s : State) (n k : Nat) (f : Gang → Gang) : (modGang s n k f).governed = s.governed := rfl
@[simp] theorem modGang_powered (s : State) (n k : Nat) (f : Gang → Gang) : (modGang s n k f).powered = s.powered := rfl
@[simp] theorem modGang_running (s : State) (n k : Nat) (f : Gang → Gang) : (modGang s n k f).running = s.running := rfl
@[simp] theorem modGang_spares (s : State) (n k : Nat) (f : Gang → Gang) : (modGang s n k f).spares = s.spares := rfl
@[simp] theorem modGang_gone (s : State) (n k : Nat) (f : Gang → Gang) : (modGang s n k f).gone = s.gone := rfl
@[simp] theorem modGang_ventDead (s : State) (n k : Nat) (f : Gang → Gang) : (modGang s n k f).ventDead = s.ventDead := rfl
@[simp] theorem modGang_free (s : State) (n k : Nat) (f : Gang → Gang) : (modGang s n k f).free = s.free := rfl
@[simp] theorem modGang_issueQ (s : State) (n k : Nat) (f : Gang → Gang) : (modGang s n k f).issueQ = s.issueQ := rfl
@[simp] theorem modGang_inbox (s : State) (n k : Nat) (f : Gang → Gang) : (modGang s n k f).inbox = s.inbox := rfl
@[simp] theorem modGang_upsets (s : State) (n k : Nat) (f : Gang → Gang) : (modGang s n k f).upsets = s.upsets := rfl
@[simp] theorem modGang_phase (s : State) (n k : Nat) (f : Gang → Gang) : (modGang s n k f).phase = s.phase := rfl
@[simp] theorem modGang_cevNow (s : State) (n k : Nat) (f : Gang → Gang) : (modGang s n k f).cevNow = s.cevNow := rfl
@[simp] theorem modGang_cevClock (s : State) (n k : Nat) (f : Gang → Gang) : (modGang s n k f).cevClock = s.cevClock := rfl

/-! ## `modGroup` -/

@[simp] theorem modGroup_clock (s : State) (n k : Nat) (f : Group → Group) : (modGroup s n k f).clock = s.clock := rfl
@[simp] theorem modGroup_cycles (s : State) (n k : Nat) (f : Group → Group) : (modGroup s n k f).cycles = s.cycles := rfl
@[simp] theorem modGroup_dcb (s : State) (n k : Nat) (f : Group → Group) : (modGroup s n k f).dcb = s.dcb := rfl
@[simp] theorem modGroup_mem (s : State) (n k : Nat) (f : Group → Group) : (modGroup s n k f).mem = s.mem := rfl
@[simp] theorem modGroup_l2 (s : State) (n k : Nat) (f : Group → Group) : (modGroup s n k f).l2 = s.l2 := rfl
@[simp] theorem modGroup_quarantine (s : State) (n k : Nat) (f : Group → Group) : (modGroup s n k f).quarantine = s.quarantine := rfl
@[simp] theorem modGroup_tlb2 (s : State) (n k : Nat) (f : Group → Group) : (modGroup s n k f).tlb2 = s.tlb2 := rfl
@[simp] theorem modGroup_pages (s : State) (n k : Nat) (f : Group → Group) : (modGroup s n k f).pages = s.pages := rfl
@[simp] theorem modGroup_nextTag (s : State) (n k : Nat) (f : Group → Group) : (modGroup s n k f).nextTag = s.nextTag := rfl
@[simp] theorem modGroup_tlbi (s : State) (n k : Nat) (f : Group → Group) : (modGroup s n k f).tlbi = s.tlbi := rfl
@[simp] theorem modGroup_migration (s : State) (n k : Nat) (f : Group → Group) : (modGroup s n k f).migration = s.migration := rfl
@[simp] theorem modGroup_killing (s : State) (n k : Nat) (f : Group → Group) : (modGroup s n k f).killing = s.killing := rfl
@[simp] theorem modGroup_queues (s : State) (n k : Nat) (f : Group → Group) : (modGroup s n k f).queues = s.queues := rfl
@[simp] theorem modGroup_queueBase (s : State) (n k : Nat) (f : Group → Group) : (modGroup s n k f).queueBase = s.queueBase := rfl
@[simp] theorem modGroup_ctxBase (s : State) (n k : Nat) (f : Group → Group) : (modGroup s n k f).ctxBase = s.ctxBase := rfl
@[simp] theorem modGroup_ctxSeen (s : State) (n k : Nat) (f : Group → Group) : (modGroup s n k f).ctxSeen = s.ctxSeen := rfl
@[simp] theorem modGroup_launches (s : State) (n k : Nat) (f : Group → Group) : (modGroup s n k f).launches = s.launches := rfl
@[simp] theorem modGroup_overwritten (s : State) (n k : Nat) (f : Group → Group) : (modGroup s n k f).overwritten = s.overwritten := rfl
@[simp] theorem modGroup_tokens (s : State) (n k : Nat) (f : Group → Group) : (modGroup s n k f).tokens = s.tokens := rfl
@[simp] theorem modGroup_levels (s : State) (n k : Nat) (f : Group → Group) : (modGroup s n k f).levels = s.levels := rfl
@[simp] theorem modGroup_spent (s : State) (n k : Nat) (f : Group → Group) : (modGroup s n k f).spent = s.spent := rfl
@[simp] theorem modGroup_journal (s : State) (n k : Nat) (f : Group → Group) : (modGroup s n k f).journal = s.journal := rfl
@[simp] theorem modGroup_completions (s : State) (n k : Nat) (f : Group → Group) : (modGroup s n k f).completions = s.completions := rfl
@[simp] theorem modGroup_preempts (s : State) (n k : Nat) (f : Group → Group) : (modGroup s n k f).preempts = s.preempts := rfl
@[simp] theorem modGroup_spillFaults (s : State) (n k : Nat) (f : Group → Group) : (modGroup s n k f).spillFaults = s.spillFaults := rfl
@[simp] theorem modGroup_preemptAgain (s : State) (n k : Nat) (f : Group → Group) : (modGroup s n k f).preemptAgain = s.preemptAgain := rfl
@[simp] theorem modGroup_saved (s : State) (n k : Nat) (f : Group → Group) : (modGroup s n k f).saved = s.saved := rfl
@[simp] theorem modGroup_ctxOp (s : State) (n k : Nat) (f : Group → Group) : (modGroup s n k f).ctxOp = s.ctxOp := rfl
@[simp] theorem modGroup_peers (s : State) (n k : Nat) (f : Group → Group) : (modGroup s n k f).peers = s.peers := rfl
@[simp] theorem modGroup_pods (s : State) (n k : Nat) (f : Group → Group) : (modGroup s n k f).pods = s.pods := rfl
@[simp] theorem modGroup_ports (s : State) (n k : Nat) (f : Group → Group) : (modGroup s n k f).ports = s.ports := rfl
@[simp] theorem modGroup_podAnswer (s : State) (n k : Nat) (f : Group → Group) : (modGroup s n k f).podAnswer = s.podAnswer := rfl
@[simp] theorem modGroup_answer (s : State) (n k : Nat) (f : Group → Group) : (modGroup s n k f).answer = s.answer := rfl
@[simp] theorem modGroup_msix (s : State) (n k : Nat) (f : Group → Group) : (modGroup s n k f).msix = s.msix := rfl
@[simp] theorem modGroup_irqSet (s : State) (n k : Nat) (f : Group → Group) : (modGroup s n k f).irqSet = s.irqSet := rfl
@[simp] theorem modGroup_irqSent (s : State) (n k : Nat) (f : Group → Group) : (modGroup s n k f).irqSent = s.irqSent := rfl
@[simp] theorem modGroup_cplSet (s : State) (n k : Nat) (f : Group → Group) : (modGroup s n k f).cplSet = s.cplSet := rfl
@[simp] theorem modGroup_bar2 (s : State) (n k : Nat) (f : Group → Group) : (modGroup s n k f).bar2 = s.bar2 := rfl
@[simp] theorem modGroup_welts (s : State) (n k : Nat) (f : Group → Group) : (modGroup s n k f).welts = s.welts := rfl
@[simp] theorem modGroup_tripped (s : State) (n k : Nat) (f : Group → Group) : (modGroup s n k f).tripped = s.tripped := rfl
@[simp] theorem modGroup_layersLost (s : State) (n k : Nat) (f : Group → Group) : (modGroup s n k f).layersLost = s.layersLost := rfl
@[simp] theorem modGroup_dtemp (s : State) (n k : Nat) (f : Group → Group) : (modGroup s n k f).dtemp = s.dtemp := rfl
@[simp] theorem modGroup_dutyLow (s : State) (n k : Nat) (f : Group → Group) : (modGroup s n k f).dutyLow = s.dutyLow := rfl
@[simp] theorem modGroup_scans (s : State) (n k : Nat) (f : Group → Group) : (modGroup s n k f).scans = s.scans := rfl
@[simp] theorem modGroup_scanned (s : State) (n k : Nat) (f : Group → Group) : (modGroup s n k f).scanned = s.scanned := rfl
@[simp] theorem modGroup_suspects (s : State) (n k : Nat) (f : Group → Group) : (modGroup s n k f).suspects = s.suspects := rfl
@[simp] theorem modGroup_deadPorts (s : State) (n k : Nat) (f : Group → Group) : (modGroup s n k f).deadPorts = s.deadPorts := rfl
@[simp] theorem modGroup_scrub (s : State) (n k : Nat) (f : Group → Group) : (modGroup s n k f).scrub = s.scrub := rfl
@[simp] theorem modGroup_scrubKeep (s : State) (n k : Nat) (f : Group → Group) : (modGroup s n k f).scrubKeep = s.scrubKeep := rfl
@[simp] theorem modGroup_linkResets (s : State) (n k : Nat) (f : Group → Group) : (modGroup s n k f).linkResets = s.linkResets := rfl
@[simp] theorem modGroup_connFirst (s : State) (n k : Nat) (f : Group → Group) : (modGroup s n k f).connFirst = s.connFirst := rfl
@[simp] theorem modGroup_connLast (s : State) (n k : Nat) (f : Group → Group) : (modGroup s n k f).connLast = s.connLast := rfl
@[simp] theorem modGroup_weltCounts (s : State) (n k : Nat) (f : Group → Group) : (modGroup s n k f).weltCounts = s.weltCounts := rfl
@[simp] theorem modGroup_weltReported (s : State) (n k : Nat) (f : Group → Group) : (modGroup s n k f).weltReported = s.weltReported := rfl
@[simp] theorem modGroup_expanders (s : State) (n k : Nat) (f : Group → Group) : (modGroup s n k f).expanders = s.expanders := rfl
@[simp] theorem modGroup_fwMeasure (s : State) (n k : Nat) (f : Group → Group) : (modGroup s n k f).fwMeasure = s.fwMeasure := rfl
@[simp] theorem modGroup_fwVersion (s : State) (n k : Nat) (f : Group → Group) : (modGroup s n k f).fwVersion = s.fwVersion := rfl
@[simp] theorem modGroup_fwSvn (s : State) (n k : Nat) (f : Group → Group) : (modGroup s n k f).fwSvn = s.fwSvn := rfl
@[simp] theorem modGroup_attCmd (s : State) (n k : Nat) (f : Group → Group) : (modGroup s n k f).attCmd = s.attCmd := rfl
@[simp] theorem modGroup_sensors (s : State) (n k : Nat) (f : Group → Group) : (modGroup s n k f).sensors = s.sensors := rfl
@[simp] theorem modGroup_governed (s : State) (n k : Nat) (f : Group → Group) : (modGroup s n k f).governed = s.governed := rfl
@[simp] theorem modGroup_powered (s : State) (n k : Nat) (f : Group → Group) : (modGroup s n k f).powered = s.powered := rfl
@[simp] theorem modGroup_running (s : State) (n k : Nat) (f : Group → Group) : (modGroup s n k f).running = s.running := rfl
@[simp] theorem modGroup_spares (s : State) (n k : Nat) (f : Group → Group) : (modGroup s n k f).spares = s.spares := rfl
@[simp] theorem modGroup_gone (s : State) (n k : Nat) (f : Group → Group) : (modGroup s n k f).gone = s.gone := rfl
@[simp] theorem modGroup_ventDead (s : State) (n k : Nat) (f : Group → Group) : (modGroup s n k f).ventDead = s.ventDead := rfl
@[simp] theorem modGroup_free (s : State) (n k : Nat) (f : Group → Group) : (modGroup s n k f).free = s.free := rfl
@[simp] theorem modGroup_issueQ (s : State) (n k : Nat) (f : Group → Group) : (modGroup s n k f).issueQ = s.issueQ := rfl
@[simp] theorem modGroup_inbox (s : State) (n k : Nat) (f : Group → Group) : (modGroup s n k f).inbox = s.inbox := rfl
@[simp] theorem modGroup_upsets (s : State) (n k : Nat) (f : Group → Group) : (modGroup s n k f).upsets = s.upsets := rfl
@[simp] theorem modGroup_phase (s : State) (n k : Nat) (f : Group → Group) : (modGroup s n k f).phase = s.phase := rfl
@[simp] theorem modGroup_cevNow (s : State) (n k : Nat) (f : Group → Group) : (modGroup s n k f).cevNow = s.cevNow := rfl
@[simp] theorem modGroup_cevClock (s : State) (n k : Nat) (f : Group → Group) : (modGroup s n k f).cevClock = s.cevClock := rfl

/-! ## `setReg32` -/

@[simp] theorem setReg32_clock (s : State) (o : Nat) (v : Word) : (setReg32 s o v).clock = s.clock := rfl
@[simp] theorem setReg32_cycles (s : State) (o : Nat) (v : Word) : (setReg32 s o v).cycles = s.cycles := rfl
@[simp] theorem setReg32_mem (s : State) (o : Nat) (v : Word) : (setReg32 s o v).mem = s.mem := rfl
@[simp] theorem setReg32_l2 (s : State) (o : Nat) (v : Word) : (setReg32 s o v).l2 = s.l2 := rfl
@[simp] theorem setReg32_quarantine (s : State) (o : Nat) (v : Word) : (setReg32 s o v).quarantine = s.quarantine := rfl
@[simp] theorem setReg32_cores (s : State) (o : Nat) (v : Word) : (setReg32 s o v).cores = s.cores := rfl
@[simp] theorem setReg32_tlb2 (s : State) (o : Nat) (v : Word) : (setReg32 s o v).tlb2 = s.tlb2 := rfl
@[simp] theorem setReg32_pages (s : State) (o : Nat) (v : Word) : (setReg32 s o v).pages = s.pages := rfl
@[simp] theorem setReg32_nextTag (s : State) (o : Nat) (v : Word) : (setReg32 s o v).nextTag = s.nextTag := rfl
@[simp] theorem setReg32_tlbi (s : State) (o : Nat) (v : Word) : (setReg32 s o v).tlbi = s.tlbi := rfl
@[simp] theorem setReg32_migration (s : State) (o : Nat) (v : Word) : (setReg32 s o v).migration = s.migration := rfl
@[simp] theorem setReg32_killing (s : State) (o : Nat) (v : Word) : (setReg32 s o v).killing = s.killing := rfl
@[simp] theorem setReg32_queues (s : State) (o : Nat) (v : Word) : (setReg32 s o v).queues = s.queues := rfl
@[simp] theorem setReg32_queueBase (s : State) (o : Nat) (v : Word) : (setReg32 s o v).queueBase = s.queueBase := rfl
@[simp] theorem setReg32_ctxBase (s : State) (o : Nat) (v : Word) : (setReg32 s o v).ctxBase = s.ctxBase := rfl
@[simp] theorem setReg32_ctxSeen (s : State) (o : Nat) (v : Word) : (setReg32 s o v).ctxSeen = s.ctxSeen := rfl
@[simp] theorem setReg32_launches (s : State) (o : Nat) (v : Word) : (setReg32 s o v).launches = s.launches := rfl
@[simp] theorem setReg32_overwritten (s : State) (o : Nat) (v : Word) : (setReg32 s o v).overwritten = s.overwritten := rfl
@[simp] theorem setReg32_tokens (s : State) (o : Nat) (v : Word) : (setReg32 s o v).tokens = s.tokens := rfl
@[simp] theorem setReg32_levels (s : State) (o : Nat) (v : Word) : (setReg32 s o v).levels = s.levels := rfl
@[simp] theorem setReg32_spent (s : State) (o : Nat) (v : Word) : (setReg32 s o v).spent = s.spent := rfl
@[simp] theorem setReg32_journal (s : State) (o : Nat) (v : Word) : (setReg32 s o v).journal = s.journal := rfl
@[simp] theorem setReg32_completions (s : State) (o : Nat) (v : Word) : (setReg32 s o v).completions = s.completions := rfl
@[simp] theorem setReg32_preempts (s : State) (o : Nat) (v : Word) : (setReg32 s o v).preempts = s.preempts := rfl
@[simp] theorem setReg32_spillFaults (s : State) (o : Nat) (v : Word) : (setReg32 s o v).spillFaults = s.spillFaults := rfl
@[simp] theorem setReg32_preemptAgain (s : State) (o : Nat) (v : Word) : (setReg32 s o v).preemptAgain = s.preemptAgain := rfl
@[simp] theorem setReg32_saved (s : State) (o : Nat) (v : Word) : (setReg32 s o v).saved = s.saved := rfl
@[simp] theorem setReg32_ctxOp (s : State) (o : Nat) (v : Word) : (setReg32 s o v).ctxOp = s.ctxOp := rfl
@[simp] theorem setReg32_peers (s : State) (o : Nat) (v : Word) : (setReg32 s o v).peers = s.peers := rfl
@[simp] theorem setReg32_pods (s : State) (o : Nat) (v : Word) : (setReg32 s o v).pods = s.pods := rfl
@[simp] theorem setReg32_ports (s : State) (o : Nat) (v : Word) : (setReg32 s o v).ports = s.ports := rfl
@[simp] theorem setReg32_podAnswer (s : State) (o : Nat) (v : Word) : (setReg32 s o v).podAnswer = s.podAnswer := rfl
@[simp] theorem setReg32_answer (s : State) (o : Nat) (v : Word) : (setReg32 s o v).answer = s.answer := rfl
@[simp] theorem setReg32_msix (s : State) (o : Nat) (v : Word) : (setReg32 s o v).msix = s.msix := rfl
@[simp] theorem setReg32_irqSet (s : State) (o : Nat) (v : Word) : (setReg32 s o v).irqSet = s.irqSet := rfl
@[simp] theorem setReg32_irqSent (s : State) (o : Nat) (v : Word) : (setReg32 s o v).irqSent = s.irqSent := rfl
@[simp] theorem setReg32_cplSet (s : State) (o : Nat) (v : Word) : (setReg32 s o v).cplSet = s.cplSet := rfl
@[simp] theorem setReg32_bar2 (s : State) (o : Nat) (v : Word) : (setReg32 s o v).bar2 = s.bar2 := rfl
@[simp] theorem setReg32_welts (s : State) (o : Nat) (v : Word) : (setReg32 s o v).welts = s.welts := rfl
@[simp] theorem setReg32_tripped (s : State) (o : Nat) (v : Word) : (setReg32 s o v).tripped = s.tripped := rfl
@[simp] theorem setReg32_layersLost (s : State) (o : Nat) (v : Word) : (setReg32 s o v).layersLost = s.layersLost := rfl
@[simp] theorem setReg32_dtemp (s : State) (o : Nat) (v : Word) : (setReg32 s o v).dtemp = s.dtemp := rfl
@[simp] theorem setReg32_dutyLow (s : State) (o : Nat) (v : Word) : (setReg32 s o v).dutyLow = s.dutyLow := rfl
@[simp] theorem setReg32_scans (s : State) (o : Nat) (v : Word) : (setReg32 s o v).scans = s.scans := rfl
@[simp] theorem setReg32_scanned (s : State) (o : Nat) (v : Word) : (setReg32 s o v).scanned = s.scanned := rfl
@[simp] theorem setReg32_suspects (s : State) (o : Nat) (v : Word) : (setReg32 s o v).suspects = s.suspects := rfl
@[simp] theorem setReg32_deadPorts (s : State) (o : Nat) (v : Word) : (setReg32 s o v).deadPorts = s.deadPorts := rfl
@[simp] theorem setReg32_scrub (s : State) (o : Nat) (v : Word) : (setReg32 s o v).scrub = s.scrub := rfl
@[simp] theorem setReg32_scrubKeep (s : State) (o : Nat) (v : Word) : (setReg32 s o v).scrubKeep = s.scrubKeep := rfl
@[simp] theorem setReg32_linkResets (s : State) (o : Nat) (v : Word) : (setReg32 s o v).linkResets = s.linkResets := rfl
@[simp] theorem setReg32_connFirst (s : State) (o : Nat) (v : Word) : (setReg32 s o v).connFirst = s.connFirst := rfl
@[simp] theorem setReg32_connLast (s : State) (o : Nat) (v : Word) : (setReg32 s o v).connLast = s.connLast := rfl
@[simp] theorem setReg32_weltCounts (s : State) (o : Nat) (v : Word) : (setReg32 s o v).weltCounts = s.weltCounts := rfl
@[simp] theorem setReg32_weltReported (s : State) (o : Nat) (v : Word) : (setReg32 s o v).weltReported = s.weltReported := rfl
@[simp] theorem setReg32_expanders (s : State) (o : Nat) (v : Word) : (setReg32 s o v).expanders = s.expanders := rfl
@[simp] theorem setReg32_fwMeasure (s : State) (o : Nat) (v : Word) : (setReg32 s o v).fwMeasure = s.fwMeasure := rfl
@[simp] theorem setReg32_fwVersion (s : State) (o : Nat) (v : Word) : (setReg32 s o v).fwVersion = s.fwVersion := rfl
@[simp] theorem setReg32_fwSvn (s : State) (o : Nat) (v : Word) : (setReg32 s o v).fwSvn = s.fwSvn := rfl
@[simp] theorem setReg32_attCmd (s : State) (o : Nat) (v : Word) : (setReg32 s o v).attCmd = s.attCmd := rfl
@[simp] theorem setReg32_sensors (s : State) (o : Nat) (v : Word) : (setReg32 s o v).sensors = s.sensors := rfl
@[simp] theorem setReg32_governed (s : State) (o : Nat) (v : Word) : (setReg32 s o v).governed = s.governed := rfl
@[simp] theorem setReg32_powered (s : State) (o : Nat) (v : Word) : (setReg32 s o v).powered = s.powered := rfl
@[simp] theorem setReg32_running (s : State) (o : Nat) (v : Word) : (setReg32 s o v).running = s.running := rfl
@[simp] theorem setReg32_spares (s : State) (o : Nat) (v : Word) : (setReg32 s o v).spares = s.spares := rfl
@[simp] theorem setReg32_gone (s : State) (o : Nat) (v : Word) : (setReg32 s o v).gone = s.gone := rfl
@[simp] theorem setReg32_ventDead (s : State) (o : Nat) (v : Word) : (setReg32 s o v).ventDead = s.ventDead := rfl
@[simp] theorem setReg32_free (s : State) (o : Nat) (v : Word) : (setReg32 s o v).free = s.free := rfl
@[simp] theorem setReg32_issueQ (s : State) (o : Nat) (v : Word) : (setReg32 s o v).issueQ = s.issueQ := rfl
@[simp] theorem setReg32_inbox (s : State) (o : Nat) (v : Word) : (setReg32 s o v).inbox = s.inbox := rfl
@[simp] theorem setReg32_upsets (s : State) (o : Nat) (v : Word) : (setReg32 s o v).upsets = s.upsets := rfl
@[simp] theorem setReg32_phase (s : State) (o : Nat) (v : Word) : (setReg32 s o v).phase = s.phase := rfl
@[simp] theorem setReg32_cevNow (s : State) (o : Nat) (v : Word) : (setReg32 s o v).cevNow = s.cevNow := rfl
@[simp] theorem setReg32_cevClock (s : State) (o : Nat) (v : Word) : (setReg32 s o v).cevClock = s.cevClock := rfl

/-! ## `setReg64` -/

@[simp] theorem setReg64_clock (s : State) (o : Nat) (v : BitVec 64) : (setReg64 s o v).clock = s.clock := rfl
@[simp] theorem setReg64_cycles (s : State) (o : Nat) (v : BitVec 64) : (setReg64 s o v).cycles = s.cycles := rfl
@[simp] theorem setReg64_mem (s : State) (o : Nat) (v : BitVec 64) : (setReg64 s o v).mem = s.mem := rfl
@[simp] theorem setReg64_l2 (s : State) (o : Nat) (v : BitVec 64) : (setReg64 s o v).l2 = s.l2 := rfl
@[simp] theorem setReg64_quarantine (s : State) (o : Nat) (v : BitVec 64) : (setReg64 s o v).quarantine = s.quarantine := rfl
@[simp] theorem setReg64_cores (s : State) (o : Nat) (v : BitVec 64) : (setReg64 s o v).cores = s.cores := rfl
@[simp] theorem setReg64_tlb2 (s : State) (o : Nat) (v : BitVec 64) : (setReg64 s o v).tlb2 = s.tlb2 := rfl
@[simp] theorem setReg64_pages (s : State) (o : Nat) (v : BitVec 64) : (setReg64 s o v).pages = s.pages := rfl
@[simp] theorem setReg64_nextTag (s : State) (o : Nat) (v : BitVec 64) : (setReg64 s o v).nextTag = s.nextTag := rfl
@[simp] theorem setReg64_tlbi (s : State) (o : Nat) (v : BitVec 64) : (setReg64 s o v).tlbi = s.tlbi := rfl
@[simp] theorem setReg64_migration (s : State) (o : Nat) (v : BitVec 64) : (setReg64 s o v).migration = s.migration := rfl
@[simp] theorem setReg64_killing (s : State) (o : Nat) (v : BitVec 64) : (setReg64 s o v).killing = s.killing := rfl
@[simp] theorem setReg64_queues (s : State) (o : Nat) (v : BitVec 64) : (setReg64 s o v).queues = s.queues := rfl
@[simp] theorem setReg64_queueBase (s : State) (o : Nat) (v : BitVec 64) : (setReg64 s o v).queueBase = s.queueBase := rfl
@[simp] theorem setReg64_ctxBase (s : State) (o : Nat) (v : BitVec 64) : (setReg64 s o v).ctxBase = s.ctxBase := rfl
@[simp] theorem setReg64_ctxSeen (s : State) (o : Nat) (v : BitVec 64) : (setReg64 s o v).ctxSeen = s.ctxSeen := rfl
@[simp] theorem setReg64_launches (s : State) (o : Nat) (v : BitVec 64) : (setReg64 s o v).launches = s.launches := rfl
@[simp] theorem setReg64_overwritten (s : State) (o : Nat) (v : BitVec 64) : (setReg64 s o v).overwritten = s.overwritten := rfl
@[simp] theorem setReg64_tokens (s : State) (o : Nat) (v : BitVec 64) : (setReg64 s o v).tokens = s.tokens := rfl
@[simp] theorem setReg64_levels (s : State) (o : Nat) (v : BitVec 64) : (setReg64 s o v).levels = s.levels := rfl
@[simp] theorem setReg64_spent (s : State) (o : Nat) (v : BitVec 64) : (setReg64 s o v).spent = s.spent := rfl
@[simp] theorem setReg64_journal (s : State) (o : Nat) (v : BitVec 64) : (setReg64 s o v).journal = s.journal := rfl
@[simp] theorem setReg64_completions (s : State) (o : Nat) (v : BitVec 64) : (setReg64 s o v).completions = s.completions := rfl
@[simp] theorem setReg64_preempts (s : State) (o : Nat) (v : BitVec 64) : (setReg64 s o v).preempts = s.preempts := rfl
@[simp] theorem setReg64_spillFaults (s : State) (o : Nat) (v : BitVec 64) : (setReg64 s o v).spillFaults = s.spillFaults := rfl
@[simp] theorem setReg64_preemptAgain (s : State) (o : Nat) (v : BitVec 64) : (setReg64 s o v).preemptAgain = s.preemptAgain := rfl
@[simp] theorem setReg64_saved (s : State) (o : Nat) (v : BitVec 64) : (setReg64 s o v).saved = s.saved := rfl
@[simp] theorem setReg64_ctxOp (s : State) (o : Nat) (v : BitVec 64) : (setReg64 s o v).ctxOp = s.ctxOp := rfl
@[simp] theorem setReg64_peers (s : State) (o : Nat) (v : BitVec 64) : (setReg64 s o v).peers = s.peers := rfl
@[simp] theorem setReg64_pods (s : State) (o : Nat) (v : BitVec 64) : (setReg64 s o v).pods = s.pods := rfl
@[simp] theorem setReg64_ports (s : State) (o : Nat) (v : BitVec 64) : (setReg64 s o v).ports = s.ports := rfl
@[simp] theorem setReg64_podAnswer (s : State) (o : Nat) (v : BitVec 64) : (setReg64 s o v).podAnswer = s.podAnswer := rfl
@[simp] theorem setReg64_answer (s : State) (o : Nat) (v : BitVec 64) : (setReg64 s o v).answer = s.answer := rfl
@[simp] theorem setReg64_msix (s : State) (o : Nat) (v : BitVec 64) : (setReg64 s o v).msix = s.msix := rfl
@[simp] theorem setReg64_irqSet (s : State) (o : Nat) (v : BitVec 64) : (setReg64 s o v).irqSet = s.irqSet := rfl
@[simp] theorem setReg64_irqSent (s : State) (o : Nat) (v : BitVec 64) : (setReg64 s o v).irqSent = s.irqSent := rfl
@[simp] theorem setReg64_cplSet (s : State) (o : Nat) (v : BitVec 64) : (setReg64 s o v).cplSet = s.cplSet := rfl
@[simp] theorem setReg64_bar2 (s : State) (o : Nat) (v : BitVec 64) : (setReg64 s o v).bar2 = s.bar2 := rfl
@[simp] theorem setReg64_welts (s : State) (o : Nat) (v : BitVec 64) : (setReg64 s o v).welts = s.welts := rfl
@[simp] theorem setReg64_tripped (s : State) (o : Nat) (v : BitVec 64) : (setReg64 s o v).tripped = s.tripped := rfl
@[simp] theorem setReg64_layersLost (s : State) (o : Nat) (v : BitVec 64) : (setReg64 s o v).layersLost = s.layersLost := rfl
@[simp] theorem setReg64_dtemp (s : State) (o : Nat) (v : BitVec 64) : (setReg64 s o v).dtemp = s.dtemp := rfl
@[simp] theorem setReg64_dutyLow (s : State) (o : Nat) (v : BitVec 64) : (setReg64 s o v).dutyLow = s.dutyLow := rfl
@[simp] theorem setReg64_scans (s : State) (o : Nat) (v : BitVec 64) : (setReg64 s o v).scans = s.scans := rfl
@[simp] theorem setReg64_scanned (s : State) (o : Nat) (v : BitVec 64) : (setReg64 s o v).scanned = s.scanned := rfl
@[simp] theorem setReg64_suspects (s : State) (o : Nat) (v : BitVec 64) : (setReg64 s o v).suspects = s.suspects := rfl
@[simp] theorem setReg64_deadPorts (s : State) (o : Nat) (v : BitVec 64) : (setReg64 s o v).deadPorts = s.deadPorts := rfl
@[simp] theorem setReg64_scrub (s : State) (o : Nat) (v : BitVec 64) : (setReg64 s o v).scrub = s.scrub := rfl
@[simp] theorem setReg64_scrubKeep (s : State) (o : Nat) (v : BitVec 64) : (setReg64 s o v).scrubKeep = s.scrubKeep := rfl
@[simp] theorem setReg64_linkResets (s : State) (o : Nat) (v : BitVec 64) : (setReg64 s o v).linkResets = s.linkResets := rfl
@[simp] theorem setReg64_connFirst (s : State) (o : Nat) (v : BitVec 64) : (setReg64 s o v).connFirst = s.connFirst := rfl
@[simp] theorem setReg64_connLast (s : State) (o : Nat) (v : BitVec 64) : (setReg64 s o v).connLast = s.connLast := rfl
@[simp] theorem setReg64_weltCounts (s : State) (o : Nat) (v : BitVec 64) : (setReg64 s o v).weltCounts = s.weltCounts := rfl
@[simp] theorem setReg64_weltReported (s : State) (o : Nat) (v : BitVec 64) : (setReg64 s o v).weltReported = s.weltReported := rfl
@[simp] theorem setReg64_expanders (s : State) (o : Nat) (v : BitVec 64) : (setReg64 s o v).expanders = s.expanders := rfl
@[simp] theorem setReg64_fwMeasure (s : State) (o : Nat) (v : BitVec 64) : (setReg64 s o v).fwMeasure = s.fwMeasure := rfl
@[simp] theorem setReg64_fwVersion (s : State) (o : Nat) (v : BitVec 64) : (setReg64 s o v).fwVersion = s.fwVersion := rfl
@[simp] theorem setReg64_fwSvn (s : State) (o : Nat) (v : BitVec 64) : (setReg64 s o v).fwSvn = s.fwSvn := rfl
@[simp] theorem setReg64_attCmd (s : State) (o : Nat) (v : BitVec 64) : (setReg64 s o v).attCmd = s.attCmd := rfl
@[simp] theorem setReg64_sensors (s : State) (o : Nat) (v : BitVec 64) : (setReg64 s o v).sensors = s.sensors := rfl
@[simp] theorem setReg64_governed (s : State) (o : Nat) (v : BitVec 64) : (setReg64 s o v).governed = s.governed := rfl
@[simp] theorem setReg64_powered (s : State) (o : Nat) (v : BitVec 64) : (setReg64 s o v).powered = s.powered := rfl
@[simp] theorem setReg64_running (s : State) (o : Nat) (v : BitVec 64) : (setReg64 s o v).running = s.running := rfl
@[simp] theorem setReg64_spares (s : State) (o : Nat) (v : BitVec 64) : (setReg64 s o v).spares = s.spares := rfl
@[simp] theorem setReg64_gone (s : State) (o : Nat) (v : BitVec 64) : (setReg64 s o v).gone = s.gone := rfl
@[simp] theorem setReg64_ventDead (s : State) (o : Nat) (v : BitVec 64) : (setReg64 s o v).ventDead = s.ventDead := rfl
@[simp] theorem setReg64_free (s : State) (o : Nat) (v : BitVec 64) : (setReg64 s o v).free = s.free := rfl
@[simp] theorem setReg64_issueQ (s : State) (o : Nat) (v : BitVec 64) : (setReg64 s o v).issueQ = s.issueQ := rfl
@[simp] theorem setReg64_inbox (s : State) (o : Nat) (v : BitVec 64) : (setReg64 s o v).inbox = s.inbox := rfl
@[simp] theorem setReg64_upsets (s : State) (o : Nat) (v : BitVec 64) : (setReg64 s o v).upsets = s.upsets := rfl
@[simp] theorem setReg64_phase (s : State) (o : Nat) (v : BitVec 64) : (setReg64 s o v).phase = s.phase := rfl
@[simp] theorem setReg64_cevNow (s : State) (o : Nat) (v : BitVec 64) : (setReg64 s o v).cevNow = s.cevNow := rfl
@[simp] theorem setReg64_cevClock (s : State) (o : Nat) (v : BitVec 64) : (setReg64 s o v).cevClock = s.cevClock := rfl

/-! ## `poke` -/

@[simp] theorem poke_clock (s : State) (a : Nat) (bs : List Byte) : (poke s a bs).clock = s.clock := rfl
@[simp] theorem poke_cycles (s : State) (a : Nat) (bs : List Byte) : (poke s a bs).cycles = s.cycles := rfl
@[simp] theorem poke_dcb (s : State) (a : Nat) (bs : List Byte) : (poke s a bs).dcb = s.dcb := rfl
@[simp] theorem poke_l2 (s : State) (a : Nat) (bs : List Byte) : (poke s a bs).l2 = s.l2 := rfl
@[simp] theorem poke_quarantine (s : State) (a : Nat) (bs : List Byte) : (poke s a bs).quarantine = s.quarantine := rfl
@[simp] theorem poke_cores (s : State) (a : Nat) (bs : List Byte) : (poke s a bs).cores = s.cores := rfl
@[simp] theorem poke_tlb2 (s : State) (a : Nat) (bs : List Byte) : (poke s a bs).tlb2 = s.tlb2 := rfl
@[simp] theorem poke_pages (s : State) (a : Nat) (bs : List Byte) : (poke s a bs).pages = s.pages := rfl
@[simp] theorem poke_nextTag (s : State) (a : Nat) (bs : List Byte) : (poke s a bs).nextTag = s.nextTag := rfl
@[simp] theorem poke_tlbi (s : State) (a : Nat) (bs : List Byte) : (poke s a bs).tlbi = s.tlbi := rfl
@[simp] theorem poke_migration (s : State) (a : Nat) (bs : List Byte) : (poke s a bs).migration = s.migration := rfl
@[simp] theorem poke_killing (s : State) (a : Nat) (bs : List Byte) : (poke s a bs).killing = s.killing := rfl
@[simp] theorem poke_queues (s : State) (a : Nat) (bs : List Byte) : (poke s a bs).queues = s.queues := rfl
@[simp] theorem poke_queueBase (s : State) (a : Nat) (bs : List Byte) : (poke s a bs).queueBase = s.queueBase := rfl
@[simp] theorem poke_ctxBase (s : State) (a : Nat) (bs : List Byte) : (poke s a bs).ctxBase = s.ctxBase := rfl
@[simp] theorem poke_ctxSeen (s : State) (a : Nat) (bs : List Byte) : (poke s a bs).ctxSeen = s.ctxSeen := rfl
@[simp] theorem poke_launches (s : State) (a : Nat) (bs : List Byte) : (poke s a bs).launches = s.launches := rfl
@[simp] theorem poke_overwritten (s : State) (a : Nat) (bs : List Byte) : (poke s a bs).overwritten = s.overwritten := rfl
@[simp] theorem poke_tokens (s : State) (a : Nat) (bs : List Byte) : (poke s a bs).tokens = s.tokens := rfl
@[simp] theorem poke_levels (s : State) (a : Nat) (bs : List Byte) : (poke s a bs).levels = s.levels := rfl
@[simp] theorem poke_spent (s : State) (a : Nat) (bs : List Byte) : (poke s a bs).spent = s.spent := rfl
@[simp] theorem poke_journal (s : State) (a : Nat) (bs : List Byte) : (poke s a bs).journal = s.journal := rfl
@[simp] theorem poke_completions (s : State) (a : Nat) (bs : List Byte) : (poke s a bs).completions = s.completions := rfl
@[simp] theorem poke_preempts (s : State) (a : Nat) (bs : List Byte) : (poke s a bs).preempts = s.preempts := rfl
@[simp] theorem poke_spillFaults (s : State) (a : Nat) (bs : List Byte) : (poke s a bs).spillFaults = s.spillFaults := rfl
@[simp] theorem poke_preemptAgain (s : State) (a : Nat) (bs : List Byte) : (poke s a bs).preemptAgain = s.preemptAgain := rfl
@[simp] theorem poke_saved (s : State) (a : Nat) (bs : List Byte) : (poke s a bs).saved = s.saved := rfl
@[simp] theorem poke_ctxOp (s : State) (a : Nat) (bs : List Byte) : (poke s a bs).ctxOp = s.ctxOp := rfl
@[simp] theorem poke_peers (s : State) (a : Nat) (bs : List Byte) : (poke s a bs).peers = s.peers := rfl
@[simp] theorem poke_pods (s : State) (a : Nat) (bs : List Byte) : (poke s a bs).pods = s.pods := rfl
@[simp] theorem poke_ports (s : State) (a : Nat) (bs : List Byte) : (poke s a bs).ports = s.ports := rfl
@[simp] theorem poke_podAnswer (s : State) (a : Nat) (bs : List Byte) : (poke s a bs).podAnswer = s.podAnswer := rfl
@[simp] theorem poke_answer (s : State) (a : Nat) (bs : List Byte) : (poke s a bs).answer = s.answer := rfl
@[simp] theorem poke_msix (s : State) (a : Nat) (bs : List Byte) : (poke s a bs).msix = s.msix := rfl
@[simp] theorem poke_irqSet (s : State) (a : Nat) (bs : List Byte) : (poke s a bs).irqSet = s.irqSet := rfl
@[simp] theorem poke_irqSent (s : State) (a : Nat) (bs : List Byte) : (poke s a bs).irqSent = s.irqSent := rfl
@[simp] theorem poke_cplSet (s : State) (a : Nat) (bs : List Byte) : (poke s a bs).cplSet = s.cplSet := rfl
@[simp] theorem poke_bar2 (s : State) (a : Nat) (bs : List Byte) : (poke s a bs).bar2 = s.bar2 := rfl
@[simp] theorem poke_welts (s : State) (a : Nat) (bs : List Byte) : (poke s a bs).welts = s.welts := rfl
@[simp] theorem poke_tripped (s : State) (a : Nat) (bs : List Byte) : (poke s a bs).tripped = s.tripped := rfl
@[simp] theorem poke_layersLost (s : State) (a : Nat) (bs : List Byte) : (poke s a bs).layersLost = s.layersLost := rfl
@[simp] theorem poke_dtemp (s : State) (a : Nat) (bs : List Byte) : (poke s a bs).dtemp = s.dtemp := rfl
@[simp] theorem poke_dutyLow (s : State) (a : Nat) (bs : List Byte) : (poke s a bs).dutyLow = s.dutyLow := rfl
@[simp] theorem poke_scans (s : State) (a : Nat) (bs : List Byte) : (poke s a bs).scans = s.scans := rfl
@[simp] theorem poke_scanned (s : State) (a : Nat) (bs : List Byte) : (poke s a bs).scanned = s.scanned := rfl
@[simp] theorem poke_suspects (s : State) (a : Nat) (bs : List Byte) : (poke s a bs).suspects = s.suspects := rfl
@[simp] theorem poke_deadPorts (s : State) (a : Nat) (bs : List Byte) : (poke s a bs).deadPorts = s.deadPorts := rfl
@[simp] theorem poke_scrub (s : State) (a : Nat) (bs : List Byte) : (poke s a bs).scrub = s.scrub := rfl
@[simp] theorem poke_scrubKeep (s : State) (a : Nat) (bs : List Byte) : (poke s a bs).scrubKeep = s.scrubKeep := rfl
@[simp] theorem poke_linkResets (s : State) (a : Nat) (bs : List Byte) : (poke s a bs).linkResets = s.linkResets := rfl
@[simp] theorem poke_connFirst (s : State) (a : Nat) (bs : List Byte) : (poke s a bs).connFirst = s.connFirst := rfl
@[simp] theorem poke_connLast (s : State) (a : Nat) (bs : List Byte) : (poke s a bs).connLast = s.connLast := rfl
@[simp] theorem poke_weltCounts (s : State) (a : Nat) (bs : List Byte) : (poke s a bs).weltCounts = s.weltCounts := rfl
@[simp] theorem poke_weltReported (s : State) (a : Nat) (bs : List Byte) : (poke s a bs).weltReported = s.weltReported := rfl
@[simp] theorem poke_expanders (s : State) (a : Nat) (bs : List Byte) : (poke s a bs).expanders = s.expanders := rfl
@[simp] theorem poke_fwMeasure (s : State) (a : Nat) (bs : List Byte) : (poke s a bs).fwMeasure = s.fwMeasure := rfl
@[simp] theorem poke_fwVersion (s : State) (a : Nat) (bs : List Byte) : (poke s a bs).fwVersion = s.fwVersion := rfl
@[simp] theorem poke_fwSvn (s : State) (a : Nat) (bs : List Byte) : (poke s a bs).fwSvn = s.fwSvn := rfl
@[simp] theorem poke_attCmd (s : State) (a : Nat) (bs : List Byte) : (poke s a bs).attCmd = s.attCmd := rfl
@[simp] theorem poke_sensors (s : State) (a : Nat) (bs : List Byte) : (poke s a bs).sensors = s.sensors := rfl
@[simp] theorem poke_governed (s : State) (a : Nat) (bs : List Byte) : (poke s a bs).governed = s.governed := rfl
@[simp] theorem poke_powered (s : State) (a : Nat) (bs : List Byte) : (poke s a bs).powered = s.powered := rfl
@[simp] theorem poke_running (s : State) (a : Nat) (bs : List Byte) : (poke s a bs).running = s.running := rfl
@[simp] theorem poke_spares (s : State) (a : Nat) (bs : List Byte) : (poke s a bs).spares = s.spares := rfl
@[simp] theorem poke_gone (s : State) (a : Nat) (bs : List Byte) : (poke s a bs).gone = s.gone := rfl
@[simp] theorem poke_ventDead (s : State) (a : Nat) (bs : List Byte) : (poke s a bs).ventDead = s.ventDead := rfl
@[simp] theorem poke_free (s : State) (a : Nat) (bs : List Byte) : (poke s a bs).free = s.free := rfl
@[simp] theorem poke_issueQ (s : State) (a : Nat) (bs : List Byte) : (poke s a bs).issueQ = s.issueQ := rfl
@[simp] theorem poke_inbox (s : State) (a : Nat) (bs : List Byte) : (poke s a bs).inbox = s.inbox := rfl
@[simp] theorem poke_upsets (s : State) (a : Nat) (bs : List Byte) : (poke s a bs).upsets = s.upsets := rfl
@[simp] theorem poke_phase (s : State) (a : Nat) (bs : List Byte) : (poke s a bs).phase = s.phase := rfl
@[simp] theorem poke_cevNow (s : State) (a : Nat) (bs : List Byte) : (poke s a bs).cevNow = s.cevNow := rfl
@[simp] theorem poke_cevClock (s : State) (a : Nat) (bs : List Byte) : (poke s a bs).cevClock = s.cevClock := rfl

/-! ## Reads after updates -/

@[simp] theorem getCore_setCore_same (s : State) (n : Nat) (c : Core) : getCore (setCore s n c) n = c := by
  simp [getCore, setCore]

@[simp] theorem getCore_setCore_ne (s : State) (n m : Nat) (c : Core) (h : m ≠ n) :
    getCore (setCore s n c) m = getCore s m := by
  simp [getCore, setCore, h]

@[simp] theorem getCore_modCore_same (s : State) (n : Nat) (f : Core → Core) :
    getCore (modCore s n f) n = f (getCore s n) := by
  simp [modCore]

@[simp] theorem getCore_modCore_ne (s : State) (n m : Nat) (f : Core → Core) (h : m ≠ n) :
    getCore (modCore s n f) m = getCore s m := by
  simp [modCore, h]

theorem getCore_modGang_same (s : State) (n k : Nat) (f : Gang → Gang) :
    getCore (modGang s n k f) n = { getCore s n with gangs := mapModify (getCore s n).gangs k f } := by
  simp [modGang]

@[simp] theorem getCore_modGang_ne (s : State) (n k m : Nat) (f : Gang → Gang) (h : m ≠ n) :
    getCore (modGang s n k f) m = getCore s m := by
  simp [modGang, h]

theorem getCore_modGroup_same (s : State) (n k : Nat) (f : Group → Group) :
    getCore (modGroup s n k f) n = { getCore s n with groups := mapModify (getCore s n).groups k f } := by
  simp [modGroup]

@[simp] theorem getCore_modGroup_ne (s : State) (n k m : Nat) (f : Group → Group) (h : m ≠ n) :
    getCore (modGroup s n k f) m = getCore s m := by
  simp [modGroup, h]

@[simp] theorem getGang_modGang_same (s : State) (n k : Nat) (f : Gang → Gang) :
    getGang (modGang s n k f) n k = (getGang s n k).map f := by
  simp [getGang, getCore_modGang_same]

@[simp] theorem getGang_modGang_ne (s : State) (n k n' k' : Nat) (f : Gang → Gang) (h : (n', k') ≠ (n, k)) :
    getGang (modGang s n k f) n' k' = getGang s n' k' := by
  by_cases hn : n' = n
  · subst hn
    have hk : k' ≠ k := fun hk => h (by rw [hk])
    simp [getGang, getCore_modGang_same, hk]
  · simp [getGang, hn]

@[simp] theorem getGroup_modGang (s : State) (n k n' k' : Nat) (f : Gang → Gang) :
    getGroup (modGang s n k f) n' k' = getGroup s n' k' := by
  by_cases hn : n' = n
  · subst hn
    simp [getGroup, getCore_modGang_same]
  · simp [getGroup, hn]

@[simp] theorem getGroup_modGroup_same (s : State) (n k : Nat) (f : Group → Group) :
    getGroup (modGroup s n k f) n k = (getGroup s n k).map f := by
  simp [getGroup, getCore_modGroup_same]

@[simp] theorem getGroup_modGroup_ne (s : State) (n k n' k' : Nat) (f : Group → Group) (h : (n', k') ≠ (n, k)) :
    getGroup (modGroup s n k f) n' k' = getGroup s n' k' := by
  by_cases hn : n' = n
  · subst hn
    have hk : k' ≠ k := fun hk => h (by rw [hk])
    simp [getGroup, getCore_modGroup_same, hk]
  · simp [getGroup, hn]

@[simp] theorem getGang_modGroup (s : State) (n k n' k' : Nat) (f : Group → Group) :
    getGang (modGroup s n k f) n' k' = getGang s n' k' := by
  by_cases hn : n' = n
  · subst hn
    simp [getGang, getCore_modGroup_same]
  · simp [getGang, hn]

@[simp] theorem getCore_setReg32 (s : State) (o n : Nat) (v : Word) : getCore (setReg32 s o v) n = getCore s n := rfl

@[simp] theorem getCore_poke (s : State) (a n : Nat) (bs : List Byte) : getCore (poke s a bs) n = getCore s n := rfl

@[simp] theorem reg32_setReg32_same (s : State) (o : Nat) (v : Word) : reg32 (setReg32 s o v) o = v := by
  simp [reg32, setReg32]

@[simp] theorem reg32_setReg32_ne (s : State) (o p : Nat) (v : Word) (h : p / 4 ≠ o / 4) :
    reg32 (setReg32 s o v) p = reg32 s p := by
  simp [reg32, setReg32, h]

/-! ## Memory keeps its canonical form -/

theorem poke_wf (s : State) (a : Nat) (bs : List Byte) (h : Memory.wf s.mem = true) :
    Memory.wf (poke s a bs).mem = true := memWriteBytes_wf _ _ _ h

theorem poke_outside (s : State) (a x : Nat) (bs : List Byte) (h : x < a ∨ a + bs.length ≤ x) :
    memRead (poke s a bs).mem x = memRead s.mem x := memRead_memWriteBytes_outside _ _ _ _ h

theorem reset_mem_wf : Memory.wf State.reset.mem = true := rfl

end Sys2Proof.Machine
end

