-- ==== Sys2Proof/Laws/Ops.lean ====
section
/-! SUPPORT. What the shared operations can do: registers, the issue of an instruction, completion, and the lanes of a
mask. -/

namespace Sys2Proof.Machine

/-! ## Lanes -/

theorem mem_lanesOf (m : Mask) (h : Nat) : h ∈ lanesOf m ↔ h < 64 ∧ laneIn m h = true := by
  simp [lanesOf]

theorem laneIn_lt (m : Mask) (h : Nat) (hl : laneIn m h = true) : h < 64 := by
  unfold laneIn at hl
  exact BitVec.lt_of_getLsbD hl

theorem lanesOf_nodup (m : Mask) : (lanesOf m).Nodup :=
  List.Nodup.sublist List.filter_sublist List.nodup_range

theorem laneIn_or (a b : Mask) (h : Nat) : laneIn (a ||| b) h = (laneIn a h || laneIn b h) := by
  simp [laneIn]

theorem laneIn_and (a b : Mask) (h : Nat) : laneIn (a &&& b) h = (laneIn a h && laneIn b h) := by
  simp [laneIn]

theorem laneIn_not (a : Mask) (h : Nat) (hh : h < 64) : laneIn (~~~a) h = !laneIn a h := by
  simp [laneIn, hh]

theorem laneIn_laneBit (k h : Nat) (hh : h < 64) : laneIn (laneBit k) h = decide (h = k) := by
  simp only [laneIn, laneBit, BitVec.getLsbD_shiftLeft, hh, decide_true, Bool.true_and]
  by_cases hk : h = k
  · subst hk; simp
  · by_cases hl : h < k
    · simp [hk, hl]
    · have : h - k ≠ 0 := by omega
      simp [hk, hl, this, BitVec.getLsbD_one]

theorem laneIn_maskOf (l : List Nat) (h : Nat) (hh : h < 64) : laneIn (maskOf l) h = decide (h ∈ l) := by
  have go : ∀ (l : List Nat) (m : Mask), laneIn (l.foldl (fun m h => m ||| laneBit h) m) h = (laneIn m h || decide (h ∈ l)) := by
    intro l
    induction l with
    | nil => simp
    | cons k l ih =>
      intro m
      rw [List.foldl_cons, ih, laneIn_or, laneIn_laneBit _ _ hh]
      by_cases h1 : h = k <;> by_cases h2 : h ∈ l <;> simp [h1, h2]
  have := go l 0
  simpa [maskOf, laneIn] using this

/-! ## Registers -/

theorem div_shift (x i : Nat) : x / 2 ^ 32 / 2 ^ (32 * i) = x / 2 ^ (32 * (i + 1)) := by
  have h : (2 : Nat) ^ (32 * (i + 1)) = 2 ^ 32 * 2 ^ (32 * i) := by
    rw [← Nat.pow_add]
    exact congrArg (fun n => 2 ^ n) (by omega)
  simp only [h, Nat.div_div_eq_div_mul]

theorem vreg_setVreg_same (g : Gang) (n h : Nat) (x : Word) : vreg (setVreg g n h x) n h = x := by
  simp [vreg, setVreg]

theorem vreg_setVreg_ne (g : Gang) (n h m k : Nat) (x : Word) (hh : h < 64) (hk : k < 64) (hne : m ≠ n ∨ k ≠ h) :
    vreg (setVreg g n h x) m k = vreg g m k := by
  simp only [vreg, setVreg]
  rw [mapGet_mapPut_ne]
  omega

theorem sreg_setSreg_same (g : Gang) (n : Nat) (x : Word) : sreg (setSreg g n x) n = x := by
  simp [sreg, setSreg]

theorem sreg_setSreg_ne (g : Gang) (n m : Nat) (x : Word) (h : m ≠ n) : sreg (setSreg g n x) m = sreg g m := by
  simp [sreg, setSreg, h]

/-- A write of consecutive vector registers of a lane changes those alone. -/
theorem vreg_setVregs_outside (k n x h m j : Nat) (g : Gang) (hh : h < 64) (hj : j < 64)
    (ho : j ≠ h ∨ m < n ∨ n + k ≤ m) : vreg (setVregs h k n x g) m j = vreg g m j := by
  induction k generalizing n x g with
  | zero => rfl
  | succ k ih =>
    simp only [setVregs]
    rw [ih _ _ _ (by omega), vreg_setVreg_ne _ _ _ _ _ _ hh hj (by omega)]

/-- A write of consecutive vector registers of a lane is read back, register by register. -/
theorem vreg_setVregs_inside (k n x h i : Nat) (g : Gang) (hh : h < 64) (hi : i < k) :
    vreg (setVregs h k n x g) (n + i) h = BitVec.ofNat 32 (x / 2 ^ (32 * i)) := by
  induction k generalizing n x g i with
  | zero => omega
  | succ k ih =>
    simp only [setVregs]
    cases i with
    | zero =>
      rw [vreg_setVregs_outside _ _ _ _ _ _ _ hh hh (by omega)]
      simp [vreg_setVreg_same]
    | succ i =>
      have := ih (n + 1) (x / 2 ^ 32) i (setVreg g n h (BitVec.ofNat 32 x)) (by omega)
      rw [show n + (i + 1) = n + 1 + i by omega, this, div_shift]

/-- A write of consecutive scalar registers changes those alone. -/
theorem sreg_setSregs_outside (k n x m : Nat) (g : Gang) (ho : m < n ∨ n + k ≤ m) :
    sreg (setSregs k n x g) m = sreg g m := by
  induction k generalizing n x g with
  | zero => rfl
  | succ k ih =>
    simp only [setSregs]
    rw [ih _ _ _ (by omega), sreg_setSreg_ne _ _ _ _ (by omega)]

/-- A write of consecutive scalar registers is read back. -/
theorem sreg_setSregs_inside (k n x i : Nat) (g : Gang) (hi : i < k) :
    sreg (setSregs k n x g) (n + i) = BitVec.ofNat 32 (x / 2 ^ (32 * i)) := by
  induction k generalizing n x g i with
  | zero => omega
  | succ k ih =>
    simp only [setSregs]
    cases i with
    | zero =>
      rw [sreg_setSregs_outside _ _ _ _ _ (by omega)]
      simp [sreg_setSreg_same]
    | succ i =>
      have := ih (n + 1) (x / 2 ^ 32) i (setSreg g n (BitVec.ofNat 32 x)) (by omega)
      rw [show n + (i + 1) = n + 1 + i by omega, this, div_shift]

/-- A gang with other registers. -/
def Gang.withRegs (g : Gang) (v s : SMap Word) (p : SMap Mask) (q : BitVec 4) : Gang :=
  { g with v := v, s := s, p := p, q := q }

/-- A write of vector registers changes nothing but the vector registers. -/
theorem setVregs_other (h k n x : Nat) (g : Gang) : ∃ v, setVregs h k n x g = g.withRegs v g.s g.p g.q := by
  induction k generalizing n x g with
  | zero => exact ⟨g.v, rfl⟩
  | succ k ih =>
    obtain ⟨v, hv⟩ := ih (n + 1) (x / 2 ^ 32) (setVreg g n h (BitVec.ofNat 32 x))
    exact ⟨v, by rw [setVregs, hv]; rfl⟩

theorem putLanes_other (n d : Nat) (val : Nat → Nat) (l : List Nat) (g : Gang) :
    ∃ v, putLanes n d val l g = g.withRegs v g.s g.p g.q := by
  induction l generalizing g with
  | nil => exact ⟨g.v, rfl⟩
  | cons h l ih =>
    obtain ⟨v, hv⟩ := setVregs_other h n d (val h) g
    obtain ⟨w, hw⟩ := ih (setVregs h n d (val h) g)
    exact ⟨w, by rw [putLanes, hw, hv]; rfl⟩

theorem setSregs_other (k n x : Nat) (g : Gang) : ∃ v, setSregs k n x g = g.withRegs g.v v g.p g.q := by
  induction k generalizing n x g with
  | zero => exact ⟨g.s, rfl⟩
  | succ k ih =>
    obtain ⟨v, hv⟩ := ih (n + 1) (x / 2 ^ 32) (setSreg g n (BitVec.ofNat 32 x))
    exact ⟨v, by rw [setSregs, hv]; rfl⟩

/-- A write of a group of vector registers in some lanes leaves the others. -/
theorem vreg_putLanes_outside (n d : Nat) (val : Nat → Nat) (l : List Nat) (g : Gang) (m j : Nat) (hj : j < 64)
    (hl : ∀ h ∈ l, h < 64) (ho : j ∉ l ∨ m < d ∨ d + n ≤ m) : vreg (putLanes n d val l g) m j = vreg g m j := by
  induction l generalizing g with
  | nil => rfl
  | cons h l ih =>
    simp only [List.mem_cons, forall_eq_or_imp, not_or] at hl ho
    simp only [putLanes]
    rw [ih _ hl.2 (ho.imp_left And.right), vreg_setVregs_outside _ _ _ _ _ _ _ hl.1 hj (ho.imp_left And.left)]

/-- A write of a group of vector registers in some lanes is read back in each. -/
theorem vreg_putLanes_inside (n d : Nat) (val : Nat → Nat) (l : List Nat) (g : Gang) (i j : Nat) (hn : l.Nodup)
    (hl : ∀ h ∈ l, h < 64) (hj : j ∈ l) (hi : i < n) :
    vreg (putLanes n d val l g) (d + i) j = BitVec.ofNat 32 (val j / 2 ^ (32 * i)) := by
  induction l generalizing g with
  | nil => simp at hj
  | cons h l ih =>
    simp only [List.mem_cons, forall_eq_or_imp, List.nodup_cons] at hl hj hn
    simp only [putLanes]
    by_cases hc : j ∈ l
    · exact ih _ hn.2 hl.2 hc
    · have hjh : j = h := hj.resolve_right hc
      subst hjh
      rw [vreg_putLanes_outside _ _ _ _ _ _ _ hl.1 hl.2 (.inl hn.1), vreg_setVregs_inside _ _ _ _ _ _ hl.1 hi]

/-! ## The destination -/

theorem preg_setPreg_same (g : Gang) (n : Nat) (lanes x : Mask) (hn : n ≠ 7) :
    preg (setPreg g n lanes x) n = (preg g n &&& ~~~lanes) ||| (x &&& lanes) := by
  simp [setPreg, preg, hn]

theorem preg_setPreg_ne (g : Gang) (n m : Nat) (lanes x : Mask) (h : m ≠ n) :
    preg (setPreg g n lanes x) m = preg g m := by
  unfold setPreg
  split
  · rfl
  · unfold preg
    split
    · rfl
    · simp [h]

/-- A lane predicate after a write, lane by lane; p7 is not written (01 R27). -/
theorem laneIn_preg_setPreg (g : Gang) (n : Nat) (lanes x : Mask) (h : Nat) (hh : h < 64) :
    laneIn (preg (setPreg g n lanes x) n) h =
      if laneIn lanes h && n != 7 then laneIn x h else laneIn (preg g n) h := by
  by_cases hn : n = 7
  · subst hn
    simp [setPreg]
  · rw [preg_setPreg_same _ _ _ _ hn, laneIn_or, laneIn_and, laneIn_and, laneIn_not _ _ hh]
    by_cases hl : laneIn lanes h = true <;> simp [hl, hn]

theorem setPreg_other (g : Gang) (n : Nat) (lanes x : Mask) : ∃ p, setPreg g n lanes x = g.withRegs g.v g.s p g.q := by
  unfold setPreg
  split
  · exact ⟨g.p, rfl⟩
  · exact ⟨_, rfl⟩

/-- A scalar predicate after a write. -/
theorem qreg_setQreg (g : Gang) (n m : Nat) (b : Bool) (hn : n < 4) (hm : m < 4) :
    qreg (setQreg g n b) m = if m = n then b else qreg g m := by
  simp only [qreg, setQreg]
  generalize g.q = q
  have : n = 0 ∨ n = 1 ∨ n = 2 ∨ n = 3 := by omega
  have : m = 0 ∨ m = 1 ∨ m = 2 ∨ m = 3 := by omega
  rcases ‹n = 0 ∨ _› with rfl | rfl | rfl | rfl <;> rcases ‹m = 0 ∨ _› with rfl | rfl | rfl | rfl <;>
    cases b <;> simp

/-- A scalar predicate's code names one of four. -/
theorem namedReg_q (d k : Nat) (h : namedReg d = some (.q, k)) : k < 4 := by
  by_cases h8 : d < 8
  · simp [namedReg, h8] at h
  by_cases h12 : d < 12
  · simp [namedReg, h8, h12] at h
    omega
  · exfalso
    revert h
    simp only [namedReg, h8, h12, if_false]
    repeat' split
    all_goals simp

theorem sameRegs_refl (g : Gang) : sameRegs g g := ⟨fun _ _ _ => rfl, fun _ => rfl, fun _ => rfl, rfl⟩

theorem predWrite_setPreg (g : Gang) (k : Nat) (act : Mask) (val : Nat → Nat) :
    let g' := setPreg g k act (maskOf ((lanesOf act).filter (fun h => val h != 0)))
    predWrite act k val g g' ∧ sameV g g' ∧ sameS g g' ∧ sameQ g g' := by
  refine ⟨⟨fun h hl h7 => ?_, fun h hh ho => ?_, fun m hm => preg_setPreg_ne _ _ _ _ _ hm⟩, ?_⟩
  · have hh := laneIn_lt _ _ hl
    have hm : h ∈ lanesOf act := (mem_lanesOf _ _).mpr ⟨hh, hl⟩
    have h7' : (k != 7) = true := by simpa using h7
    rw [laneIn_preg_setPreg _ _ _ _ _ hh, hl, h7', laneIn_maskOf _ _ hh]
    simp [hm]
  · rw [laneIn_preg_setPreg _ _ _ _ _ hh, if_neg]
    rcases ho with ho | ho <;> simp [ho]
  · obtain ⟨p, hp⟩ := setPreg_other g k act (maskOf ((lanesOf act).filter (fun h => val h != 0)))
    simp only [hp]
    exact ⟨fun _ _ _ => rfl, fun _ => rfl, rfl⟩

theorem flagWrite_setQreg (g : Gang) (k v : Nat) (hk : k < 4) : flagWrite k v g (setQreg g k (v != 0)) := by
  refine ⟨?_, fun m hm hne => ?_⟩
  · rw [qreg_setQreg _ _ _ _ hk hk]
    simp
  · rw [qreg_setQreg _ _ _ _ hk hm, if_neg hne]

theorem two_bits (k : BitVec 2) : k = 0#2 ∨ k = 1#2 ∨ k = 2#2 ∨ k = 3#2 := by
  have : k.toNat = 0 ∨ k.toNat = 1 ∨ k.toNat = 2 ∨ k.toNat = 3 := by omega
  rcases this with h | h | h | h
  · exact .inl (BitVec.eq_of_toNat_eq h)
  · exact .inr (.inl (BitVec.eq_of_toNat_eq h))
  · exact .inr (.inr (.inl (BitVec.eq_of_toNat_eq h)))
  · exact .inr (.inr (.inr (BitVec.eq_of_toNat_eq h)))

/-- A write of destination d, by its kind. -/
theorem putD_vector (x : Ctx) (val : Nat → Nat) (g : Gang) (hk : x.f.e.kd = 0#2) :
    x.putD val g = putLanes (x.row.d.count 0) x.f.e.d.toNat val (lanesOf x.act) g := by
  unfold Ctx.putD writeOpnd
  rw [hk]
  rfl

theorem putD_scalar (x : Ctx) (val : Nat → Nat) (g : Gang) (hk : x.f.e.kd = 1#2) :
    x.putD val g =
      if x.act == 0 then g else setSregs (x.row.d.count 1) x.f.e.d.toNat (val (lowestLane x.act)) g := by
  unfold Ctx.putD writeOpnd
  rw [hk]
  rfl

theorem putD_named (x : Ctx) (val : Nat → Nat) (g : Gang) (hk : x.f.e.kd = 2#2 ∨ x.f.e.kd = 3#2) :
    x.putD val g = match namedReg x.f.e.d.toNat with
      | some (.p, k) => setPreg g k x.act (maskOf ((lanesOf x.act).filter (fun h => val h != 0)))
      | some (.q, k) => if x.act == 0 then g else setQreg g k (val (lowestLane x.act) != 0)
      | _ => g := by
  unfold Ctx.putD writeOpnd
  rcases hk with hk | hk <;> rw [hk] <;> rfl

/-- A write of destination d leaves in it, lane by lane, the values written, and every other register as it was. -/
theorem putD_dest (x : Ctx) (val : Nat → Nat) (g : Gang) : destAfter x val g (x.putD val g) := by
  rcases two_bits x.f.e.kd with hk | hk | hk | hk
  · rw [putD_vector _ _ _ hk]
    obtain ⟨v, hv⟩ := putLanes_other (x.row.d.count 0) x.f.e.d.toNat val (lanesOf x.act) g
    unfold destAfter
    simp only [hk, if_true, show (0#2).toNat = 0 from rfl]
    refine ⟨⟨fun h j hl hj => ?_, fun h m hh ho => ?_⟩, ?_⟩
    · exact vreg_putLanes_inside _ _ _ _ _ _ _ (lanesOf_nodup _) (fun _ hm => ((mem_lanesOf _ _).mp hm).1)
        ((mem_lanesOf _ _).mpr ⟨laneIn_lt _ _ hl, hl⟩) hj
    · refine vreg_putLanes_outside _ _ _ _ _ _ _ hh (fun _ hm => ((mem_lanesOf _ _).mp hm).1) ?_
      rcases ho with ho | ho
      · exact .inl (fun hm => by simp [((mem_lanesOf _ _).mp hm).2] at ho)
      · exact .inr ho
    · rw [hv]
      exact ⟨fun _ => rfl, fun _ => rfl, rfl⟩
  · rw [putD_scalar _ _ _ hk]
    unfold destAfter
    simp only [hk, if_true, show (1#2).toNat = 1 from rfl, show ¬ (1#2 = 0#2) by decide, if_false]
    by_cases ha : x.act = 0
    · simp only [ha, beq_self_eq_true, if_true]
      exact ⟨fun _ => rfl, fun _ _ _ => rfl, fun _ => rfl, rfl⟩
    · obtain ⟨v, hv⟩ := setSregs_other (x.row.d.count 1) x.f.e.d.toNat (val (lowestLane x.act)) g
      simp only [ha, beq_iff_eq, if_false]
      refine ⟨⟨fun j hj => sreg_setSregs_inside _ _ _ _ _ hj, fun m hm => sreg_setSregs_outside _ _ _ _ _ hm⟩, ?_⟩
      rw [hv]
      exact ⟨fun _ _ _ => rfl, fun _ => rfl, rfl⟩
  all_goals
    rw [putD_named _ _ _ (by simp [hk])]
    unfold destAfter
    rw [if_neg (by simp [hk]), if_neg (by simp [hk])]
    cases hn : namedReg x.f.e.d.toNat with
    | none => exact sameRegs_refl _
    | some e =>
      obtain ⟨file, k⟩ := e
      cases file
      case p => exact predWrite_setPreg g k x.act val
      case q =>
        by_cases ha : x.act = 0
        · simp only [ha, beq_self_eq_true, if_true]
          exact ⟨rfl, fun _ _ _ => rfl, fun _ => rfl, fun _ => rfl⟩
        · simp only [ha, beq_iff_eq, if_false]
          exact ⟨flagWrite_setQreg _ _ _ (namedReg_q _ _ hn), fun _ _ _ => rfl, fun _ => rfl, fun _ => rfl⟩
      all_goals exact sameRegs_refl _

theorem putD_other (x : Ctx) (val : Nat → Nat) (g : Gang) : ∃ v s p q, x.putD val g = g.withRegs v s p q := by
  rcases two_bits x.f.e.kd with hk | hk | hk | hk
  · rw [putD_vector _ _ _ hk]
    obtain ⟨v, hv⟩ := putLanes_other (x.row.d.count 0) x.f.e.d.toNat val (lanesOf x.act) g
    exact ⟨_, _, _, _, hv⟩
  · rw [putD_scalar _ _ _ hk]
    split
    · exact ⟨g.v, g.s, g.p, g.q, rfl⟩
    · obtain ⟨v, hv⟩ := setSregs_other (x.row.d.count 1) x.f.e.d.toNat (val (lowestLane x.act)) g
      exact ⟨_, _, _, _, hv⟩
  all_goals
    rw [putD_named _ _ _ (by simp [hk])]
    split
    · rename_i k _
      obtain ⟨p, hp⟩ := setPreg_other g k x.act (maskOf ((lanesOf x.act).filter (fun h => val h != 0)))
      exact ⟨_, _, _, _, hp⟩
    · split
      · exact ⟨g.v, g.s, g.p, g.q, rfl⟩
      · exact ⟨g.v, g.s, g.p, _, rfl⟩
    · exact ⟨g.v, g.s, g.p, g.q, rfl⟩

/-! ## Issue -/

/-- An instruction that may issue runs its body in the context of its issue. -/
theorem issueFields_next (f : Fields) (body : Ctx → State → State) (s : State) (c : Cursor) (g : Gang) (sp : Split)
    (h : issuer s = some (c, g, sp)) (hr : regsInRange g f = true) :
    issueFields f none body s = .next (body (mkCtx c g sp f) (taken c s)) := by
  simp [issueFields, h, hr]

/-- An instruction that is illegal raises illegal-instruction before any effect (16 R352). -/
theorem issueFields_illegal (f : Fields) (bad : Option IllegalReason) (body : Ctx → State → State) (s : State)
    (c : Cursor) (g : Gang) (sp : Split) (h : issuer s = some (c, g, sp))
    (hb : bad.isSome = true ∨ regsInRange g f = false) :
    issueFields f bad body s = .next (raiseIllegal (mkCtx c g sp f) (taken c s)) := by
  rcases hb with hb | hb <;> simp [issueFields, h, hb]

/-- The gang that issues, once its split has been taken. -/
theorem getGang_taken (s : State) (c : Cursor) (g : Gang) (sp : Split) (h : issuer s = some (c, g, sp)) :
    getGang (taken c s) c.core c.slot =
      some { modSplit c.lane (fun sp => { sp with clause := c.clause, fresh := false }) g with lastIssue := some s.clock } := by
  have hg : getGang s c.core c.slot = some g := by
    unfold issuer at h
    split at h
    · simp at h
    · split at h
      · simp at h
      · split at h
        · simp at h
        · simp only [Option.some.injEq, Prod.mk.injEq] at h
          obtain ⟨rfl, rfl, -⟩ := h
          assumption
  simp only [taken, getGang_modGang_same]
  have : getGang { s with issueQ := s.issueQ.tail } c.core c.slot = some g := hg
  rw [this]
  rfl

/-- Moving past an instruction changes the splits alone. -/
theorem mergeAt_other (pc : BitVec 52) (g : Gang) : ∃ l, mergeAt pc g = { g with splits := l } := by
  unfold mergeAt
  simp only
  split
  · unfold rotateHead
    split <;> exact ⟨_, rfl⟩
  · exact ⟨_, rfl⟩

theorem yieldAges_other (c : Cursor) (g : Gang) : ∃ l, yieldAges c g = { g with splits := l } := by
  unfold yieldAges
  split <;> exact ⟨_, rfl⟩

theorem advanceSplit_other (c : Cursor) (g : Gang) :
    ∃ l, advanceSplit c g = { endReplay c.lane g with splits := l } := by
  unfold advanceSplit
  split
  · obtain ⟨l, hl⟩ := yieldAges_other c (modSplit c.lane (fun sp =>
      { sp with pc := c.next, slot := 0, clause := [], fresh := true, wait := none, replay := none }) (endReplay c.lane g))
    obtain ⟨m, hm⟩ := mergeAt_other c.next (yieldAges c (modSplit c.lane (fun sp =>
      { sp with pc := c.next, slot := 0, clause := [], fresh := true, wait := none, replay := none }) (endReplay c.lane g)))
    exact ⟨m, by rw [hm, hl]; rfl⟩
  · exact ⟨_, rfl⟩

/-- The end of a replay looks at the splits and at the trap in force alone. -/
theorem endReplay_unfinished (lane : Nat) (g g' : Gang) (hs : g'.splits = g.splits) (hu : g'.unfinished = g.unfinished)
    (ht : g'.tcause = g.tcause) : (endReplay lane g').unfinished = (endReplay lane g).unfinished := by
  simp only [endReplay, hs, hu, ht]

/-- The mark that a split has issued from its clause leaves the end of its replay as it was. -/
theorem endReplay_taken (lane : Nat) (cl : List Word) (g g' : Gang)
    (hs : g'.splits = (modSplit lane (fun sp => { sp with clause := cl, fresh := false }) g).splits)
    (hu : g'.unfinished = g.unfinished) (ht : g'.tcause = g.tcause) :
    (endReplay lane g').unfinished = (endReplay lane g).unfinished := by
  simp only [endReplay, hs, hu, ht, modSplit, List.any_map]
  congr 4
  funext sp
  simp only [Function.comp]
  split <;> simp_all

/-- Apart from its splits and registers, a gang whose replay ends differs in the mask of unfinished lanes alone. -/
theorem endReplay_apart (lane : Nat) (g : Gang) :
    (endReplay lane g).apart = { g.apart with unfinished := (endReplay lane g).unfinished } := rfl

/-- An update of the issuing gang leaves everything but that gang. -/
theorem sameButGang_onGang (s : State) (x : Ctx) (f : Gang → Gang) :
    SameButGang x.cur.core x.cur.slot s (onGang x f (taken x.cur s)) where
  device := rfl
  queue := rfl
  otherCores n h := by
    simp only [onGang, taken, getCore_modGang_ne _ _ _ _ _ h]
    rfl
  sameCore := by simp only [onGang, taken, getCore_modGang_same]; rfl
  otherGangs k h := by
    have hk : (x.cur.core, k) ≠ (x.cur.core, x.cur.slot) := fun e => h (by simpa using e)
    simp only [onGang, taken, getGang_modGang_ne _ _ _ _ _ _ hk]
    rfl
  memory a := rfl
  scratch n a := by
    by_cases h : n = x.cur.core
    · subst h; simp only [onGang, taken, getCore_modGang_same]; rfl
    · simp only [onGang, taken, getCore_modGang_ne _ _ _ _ _ h]; rfl

/-- Moving past an instruction looks at the splits, the head's quantum and nothing else. -/
theorem advanceSplit_congr (c : Cursor) (g g' : Gang) (hs : g'.splits = g.splits) (hq : g'.quantum = g.quantum) :
    (advanceSplit c g').splits = (advanceSplit c g).splits := by
  unfold advanceSplit
  split
  · have hy : (yieldAges c (modSplit c.lane (fun sp =>
        { sp with pc := c.next, slot := 0, clause := [], fresh := true, wait := none, replay := none })
          (endReplay c.lane g'))).splits =
      (yieldAges c (modSplit c.lane (fun sp =>
        { sp with pc := c.next, slot := 0, clause := [], fresh := true, wait := none, replay := none })
          (endReplay c.lane g))).splits := by
      unfold yieldAges modSplit
      split <;> simp only [endReplay, hs]
    have hyq : (yieldAges c (modSplit c.lane (fun sp =>
        { sp with pc := c.next, slot := 0, clause := [], fresh := true, wait := none, replay := none })
          (endReplay c.lane g'))).quantum =
      (yieldAges c (modSplit c.lane (fun sp =>
        { sp with pc := c.next, slot := 0, clause := [], fresh := true, wait := none, replay := none })
          (endReplay c.lane g))).quantum := by
      unfold yieldAges modSplit
      split <;> simp only [endReplay, hq]
    revert hy hyq
    generalize yieldAges c (modSplit c.lane _ (endReplay c.lane g')) = a
    generalize yieldAges c (modSplit c.lane _ (endReplay c.lane g)) = b
    intro hy hyq
    unfold mergeAt
    simp only [hy, hyq]
    split
    · unfold rotateHead
      simp only
      split <;> simp_all
    · rfl
  · simp only [modSplit, endReplay, hs]

theorem splitsAfter_putD (c : Cursor) (x : Ctx) (val : Nat → Nat) (g g1 : Gang) (k : Nat)
    (hg : ({ modSplit c.lane (fun sp => { sp with clause := c.clause, fresh := false }) g with lastIssue := some k } : Gang) = g1) :
    (advanceSplit c (x.putD val g1)).splits = splitsAfter c g := by
  obtain ⟨v, s, p, q, ho⟩ := putD_other x val g1
  rw [ho, ← hg]
  exact advanceSplit_congr c _ _ rfl rfl

/-! ## Instructions that compute a value -/

/-- An instruction whose meaning is `compute` completes, writes its destination, and changes nothing else. -/
theorem computes_of (i : Instr) (f : Fields) (bad : Option IllegalReason) (val : Ctx → State → Nat → Nat)
    (hf : fieldsOf i = some f) (hb : i.WellFormed → bad = none)
    (he : ∀ s, exec i s = issueFields f bad (fun c s => completeWith c (c.putD (val c s)) s) s)
    (hv : ∀ x s, val x (taken x.cur s) = val x s) : Computes i val := by
  intro s f' c g sp h
  have e : f' = f := by
    have := h.fields
    rw [hf] at this
    simpa using this.symm
  subst e
  rw [he, hb h.legal, issueFields_next _ _ _ _ _ _ h.head h.inRange]
  have ht := getGang_taken s c g sp h.head
  generalize hg : ({ modSplit c.lane (fun sp => { sp with clause := c.clause, fresh := false }) g with lastIssue := some s.clock } : Gang) = g1
    at ht
  have hv' := hv (mkCtx c g sp f') s
  generalize hx : mkCtx c g sp f' = x at hv' ⊢
  have hc : x.cur = c := by rw [← hx]; rfl
  rw [hc] at hv'
  obtain ⟨l, hl⟩ := advanceSplit_other c (x.putD (val x s) g1)
  have hd := putD_dest x (val x s) g1
  have ho := putD_other x (val x s) g1
  refine ⟨_, advanceSplit c (x.putD (val x s) g1), rfl, ?_, ?_, ?_, ?_, ?_⟩
  · rw [hv']
    have := sameButGang_onGang s x (fun g => advanceSplit x.cur (x.putD (val x s) g))
    rw [hc] at this
    simpa [completeWith, hc] using this
  · rw [hv']
    simp only [completeWith, onGang, hc, getGang_modGang_same, ht, Option.map_some]
  · obtain ⟨v, s', p, q, ho⟩ := ho
    have hu := endReplay_taken c.lane c.clause g g1 (by rw [← hg]) (by rw [← hg]; rfl) (by rw [← hg]; rfl)
    rw [hl, ho, endReplay_apart c.lane g, ← hu, ← hg]
    rfl
  · exact splitsAfter_putD _ _ _ _ _ _ hg
  · rw [hl]
    rw [← hg] at hd ⊢
    exact hd

end Sys2Proof.Machine
end

