-- ==== Sys2Proof/Laws/Issue.lean ====
section
/-! SUPPORT. What the statements about an issue go through: from an arm of `exec` and its meaning to what the instruction
ends in, and what the state with its split taken still reads as. -/

namespace Sys2Proof.Machine

/-- A well-formed instruction of more than one word meets no reason to be illegal. -/
theorem legal_of_form {i : Instr} {op : Nat} {f : Form} (e : encOf i = .form op f) (back : ofForm op f = some i)
    (h : i.WellFormed) : illegalForm op f = none := by
  have : Instr.illegal i = illegalForm op f := by simp [Instr.illegal, e, back]
  simpa [Instr.WellFormed, this] using h

/-- A well-formed instruction of a base word meets no reason to be illegal. -/
theorem legal_of_base {i : Instr} {op : Nat} {w : Base} (e : encOf i = .base op w) (back : ofBase op w = some i)
    (h : i.WellFormed) : illegalBase op w = none := by
  have : Instr.illegal i = illegalBase op w := by simp [Instr.illegal, e, back]
  simpa [Instr.WellFormed, this] using h

/-- An instruction ends as its meaning does, run in the context of its issue. -/
theorem ends_of (i : Instr) (f : Fields) (bad : Option IllegalReason) (body : Ctx → State → State)
    (P : Ctx → State → Prop) (R : Ctx → State → State → Prop)
    (hf : fieldsOf i = some f) (hb : i.WellFormed → bad = none) (he : ∀ s, exec i s = issueFields f bad body s)
    (h : ∀ x s, issuer s = some (x.cur, x.gang, x.sp) → x = mkCtx x.cur x.gang x.sp f → P x s →
      R x s (body x (taken x.cur s))) : Ends i P R := by
  intro s f' c g sp hi hp
  have e : f' = f := by
    have := hi.fields
    rw [hf] at this
    simpa using this.symm
  subst e
  refine ⟨body (mkCtx c g sp f') (taken c s), ?_, ?_⟩
  · rw [he, hb hi.legal, issueFields_next _ _ _ _ _ _ hi.head hi.inRange]
  · exact h (mkCtx c g sp f') s hi.head rfl hp

/-- An update of the issuing gang alone. -/
theorem becomes_onGang (x : Ctx) (s : State) (F : Gang → Gang) (h : issuer s = some (x.cur, x.gang, x.sp)) :
    becomes x s (onGang x F (taken x.cur s)) (F (x.issued s)) := by
  refine ⟨sameButGang_onGang s x F, ?_⟩
  have ht := getGang_taken s x.cur x.gang x.sp h
  simp only [onGang, getGang_modGang_same, ht, Option.map_some]
  rfl

/-- A trap raised by the issuing instruction. -/
theorem traps_raise (x : Ctx) (cause : Nat) (ti : BitVec 64) (a b : Mask) (s : State) :
    traps x (x.trapOf cause ti a b) s (raise x cause ti a b (taken x.cur s)) := rfl

theorem traps_raiseIllegal (x : Ctx) (s : State) :
    traps x (x.trapOf 1 (x.cur.word.setWidth 64) x.sp.mask 0) s (raiseIllegal x (taken x.cur s)) := rfl

/-! ## The state with its split taken -/

@[simp] theorem group_taken (x : Ctx) (s : State) : x.group (taken x.cur s) = x.group s := by
  simp only [Ctx.group, taken, getGroup_modGang]
  rfl

@[simp] theorem clock_taken (c : Cursor) (s : State) : (taken c s).clock = s.clock := rfl
@[simp] theorem mem_taken (c : Cursor) (s : State) : (taken c s).mem = s.mem := rfl
@[simp] theorem issueQ_taken (c : Cursor) (s : State) : (taken c s).issueQ = s.issueQ.tail := rfl

@[simp] theorem systemValue_taken (x : Ctx) (s : State) (h : Nat) : systemValue x (taken x.cur s) h = systemValue x s h := by
  simp only [systemValue, group_taken, clock_taken]

@[simp] theorem scratch_taken (c : Cursor) (s : State) (n : Nat) :
    (getCore (taken c s) n).scratch = (getCore s n).scratch := by
  unfold taken modGang
  by_cases h : n = c.core
  · subst h
    rw [getCore_modCore_same]
    rfl
  · rw [getCore_modCore_ne _ _ _ _ h]
    rfl

/-! ## Traps -/

/-- The trap is taken by the hardware rule (13 R285). -/
theorem takeTrap_hardware (core slot lane : Nat) (t : TrapInfo) (s : State) (g : Gang) (grp : Group)
    (hg : getGang s core slot = some g) (hgr : getGroup s core g.gslot = some grp)
    (h : (grp.handler == 0 || grp.held || t.cause == 0x0A ||
      (trapActive g && ((splitOf g lane).map (·.handler)).getD false)) = true) :
    takeTrap core slot lane t s = hardwareRule core g.gslot g.ctx t.cause grp.held s := by
  unfold takeTrap
  simp only [hg, hgr, Option.getD_some, h, if_true]

/-- The trap is held with its split (13 R284). -/
theorem takeTrap_held (core slot lane : Nat) (t : TrapInfo) (s : State) (g : Gang) (grp : Group)
    (hg : getGang s core slot = some g) (hgr : getGroup s core g.gslot = some grp)
    (h : (grp.handler == 0 || grp.held || t.cause == 0x0A ||
      (trapActive g && ((splitOf g lane).map (·.handler)).getD false)) = false) (ha : trapActive g = true) :
    takeTrap core slot lane t s = modGang s core slot (holdTrap lane t) := by
  unfold takeTrap
  simp only [hg, hgr, Option.getD_some]
  rw [if_neg (by rw [h]; simp), if_pos ha]

/-- The trap is delivered to the handler (13 R283). -/
theorem takeTrap_delivered (core slot lane : Nat) (t : TrapInfo) (s : State) (g : Gang) (grp : Group)
    (hg : getGang s core slot = some g) (hgr : getGroup s core g.gslot = some grp)
    (h : (grp.handler == 0 || grp.held || t.cause == 0x0A) = false) (ha : trapActive g = false) :
    takeTrap core slot lane t s = modGang s core slot (deliverTrap grp.handler lane t) := by
  unfold takeTrap
  simp only [hg, hgr, Option.getD_some]
  rw [if_neg (by rw [ha, h]; simp), if_neg (by rw [ha]; simp)]

/-- Taking a trap has no other outcome (13 R283 to R285). -/
theorem takeTrap_cases (core slot lane : Nat) (t : TrapInfo) (s : State) :
    takeTrap core slot lane t s = s ∨
    (∃ gslot ctx held, takeTrap core slot lane t s = hardwareRule core gslot ctx t.cause held s) ∨
    (∃ f, (f = holdTrap lane t ∨ ∃ handler, f = deliverTrap handler lane t) ∧
      takeTrap core slot lane t s = modGang s core slot f) := by
  unfold takeTrap
  split
  · exact .inl rfl
  · dsimp only
    split
    · exact .inr (.inl ⟨_, _, _, rfl⟩)
    · split
      · exact .inr (.inr ⟨_, .inl rfl, rfl⟩)
      · exact .inr (.inr ⟨_, .inr ⟨_, rfl⟩, rfl⟩)

end Sys2Proof.Machine
end

