-- ==== Sys2Proof/Laws/Memory.lean ====
section
/-! SUPPORT. Every operation on memory keeps its canonical form, and what it leaves outside the bytes it writes. -/

namespace Sys2Proof.Machine

/-! ## Memory as a list -/

/-- The empty memory has the canonical form. -/
theorem nil_wf : Memory.wf [] = true := rfl

/-- A filter by address leaves the kept addresses as they were. -/
theorem mapFind_filter {α : Type} (p : Nat → Bool) (m : SMap α) (n : Nat) :
    mapFind (m.filter (fun c => p c.1)) n = if p n then mapFind m n else none := by
  induction m with
  | nil => simp [mapFind]
  | cons e m ih =>
    obtain ⟨k, v⟩ := e
    by_cases hk : k = n
    · subst hk
      by_cases hp : p k = true
      · simp [hp, mapFind]
      · simp only [Bool.not_eq_true] at hp
        rw [List.filter_cons_of_neg (by simp [hp]), ih]
        simp [hp]
    · by_cases hp : p k = true
      · rw [List.filter_cons_of_pos (by simp [hp])]
        simp [mapFind, hk, ih]
      · rw [List.filter_cons_of_neg (by simp [hp]), ih]
        simp [mapFind, hk]

/-- A zeroed range reads as 0, and every other address as before. -/
theorem memRead_zeroRange (m : Memory) (base size a : Nat) :
    memRead (zeroRange m base size) a = if base ≤ a ∧ a < base + size then 0 else memRead m a := by
  have h := mapFind_filter (fun k => !(decide (base ≤ k) && decide (k < base + size))) m a
  simp only [memRead, mapGet, zeroRange]
  rw [h]
  by_cases hr : base ≤ a ∧ a < base + size
  · simp [hr, unlistedByte]
  · have hb : (!(decide (base ≤ a) && decide (a < base + size))) = true := by simp; omega
    simp [hr, hb]

theorem zeroRange_wf (m : Memory) (base size : Nat) (h : m.wf = true) : (zeroRange m base size).wf = true := filter_wf _ _ h

theorem outsideMemory_wf (m : Memory) (h : m.wf = true) : (outsideMemory m).wf = true := filter_wf _ _ h

/-- Writes of bytes one after another keep the canonical form. -/
theorem foldl_memWrite_wf {α : Type} (l : List α) (a : α → Nat) (b : α → Byte) (m : Memory) (h : m.wf = true) :
    (l.foldl (fun m e => memWrite m (a e) (b e)) m).wf = true := by
  induction l generalizing m with
  | nil => exact h
  | cons e l ih => exact ih _ (memWrite_wf _ _ _ h)

/-- Writes of runs of bytes one after another keep the canonical form. -/
theorem foldl_memWriteBytes_wf {α : Type} (l : List α) (a : α → Nat) (b : α → List Byte) (m : Memory) (h : m.wf = true) :
    (l.foldl (fun m e => memWriteBytes m (a e) (b e)) m).wf = true := by
  induction l generalizing m with
  | nil => exact h
  | cons e l ih => exact ih _ (memWriteBytes_wf _ _ _ h)

theorem decodeScratch_wf (bs : List Byte) (ranges : List (Nat × Nat)) (n : Nat) (m : Memory) (h : m.wf = true) :
    (decodeScratch bs n ranges m).wf = true := by
  induction ranges generalizing n m with
  | nil => exact h
  | cons r rest ih => exact ih _ _ (memWriteBytes_wf _ _ _ h)

/-! ## The state -/

theorem mapFind_mem {α : Type} (m : SMap α) (n : Nat) (x : α) (h : mapFind m n = some x) : (n, x) ∈ m := by
  induction m with
  | nil => simp [mapFind] at h
  | cons e m ih =>
    obtain ⟨k, v⟩ := e
    simp only [mapFind] at h
    split at h
    · rename_i hk
      simp only [beq_iff_eq] at hk
      simp only [Option.some.injEq] at h
      simp [hk, h]
    · exact List.mem_cons_of_mem _ (ih h)

theorem mem_mapSet {α : Type} (m : SMap α) (n : Nat) (x : α) (e : Nat × α) (h : e ∈ mapSet m n x) : e = (n, x) ∨ e ∈ m := by
  induction m with
  | nil => simpa [mapSet] using h
  | cons c m ih =>
    obtain ⟨k, v⟩ := c
    simp only [mapSet] at h
    split at h
    · simpa using h
    · split at h
      · rcases List.mem_cons.mp h with h | h
        · exact .inl h
        · exact .inr (List.mem_cons_of_mem _ h)
      · rcases List.mem_cons.mp h with h | h
        · exact .inr (h ▸ List.mem_cons_self ..)
        · rcases ih h with h | h
          · exact .inl h
          · exact .inr (List.mem_cons_of_mem _ h)

/-- The scratchpad of every core, listed or not, has the canonical form. -/
theorem getCore_scratch_wf (s : State) (n : Nat) (h : s.memoryWf) : Memory.wf (getCore s n).scratch = true := by
  unfold getCore mapGet
  cases hc : mapFind s.cores n with
  | none => rfl
  | some c => exact h.2 _ (mapFind_mem _ _ _ hc)

/-- A core changed by a function that keeps the form of its scratchpad keeps the form of all memory. -/
theorem modCore_memoryWf (s : State) (n : Nat) (f : Core → Core)
    (hf : ∀ c, Memory.wf c.scratch = true → Memory.wf (f c).scratch = true) (h : s.memoryWf) : (modCore s n f).memoryWf := by
  refine ⟨h.1, fun e he => ?_⟩
  rcases mem_mapSet _ _ _ _ he with rfl | he
  · exact hf _ (getCore_scratch_wf s n h)
  · exact h.2 _ he

theorem modGang_memoryWf (s : State) (n k : Nat) (f : Gang → Gang) (h : s.memoryWf) : (modGang s n k f).memoryWf :=
  modCore_memoryWf s n _ (fun _ hc => hc) h

theorem modGroup_memoryWf (s : State) (n k : Nat) (f : Group → Group) (h : s.memoryWf) : (modGroup s n k f).memoryWf :=
  modCore_memoryWf s n _ (fun _ hc => hc) h

theorem setGang_memoryWf (s : State) (n k : Nat) (g : Gang) (h : s.memoryWf) : (setGang s n k g).memoryWf :=
  modCore_memoryWf s n _ (fun _ hc => hc) h

theorem scratchWrite_memoryWf (core : Nat) (g : Group) (off : Nat) (bs : List Byte) (s : State) (h : s.memoryWf) :
    (scratchWrite core g off bs s).memoryWf :=
  modCore_memoryWf s core _ (fun _ hc => memWriteBytes_wf _ _ _ hc) h

theorem poke_memoryWf (s : State) (pa : Nat) (bs : List Byte) (h : s.memoryWf) : (poke s pa bs).memoryWf :=
  ⟨memWriteBytes_wf _ _ _ h.1, h.2⟩

theorem mxWriteBlock_memoryWf (n b o : Nat) (bs : List Byte) (s : State) (h : s.memoryWf) :
    (mxWriteBlock n b o bs s).memoryWf := by
  unfold mxWriteBlock
  exact poke_memoryWf _ _ _ (poke_memoryWf _ _ _ h)

theorem mxWrite_memoryWf (n fuel o : Nat) (bs : List Byte) (s : State) (h : s.memoryWf) : (mxWrite n fuel o bs s).memoryWf := by
  induction fuel generalizing o bs s with
  | zero => exact h
  | succ fuel ih =>
    simp only [mxWrite]
    split
    · exact h
    · exact ih _ _ _ (mxWriteBlock_memoryWf _ _ _ _ _ h)

/-- A write of physical memory, plain or through an MX alias, keeps the canonical form. -/
theorem physWrite_memoryWf (pa : Nat) (bs : List Byte) (s : State) (h : s.memoryWf) : (physWrite pa bs s).memoryWf := by
  unfold physWrite
  split
  · split
    · exact mxWrite_memoryWf _ _ _ _ _ h
    · exact h
  · exact poke_memoryWf _ _ _ h

/-- A plain write leaves every byte outside it as it was. -/
theorem memRead_poke_outside (s : State) (pa a : Nat) (bs : List Byte) (h : a < pa ∨ pa + bs.length ≤ a) :
    memRead (poke s pa bs).mem a = memRead s.mem a := memRead_memWriteBytes_outside _ _ _ _ h

/-- A plain write is read back. -/
theorem memRead_poke_inside (s : State) (pa k : Nat) (bs : List Byte) (h : k < bs.length) :
    memRead (poke s pa bs).mem (pa + k) = bs.getD k 0 :=
  memRead_memWriteBytes_inside bs s.mem pa k h

theorem freeRange_memoryWf (base n : Nat) (s : State) (h : s.memoryWf) : (freeRange base n s).memoryWf := by
  induction n generalizing s with
  | zero => exact h
  | succ n ih =>
    refine ih _ ?_
    split
    · exact poke_memoryWf _ _ _ h
    · exact h

/-- The save area that a kill abandons keeps the canonical form of memory. -/
theorem spoilSave_memoryWf (ctx : Nat) (s : State) (h : s.memoryWf) : (spoilSave ctx s).memoryWf := by
  unfold spoilSave
  split
  · exact freeRange_memoryWf _ _ _ h
  · exact h

theorem spoilPhases_memoryWf (core : Nat) (g : Group) (off n : Nat) (os : List Nat) (s : State) (h : s.memoryWf) :
    (spoilPhases core g off n os s).memoryWf := by
  induction os generalizing s with
  | nil => exact h
  | cons o os ih =>
    simp only [spoilPhases]
    split
    · exact ih _ (scratchWrite_memoryWf core g o _ s h)
    · exact ih _ h

/-- A store that meets no phase barrier with operations pending writes its own bytes alone. -/
theorem spoilPhases_apart (core : Nat) (g : Group) (off n : Nat) (os : List Nat) (s : State)
    (h : ∀ o ∈ os, o + 16 ≤ off ∨ off + n ≤ o) : spoilPhases core g off n os s = s := by
  induction os generalizing s with
  | nil => rfl
  | cons o os ih =>
    have ho : ¬ (o < off + n ∧ off < o + 16) := by have := h o (by simp); omega
    have hb : (decide (o < off + n) && decide (off < o + 16)) = false := by simpa using ho
    simp only [spoilPhases, hb]
    exact ih _ (fun x hx => h x (List.mem_cons_of_mem _ hx))

/-- A write of a group's scratchpad leaves every byte outside it, of every core, as it was. -/
theorem scratchWrite_outside (core : Nat) (g : Group) (off : Nat) (bs : List Byte) (s : State) (n a : Nat)
    (h : n ≠ core ∨ a < g.sbase + off ∨ g.sbase + off + bs.length ≤ a) :
    memRead (getCore (scratchWrite core g off bs s) n).scratch a = memRead (getCore s n).scratch a := by
  by_cases hn : n = core
  · subst hn
    simp only [scratchWrite, getCore_modCore_same]
    exact memRead_memWriteBytes_outside _ _ _ _ (h.resolve_left (by simp))
  · simp only [scratchWrite, getCore_modCore_ne _ _ _ _ hn]

end Sys2Proof.Machine
end

