-- ==== Sys2Proof/Laws/PerInstr.lean ====
section
/-! SUPPORT. What every constructor's row of the opcode table says of its encoding, constructor by constructor. -/

open Sys2Proof Sys2Proof.Machine

/-- A well-formed instruction has an opcode of 7 bits, its fields meet no reason to be illegal, and the table read the
other way gives the instruction back (17 R366); a step of the device has operands in their ranges. -/
def Sys2Proof.Laws.OpcodeRow.Statement (i : Instr) : Prop :=
  i.WellFormed → match encOf i with
    | .base op w => op < 128 ∧ ofBase op w = some i ∧ illegalBase op w = none
    | .form op f => op < 128 ∧ ofForm op f = some i ∧ illegalForm op f = none
    | .step => i.stepOk = true

namespace Sys2Proof.Laws.OpcodeRow

theorem of_base {i : Instr} {op : Nat} {w : Base} (e : encOf i = .base op w) (h : op < 128) : Statement i := by
  intro hw
  rw [e]
  simp only [Instr.WellFormed, Instr.illegal, e] at hw
  split at hw
  · exact ⟨h, ‹_›, hw⟩
  · cases hw

theorem of_form {i : Instr} {op : Nat} {f : Form} (e : encOf i = .form op f) (h : op < 128) : Statement i := by
  intro hw
  rw [e]
  simp only [Instr.WellFormed, Instr.illegal, e] at hw
  split at hw
  · exact ⟨h, ‹_›, hw⟩
  · cases hw

theorem of_step {i : Instr} (e : encOf i = .step) : Statement i := by
  intro hw
  rw [e]
  simp only [Instr.WellFormed, Instr.illegal, e] at hw
  split at hw
  · assumption
  · cases hw

theorem iadd (w : Base) : Statement (.iadd w) := of_base rfl (by decide)
theorem iaddExt (f : Form) : Statement (.iaddExt f) := of_form rfl (by decide)
theorem isub (w : Base) : Statement (.isub w) := of_base rfl (by decide)
theorem isubExt (f : Form) : Statement (.isubExt f) := of_form rfl (by decide)
theorem iaddc (f : Form) : Statement (.iaddc f) := of_form rfl (by decide)
theorem isubb (f : Form) : Statement (.isubb f) := of_form rfl (by decide)
theorem imul (w : Base) : Statement (.imul w) := of_base rfl (by decide)
theorem imulExt (f : Form) : Statement (.imulExt f) := of_form rfl (by decide)
theorem imad (w : Base) : Statement (.imad w) := of_base rfl (by decide)
theorem imadExt (f : Form) : Statement (.imadExt f) := of_form rfl (by decide)
theorem imadw (w : Base) : Statement (.imadw w) := of_base rfl (by decide)
theorem imadwExt (f : Form) : Statement (.imadwExt f) := of_form rfl (by decide)
theorem idiv (w : Base) : Statement (.idiv w) := of_base rfl (by decide)
theorem idivExt (f : Form) : Statement (.idivExt f) := of_form rfl (by decide)
theorem irem (w : Base) : Statement (.irem w) := of_base rfl (by decide)
theorem iremExt (f : Form) : Statement (.iremExt f) := of_form rfl (by decide)
theorem imin (w : Base) : Statement (.imin w) := of_base rfl (by decide)
theorem iminExt (f : Form) : Statement (.iminExt f) := of_form rfl (by decide)
theorem imax (w : Base) : Statement (.imax w) := of_base rfl (by decide)
theorem imaxExt (f : Form) : Statement (.imaxExt f) := of_form rfl (by decide)
theorem iabs (w : Base) : Statement (.iabs w) := of_base rfl (by decide)
theorem iabsExt (f : Form) : Statement (.iabsExt f) := of_form rfl (by decide)
theorem ineg (w : Base) : Statement (.ineg w) := of_base rfl (by decide)
theorem inegExt (f : Form) : Statement (.inegExt f) := of_form rfl (by decide)
theorem icmp (w : Base) : Statement (.icmp w) := of_base rfl (by decide)
theorem icmpExt (f : Form) : Statement (.icmpExt f) := of_form rfl (by decide)
theorem isel (f : Form) : Statement (.isel f) := of_form rfl (by decide)
theorem idot4 (w : Base) : Statement (.idot4 w) := of_base rfl (by decide)
theorem idot4Ext (f : Form) : Statement (.idot4Ext f) := of_form rfl (by decide)
theorem isad (f : Form) : Statement (.isad f) := of_form rfl (by decide)
theorem andB (w : Base) : Statement (.andB w) := of_base rfl (by decide)
theorem andBExt (f : Form) : Statement (.andBExt f) := of_form rfl (by decide)
theorem orB (w : Base) : Statement (.orB w) := of_base rfl (by decide)
theorem orBExt (f : Form) : Statement (.orBExt f) := of_form rfl (by decide)
theorem xorB (w : Base) : Statement (.xorB w) := of_base rfl (by decide)
theorem xorBExt (f : Form) : Statement (.xorBExt f) := of_form rfl (by decide)
theorem notB (w : Base) : Statement (.notB w) := of_base rfl (by decide)
theorem notBExt (f : Form) : Statement (.notBExt f) := of_form rfl (by decide)
theorem lop3 (f : Form) : Statement (.lop3 f) := of_form rfl (by decide)
theorem shl (w : Base) : Statement (.shl w) := of_base rfl (by decide)
theorem shlExt (f : Form) : Statement (.shlExt f) := of_form rfl (by decide)
theorem shr (w : Base) : Statement (.shr w) := of_base rfl (by decide)
theorem shrExt (f : Form) : Statement (.shrExt f) := of_form rfl (by decide)
theorem sar (w : Base) : Statement (.sar w) := of_base rfl (by decide)
theorem sarExt (f : Form) : Statement (.sarExt f) := of_form rfl (by decide)
theorem rotl (w : Base) : Statement (.rotl w) := of_base rfl (by decide)
theorem rotlExt (f : Form) : Statement (.rotlExt f) := of_form rfl (by decide)
theorem funl (w : Base) : Statement (.funl w) := of_base rfl (by decide)
theorem funlExt (f : Form) : Statement (.funlExt f) := of_form rfl (by decide)
theorem bfx (w : Base) : Statement (.bfx w) := of_base rfl (by decide)
theorem bfxExt (f : Form) : Statement (.bfxExt f) := of_form rfl (by decide)
theorem bfi (w : Base) : Statement (.bfi w) := of_base rfl (by decide)
theorem bfiExt (f : Form) : Statement (.bfiExt f) := of_form rfl (by decide)
theorem popc (w : Base) : Statement (.popc w) := of_base rfl (by decide)
theorem popcExt (f : Form) : Statement (.popcExt f) := of_form rfl (by decide)
theorem clz (w : Base) : Statement (.clz w) := of_base rfl (by decide)
theorem clzExt (f : Form) : Statement (.clzExt f) := of_form rfl (by decide)
theorem ctz (w : Base) : Statement (.ctz w) := of_base rfl (by decide)
theorem ctzExt (f : Form) : Statement (.ctzExt f) := of_form rfl (by decide)
theorem brev (w : Base) : Statement (.brev w) := of_base rfl (by decide)
theorem brevExt (f : Form) : Statement (.brevExt f) := of_form rfl (by decide)
theorem perm (w : Base) : Statement (.perm w) := of_base rfl (by decide)
theorem permExt (f : Form) : Statement (.permExt f) := of_form rfl (by decide)
theorem fadd (w : Base) : Statement (.fadd w) := of_base rfl (by decide)
theorem faddExt (f : Form) : Statement (.faddExt f) := of_form rfl (by decide)
theorem fsub (w : Base) : Statement (.fsub w) := of_base rfl (by decide)
theorem fsubExt (f : Form) : Statement (.fsubExt f) := of_form rfl (by decide)
theorem fmul (w : Base) : Statement (.fmul w) := of_base rfl (by decide)
theorem fmulExt (f : Form) : Statement (.fmulExt f) := of_form rfl (by decide)
theorem ffma (w : Base) : Statement (.ffma w) := of_base rfl (by decide)
theorem ffmaExt (f : Form) : Statement (.ffmaExt f) := of_form rfl (by decide)
theorem fmin (w : Base) : Statement (.fmin w) := of_base rfl (by decide)
theorem fminExt (f : Form) : Statement (.fminExt f) := of_form rfl (by decide)
theorem fmax (w : Base) : Statement (.fmax w) := of_base rfl (by decide)
theorem fmaxExt (f : Form) : Statement (.fmaxExt f) := of_form rfl (by decide)
theorem fcmp (w : Base) : Statement (.fcmp w) := of_base rfl (by decide)
theorem fcmpExt (f : Form) : Statement (.fcmpExt f) := of_form rfl (by decide)
theorem frcp (w : Base) : Statement (.frcp w) := of_base rfl (by decide)
theorem frcpExt (f : Form) : Statement (.frcpExt f) := of_form rfl (by decide)
theorem frsq (w : Base) : Statement (.frsq w) := of_base rfl (by decide)
theorem frsqExt (f : Form) : Statement (.frsqExt f) := of_form rfl (by decide)
theorem fsqrt (w : Base) : Statement (.fsqrt w) := of_base rfl (by decide)
theorem fsqrtExt (f : Form) : Statement (.fsqrtExt f) := of_form rfl (by decide)
theorem fdiv (w : Base) : Statement (.fdiv w) := of_base rfl (by decide)
theorem fdivExt (f : Form) : Statement (.fdivExt f) := of_form rfl (by decide)
theorem fex2 (w : Base) : Statement (.fex2 w) := of_base rfl (by decide)
theorem fex2Ext (f : Form) : Statement (.fex2Ext f) := of_form rfl (by decide)
theorem flg2 (w : Base) : Statement (.flg2 w) := of_base rfl (by decide)
theorem flg2Ext (f : Form) : Statement (.flg2Ext f) := of_form rfl (by decide)
theorem fsin (w : Base) : Statement (.fsin w) := of_base rfl (by decide)
theorem fsinExt (f : Form) : Statement (.fsinExt f) := of_form rfl (by decide)
theorem fcos (w : Base) : Statement (.fcos w) := of_base rfl (by decide)
theorem fcosExt (f : Form) : Statement (.fcosExt f) := of_form rfl (by decide)
theorem ftanh (w : Base) : Statement (.ftanh w) := of_base rfl (by decide)
theorem ftanhExt (f : Form) : Statement (.ftanhExt f) := of_form rfl (by decide)
theorem fclass (w : Base) : Statement (.fclass w) := of_base rfl (by decide)
theorem fclassExt (f : Form) : Statement (.fclassExt f) := of_form rfl (by decide)
theorem frnd (w : Base) : Statement (.frnd w) := of_base rfl (by decide)
theorem frndExt (f : Form) : Statement (.frndExt f) := of_form rfl (by decide)
theorem cvt (f : Form) : Statement (.cvt f) := of_form rfl (by decide)
theorem cvtsr (f : Form) : Statement (.cvtsr f) := of_form rfl (by decide)
theorem packf4 (f : Form) : Statement (.packf4 f) := of_form rfl (by decide)
theorem unpkf4 (f : Form) : Statement (.unpkf4 f) := of_form rfl (by decide)
theorem qblk (f : Form) : Statement (.qblk f) := of_form rfl (by decide)
theorem rsplit (w : Base) : Statement (.rsplit w) := of_base rfl (by decide)
theorem rsplitExt (f : Form) : Statement (.rsplitExt f) := of_form rfl (by decide)
theorem rmerge (f : Form) : Statement (.rmerge f) := of_form rfl (by decide)
theorem radd (w : Base) : Statement (.radd w) := of_base rfl (by decide)
theorem raddExt (f : Form) : Statement (.raddExt f) := of_form rfl (by decide)
theorem rsub (w : Base) : Statement (.rsub w) := of_base rfl (by decide)
theorem rsubExt (f : Form) : Statement (.rsubExt f) := of_form rfl (by decide)
theorem rmul (w : Base) : Statement (.rmul w) := of_base rfl (by decide)
theorem rmulExt (f : Form) : Statement (.rmulExt f) := of_form rfl (by decide)
theorem rchk (w : Base) : Statement (.rchk w) := of_base rfl (by decide)
theorem rchkExt (f : Form) : Statement (.rchkExt f) := of_form rfl (by decide)
theorem mov (w : Base) : Statement (.mov w) := of_base rfl (by decide)
theorem movExt (f : Form) : Statement (.movExt f) := of_form rfl (by decide)
theorem movi (f : Form) : Statement (.movi f) := of_form rfl (by decide)
theorem gets (f : Form) : Statement (.gets f) := of_form rfl (by decide)
theorem sets (f : Form) : Statement (.sets f) := of_form rfl (by decide)
theorem vote (f : Form) : Statement (.vote f) := of_form rfl (by decide)
theorem shfl (f : Form) : Statement (.shfl f) := of_form rfl (by decide)
theorem matchOp (f : Form) : Statement (.matchOp f) := of_form rfl (by decide)
theorem redx (f : Form) : Statement (.redx f) := of_form rfl (by decide)
theorem widthOp (f : Form) : Statement (.widthOp f) := of_form rfl (by decide)
theorem regang (f : Form) : Statement (.regang f) := of_form rfl (by decide)
theorem spawn (f : Form) : Statement (.spawn f) := of_form rfl (by decide)
theorem jinit (f : Form) : Statement (.jinit f) := of_form rfl (by decide)
theorem jwait (f : Form) : Statement (.jwait f) := of_form rfl (by decide)
theorem exitOp (f : Form) : Statement (.exitOp f) := of_form rfl (by decide)
theorem lnch (f : Form) : Statement (.lnch f) := of_form rfl (by decide)
theorem qtokNew (f : Form) : Statement (.qtokNew f) := of_form rfl (by decide)
theorem qtokTest (f : Form) : Statement (.qtokTest f) := of_form rfl (by decide)
theorem qtokFree (f : Form) : Statement (.qtokFree f) := of_form rfl (by decide)
theorem bra (f : Form) : Statement (.bra f) := of_form rfl (by decide)
theorem brx (f : Form) : Statement (.brx f) := of_form rfl (by decide)
theorem callOp (f : Form) : Statement (.callOp f) := of_form rfl (by decide)
theorem callx (f : Form) : Statement (.callx f) := of_form rfl (by decide)
theorem retOp (f : Form) : Statement (.retOp f) := of_form rfl (by decide)
theorem loopOp (f : Form) : Statement (.loopOp f) := of_form rfl (by decide)
theorem yieldOp (f : Form) : Statement (.yieldOp f) := of_form rfl (by decide)
theorem nop (f : Form) : Statement (.nop f) := of_form rfl (by decide)
theorem bkpt (f : Form) : Statement (.bkpt f) := of_form rfl (by decide)
theorem trapOp (f : Form) : Statement (.trapOp f) := of_form rfl (by decide)
theorem tret (f : Form) : Statement (.tret f) := of_form rfl (by decide)
theorem waitf (f : Form) : Statement (.waitf f) := of_form rfl (by decide)
theorem phint (f : Form) : Statement (.phint f) := of_form rfl (by decide)
theorem vcommit (f : Form) : Statement (.vcommit f) := of_form rfl (by decide)
theorem ld (f : Form) : Statement (.ld f) := of_form rfl (by decide)
theorem st (f : Form) : Statement (.st f) := of_form rfl (by decide)
theorem lds (f : Form) : Statement (.lds f) := of_form rfl (by decide)
theorem sts (f : Form) : Statement (.sts f) := of_form rfl (by decide)
theorem win (f : Form) : Statement (.win f) := of_form rfl (by decide)
theorem atom (f : Form) : Statement (.atom f) := of_form rfl (by decide)
theorem atomw (f : Form) : Statement (.atomw f) := of_form rfl (by decide)
theorem ratom (f : Form) : Statement (.ratom f) := of_form rfl (by decide)
theorem fence (f : Form) : Statement (.fence f) := of_form rfl (by decide)
theorem pref (f : Form) : Statement (.pref f) := of_form rfl (by decide)
theorem discard (f : Form) : Statement (.discard f) := of_form rfl (by decide)
theorem nzero (f : Form) : Statement (.nzero f) := of_form rfl (by decide)
theorem ncopy (f : Form) : Statement (.ncopy f) := of_form rfl (by decide)
theorem ncmp (f : Form) : Statement (.ncmp f) := of_form rfl (by decide)
theorem nfence (f : Form) : Statement (.nfence f) := of_form rfl (by decide)
theorem cpy (f : Form) : Statement (.cpy f) := of_form rfl (by decide)
theorem cpyl (f : Form) : Statement (.cpyl f) := of_form rfl (by decide)
theorem tdef (f : Form) : Statement (.tdef f) := of_form rfl (by decide)
theorem tstat (f : Form) : Statement (.tstat f) := of_form rfl (by decide)
theorem trel (f : Form) : Statement (.trel f) := of_form rfl (by decide)
theorem pbinit (f : Form) : Statement (.pbinit f) := of_form rfl (by decide)
theorem pbexp (f : Form) : Statement (.pbexp f) := of_form rfl (by decide)
theorem pbarv (f : Form) : Statement (.pbarv f) := of_form rfl (by decide)
theorem pbwait (f : Form) : Statement (.pbwait f) := of_form rfl (by decide)
theorem bdef (f : Form) : Statement (.bdef f) := of_form rfl (by decide)
theorem barv (f : Form) : Statement (.barv f) := of_form rfl (by decide)
theorem bwait (f : Form) : Statement (.bwait f) := of_form rfl (by decide)
theorem bsync (f : Form) : Statement (.bsync f) := of_form rfl (by decide)
theorem mshape (f : Form) : Statement (.mshape f) := of_form rfl (by decide)
theorem mzero (f : Form) : Statement (.mzero f) := of_form rfl (by decide)
theorem mma (f : Form) : Statement (.mma f) := of_form rfl (by decide)
theorem mldcRp8 (f : Form) : Statement (.mldcRp8 f) := of_form rfl (by decide)
theorem mldcImg (f : Form) : Statement (.mldcImg f) := of_form rfl (by decide)
theorem mdrain (f : Form) : Statement (.mdrain f) := of_form rfl (by decide)
theorem msave (f : Form) : Statement (.msave f) := of_form rfl (by decide)
theorem mstat (f : Form) : Statement (.mstat f) := of_form rfl (by decide)
theorem issueCycle : ∀ a b, Statement (.issueCycle a b) := fun _ _ => of_step rfl
theorem liftRecallDecision : ∀ a, Statement (.liftRecallDecision a) := fun _ => of_step rfl
theorem gangLiftComplete : ∀ a b, Statement (.gangLiftComplete a b) := fun _ _ => of_step rfl
theorem gangRecallComplete : ∀ a b, Statement (.gangRecallComplete a b) := fun _ _ => of_step rfl
theorem gangRetire : ∀ a b, Statement (.gangRetire a b) := fun _ _ => of_step rfl
theorem geyserForm : ∀ a, Statement (.geyserForm a) := fun _ => of_step rfl
theorem refillBatchBegin : ∀ a, Statement (.refillBatchBegin a) := fun _ => of_step rfl
theorem spillRecordLand : ∀ a, Statement (.spillRecordLand a) := fun _ => of_step rfl
theorem barrierCompletionArrive : ∀ a b c, Statement (.barrierCompletionArrive a b c) := fun _ _ _ => of_step rfl
theorem barrierStallTimeout : ∀ a b c, Statement (.barrierStallTimeout a b c) := fun _ _ _ => of_step rfl
theorem regangComplete : ∀ a b, Statement (.regangComplete a b) := fun _ _ => of_step rfl
theorem regangTimeout : ∀ a b, Statement (.regangTimeout a b) := fun _ _ => of_step rfl
theorem watchdogExpiry : ∀ a b c, Statement (.watchdogExpiry a b c) := fun _ _ _ => of_step rfl
theorem longLatencyComplete : ∀ a b, Statement (.longLatencyComplete a b) := fun _ _ => of_step rfl
theorem engineFaultDelivery : ∀ a b, Statement (.engineFaultDelivery a b) := fun _ _ => of_step rfl
theorem copyAccept : ∀ a, Statement (.copyAccept a) := fun _ => of_step rfl
theorem copyChunkPerformed : ∀ a, Statement (.copyChunkPerformed a) := fun _ => of_step rfl
theorem matrixCmdAccept : ∀ a, Statement (.matrixCmdAccept a) := fun _ => of_step rfl
theorem scopeCommandStart : ∀ a, Statement (.scopeCommandStart a) := fun _ => of_step rfl
theorem mmaRetire : ∀ a, Statement (.mmaRetire a) := fun _ => of_step rfl
theorem mzeroDone : ∀ a, Statement (.mzeroDone a) := fun _ => of_step rfl
theorem drainComplete : ∀ a, Statement (.drainComplete a) := fun _ => of_step rfl
theorem msaveComplete : ∀ a, Statement (.msaveComplete a) := fun _ => of_step rfl
theorem mldcComplete : ∀ a, Statement (.mldcComplete a) := fun _ => of_step rfl
theorem inLayerComplete : ∀ a, Statement (.inLayerComplete a) := fun _ => of_step rfl
theorem preemptDeadline : ∀ a, Statement (.preemptDeadline a) := fun _ => of_step rfl
theorem gangSave : ∀ a b, Statement (.gangSave a b) := fun _ _ => of_step rfl
theorem contextSaved : ∀ a, Statement (.contextSaved a) := fun _ => of_step rfl
theorem saveFailure : ∀ a, Statement (.saveFailure a) := fun _ => of_step rfl
theorem contextResume : ∀ a, Statement (.contextResume a) := fun _ => of_step rfl
theorem contextKill : ∀ a, Statement (.contextKill a) := fun _ => of_step rfl
theorem killComplete : ∀ a b, Statement (.killComplete a b) := fun _ _ => of_step rfl
theorem queueSwitchOut : ∀ a, Statement (.queueSwitchOut a) := fun _ => of_step rfl
theorem podJoinTimeout : ∀ a, Statement (.podJoinTimeout a) := fun _ => of_step rfl
theorem ventTakeover : ∀ a, Statement (.ventTakeover a) := fun _ => of_step rfl
theorem shadowCompare : ∀ a b, Statement (.shadowCompare a b) := fun _ _ => of_step rfl
theorem taskDiscardRetry : ∀ a b c, Statement (.taskDiscardRetry a b c) := fun _ _ _ => of_step rfl
theorem scoreboardRebuild : ∀ a b, Statement (.scoreboardRebuild a b) := fun _ _ => of_step rfl
theorem scanTestStart : ∀ a, Statement (.scanTestStart a) := fun _ => of_step rfl
theorem prsMapped : ∀ a, Statement (.prsMapped a) := fun _ => of_step rfl
theorem prsRefused : ∀ a, Statement (.prsRefused a) := fun _ => of_step rfl
theorem prsDiscard : ∀ a, Statement (.prsDiscard a) := fun _ => of_step rfl
theorem tlbiPage : ∀ a, Statement (.tlbiPage a) := fun _ => of_step rfl
theorem tlbiContext : ∀ a, Statement (.tlbiContext a) := fun _ => of_step rfl
theorem migCmd : ∀ a, Statement (.migCmd a) := fun _ => of_step rfl
theorem ctxCmdSuspend : ∀ a, Statement (.ctxCmdSuspend a) := fun _ => of_step rfl
theorem ctxCmdResume : ∀ a, Statement (.ctxCmdResume a) := fun _ => of_step rfl
theorem ctxCmdKill : ∀ a, Statement (.ctxCmdKill a) := fun _ => of_step rfl
theorem qtailWrite : ∀ a b, Statement (.qtailWrite a b) := fun _ _ => of_step rfl
theorem tokReqWrite : ∀ a, Statement (.tokReqWrite a) := fun _ => of_step rfl
theorem podLaunchJoin : ∀ a b, Statement (.podLaunchJoin a b) := fun _ _ => of_step rfl
theorem podBatchClaim : ∀ a b c d, Statement (.podBatchClaim a b c d) := fun _ _ _ _ => of_step rfl
theorem podLeaderElection : ∀ a b c, Statement (.podLeaderElection a b c) := fun _ _ _ => of_step rfl
theorem podParticipantReport : ∀ a b, Statement (.podParticipantReport a b) := fun _ _ => of_step rfl
theorem quarScrub : ∀ a, Statement (.quarScrub a) := fun _ => of_step rfl
theorem awlAudit : ∀ a b c d e, Statement (.awlAudit a b c d e) := fun _ _ _ _ _ => of_step rfl
theorem sinterLayerLoss : ∀ a, Statement (.sinterLayerLoss a) := fun _ => of_step rfl
theorem scanTestEnd : ∀ a b, Statement (.scanTestEnd a b) := fun _ _ => of_step rfl
theorem peerLost : ∀ a, Statement (.peerLost a) := fun _ => of_step rfl
theorem peerRecoveryNotice : ∀ a, Statement (.peerRecoveryNotice a) := fun _ => of_step rfl
theorem podRemoteAccess : ∀ a b c, Statement (.podRemoteAccess a b c) := fun _ _ _ => of_step rfl
theorem powerLoss : ∀ a, Statement (.powerLoss a) := fun _ => of_step rfl
theorem firmwareStart : ∀ a b c, Statement (.firmwareStart a b c) := fun _ _ _ => of_step rfl
theorem railTelemetryUpdate : ∀ a b c d e, Statement (.railTelemetryUpdate a b c d e) := fun _ _ _ _ _ => of_step rfl
theorem currentLimit : ∀ a, Statement (.currentLimit a) := fun _ => of_step rfl
theorem boilGovernorPeriod : ∀ a, Statement (.boilGovernorPeriod a) := fun _ => of_step rfl
theorem lastTrip : ∀ a, Statement (.lastTrip a) := fun _ => of_step rfl
theorem weltTrip : ∀ a b, Statement (.weltTrip a b) := fun _ _ => of_step rfl
theorem weltRepower : ∀ a, Statement (.weltRepower a) := fun _ => of_step rfl
theorem layerRepower : ∀ a, Statement (.layerRepower a) := fun _ => of_step rfl
theorem connectorMeasure : ∀ a, Statement (.connectorMeasure a) := fun _ => of_step rfl
theorem mgmtMessage : ∀ a b c, Statement (.mgmtMessage a b c) := fun _ _ _ => of_step rfl
theorem podCfgWrite : ∀ a, Statement (.podCfgWrite a) := fun _ => of_step rfl
theorem mxrValidSet : ∀ a b, Statement (.mxrValidSet a b) := fun _ _ => of_step rfl
theorem mxrValidClear : ∀ a, Statement (.mxrValidClear a) := fun _ => of_step rfl
theorem registerWrite : ∀ a b c, Statement (.registerWrite a b c) := fun _ _ _ => of_step rfl
theorem bar2Access : ∀ a b c, Statement (.bar2Access a b c) := fun _ _ _ => of_step rfl
theorem expanderFailure : ∀ a, Statement (.expanderFailure a) := fun _ => of_step rfl
theorem peerViralNotice : ∀ a, Statement (.peerViralNotice a) := fun _ => of_step rfl
theorem ualinkPortTrained : ∀ a, Statement (.ualinkPortTrained a) := fun _ => of_step rfl
theorem weltFailure : ∀ a b, Statement (.weltFailure a b) := fun _ _ => of_step rfl
theorem tlbWalkComplete : Statement .tlbWalkComplete := of_step rfl
theorem pageRequestRecordWrite : Statement .pageRequestRecordWrite := of_step rfl
theorem tlbiComplete : Statement .tlbiComplete := of_step rfl
theorem migrationComplete : Statement .migrationComplete := of_step rfl
theorem ventSchedulingPass : Statement .ventSchedulingPass := of_step rfl
theorem launchCompletion : Statement .launchCompletion := of_step rfl
theorem budgetPeriod : Statement .budgetPeriod := of_step rfl
theorem scrubComplete : Statement .scrubComplete := of_step rfl
theorem weltDegradeSample : Statement .weltDegradeSample := of_step rfl
theorem powerOn : Statement .powerOn := of_step rfl
theorem conventionalReset : Statement .conventionalReset := of_step rfl
theorem fwGo : Statement .fwGo := of_step rfl
theorem attCmdReport : Statement .attCmdReport := of_step rfl
theorem attCmdCert : Statement .attCmdCert := of_step rfl
theorem containClrLog : Statement .containClrLog := of_step rfl
theorem containClrWcnt : Statement .containClrWcnt := of_step rfl
theorem cevClrDrop : Statement .cevClrDrop := of_step rfl
theorem l2TagUncorrectableError : Statement .l2TagUncorrectableError := of_step rfl

end Sys2Proof.Laws.OpcodeRow
end

