-- ==== Sys2Proof/Laws/Words.lean ====
section
/-! SUPPORT. Fields of words, and the words of the device control block, after a write. -/

namespace Sys2Proof.Machine

/-- A number with a field set, as its parts below, in and above the field. -/
theorem setFieldN_eq (x hi lo v : Nat) :
    setFieldN x hi lo v =
      x % 2 ^ lo + 2 ^ lo * (x / 2 ^ lo / 2 ^ (hi + 1 - lo) * 2 ^ (hi + 1 - lo) + v % 2 ^ (hi + 1 - lo)) := by
  unfold setFieldN fieldN
  have h1 := Nat.div_add_mod x (2 ^ lo)
  have h2 := Nat.div_add_mod (x / 2 ^ lo) (2 ^ (hi + 1 - lo))
  generalize x / 2 ^ lo = k at *
  generalize hw : 2 ^ (hi + 1 - lo) = w at *
  have h3 : 2 ^ lo * k = 2 ^ lo * (k / w * w) + k % w * 2 ^ lo := by
    conv => lhs; rw [← h2]
    rw [Nat.mul_add, Nat.mul_comm w, Nat.mul_comm (k % w)]
  rw [Nat.mul_add, Nat.mul_comm (v % w)]
  omega

/-- A field that is set reads as its value. -/
theorem fieldN_setFieldN_same (x hi lo v : Nat) : fieldN (setFieldN x hi lo v) hi lo = v % 2 ^ (hi + 1 - lo) := by
  rw [setFieldN_eq]
  unfold fieldN
  rw [Nat.add_mul_div_left _ _ (Nat.two_pow_pos lo), Nat.div_eq_of_lt (Nat.mod_lt _ (Nat.two_pow_pos lo)), Nat.zero_add,
    Nat.mul_comm, Nat.mul_add_mod, Nat.mod_mod]

/-- The bits outside a field that is set are as they were. -/
theorem testBit_setFieldN_outside (x hi lo v i : Nat) (h : i < lo ∨ hi < i) (hl : lo ≤ hi + 1) :
    (setFieldN x hi lo v).testBit i = x.testBit i := by
  rw [setFieldN_eq, Nat.add_comm]
  have hm : x % 2 ^ lo < 2 ^ lo := Nat.mod_lt _ (Nat.two_pow_pos lo)
  rw [Nat.testBit_two_pow_mul_add _ hm]
  split
  · simp [*]
  · rename_i hi'
    have hw : v % 2 ^ (hi + 1 - lo) < 2 ^ (hi + 1 - lo) := Nat.mod_lt _ (Nat.two_pow_pos _)
    rw [Nat.mul_comm, Nat.testBit_two_pow_mul_add _ hw, if_neg (by omega), Nat.testBit_div_two_pow, Nat.testBit_div_two_pow]
    congr 1
    omega

/-- A field of a word, as the bits it holds. -/
theorem testBit_fieldN (x hi lo i : Nat) : (fieldN x hi lo).testBit i = (decide (i < hi + 1 - lo) && x.testBit (lo + i)) := by
  simp [fieldN, Nat.testBit_mod_two_pow, Nat.testBit_div_two_pow, Nat.add_comm]

/-- A field apart from one that is set is as it was. -/
theorem fieldN_setFieldN_ne (x hi lo v hi' lo' : Nat) (h : hi < lo' ∨ hi' < lo) (hl : lo ≤ hi + 1) :
    fieldN (setFieldN x hi lo v) hi' lo' = fieldN x hi' lo' := by
  apply Nat.eq_of_testBit_eq
  intro i
  simp only [testBit_fieldN]
  by_cases hb : i < hi' + 1 - lo'
  · rw [testBit_setFieldN_outside _ _ _ _ _ (by omega) hl]
  · simp [hb]

/-- Setting a field keeps a number within the word. -/
theorem setFieldN_lt (x hi lo v n : Nat) (hx : x < 2 ^ n) (hh : hi < n) (hl : lo ≤ hi + 1) : setFieldN x hi lo v < 2 ^ n := by
  apply Nat.lt_pow_two_of_testBit
  intro i hi'
  rw [testBit_setFieldN_outside _ _ _ _ _ (by omega) hl]
  exact Nat.testBit_lt_two_pow (Nat.lt_of_lt_of_le hx (Nat.pow_le_pow_right (by omega) hi'))

theorem field_setField_same {n : Nat} (w : BitVec n) (hi lo v : Nat) (hh : hi < n) (hl : lo ≤ hi + 1) :
    field (setField w hi lo v) hi lo = v % 2 ^ (hi + 1 - lo) := by
  simp only [field, setField, BitVec.toNat_ofNat]
  rw [Nat.mod_eq_of_lt (setFieldN_lt _ _ _ _ _ w.isLt hh hl), fieldN_setFieldN_same]

theorem field_setField_ne {n : Nat} (w : BitVec n) (hi lo v hi' lo' : Nat) (hh : hi < n) (hl : lo ≤ hi + 1)
    (h : hi < lo' ∨ hi' < lo) : field (setField w hi lo v) hi' lo' = field w hi' lo' := by
  simp only [field, setField, BitVec.toNat_ofNat]
  rw [Nat.mod_eq_of_lt (setFieldN_lt _ _ _ _ _ w.isLt hh hl), fieldN_setFieldN_ne _ _ _ _ _ _ h hl]

/-! ## Words of the device control block -/

@[simp] theorem reg64_setReg64_same (s : State) (off : Nat) (v : BitVec 64) (h : off % 4 = 0) :
    reg64 (setReg64 s off v) off = v := by
  unfold reg64 setReg64
  rw [reg32_setReg32_same, reg32_setReg32_ne _ _ _ _ (by omega), reg32_setReg32_same]
  apply BitVec.eq_of_getLsbD_eq
  intro i hi
  rw [BitVec.getLsbD_append]
  split
  · simp [*]
  · simp [show i - 32 < 32 by omega, show 32 + (i - 32) = i by omega]

theorem reg32_setReg64_ne (s : State) (off o : Nat) (v : BitVec 64) (h : o / 4 ≠ off / 4) (h4 : o / 4 ≠ (off + 4) / 4) :
    reg32 (setReg64 s off v) o = reg32 s o := by
  unfold setReg64
  rw [reg32_setReg32_ne _ _ _ _ h4, reg32_setReg32_ne _ _ _ _ h]

/-- A field of a register that is set reads as its value. -/
theorem field_setRegField_same (s : State) (off hi lo v : Nat) (hh : hi < 32) (hl : lo ≤ hi + 1) :
    field (reg32 (setRegField s off hi lo v) off) hi lo = v % 2 ^ (hi + 1 - lo) := by
  rw [setRegField, reg32_setReg32_same, field_setField_same _ _ _ _ hh hl]

theorem reg32_setRegField_ne (s : State) (off hi lo v o : Nat) (h : o / 4 ≠ off / 4) :
    reg32 (setRegField s off hi lo v) o = reg32 s o := reg32_setReg32_ne _ _ _ _ h

end Sys2Proof.Machine
end

