-- ==== Sys2Proof/Tests/Slice0.lean ====
section
/-! SUPPORT. The model's own tests: words of every constructor, ill-formed terms, single steps, and states that meet the
hypotheses of the statements. -/

set_option maxRecDepth 8000

namespace Sys2Proof.Tests

open Sys2Proof.Machine

/-! ## Decoding: words from the layouts of 16 R341 and R343 -/

/-- Extended fields with the guard p7 and every other field 0. -/
def ex : Ext := { gn := false, minor := 0, a := 0, d := 0, b := 0, c := 0, gp := 7, kd := 0, ka := 0, kb := 0, kc := 0, typ := 0,
                  sat := false, rm := 0, sem := 0, agent := 0, stor := 0, md := 0, fs := false, imm := 0 }

/-- Each word, of a number of bits, decodes to its instruction. -/
def decodes (l : List (Nat × Nat × Instr)) : Prop := ∀ e ∈ l, decodeTableWord e.1 e.2.1 = some e.2.2

/-- 17 R368: the arithmetic opcodes, fields in the places of 16 R341 and R343. -/
theorem test_decode_arithmetic_1 : decodes [
    (32, 0x44103000, .iadd { g := 1, b := 8, a := 16, d := 24 }),
    (96, 0x7002000302001, .iaddExt (.ext { ex with d := 16, a := 24, b := 32 })),
    (32, 0x44103004, .isub { g := 1, b := 8, a := 16, d := 24 }),
    (96, 0x7002000302005, .isubExt (.ext { ex with d := 16, a := 24, b := 32 })),
    (96, 0x2007002000302009, .iaddc (.ext { ex with typ := 4, d := 16, a := 24, b := 32 })),
    (96, 0x380700200630200D, .isubb (.ext { ex with typ := 7, d := 16, a := 24, b := 32, minor := 3 })),
    (32, 0x44103010, .imul { g := 1, b := 8, a := 16, d := 24 }),
    (96, 0x7002000302011, .imulExt (.ext { ex with d := 16, a := 24, b := 32 })),
    (32, 0x44103014, .imad { g := 1, b := 8, a := 16, d := 24 }),
    (96, 0x7282000302015, .imadExt (.ext { ex with d := 16, a := 24, b := 32, c := 40 })),
    (32, 0x44103018, .imadw { g := 1, b := 8, a := 16, d := 24 }),
    (96, 0x7282000302019, .imadwExt (.ext { ex with d := 16, a := 24, b := 32, c := 40 })),
    (32, 0x4410301C, .idiv { g := 1, b := 8, a := 16, d := 24 }),
    (96, 0x700200030201D, .idivExt (.ext { ex with d := 16, a := 24, b := 32 })),
    (32, 0x44103020, .irem { g := 1, b := 8, a := 16, d := 24 }),
    (96, 0x7002000302021, .iremExt (.ext { ex with d := 16, a := 24, b := 32 }))] := by
  unfold decodes; decide

/-- 17 R368: the arithmetic opcodes, fields in the places of 16 R341 and R343. -/
theorem test_decode_arithmetic_2 : decodes [
    (32, 0x44103024, .imin { g := 1, b := 8, a := 16, d := 24 }),
    (96, 0x7002000302025, .iminExt (.ext { ex with d := 16, a := 24, b := 32 })),
    (32, 0x44103028, .imax { g := 1, b := 8, a := 16, d := 24 }),
    (96, 0x7002000302029, .imaxExt (.ext { ex with d := 16, a := 24, b := 32 })),
    (32, 0x4010302C, .iabs { g := 1, b := 0, a := 16, d := 24 }),
    (96, 0x700000030202D, .iabsExt (.ext { ex with d := 16, a := 24 })),
    (32, 0x40103030, .ineg { g := 1, b := 0, a := 16, d := 24 }),
    (96, 0x7000000302031, .inegExt (.ext { ex with d := 16, a := 24 })),
    (32, 0x44103034, .icmp { g := 1, b := 8, a := 16, d := 24 }),
    (96, 0x7002000302035, .icmpExt (.ext { ex with d := 16, a := 24, b := 32 })),
    (96, 0x407012000302039, .isel (.ext { ex with d := 16, a := 24, b := 32, kc := 2, c := 1 })),
    (32, 0x4410303C, .idot4 { g := 1, b := 8, a := 16, d := 24 }),
    (96, 0x728200030203D, .idot4Ext (.ext { ex with d := 16, a := 24, b := 32, c := 40 })),
    (96, 0x2007282000302041, .isad (.ext { ex with typ := 4, d := 16, a := 24, b := 32, c := 40 }))] := by
  unfold decodes; decide

/-- 17 R368: the logic opcodes, fields in the places of 16 R341 and R343. -/
theorem test_decode_logic_1 : decodes [
    (32, 0x44103044, .andB { g := 1, b := 8, a := 16, d := 24 }),
    (96, 0x4007002000302045, .andBExt (.ext { ex with typ := 8, d := 16, a := 24, b := 32 })),
    (32, 0x44103048, .orB { g := 1, b := 8, a := 16, d := 24 }),
    (96, 0x4007002000302049, .orBExt (.ext { ex with typ := 8, d := 16, a := 24, b := 32 })),
    (32, 0x4410304C, .xorB { g := 1, b := 8, a := 16, d := 24 }),
    (96, 0x400700200030204D, .xorBExt (.ext { ex with typ := 8, d := 16, a := 24, b := 32 })),
    (32, 0x40103050, .notB { g := 1, b := 0, a := 16, d := 24 }),
    (96, 0x4007000000302051, .notBExt (.ext { ex with typ := 8, d := 16, a := 24 })),
    (96, 0x100004007282000302055, .lop3 (.ext { ex with typ := 8, imm := 1, d := 16, a := 24, b := 32, c := 40 })),
    (32, 0x44103058, .shl { g := 1, b := 8, a := 16, d := 24 }),
    (96, 0x4007002000302059, .shlExt (.ext { ex with typ := 8, d := 16, a := 24, b := 32 })),
    (32, 0x4410305C, .shr { g := 1, b := 8, a := 16, d := 24 }),
    (96, 0x400700200030205D, .shrExt (.ext { ex with typ := 8, d := 16, a := 24, b := 32 })),
    (32, 0x44103060, .sar { g := 1, b := 8, a := 16, d := 24 }),
    (96, 0x4007002000302061, .sarExt (.ext { ex with typ := 8, d := 16, a := 24, b := 32 })),
    (32, 0x44103064, .rotl { g := 1, b := 8, a := 16, d := 24 })] := by
  unfold decodes; decide

/-- 17 R368: the logic opcodes, fields in the places of 16 R341 and R343. -/
theorem test_decode_logic_2 : decodes [
    (96, 0x4007002000302065, .rotlExt (.ext { ex with typ := 8, d := 16, a := 24, b := 32 })),
    (32, 0x44103068, .funl { g := 1, b := 8, a := 16, d := 24 }),
    (96, 0x4007282000302069, .funlExt (.ext { ex with typ := 8, d := 16, a := 24, b := 32, c := 40 })),
    (32, 0x4410306C, .bfx { g := 1, b := 8, a := 16, d := 24 }),
    (96, 0x400700200030206D, .bfxExt (.ext { ex with typ := 8, d := 16, a := 24, b := 32 })),
    (32, 0x44103070, .bfi { g := 1, b := 8, a := 16, d := 24 }),
    (96, 0x4007282000302071, .bfiExt (.ext { ex with typ := 8, d := 16, a := 24, b := 32, c := 40 })),
    (32, 0x40103074, .popc { g := 1, b := 0, a := 16, d := 24 }),
    (96, 0x4007000000302075, .popcExt (.ext { ex with typ := 8, d := 16, a := 24 })),
    (32, 0x40103078, .clz { g := 1, b := 0, a := 16, d := 24 }),
    (96, 0x4007000000302079, .clzExt (.ext { ex with typ := 8, d := 16, a := 24 })),
    (32, 0x4010307C, .ctz { g := 1, b := 0, a := 16, d := 24 }),
    (96, 0x400700000030207D, .ctzExt (.ext { ex with typ := 8, d := 16, a := 24 })),
    (32, 0x40103080, .brev { g := 1, b := 0, a := 16, d := 24 }),
    (96, 0x4007000000302081, .brevExt (.ext { ex with typ := 8, d := 16, a := 24 })),
    (32, 0x44103084, .perm { g := 1, b := 8, a := 16, d := 24 })] := by
  unfold decodes; decide

/-- 17 R368: the logic opcodes, fields in the places of 16 R341 and R343. -/
theorem test_decode_logic_3 : decodes [
    (96, 0x4007282000302085, .permExt (.ext { ex with typ := 8, d := 16, a := 24, b := 32, c := 40 }))] := by
  unfold decodes; decide

/-- 17 R369: the float opcodes, fields in the places of 16 R341 and R343. -/
theorem test_decode_float_1 : decodes [
    (32, 0x44103088, .fadd { g := 1, b := 8, a := 16, d := 24 }),
    (96, 0x5007002000302089, .faddExt (.ext { ex with typ := 10, d := 16, a := 24, b := 32 })),
    (32, 0x4410308C, .fsub { g := 1, b := 8, a := 16, d := 24 }),
    (96, 0x500700200030208D, .fsubExt (.ext { ex with typ := 10, d := 16, a := 24, b := 32 })),
    (32, 0x44103090, .fmul { g := 1, b := 8, a := 16, d := 24 }),
    (96, 0x5007002000302091, .fmulExt (.ext { ex with typ := 10, d := 16, a := 24, b := 32 })),
    (32, 0x44103094, .ffma { g := 1, b := 8, a := 16, d := 24 }),
    (96, 0x5007282000302095, .ffmaExt (.ext { ex with typ := 10, d := 16, a := 24, b := 32, c := 40 })),
    (32, 0x44103098, .fmin { g := 1, b := 8, a := 16, d := 24 }),
    (96, 0x5007002000302099, .fminExt (.ext { ex with typ := 10, d := 16, a := 24, b := 32 })),
    (32, 0x4410309C, .fmax { g := 1, b := 8, a := 16, d := 24 }),
    (96, 0x500700200030209D, .fmaxExt (.ext { ex with typ := 10, d := 16, a := 24, b := 32 })),
    (32, 0x441030A0, .fcmp { g := 1, b := 8, a := 16, d := 24 }),
    (96, 0x50070020003020A1, .fcmpExt (.ext { ex with typ := 10, d := 16, a := 24, b := 32 })),
    (32, 0x401030A4, .frcp { g := 1, b := 0, a := 16, d := 24 }),
    (96, 0x50070000003020A5, .frcpExt (.ext { ex with typ := 10, d := 16, a := 24 }))] := by
  unfold decodes; decide

/-- 17 R369: the float opcodes, fields in the places of 16 R341 and R343. -/
theorem test_decode_float_2 : decodes [
    (32, 0x401030A8, .frsq { g := 1, b := 0, a := 16, d := 24 }),
    (96, 0x50070000003020A9, .frsqExt (.ext { ex with typ := 10, d := 16, a := 24 })),
    (32, 0x401030AC, .fsqrt { g := 1, b := 0, a := 16, d := 24 }),
    (96, 0x50070000003020AD, .fsqrtExt (.ext { ex with typ := 10, d := 16, a := 24 })),
    (32, 0x441030B0, .fdiv { g := 1, b := 8, a := 16, d := 24 }),
    (96, 0x50070020003020B1, .fdivExt (.ext { ex with typ := 10, d := 16, a := 24, b := 32 })),
    (32, 0x401030B4, .fex2 { g := 1, b := 0, a := 16, d := 24 }),
    (96, 0x50070000003020B5, .fex2Ext (.ext { ex with typ := 10, d := 16, a := 24 })),
    (32, 0x401030B8, .flg2 { g := 1, b := 0, a := 16, d := 24 }),
    (96, 0x50070000003020B9, .flg2Ext (.ext { ex with typ := 10, d := 16, a := 24 })),
    (32, 0x401030BC, .fsin { g := 1, b := 0, a := 16, d := 24 }),
    (96, 0x50070000003020BD, .fsinExt (.ext { ex with typ := 10, d := 16, a := 24 })),
    (32, 0x401030C0, .fcos { g := 1, b := 0, a := 16, d := 24 }),
    (96, 0x50070000003020C1, .fcosExt (.ext { ex with typ := 10, d := 16, a := 24 })),
    (32, 0x401030C4, .ftanh { g := 1, b := 0, a := 16, d := 24 }),
    (96, 0x50070000003020C5, .ftanhExt (.ext { ex with typ := 10, d := 16, a := 24 }))] := by
  unfold decodes; decide

/-- 17 R369: the float opcodes, fields in the places of 16 R341 and R343. -/
theorem test_decode_float_3 : decodes [
    (32, 0x401030C8, .fclass { g := 1, b := 0, a := 16, d := 24 }),
    (96, 0x50070000003020C9, .fclassExt (.ext { ex with typ := 10, d := 16, a := 24 })),
    (32, 0x401030CC, .frnd { g := 1, b := 0, a := 16, d := 24 }),
    (96, 0x50070000003020CD, .frndExt (.ext { ex with typ := 10, d := 16, a := 24 }))] := by
  unfold decodes; decide

/-- 17 R369: the convert opcodes, fields in the places of 16 R341 and R343. -/
theorem test_decode_convert_1 : decodes [
    (96, 0x70000003020D1, .cvt (.ext { ex with d := 16, a := 24 })),
    (96, 0x40050072800003020D5, .cvtsr (.ext { ex with typ := 10, md := 1, d := 16, a := 24, c := 40 })),
    (96, 0x50070000003020D9, .packf4 (.ext { ex with typ := 10, d := 16, a := 24 })),
    (96, 0x50070000003020DD, .unpkf4 (.ext { ex with typ := 10, d := 16, a := 24 })),
    (96, 0x50070000003020E1, .qblk (.ext { ex with typ := 10, d := 16, a := 24 })),
    (32, 0x401030E4, .rsplit { g := 1, b := 0, a := 16, d := 24 }),
    (96, 0x18070000003020E5, .rsplitExt (.ext { ex with typ := 3, d := 16, a := 24 })),
    (96, 0x18070000003020E9, .rmerge (.ext { ex with typ := 3, d := 16, a := 24 })),
    (32, 0x441030EC, .radd { g := 1, b := 8, a := 16, d := 24 }),
    (96, 0x40070020003020ED, .raddExt (.ext { ex with typ := 8, d := 16, a := 24, b := 32 })),
    (32, 0x441030F0, .rsub { g := 1, b := 8, a := 16, d := 24 }),
    (96, 0x40070020003020F1, .rsubExt (.ext { ex with typ := 8, d := 16, a := 24, b := 32 })),
    (32, 0x441030F4, .rmul { g := 1, b := 8, a := 16, d := 24 }),
    (96, 0x40070020003020F5, .rmulExt (.ext { ex with typ := 8, d := 16, a := 24, b := 32 })),
    (32, 0x441030F8, .rchk { g := 1, b := 8, a := 16, d := 24 }),
    (96, 0x40070020003020F9, .rchkExt (.ext { ex with typ := 8, d := 16, a := 24, b := 32 }))] := by
  unfold decodes; decide

/-- 17 R370: the gang opcodes, fields in the places of 16 R341 and R343. -/
theorem test_decode_gang_1 : decodes [
    (32, 0x401030FC, .mov { g := 1, b := 0, a := 16, d := 24 }),
    (96, 0x40070000003020FD, .movExt (.ext { ex with typ := 8, d := 16, a := 24 })),
    (96, 0x67000000002101, .movi (.ext { ex with d := 16, ka := 3 })),
    (96, 0x7000000002105, .gets (.ext { ex with d := 16 })),
    (96, 0xD00000027000000300109, .sets (.ext { ex with imm := 13, ka := 1, a := 24 })),
    (96, 0x4700000002210D, .vote (.ext { ex with d := 16, ka := 2, a := 1 })),
    (96, 0x4007002000302111, .shfl (.ext { ex with typ := 8, d := 16, a := 24, b := 32 })),
    (96, 0x4007000000302115, .matchOp (.ext { ex with typ := 8, d := 16, a := 24 })),
    (96, 0x7000000302119, .redx (.ext { ex with d := 16, a := 24 })),
    (96, 0x700000000211D, .widthOp (.ext { ex with d := 16 })),
    (96, 0x27000000300121, .regang (.ext { ex with ka := 1, a := 24 })),
    (96, 0x217280000000325, .spawn (.ext { ex with kd := 2, d := 1, kc := 1, c := 40 })),
    (96, 0x7282000300129, .jinit (.ext { ex with a := 24, b := 32, c := 40 })),
    (96, 0x700200030012D, .jwait (.ext { ex with a := 24, b := 32 })),
    (96, 0x7000000000131, .exitOp (.ext ex)),
    (96, 0xAF002000302135, .lnch (.ext { ex with kd := 1, d := 16, ka := 1, a := 24, kb := 1, b := 32 }))] := by
  unfold decodes; decide

/-- 17 R370: the gang opcodes, fields in the places of 16 R341 and R343. -/
theorem test_decode_gang_2 : decodes [
    (96, 0xF000000002139, .qtokNew (.ext { ex with kd := 1, d := 16 })),
    (96, 0x2F000002302139, .qtokTest (.ext { ex with minor := 1, kd := 1, d := 16, ka := 1, a := 24 })),
    (96, 0x2F000004302139, .qtokFree (.ext { ex with minor := 2, kd := 1, d := 16, ka := 1, a := 24 }))] := by
  unfold decodes; decide

/-- 17 R370: the control opcodes, fields in the places of 16 R341 and R343. -/
theorem test_decode_control_1 : decodes [
    (96, 0x700000000013D, .bra (.ext ex)),
    (96, 0x7000000300141, .brx (.ext { ex with a := 24 })),
    (96, 0x7000000002145, .callOp (.ext { ex with d := 16 })),
    (96, 0x7000000302149, .callx (.ext { ex with d := 16, a := 24 })),
    (96, 0x700000030014D, .retOp (.ext { ex with a := 24 })),
    (96, 0x7000000002151, .loopOp (.ext { ex with d := 16 })),
    (96, 0x7000000000155, .yieldOp (.ext ex)),
    (96, 0x7000000000159, .nop (.ext ex)),
    (96, 0x700000000015D, .bkpt (.ext ex)),
    (96, 0x7000000000161, .trapOp (.ext ex)),
    (96, 0x7000000000165, .tret (.ext ex)),
    (96, 0x7000000000169, .waitf (.ext ex)),
    (96, 0xA700200030016D, .phint (.ext { ex with ka := 1, a := 24, kb := 1, b := 32 })),
    (96, 0x7000000000171, .vcommit (.ext ex))] := by
  unfold decodes; decide

/-- 17 R371: the memory opcodes, fields in the places of 16 R341 and R343. -/
theorem test_decode_memory_1 : decodes [
    (96, 0xFFF894484843002180262175, .ld (.ext { ex with typ := 9, fs := true, md := 5, kd := 0, d := 16, ka := 2, a := 19, kb := 0, b := 33, sem := 1, agent := 2, imm := 0xfff8, gn := true, gp := 3 })),
    (96, 0x807282000300179, .st (.ext { ex with typ := 1, a := 24, b := 32, c := 40 })),
    (96, 0x80700200030217D, .lds (.ext { ex with typ := 1, d := 16, a := 24, b := 32 })),
    (96, 0x807282000300181, .sts (.ext { ex with typ := 1, a := 24, b := 32, c := 40 })),
    (96, 0xB7002000302185, .win (.ext { ex with kd := 2, d := 16, ka := 1, a := 24, kb := 1, b := 32 })),
    (96, 0x7282000302189, .atom (.ext { ex with d := 16, a := 24, b := 32, c := 40 })),
    (96, 0x400728200030218D, .atomw (.ext { ex with typ := 8, d := 16, a := 24, b := 32, c := 40 })),
    (96, 0x4007282000300191, .ratom (.ext { ex with typ := 8, a := 24, b := 32, c := 40 })),
    (96, 0x7000000000195, .fence (.ext ex)),
    (96, 0x7002000300199, .pref (.ext { ex with a := 24, b := 32 })),
    (96, 0x3A728000030019D, .discard (.ext { ex with ka := 1, a := 24, kb := 3, kc := 1, c := 40 })),
    (96, 0x2272800003001A1, .nzero (.ext { ex with ka := 1, a := 24, kc := 1, c := 40 })),
    (96, 0x22F2800003021A5, .ncopy (.ext { ex with kd := 1, d := 16, ka := 1, a := 24, kc := 1, c := 40 })),
    (96, 0x2AF2820003021A9, .ncmp (.ext { ex with kd := 1, d := 16, ka := 1, a := 24, kb := 1, b := 32, kc := 1, c := 40 })),
    (96, 0x70000000001AD, .nfence (.ext ex))] := by
  unfold decodes; decide

/-- 17 R371: the engine opcodes, fields in the places of 16 R341 and R343. -/
theorem test_decode_engine_1 : decodes [
    (96, 0x270000004001B1, .cpy (.ext { ex with ka := 1, a := 32 })),
    (96, 0x3A72800003001B5, .cpyl (.ext { ex with ka := 1, a := 24, kb := 3, kc := 1, c := 40 })),
    (96, 0xB70020003101B9, .tdef (.ext { ex with kd := 2, d := 0x80, ka := 1, a := 24, kb := 1, b := 32 })),
    (96, 0x4F0000010021BD, .tstat (.ext { ex with kd := 1, d := 16, ka := 2, a := 0x80 })),
    (96, 0x170000000101C1, .trel (.ext { ex with kd := 2, d := 0x80 })),
    (96, 0x3A72800003001C5, .pbinit (.ext { ex with ka := 1, a := 24, kb := 3, kc := 1, c := 40 })),
    (96, 0x3A72800003001C9, .pbexp (.ext { ex with ka := 1, a := 24, kb := 3, kc := 1, c := 40 })),
    (96, 0x1A70000003001CD, .pbarv (.ext { ex with ka := 1, a := 24, kb := 3 })),
    (96, 0x3A72800003001D1, .pbwait (.ext { ex with ka := 1, a := 24, kb := 3, kc := 1, c := 40 })),
    (96, 0xC70020008001D5, .bdef (.ext { ex with ka := 2, a := 64, kb := 1, b := 32 })),
    (96, 0x470000008001D9, .barv (.ext { ex with ka := 2, a := 64 })),
    (96, 0x470000008001DD, .bwait (.ext { ex with ka := 2, a := 64 })),
    (96, 0x470000008001E1, .bsync (.ext { ex with ka := 2, a := 64 })),
    (96, 0x2F0000003021E5, .mshape (.ext { ex with kd := 1, d := 16, ka := 1, a := 24 })),
    (96, 0x170000000061E9, .mzero (.ext { ex with kd := 2, d := 48 })),
    (96, 0xB70020003061ED, .mma (.ext { ex with kd := 2, d := 48, ka := 1, a := 24, kb := 1, b := 32 }))] := by
  unfold decodes; decide

/-- 17 R371: the engine opcodes, fields in the places of 16 R341 and R343. -/
theorem test_decode_engine_2 : decodes [
    (96, 0x370000003061F1, .mldcRp8 (.ext { ex with kd := 2, d := 48, ka := 1, a := 24 })),
    (96, 0x40000370000003063F1, .mldcImg (.ext { ex with md := 1, kd := 2, d := 49, ka := 1, a := 24 })),
    (96, 0x370000003061F5, .mdrain (.ext { ex with kd := 2, d := 48, ka := 1, a := 24 })),
    (96, 0x370000003061F9, .msave (.ext { ex with kd := 2, d := 48, ka := 1, a := 24 })),
    (96, 0xF0000000021FD, .mstat (.ext { ex with kd := 1, d := 16 }))] := by
  unfold decodes; decide

/-! ## What a witness is -/

/-- The context of the issue of an instruction that is legal at a state. -/
def ctxOf (s : State) (i : Instr) : Option Ctx :=
  match issuer s, fieldsOf i with
  | some (c, g, sp), some f => if i.illegal.isNone && regsInRange g f then some (mkCtx c g sp f) else none
  | _, _ => none

/-- An instruction is the next to issue from a state, and meets a condition there: the hypotheses of `Ends`. -/
def meets (s : State) (i : Instr) (P : Ctx → State → Prop) : Prop :=
  ∃ f c g sp, Issuing s i f c g sp ∧ P (mkCtx c g sp f) s

theorem issuing_of_ctxOf {s : State} {i : Instr} {x : Ctx} (h : ctxOf s i = some x) :
    ∃ f c g sp, Issuing s i f c g sp ∧ x = mkCtx c g sp f := by
  unfold ctxOf at h
  split at h
  · rename_i c g sp f h1 h2
    split at h
    · rename_i hl
      simp only [Bool.and_eq_true, Option.isNone_iff_eq_none] at hl
      exact ⟨f, c, g, sp, ⟨h1, h2, hl.1, hl.2⟩, (Option.some.inj h).symm⟩
    · cases h
  · cases h

theorem meets_of {s : State} {i : Instr} {P : Ctx → State → Prop} (h : (ctxOf s i).isSome = true)
    (hp : P ((ctxOf s i).get h) s) : meets s i P := by
  obtain ⟨f, c, g, sp, hi, hx⟩ := issuing_of_ctxOf (Option.some_get h).symm
  exact ⟨f, c, g, sp, hi, hx ▸ hp⟩

/-- A condition that can be computed is met. -/
theorem meets_dec {s : State} {i : Instr} {P : Ctx → State → Prop} [∀ x, Decidable (P x s)]
    (h : ((ctxOf s i).map (fun x => decide (P x s))) = some true) : meets s i P := by
  cases hc : ctxOf s i with
  | none => rw [hc] at h; cases h
  | some x =>
    rw [hc] at h
    obtain ⟨f, c, g, sp, hi, hx⟩ := issuing_of_ctxOf hc
    exact ⟨f, c, g, sp, hi, hx ▸ of_decide_eq_true (Option.some.inj h)⟩

/-- A condition on every member of a list is met. -/
theorem meets_list {α : Type} {l : List α} {s : α → State} {i : α → Instr} {P : α → Ctx → State → Prop}
    [∀ a x, Decidable (P a x (s a))]
    (h : ∀ a ∈ l, ((ctxOf (s a) (i a)).map (fun x => decide (P a x (s a)))) = some true) :
    ∀ a ∈ l, meets (s a) (i a) (P a) := fun a ha => meets_dec (h a ha)

theorem forall_lanes {m : Mask} {p : Nat → Prop} (h : ∀ k ∈ lanesOf m, p k) : ∀ k, laneIn m k = true → p k :=
  fun k hk => h k ((mem_lanesOf m k).mpr ⟨laneIn_lt m k hk, hk⟩)

/-- A gang of 8 lanes in slot 0 of core 0 is about to issue, its code in a 2 MiB page of HBM4 that may be written. -/
def ready : State := loadProgram State.reset

/-- The state with the issuing gang, its group, its core, or the head of the slot changed. -/
def onG (f : Gang → Gang) (s : State := ready) : State := modGang s 0 0 f
def onGrp (f : Group → Group) (s : State := ready) : State := modGroup s 0 0 f
def onC (f : Core → Core) (s : State := ready) : State := modCore s 0 f
def onCur (f : Cursor → Cursor) (s : State := ready) : State := { s with issueQ := s.issueQ.map f }
/-- A scalar pair, or the scalar registers from `n` on. -/
def put (n v : Nat) (k : Nat := 2) (s : State := ready) : State := onG (setSregs k n v) s
/-- The first lane alone in the gang. -/
def one (s : State := ready) : State := onG (fun g => { g with splits := g.splits.map (fun sp => { sp with mask := 1 }) }) s

/-! ## Encoding and the step -/

theorem witness_DecodeOfEncode : (Instr.iadd { g := 0, b := 5, a := 4, d := 4 }).WellFormed ∧
    (Instr.iadd { g := 0, b := 5, a := 4, d := 4 }).hasWords = true := ⟨rfl, rfl⟩

theorem witness_EncodeOfDecode : ∃ i n, decodeWords [0x02840800#32] = .ok (i, n) := ⟨_, _, rfl⟩

/-- Headers at the ends of their ranges: one instruction and flags 0 and 11; eight instructions and none. -/
theorem witness_HeadersAndLengths :
    decodeHeader 0x00370000#32 = some { yield := false, count := 1, flagA := some 0, flagB := some 11, wait := 0 } ∧
    decodeHeader 0x03C00FFF#32 = some { yield := true, count := 8, flagA := none, flagB := none, wait := 0xFFF } ∧
    decodeHeader 0x04000000#32 = none ∧ decodeHeader 0x0001C000#32 = none ∧ decodeHeader 0x00010000#32 ≠ none ∧
    decodeHeader 0x00210000#32 = none ∧ lengthOf 0x155#32 = 3 ∧ lengthOf 0x3#32 = 5 ∧ lengthOf 0x2#32 = 3 ∧
      lengthOf 0x0#32 = 1 := by
  decide

/-- A word placed where `step` fetches next. -/
def placed : State := State.reset.withFetchWord 32 0x02840800

theorem witness_StepRunsFetched : ∃ c c' g sp i t, issuer placed = some (c, g, sp) ∧
  fetch c g.ctx sp placed = (.instr c' i, t) :=
  ⟨_, _, _, _, _, _, rfl, rfl⟩

/-- A clause read from memory that no running grid has written, and the clause that a split holds. -/
theorem witness_FetchReadsClause :
    let h : Header := { yield := false, count := 1, flagA := none, flagB := none, wait := 0 }
    let i : Instr := .iadd { g := 0, b := 5, a := 4, d := 4 }
    ClauseAt placed 0 0 0 loaderLeaf h [i] ∧ oldCode placed 0 0 0 = [] ∧
    ({ mask := 1, pc := 0, clause := encodeHeader h :: encode i } : Split).clause = encodeHeader h :: [i].flatMap encode := by
  refine ⟨?_, rfl, rfl⟩
  exact {
    listed := by decide
    alone := by decide
    covers := by decide
    page := by decide
    memory := by decide
    aligned := by decide
    header := by decide
    count := rfl
    legal := by intro i hi; simp only [List.mem_singleton] at hi; subst hi; exact ⟨rfl, rfl⟩
    fits := by decide
    words := by decide }

theorem witness_IssueSlotKept : placed.issueLive ∧ ∃ t, step placed = .next t := by
  refine ⟨?_, _, rfl⟩
  unfold State.issueLive
  decide

theorem witness_MemoryFormKept : placed.memoryWf ∧ ∃ t, step placed = .next t := by
  refine ⟨?_, _, rfl⟩
  unfold State.memoryWf
  decide

/-! ## Instructions that compute a value -/

/-- Each instruction is legal and the next to issue from `ready`: the hypotheses of `Computes`, for every constructor. -/
def issuing (l : List Instr) : Prop := ∀ i ∈ l, (ctxOf ready i).isSome = true

theorem witness_IntegerSumsAndProducts : issuing [
    .iadd { g := 0, b := 8, a := 16, d := 24 },
    .iaddExt (.ext { ex with d := 16, a := 24, b := 32 }),
    .isub { g := 0, b := 8, a := 16, d := 24 },
    .isubExt (.ext { ex with d := 16, a := 24, b := 32 }),
    .imul { g := 0, b := 8, a := 16, d := 24 },
    .imulExt (.ext { ex with d := 16, a := 24, b := 32 }),
    .imad { g := 0, b := 8, a := 16, d := 24 },
    .imadExt (.ext { ex with d := 16, a := 24, b := 32, c := 40 }),
    .imadw { g := 0, b := 8, a := 16, d := 24 },
    .imadwExt (.ext { ex with d := 16, a := 24, b := 32, c := 40 })] := by
  unfold issuing; decide

theorem witness_IntegerOthers : issuing [
    .idiv { g := 0, b := 8, a := 16, d := 24 },
    .idivExt (.ext { ex with d := 16, a := 24, b := 32 }),
    .irem { g := 0, b := 8, a := 16, d := 24 },
    .iremExt (.ext { ex with d := 16, a := 24, b := 32 }),
    .imin { g := 0, b := 8, a := 16, d := 24 },
    .iminExt (.ext { ex with d := 16, a := 24, b := 32 }),
    .imax { g := 0, b := 8, a := 16, d := 24 },
    .imaxExt (.ext { ex with d := 16, a := 24, b := 32 }),
    .iabs { g := 0, b := 0, a := 16, d := 24 },
    .iabsExt (.ext { ex with d := 16, a := 24 }),
    .ineg { g := 0, b := 0, a := 16, d := 24 },
    .inegExt (.ext { ex with d := 16, a := 24 }),
    .icmp { g := 0, b := 8, a := 16, d := 24 },
    .icmpExt (.ext { ex with d := 16, a := 24, b := 32 }),
    .isel (.ext { ex with d := 16, a := 24, b := 32, kc := 2, c := 1 }),
    .idot4 { g := 0, b := 8, a := 16, d := 24 },
    .idot4Ext (.ext { ex with d := 16, a := 24, b := 32, c := 40 }),
    .isad (.ext { ex with typ := 4, d := 16, a := 24, b := 32, c := 40 })] := by
  unfold issuing; decide

theorem witness_LogicAndShifts : issuing [
    .andB { g := 0, b := 8, a := 16, d := 24 },
    .andBExt (.ext { ex with typ := 8, d := 16, a := 24, b := 32 }),
    .orB { g := 0, b := 8, a := 16, d := 24 },
    .orBExt (.ext { ex with typ := 8, d := 16, a := 24, b := 32 }),
    .xorB { g := 0, b := 8, a := 16, d := 24 },
    .xorBExt (.ext { ex with typ := 8, d := 16, a := 24, b := 32 }),
    .lop3 (.ext { ex with typ := 8, imm := 1, d := 16, a := 24, b := 32, c := 40 }),
    .shl { g := 0, b := 8, a := 16, d := 24 },
    .shlExt (.ext { ex with typ := 8, d := 16, a := 24, b := 32 }),
    .shr { g := 0, b := 8, a := 16, d := 24 },
    .shrExt (.ext { ex with typ := 8, d := 16, a := 24, b := 32 }),
    .sar { g := 0, b := 8, a := 16, d := 24 },
    .sarExt (.ext { ex with typ := 8, d := 16, a := 24, b := 32 }),
    .rotl { g := 0, b := 8, a := 16, d := 24 },
    .rotlExt (.ext { ex with typ := 8, d := 16, a := 24, b := 32 })] := by
  unfold issuing; decide

theorem witness_FieldsAndCounts : issuing [
    .funl { g := 0, b := 8, a := 16, d := 24 },
    .funlExt (.ext { ex with typ := 8, d := 16, a := 24, b := 32, c := 40 }),
    .bfx { g := 0, b := 8, a := 16, d := 24 },
    .bfxExt (.ext { ex with typ := 8, d := 16, a := 24, b := 32 }),
    .bfi { g := 0, b := 8, a := 16, d := 24 },
    .bfiExt (.ext { ex with typ := 8, d := 16, a := 24, b := 32, c := 40 }),
    .popc { g := 0, b := 0, a := 16, d := 24 },
    .popcExt (.ext { ex with typ := 8, d := 16, a := 24 }),
    .clz { g := 0, b := 0, a := 16, d := 24 },
    .clzExt (.ext { ex with typ := 8, d := 16, a := 24 }),
    .ctz { g := 0, b := 0, a := 16, d := 24 },
    .ctzExt (.ext { ex with typ := 8, d := 16, a := 24 }),
    .brev { g := 0, b := 0, a := 16, d := 24 },
    .brevExt (.ext { ex with typ := 8, d := 16, a := 24 }),
    .perm { g := 0, b := 8, a := 16, d := 24 },
    .permExt (.ext { ex with typ := 8, d := 16, a := 24, b := 32, c := 40 })] := by
  unfold issuing; decide

theorem witness_FloatArithmetic : issuing [
    .fadd { g := 0, b := 8, a := 16, d := 24 },
    .faddExt (.ext { ex with typ := 10, d := 16, a := 24, b := 32 }),
    .fsub { g := 0, b := 8, a := 16, d := 24 },
    .fsubExt (.ext { ex with typ := 10, d := 16, a := 24, b := 32 }),
    .fmul { g := 0, b := 8, a := 16, d := 24 },
    .fmulExt (.ext { ex with typ := 10, d := 16, a := 24, b := 32 }),
    .ffma { g := 0, b := 8, a := 16, d := 24 },
    .ffmaExt (.ext { ex with typ := 10, d := 16, a := 24, b := 32, c := 40 }),
    .fmin { g := 0, b := 8, a := 16, d := 24 },
    .fminExt (.ext { ex with typ := 10, d := 16, a := 24, b := 32 }),
    .fmax { g := 0, b := 8, a := 16, d := 24 },
    .fmaxExt (.ext { ex with typ := 10, d := 16, a := 24, b := 32 }),
    .fcmp { g := 0, b := 8, a := 16, d := 24 },
    .fcmpExt (.ext { ex with typ := 10, d := 16, a := 24, b := 32 }),
    .fdiv { g := 0, b := 8, a := 16, d := 24 },
    .fdivExt (.ext { ex with typ := 10, d := 16, a := 24, b := 32 })] := by
  unfold issuing; decide

theorem witness_FloatFunctions : issuing [
    .frcp { g := 0, b := 0, a := 16, d := 24 },
    .frcpExt (.ext { ex with typ := 10, d := 16, a := 24 }),
    .frsq { g := 0, b := 0, a := 16, d := 24 },
    .frsqExt (.ext { ex with typ := 10, d := 16, a := 24 }),
    .fsqrt { g := 0, b := 0, a := 16, d := 24 },
    .fsqrtExt (.ext { ex with typ := 10, d := 16, a := 24 }),
    .fex2 { g := 0, b := 0, a := 16, d := 24 },
    .fex2Ext (.ext { ex with typ := 10, d := 16, a := 24 }),
    .flg2 { g := 0, b := 0, a := 16, d := 24 },
    .flg2Ext (.ext { ex with typ := 10, d := 16, a := 24 }),
    .fsin { g := 0, b := 0, a := 16, d := 24 },
    .fsinExt (.ext { ex with typ := 10, d := 16, a := 24 }),
    .fcos { g := 0, b := 0, a := 16, d := 24 },
    .fcosExt (.ext { ex with typ := 10, d := 16, a := 24 }),
    .ftanh { g := 0, b := 0, a := 16, d := 24 },
    .ftanhExt (.ext { ex with typ := 10, d := 16, a := 24 }),
    .fclass { g := 0, b := 0, a := 16, d := 24 },
    .fclassExt (.ext { ex with typ := 10, d := 16, a := 24 }),
    .frnd { g := 0, b := 0, a := 16, d := 24 },
    .frndExt (.ext { ex with typ := 10, d := 16, a := 24 })] := by
  unfold issuing; decide

theorem witness_Conversions : issuing [
    .cvt (.ext { ex with d := 16, a := 24 }),
    .cvtsr (.ext { ex with typ := 10, md := 1, d := 16, a := 24, c := 40 }),
    .packf4 (.ext { ex with typ := 10, d := 16, a := 24 }),
    .unpkf4 (.ext { ex with typ := 10, d := 16, a := 24 }),
    .qblk (.ext { ex with typ := 10, d := 16, a := 24 })] := by
  unfold issuing; decide

/-- The forms of `cvt` at the ends of their operands: a pair to one element, four and eight elements; codes of each kind. -/
theorem witness_ConversionValues :
    (∀ e ∈ [(11, 3, 0), (12, 13, 0), (13, 32, 2), (0, 0, 4)],
      let src := (cvtSides e.1 e.2.1 e.2.2).1; src.2.2 - 1 < src.2.2) ∧
    (packed 12 ∨ packed 13 → typeWidth 12 ≠ 64 ∧ typeWidth 13 ≠ 64) ∧ (15 : Nat) < 2 ^ 4 ∧
    f16.decode 0x7E00 = .nan ∧ f16.decode 0xFC00 = .inf true ∧ (∃ n e, f16.decode 0x3C00 = .fin false n e) ∧
    f32.decode (2 ^ 32 * 0x7F800000 / 2 ^ 32 % 2 ^ 32) = .inf false ∧ (f32.decode 0x80000000).sign = true ∧
    (∃ n e, f32.decode 0x3FC00000 = .fin false n e ∧ binade (.fin false n e) = some 0) := by
  exact ⟨by decide, by decide, by decide, by decide, by decide, ⟨_, _, rfl⟩, by decide, by decide, _, _, rfl, by decide⟩

theorem witness_ResidueInstructions : issuing [
    .rsplit { g := 0, b := 0, a := 16, d := 24 },
    .rsplitExt (.ext { ex with typ := 3, d := 16, a := 24 }),
    .radd { g := 0, b := 8, a := 16, d := 24 },
    .raddExt (.ext { ex with typ := 8, d := 16, a := 24, b := 32 }),
    .rsub { g := 0, b := 8, a := 16, d := 24 },
    .rsubExt (.ext { ex with typ := 8, d := 16, a := 24, b := 32 }),
    .rmul { g := 0, b := 8, a := 16, d := 24 },
    .rmulExt (.ext { ex with typ := 8, d := 16, a := 24, b := 32 }),
    .rmerge (.ext { ex with typ := 3, d := 16, a := 24 }),
    .rchk { g := 0, b := 8, a := 16, d := 24 },
    .rchkExt (.ext { ex with typ := 8, d := 16, a := 24, b := 32 })] := by
  unfold issuing; decide

theorem witness_MovesAndSystemValues : issuing [
    .mov { g := 0, b := 0, a := 16, d := 24 },
    .movExt (.ext { ex with typ := 8, d := 16, a := 24 }),
    .movi (.ext { ex with d := 16, ka := 3 }),
    .gets (.ext { ex with d := 16 }),
    .gets (.ext { ex with imm := 0x14, d := 255 })] ∧
    ∀ k ∈ [0, 1, 2, 3, 4, 5, 6, 7, 8, 9, 0xA, 0xB, 0xC, 0xD, 0xE, 0x10, 0x11, 0x12, 0x13, 0x14],
      meets ready (.gets (.ext { ex with imm := BitVec.ofNat 16 k, d := 16 })) (fun x _ => x.immN = k) := by
  refine ⟨?_, meets_list (by decide)⟩
  unfold issuing; decide

theorem witness_Collectives : issuing [
    .vote (.ext { ex with d := 16, ka := 2, a := 1 }),
    .shfl (.ext { ex with typ := 8, d := 16, a := 24, b := 32 }),
    .matchOp (.ext { ex with typ := 8, d := 16, a := 24 }),
    .redx (.ext { ex with d := 16, a := 24 })] := by
  unfold issuing; decide

theorem witness_NotComplements : issuing [
    .notB { g := 0, b := 0, a := 16, d := 24 },
    .notBExt (.ext { ex with typ := 8, d := 16, a := 24 })] := by
  unfold issuing; decide

theorem witness_WidthOfSplit : issuing [
    .widthOp (.ext { ex with d := 16 })] := by
  unfold issuing; decide

/-! ## Traps, system values and control -/

theorem witness_CarryInstructions : issuing [
    .iaddc (.ext { ex with typ := 4, minor := 6, d := 16, a := 24, b := 32 }),
    .isubb (.ext { ex with typ := 7, minor := 0, d := 16, a := 24, b := 32 })] := by
  unfold issuing; decide

/-- A word without a meaning placed where `step` fetches next; a header that is illegal in its place. -/
def badWord : State := State.reset.withFetchWord 32 0x00000174
def badHeader : State := poke badWord 0 [0, 0, 0, 4]

/-- An ill-formed instruction, one whose destination lies at the gang's count, and fetches of words that are none. -/
theorem witness_IllegalInstructions :
    (¬ (Instr.notBExt (.ext { ex with typ := 8, d := 16, a := 24, sat := true })).WellFormed) ∧
    issuer ready = some ({ core := 0, slot := 0, lane := 0 }, loaderGang, { mask := 0xFF, pc := 0 }) ∧
    regsInRange { loaderGang with regs := 16 } { op := 0x14, e := { ex with typ := 8, d := 16, a := 8 }, lit := none } = false ∧
    regsInRange { loaderGang with regs := 17 } { op := 0x14, e := { ex with typ := 8, d := 16, a := 8 }, lit := none } = true ∧
    (∃ c g sp c' t, issuer badWord = some (c, g, sp) ∧ fetch c g.ctx sp badWord = (.illegal c', t) ∧ c'.word = 0x174#32 ∧
      Reads badWord c g.ctx sp [0, 0x174] t) ∧
    (∀ r, decodeWords (([0x174#32]).take (lengthOf 0x174#32)) ≠ .ok r) ∧
    (∃ c g sp t, issuer badHeader = some (c, g, sp) ∧ fetch c g.ctx sp badHeader = (.header 0x04000000#32, t) ∧
      Reads badHeader c g.ctx sp [0x04000000#32] t) := by
  refine ⟨?_, rfl, rfl, rfl, ⟨_, _, _, _, _, rfl, rfl, rfl, .inr ⟨rfl, rfl⟩⟩,
    fun r h => (nomatch (show Except.error _ = Except.ok r from h)),
    ⟨_, _, _, _, rfl, rfl, .inr ⟨rfl, rfl⟩⟩⟩
  unfold Instr.WellFormed
  decide

/-- A gang of a group with a handler; with a trap running in it, in its split or in another. -/
def handled : State := onGrp (fun g => { g with handler := 0x100 })
def trapped : State := onG (fun g => { g with tcause := 0x80000001 }) handled
def trappedHere : State :=
  onG (fun g => { g with splits := g.splits.map (fun sp => { sp with handler := true }) }) trapped

theorem witness_TakingATrap :
    (getGang handled 0 0).map (fun g => (g.tcause.getLsbD 31, (splitOf g 0).map (·.slot))) = some (false, some 0) ∧
    (getGroup handled 0 0).map (fun g => (g.handler, g.held)) = some (0x100, false) ∧
    (getGang trapped 0 0).map (fun g => (g.tcause.getLsbD 31, (splitOf g 0).map (·.handler))) = some (true, some false) ∧
    (getGang trappedHere 0 0).map (fun g => (g.tcause.getLsbD 31, (splitOf g 0).map (·.handler))) = some (true, some true) ∧
    (getGroup ready 0 0).map (·.handler) = some 0 := by
  decide

theorem witness_SoftwareTraps :
    meets ready (.bkpt (.ext ex)) (fun x _ => x.act ≠ 0) ∧ meets ready (.trapOp (.ext { ex with imm := 0xFFFF }))
      (fun x _ => x.act ≠ 0) := by
  exact ⟨meets_dec (by decide), meets_dec (by decide)⟩

/-- Every cause with which a trap is delivered, and `tpc` written. -/
theorem witness_TrapReturn :
    (∀ k ∈ [(1, false), (2, false), (5, false), (6, false), (7, false), (8, false), (9, false), (0x0B, false), (0x0C,
      false), (2, true)],
      meets (onG (fun g => { g with delivered := k.1, tpcWritten := k.2 }) trappedHere) (.tret (.ext ex))
        (fun x _ => x.cur.last = true ∧ x.gang.tcause.getLsbD 31 = true ∧ x.gang.held = [] ∧ x.gang.divided ∧
        ∀ sp ∈ x.gang.splits, sp.handler = true → laneIn sp.mask x.cur.lane = true)) ∧
    meets ready (.tret (.ext ex)) (fun x _ => x.cur.last = false ∨ x.gang.tcause.getLsbD 31 = false) ∧
    meets (onCur (fun c => { c with last := false }) trappedHere) (.tret (.ext ex))
      (fun x _ => x.cur.last = false ∨ x.gang.tcause.getLsbD 31 = false) := by
  unfold Gang.divided
  exact ⟨meets_list (by decide), meets_dec (by decide), meets_dec (by decide)⟩

/-- Each selector; the quantum at the ends of what is stored as it is. -/
theorem witness_SetSystemValues :
    (∀ k ∈ [(0x0D, 0), (0x0D, 1), (0x0D, 4), (0x0D, 255), (0x0D, 256), (0x0E, 65535), (0x10, 255), (0x11, 2 ^ 11), (0x12,
      1),
        (0x13, 1), (0x14, 0)],
      meets (put 24 k.2) (.sets (.ext { ex with imm := BitVec.ofNat 16 k.1, ka := 1, a := 24 })) (fun x _ => x.act ≠ 0 ∧
        (x.immN = 0x11 → x.a x.lane0 % 2 ^ 11 = 0))) ∧
    meets ready (.sets (.ext { ex with gp := 0, imm := 0x0D, ka := 1, a := 24 })) (fun x _ => x.act = 0) ∧
    meets (put 24 (2 ^ 10)) (.sets (.ext { ex with imm := 0x11, ka := 1, a := 24 })) (fun x _ => x.act ≠ 0 ∧
      x.immN = 0x11 ∧ x.a x.lane0 % 2 ^ 11 ≠ 0) := by
  exact ⟨meets_list (by decide), meets_dec (by decide), meets_dec (by decide)⟩

/-- Forms with a guard that is false, one of each instruction named. -/
def idle : List (Form × Instr) :=
  let n := { ex with gp := 0 }
  let f1 : Form := .ext { n with typ := 1, d := 16, a := 24, b := 32 }
  let f2 : Form := .ext { n with typ := 1, a := 24, b := 32, c := 40 }
  let f3 : Form := .ext { n with a := 24, b := 32, c := 40 }
  let f4 : Form := .ext { n with a := 24, b := 32 }
  let f5 : Form := .ext { n with d := 16, a := 24, b := 32, c := 40 }
  let f6 : Form := .ext { n with typ := 8, d := 16, a := 24, b := 32, c := 40 }
  let f7 : Form := .ext { n with typ := 8, a := 24, b := 32, c := 40 }
  let f8 : Form := .ext { n with sem := 1 }
  let f9 : Form := .ext { n with kd := 2, d := 16, ka := 1, a := 24, kb := 1, b := 32 }
  let fa : Form := .ext { n with ka := 1, a := 24, kb := 3, kc := 1, c := 40 }
  let fb : Form := .ext { n with ka := 1, a := 24, kc := 1, c := 40 }
  let fc : Form := .ext { n with kd := 1, d := 16, ka := 1, a := 24, kc := 1, c := 40 }
  let fd : Form := .ext { n with kd := 1, d := 16, ka := 1, a := 24, kb := 1, b := 32, kc := 1, c := 40 }
  let fe : Form := .ext { n with ka := 1, a := 24, kb := 3 }
  let ff : Form := .ext { n with ka := 1, a := 32 }
  let fg : Form := .ext { n with kd := 1, d := 16, ka := 1, a := 24 }
  [(f1, .ld f1), (f2, .st f2), (f1, .lds f1), (f2, .sts f2), (f3, .jinit f3), (f4, .jwait f4), (f5, .atom f5), (f6,
    .atomw f6),
   (f7, .ratom f7), (f8, .fence f8), (.ext n, .nfence (.ext n)), (f9, .win f9), (fa, .discard fa), (f4, .pref f4),
   (.ext n, .exitOp (.ext n)), (.ext n, .bkpt (.ext n)), (.ext n, .trapOp (.ext n)), (fb, .nzero fb), (fc, .ncopy fc),
   (fd, .ncmp fd), (ff, .cpy ff), (fa, .cpyl fa), (fa, .pbinit fa), (fa, .pbexp fa), (fe, .pbarv fe), (fa, .pbwait fa),
   (fg, .mshape fg)]

/-- The range of a `phint` at the end of scratchpad, and empty; flags all waited for; an idle instruction of each kind. -/
theorem witness_HintInstructions :
    let hint : Instr := .phint (.ext { ex with ka := 1, a := 24, kb := 1, b := 32 })
    meets ready (.nop (.ext ex)) (fun _ _ => True) ∧ meets ready (.yieldOp (.ext ex)) (fun _ _ => True) ∧
    meets (onCur (fun c => { c with wait := 0xFFF })) (.waitf (.ext { ex with imm := 0xFFF }))
      (fun x _ => x.cur.first = true ∧ ∀ n, n < 12 → x.immN.testBit n → x.cur.wait.getLsbD n) ∧
    (∀ v ∈ [458752 - 16 + 2 ^ 32 * 16, 0], meets (put 32 v) hint (fun x s => mapFind s.preempts x.gang.ctx = none ∧
      x.b x.lane0 % 2 ^ 32 % 16 = 0 ∧ x.b x.lane0 / 2 ^ 32 % 16 = 0 ∧
      (x.b x.lane0 / 2 ^ 32 = 0 ∨ x.b x.lane0 % 2 ^ 32 + x.b x.lane0 / 2 ^ 32 ≤ (x.group s).ssize))) ∧
    meets ready (.vcommit (.ext ex)) (fun x s => (x.group s).held = false) ∧
    (∀ e ∈ idle, meets ready e.2 (fun x s => x.act = 0 ∧ (x.group s).shadow = false ∧
      (e.2 = .ld e.1 ∨ e.2 = .lds e.1 → x.f.e.kd = 1#2 → x.uniform 1 = true))) ∧
    (∀ v ∈ [458752 - 16 + 2 ^ 32 * 16, 0],
      meets { put 32 v with preempts := [(0, { since := 0, byDriver := true })] } hint (fun x s => x.act ≠ 0 ∧
      x.gang.divided ∧ mapFind s.preempts x.gang.ctx ≠ none ∧ x.b x.lane0 % 2 ^ 32 % 16 = 0 ∧
      x.b x.lane0 / 2 ^ 32 % 16 = 0 ∧
      (x.b x.lane0 / 2 ^ 32 = 0 ∨ x.b x.lane0 % 2 ^ 32 + x.b x.lane0 / 2 ^ 32 ≤ (x.group s).ssize))) := by
  dsimp only [Gang.divided]
  exact ⟨meets_dec (by decide), meets_dec (by decide), meets_dec (by decide), meets_list (by decide), meets_dec (by decide),
    meets_list (by decide), meets_list (by decide)⟩

/-- Lanes 0 to 3 branch; the others go on. The counter of `loop` reads 1 in lane 0 and 2 in lane 1. -/
def halved : State := onG (fun g => setVreg (setVreg (setPreg g 1 0xFF 0x0F) 16 0 1) 16 1 2)
    (onCur (fun c => { c with next := 0x10 }))

theorem witness_Branches :
    let here (x : Ctx) (_ : Nat) : BitVec 52 := BitVec.ofInt 52 ((x.cur.header.toNat : Int) + 4 * (immediateOf x.f).toInt)
    let pair (x : Ctx) (h : Nat) : BitVec 52 := BitVec.ofNat 52 (x.a h)
    let aligned (x : Ctx) : Prop := ∀ h, laneIn x.act h → x.a h % 4 = 0
    let count (x : Ctx) (h : Nat) : Nat := (x.d h + 2 ^ 32 - 1) % 2 ^ 32
    let turn (x : Ctx) (h : Nat) : BitVec 52 := if count x h = 0 then x.cur.next else here x h
    let h : Ext := { ex with gp := 1 }
    meets halved (.bra (.ext { h with imm := 0x40 })) (fun x _ => mayBranch x (here x)) ∧
    meets halved (.brx (.ext { h with a := 24 })) (fun x _ => mayBranch x (pair x) ∧ aligned x) ∧
    meets halved (.retOp (.ext { h with a := 24 })) (fun x _ => mayBranch x (pair x) ∧ aligned x) ∧
    meets halved (.callOp (.ext { h with d := 30, imm := 0xFFFF })) (fun x _ => mayBranch x (here x)) ∧
    meets halved (.callx (.ext { h with d := 30, a := 24 })) (fun x _ => mayBranch x (pair x) ∧ aligned x) ∧
    meets halved (.loopOp (.ext { h with d := 16, imm := 0x40 })) (fun x _ => mayBranch x (turn x)) := by
  dsimp only [mayBranch, Gang.divided]
  refine ⟨meets_dec (by decide), meets_of (by decide) ⟨by decide, forall_lanes (by decide)⟩,
    meets_of (by decide) ⟨by decide, forall_lanes (by decide)⟩, meets_dec (by decide),
    meets_of (by decide) ⟨by decide, forall_lanes (by decide)⟩, meets_dec (by decide)⟩

/-- Eight splits, one lane in each but two in the first. -/
def crowded : State :=
  let rest : List Split := (List.range 7).map (fun k => { mask := laneBit (k + 2), pc := BitVec.ofNat 52 (0x1000 + 4 * k) })
  onG (fun g => setPreg { g with splits := { mask := 3, pc := 0 } :: rest } 1 0xFF 1) (onCur
    (fun c => { c with next := 0x10 }))

/-- The same with another split of the gang behind in the slot. -/
def crowdedTwo : State := { crowded with issueQ := crowded.issueQ ++ crowded.issueQ.map (fun c => { c with lane := 2, clause := [] }) }

theorem witness_BranchesThatStay :
    let stuck (x : Ctx) : Prop := x.cur.last = true ∧ x.act ≠ 0 ∧ x.act ≠ x.sp.mask ∧ 8 ≤ x.gang.splits.length ∧
      x.codeTarget ≠ x.cur.next ∧ ∀ sp ∈ x.gang.splits, sp.mask ≠ x.sp.mask → sp.pc ≠ x.codeTarget ∧ sp.pc ≠ x.cur.next
    let others (x : Ctx) (s : State) : Prop :=
      ∃ c ∈ s.issueQ.tail, c.core = x.cur.core ∧ c.slot = x.cur.slot ∧ c.clause = []
    (∀ i ∈ [Instr.bra (.ext ex), .callOp (.ext ex), .brx (.ext { ex with a := 24 }), .retOp (.ext { ex with a := 24 }),
        .callx (.ext { ex with d := 30, a := 24 }), .loopOp (.ext { ex with d := 16 })],
      meets (onCur (fun c => { c with last := false })) i (fun x _ => x.cur.last = false)) ∧
    (∀ i ∈ [Instr.bra (.ext { ex with gp := 0 }), .callOp (.ext { ex with gp := 0 }),
      .brx (.ext { ex with gp := 0, a := 24 }),
        .retOp (.ext { ex with gp := 0, a := 24 }), .callx (.ext { ex with gp := 0, d := 30, a := 24 }),
        .loopOp (.ext { ex with gp := 0, d := 16 })],
      meets ready i (fun x _ => x.cur.last = true ∧ x.act = 0)) ∧
    (∀ i ∈ [Instr.brx (.ext { ex with a := 24 }), .retOp (.ext { ex with a := 24 }),
      .callx (.ext { ex with d := 30, a := 24 })],
      meets (onG (fun g => setVreg g 24 7 2)) i (fun x _ => x.cur.last = true ∧ ∃ h, laneIn x.act h = true ∧
        x.a h % 4 ≠ 0)) ∧
    meets crowded (.bra (.ext { ex with gp := 1, imm := 0x40 })) (fun x s => stuck x ∧ ¬ others x s) ∧
    meets crowdedTwo (.bra (.ext { ex with gp := 1, imm := 0x40 })) (fun x s => stuck x ∧ others x s) := by
  refine ⟨meets_list (by decide), meets_list (by decide), ?_, meets_dec (by decide), meets_dec (by decide)⟩
  intro i hi
  simp only [List.mem_cons, List.not_mem_nil, or_false] at hi
  rcases hi with rfl | rfl | rfl <;> exact meets_of (by decide) ⟨by decide, 7, by decide⟩

/-! ## Values -/

theorem witness_LogicAndShiftBits : typeWidth 8 = 32 ∧ typeWidth 9 = 64 := by decide

theorem witness_FieldAndCountBits : typeWidth 0 = 32 ∧ typeWidth 3 = 64 := by decide

/-- Codes of binary16 of each kind a clause asks for, a subnormal and the least normal one among them; `e4m3` has a NaN
and no infinity. -/
theorem witness_FloatResults :
    f16 ∈ [f64, f32, f16, bf16, e4m3, e5m2, e2m1, e3m5] ∧ f16.decode 0x7C00 = .inf false ∧ f16.decode 0xFC00 = .inf true ∧
    f16.decode 0x7E00 = .nan ∧ (∃ e, f16.decode 0x8000 = .fin true 0 e) ∧ (∃ n e, f16.decode 0x3C00 = .fin false n e ∧
      n ≠ 0) ∧
    e4m3.decode 0x7F = .nan ∧ (∃ e, f16.decode 0x3FF = .fin false 0x3FF e ∧ e = -24) ∧ (∃ e,
      f16.decode 0x400 = .fin false 0x400 e ∧ e = -24) ∧
    0xFFFF < 2 ^ f16.width ∧ 2 ^ (-(-10 : Int)).toNat ∣ 0x400 := by
  exact ⟨by decide, by decide, by decide, by decide, ⟨_, rfl⟩, ⟨_, _, rfl, by decide⟩, by decide, ⟨_, rfl, rfl⟩, ⟨_, rfl,
    rfl⟩, by decide,
    by decide⟩

/-- The ends of the certified range. -/
theorem witness_OneChannelCorrected :
    ((-(2 ^ 62 : Int) ≤ -(2 ^ 62 : Int) ∧ -(2 ^ 62 : Int) < 2 ^ 62) ∧ ((2 ^ 62 - 1 : Int) < 2 ^ 62) ∧
    511 ≠ residueOf 9 (2 ^ 62 - 1) ∧ 255 ≠ residueOf 0 (-(2 ^ 62))) := by
  decide

/-- A `vote` of p1, a `redx` and a `shfl` in each mode, with every lane of the split acting. -/
theorem witness_CollectiveValues :
    (∀ mn ∈ [0, 1, 2], meets ready (.vote (.ext { ex with minor := BitVec.ofNat 6 mn, kd := if mn = 1 then 0 else 1, d := 16, ka := 2, a := 1 }))
      (fun x _ => (namedReg x.f.e.a.toNat).map (·.2) = some 1 ∧ x.mn = mn ∧ x.act &&& ~~~x.sp.mask = 0 ∧
        (mn = 1 → x.f.e.kd ≠ 2#2))) ∧
    (∀ mn ∈ [0, 1, 2, 3, 4],
      meets ready (.redx (.ext { ex with minor := BitVec.ofNat 6 mn, typ := if mn < 3 then 0 else 8, d := 16, a := 24 }))
      (fun x _ => x.act ≠ 0 ∧ x.act &&& ~~~x.sp.mask = 0 ∧ x.mn = mn ∧ isFlt x.t = false)) ∧
    (∀ e ∈ [(0, 0), (1, 0), (1, 1), (2, 0), (3, 0)],
      meets (onG (fun g => setVreg g 32 7 0xFFFFFFFF))
        (.shfl (.ext { ex with minor := BitVec.ofNat 6 e.1, md := BitVec.ofNat 5 e.2, typ := 8, d := 16, a := 24, b := 32 }))
        (fun x _ => laneIn x.sp.mask 7 = true ∧ x.mn = e.1 ∧ x.md = e.2 ∧ x.b 7 % 2 ^ 32 = 2 ^ 32 - 1)) := by
  exact ⟨meets_list (by decide), meets_list (by decide), meets_list (by decide)⟩

/-! ## Groups, spawning and launches -/

theorem witness_Regang :
    (∀ mn ∈ [0, 1, 2, 3, 4], meets ready (.regang (.ext { ex with minor := BitVec.ofNat 6 mn, ka := 1, a := 24 }))
      (fun x s => x.act ≠ 0 ∧ x.act = x.sp.mask ∧ x.sp.wait = none ∧ (128 ≤ x.gang.id → x.mn = 0 ∨ x.mn = 4) ∧
      (∀ r ∈ (x.group s).rendezvous, x.cur.slot ∉ r.parts) ∧ (getGroup s x.cur.core x.gang.gslot).isSome ∧
      x.gang.divided ∧ mixedMembers (taken x.cur s) x.cur.core (x.group s) (regangSet (taken x.cur s) x.cur.core (x.group s) x.cur.slot x.gang x.mn) = false)) ∧
    meets (onG (fun g => { g with id := 128 })) (.regang (.ext { ex with minor := 4, ka := 1, a := 24 }))
      (fun x s => x.act ≠ 0 ∧ x.act = x.sp.mask ∧ x.sp.wait = none ∧ (128 ≤ x.gang.id → x.mn = 0 ∨ x.mn = 4) ∧
      (∀ r ∈ (x.group s).rendezvous, x.cur.slot ∉ r.parts) ∧ (getGroup s x.cur.core x.gang.gslot).isSome ∧
      x.gang.divided ∧ mixedMembers (taken x.cur s) x.cur.core (x.group s) (regangSet (taken x.cur s) x.cur.core (x.group s) x.cur.slot x.gang x.mn) = false) ∧
    (let r : Rendezvous := { parts := [0, 1], pc := 0, slot := 0, mode := 0, live := 0, arrived := [], timer := 0, nextPc := 8, nextSlot := 0 }
     let s := setGang ready 0 1 { loaderGang with id := 1 }
     let gangs : List (Nat × Gang) := [(0, loaderGang), (1, { loaderGang with id := 1 })]
     0 < 8 ∧ 8 ≤ 64 ∧ gangs.map (·.1) = r.parts ∧ r.parts.Nodup ∧ gangs ≠ [] ∧
     (∀ e ∈ gangs, getGang s 0 e.1 = some e.2 ∧ e.2.width = 8 ∧ risingFrom 0 e.2.v = true) ∧
     (gangs.map (·.2.id)).Pairwise (· < ·)) := by
  unfold Gang.divided
  refine ⟨meets_list (by decide), meets_dec (by decide), ?_⟩
  decide

/-- A `spawn` with join addresses at the end of scratchpad, and one without; a counter that holds all ones; slot demand
that fits and that does not. -/
theorem witness_SpawnRequests :
    meets (one (onG (fun g => setVreg g 32 0 458748))) (.spawn (.ext { ex with kd := 2, d := 1, minor := 2, a := 24, md := 1, b := 32, kc := 1, c := 40 }))
      (fun x s => (x.group s).quota ≠ 0 ∧ ((x.group s).roles = true → (x.group s).counts.getD 3 0 ≠ 0) ∧ x.act ≠ 0 ∧
        (x.md = 1 → ∀ h, laneIn x.act h = true → x.b h % 4 = 0 ∧ x.b h + 4 ≤ (x.group s).ssize)) ∧
    meets ready (.spawn (.ext { ex with kd := 2, d := 1, kc := 3, imm := 8 })) (fun x s => (x.group s).quota ≠ 0 ∧
      ((x.group s).roles = true → (x.group s).counts.getD 3 0 ≠ 0) ∧ x.act ≠ 0 ∧ (x.md = 1 → ∀ h, laneIn x.act h = true →
      x.b h % 4 = 0 ∧ x.b h + 4 ≤ (x.group s).ssize)) ∧
    scratchRead (onC (fun c => { c with scratch := memWriteBytes [] 0 [255, 255, 255, 255] })) 0 { ctx := 0, ssize := 4 } 0 4 = 2 ^ 32 - 1 ∧
    (let k := getCore ready 0
     (∀ g ∈ getGroup ready 0 0, g.spilled = [] ∧ queuedOf k 0 < g.quota ∧
       slotDemand k + queueRise k g 0 0 ≤ 48 - launchedGangs k) ∧ (getGroup ready 0 0).isSome ∧ k.spawnq.length < 2048) ∧
    (let k := { getCore ready 0 with gangs := (List.range 48).map (fun n => (n, { loaderGang with id := n })) }
     ∀ g ∈ getGroup ready 0 0, ¬ slotDemand k + queueRise k g 0 0 ≤ 48 - launchedGangs k) := by
  refine ⟨meets_of (by decide) ⟨by decide, by decide, by decide, fun _ => forall_lanes (by decide)⟩,
    meets_of (by decide) ⟨by decide, by decide, by decide, fun h => absurd h (by decide)⟩, by decide, by decide, by decide⟩

/-- A copy in progress that credits the phase barrier at an offset. -/
def crediting (off : Nat) (s : State) : State :=
  onC (fun c => { c with copyrun := [{ request := BitVec.ofNat 512 (2 ^ 243 + off * 2 ^ 224), slot := 0, gslot := 0, ctx := 0, id := 0 }] }) s

/-- Stores apart from, and over, the phase barrier that a copy credits. -/
theorem witness_ScratchpadStores :
    let inRange (n : Nat) (x : Ctx) (s : State) : Prop :=
      ∀ h, laneIn x.act h = true → x.scratchAddr h true % n = 0 ∧ x.scratchAddr h true + n ≤ (x.group s).ssize
    let fault (n : Nat) (x : Ctx) (s : State) (h : Nat) : Option (Nat × Nat) := scratchFault (x.group s) n (x.scratchAddr h true)
    let top := onG (fun g => setVreg g 24 7 458748)
    meets top (.jinit (.ext { ex with a := 24, kb := 3, c := 40 })) (inRange 4) ∧
    meets (crediting 64 top) (.sts (.ext { ex with typ := 8, a := 24, kb := 3, c := 40 }))
      (fun x s => inRange (typeWidth x.t / 8) x s ∧ ∀ h, laneIn x.act h = true →
      ∀ o ∈ pendingPhases s x.cur.core x.gang.gslot,
      o + 16 ≤ x.scratchAddr h true ∨ x.scratchAddr h true + typeWidth x.t / 8 ≤ o) ∧
    meets (crediting 458736 top) (.sts (.ext { ex with typ := 8, a := 24, kb := 3, c := 40 }))
      (fun x s => inRange (typeWidth x.t / 8) x s) ∧
    pendingPhases (crediting 458736 top) 0 0 = [458736] ∧
    meets top (.jwait (.ext { ex with a := 24, kb := 3 })) (fun x s => inRange 4 x s ∧ ∀ h, laneIn x.act h = true →
      scratchRead s x.cur.core (x.group s) (x.scratchAddr h true) 4 = 0) ∧
    meets (onC (fun c => { c with scratch := [(0, 1)] }) top) (.jwait (.ext { ex with a := 24, kb := 3 }))
      (fun x s => inRange 4 x s ∧ ∃ h, laneIn x.act h = true ∧
      scratchRead s x.cur.core (x.group s) (x.scratchAddr h true) 4 ≠ 0) ∧
    (∀ v ∈ [458750, 458752], let past := onG (fun g => setVreg g 24 7 (BitVec.ofNat 32 v))
     meets past (.jinit (.ext { ex with a := 24, kb := 3, c := 40 })) (fun x s => ∃ h, laneIn x.act h = true ∧
       fault 4 x s h ≠ none) ∧
     meets past (.sts (.ext { ex with typ := 8, a := 24, kb := 3, c := 40 })) (fun x s => (∃ h, laneIn x.act h = true ∧
       fault (typeWidth x.t / 8) x s h ≠ none) ∧ ∀ h, laneIn x.act h = true → fault (typeWidth x.t / 8) x s h = none →
       ∀ o ∈ pendingPhases s x.cur.core x.gang.gslot,
       o + 16 ≤ x.scratchAddr h true ∨ x.scratchAddr h true + typeWidth x.t / 8 ≤ o) ∧
     meets past (.jwait (.ext { ex with a := 24, kb := 3 })) (fun x s => ∃ h, laneIn x.act h = true ∧
       fault 4 x s h ≠ none)) := by
  dsimp only
  exact ⟨meets_of (by decide) (forall_lanes (by decide)),
    meets_of (by decide) ⟨forall_lanes (by decide), forall_lanes (by decide)⟩,
    meets_of (by decide) (forall_lanes (by decide)), by decide,
    meets_of (by decide) ⟨forall_lanes (by decide), forall_lanes (by decide)⟩,
    meets_of (by decide) ⟨forall_lanes (by decide), 0, by decide⟩, fun v hv => by
      simp only [List.mem_cons, List.not_mem_nil, or_false] at hv
      rcases hv with rfl | rfl <;>
        exact ⟨meets_of (by decide) ⟨7, by decide⟩,
          meets_of (by decide) ⟨⟨7, by decide⟩, forall_lanes (by decide)⟩,
          meets_of (by decide) ⟨7, by decide⟩⟩⟩

/-- All lanes of the split, and lane 0 alone; with a join address at the end of scratchpad. -/
theorem witness_ExitLeaves :
    ∀ m ∈ [255, 1], meets (onG
      (fun g => setPreg { g with join := [(0, 458748)] } 1 0xFF (BitVec.ofNat 64 m))) (.exitOp (.ext { ex with gp := 1 }))
      (fun x _ => x.act ≠ 0 ∧ x.sp.handler = false ∧ x.gang.divided) := by
  unfold Gang.divided
  exact meets_list (by decide)

/-- A record at the end of scratchpad for the last queue; a token of the context signalled, one armed, and number 4096. -/
theorem witness_LaunchesAndTokens :
    meets (put 24 (458752 - 128) 1 (put 32 1023 1)) (.lnch (.ext { ex with kd := 1, d := 16, ka := 1, a := 24, kb := 1, b := 32 }))
      (fun x s => (x.group s).shadow = false ∧ x.act ≠ 0 ∧ x.b x.lane0 < 1024 ∧ x.a x.lane0 % 64 = 0 ∧
        x.a x.lane0 + 64 * (fieldN (scratchRead s x.cur.core (x.group s) (x.a x.lane0) 64) 385 383 + 2) ≤ (x.group s).ssize) ∧
    meets ready (.qtokNew (.ext { ex with kd := 1, d := 16 })) (fun x s => (x.group s).shadow = false ∧ x.act ≠ 0) ∧
    (∀ k ∈ [0, 4095, 4096], meets (put 24 k 1) (.qtokTest (.ext { ex with minor := 1, kd := 1, d := 16, ka := 1, a := 24 }))
      (fun x _ => x.act ≠ 0)) ∧
    (∀ st ∈ [1, 2], meets { ready with tokens := [(0, { ctx := 0, st := st })] }
      (.qtokFree (.ext { ex with minor := 2, kd := 1, d := 16, ka := 1, a := 24 }))
        (fun x s => (x.group s).shadow = false ∧ x.act ≠ 0)) ∧
    risingFrom 0 (mapSet ([] : SMap Token) 4095 { ctx := 0, st := 1 }) = true := by
  exact ⟨meets_dec (by decide), meets_dec (by decide), meets_list (by decide), meets_list (by decide), by decide⟩

/-! ## Memory -/

theorem only_lane {m : Mask} {p : Nat → Prop} (hm : lanesOf m = [0]) (hp : p 0) : ∀ k, laneIn m k = true → p k := by
  intro k hk
  have : k ∈ lanesOf m := (mem_lanesOf m k).mpr ⟨laneIn_lt m k hk, hk⟩
  rw [hm, List.mem_singleton] at this
  exact this ▸ hp

/-- A gang of one lane whose scalar pairs hold addresses and values; the last word of the page. -/
def edge : State := one (put 24 (2 ^ 21 - 4))
/-- The same with the page mapped to other physical memory. -/
def mapTo (pte : BitVec 64) (s : State := ready) : State := onC
  (fun c => { c with tlb := [{ ctx := 0, va := 0, size := 21, pte := pte }] }) s
/-- Near-window memory of physical core 0, which may be written. -/
def nearPte : BitVec 64 := 0x1800008000000009

theorem witness_Loads :
    meets (onG (fun g => setVreg g 24 7 458748)) (.lds (.ext { ex with typ := 8, d := 16, a := 24, kb := 3 }))
      (fun x s => (x.f.e.kd = 1#2 → x.uniform 1 = true) ∧ ∀ h, laneIn x.act h = true →
      x.scratchAddr h true % (typeWidth x.t / 8) = 0 ∧ x.scratchAddr h true + typeWidth x.t / 8 ≤ (x.group s).ssize) ∧
    (let pa : Nat → Nat := fun _ => 2 ^ 21 - 4
     meets edge (.ld (.ext { ex with typ := 8, d := 16, ka := 1, a := 24, kb := 3 })) (fun x s => x.act ≠ 0 ∧
       (x.f.e.kd = 1#2 → x.uniform 1 = true) ∧ ∀ h, laneIn x.act h = true → finds s x {} (x.globalAddr h true) (pa h) ∧
       (x.globalAddr h true).va % (typeWidth x.t / 8) = 0 ∧ pa h % (typeWidth x.t / 8) = 0 ∧ neverWaits s (pa h) ∧
       (cachedL1 s x.cur.core (pa h) = true → ∀ l, mapFind (getCore s x.cur.core).l1 (pa h / 128) = some l →
       l = BitVec.ofNat 1024 (peek s (pa h / 128 * 128) 128)))) ∧
    (let pa : Nat → Nat := fun _ => 2 ^ 21 - 4
     let line : Nat → BitVec 1024 := fun _ => 5
     meets (onC (fun c => { c with l1 := [(16383, 5)] }) edge) (.ld (.ext { ex with typ := 8, d := 16, ka := 1, a := 24, kb := 3 }))
       (fun x s => x.act ≠ 0 ∧ (x.f.e.kd = 1#2 → x.uniform 1 = true) ∧ x.f.e.sem.toNat % 2 = 0 ∧
         (x.group s).version = [] ∧ ∀ h, laneIn x.act h = true → finds s x {} (x.globalAddr h true) (pa h) ∧
         (x.globalAddr h true).va % (typeWidth x.t / 8) = 0 ∧ cachedL1 s x.cur.core (pa h) = true ∧
         mapFind (getCore s x.cur.core).l1 (pa h / 128) = some (line h))) := by
  dsimp only
  refine ⟨meets_of (by decide) ⟨by decide, forall_lanes (by decide)⟩, meets_of (by decide) ⟨by decide, by decide,
    only_lane (by decide) ⟨⟨_, _, _, rfl, by decide⟩, by decide, by decide, .inr ⟨fun _ _ => rfl, by decide⟩,
      fun _ l h => (nomatch (show none = some l from h))⟩⟩,
    meets_of (by decide) ⟨by decide, by decide, by decide, by decide,
      only_lane (by decide) ⟨⟨_, _, _, rfl, by decide⟩, by decide, by decide, by decide⟩⟩⟩

theorem witness_Stores :
    let st : Instr := .st (.ext { ex with typ := 8, ka := 1, a := 24, kb := 3, c := 40 })
    (let pa : Nat → Nat := fun _ => 2 ^ 21 - 4
     meets edge st (fun x s => x.act ≠ 0 ∧ (x.group s).held = false ∧ (x.group s).shadow = false ∧ ∀ h,
       laneIn x.act h = true → finds s x { write := true } (x.globalAddr h true) (pa h) ∧
       (x.globalAddr h true).va % (typeWidth x.t / 8) = 0 ∧ neverWaits s (pa h) ∧ tierOf (pa h) ≠ .mx)) ∧
    (let h := 0
     let pa := 2 ^ 21 - 4
     meets (onGrp (fun g => { g with held := true }) edge) st (fun x s => (getGroup s x.cur.core x.gang.gslot).isSome ∧
       (x.group s).held = true ∧ x.md ≠ 1 ∧ x.lanes = [h] ∧ finds s x { write := true } (x.globalAddr h true) pa ∧
       (x.globalAddr h true).va % (typeWidth x.t / 8) = 0 ∧ versionRoom s (x.group s) (pa / 128) = .room)) ∧
    meets (onGrp (fun g => { g with held := true, shadow := true }) edge)
      (.st (.ext { ex with typ := 8, md := 1, ka := 1, a := 24, kb := 3, c := 40 })) (fun x s => x.md = 1 ∧
        (x.group s).shadow = true) := by
  dsimp only
  refine ⟨meets_of (by decide) ⟨by decide, by decide, by decide,
      only_lane (by decide) ⟨⟨_, _, _, rfl, by decide⟩, by decide, .inr ⟨fun _ _ => rfl, by decide⟩, by decide⟩⟩,
    meets_of (by decide) ⟨by decide, by decide, by decide, by decide, ⟨_, _, _, rfl, by decide⟩, by decide, by decide⟩,
    meets_dec (by decide)⟩

/-- Two lanes, their addresses by an index: the second misaligned. -/
def twoLanes : State :=
  onG (fun g => { setVreg (setVreg g 32 0 0x100) 32 1 2 with splits := g.splits.map (fun sp => { sp with mask := 3 }) })

/-- A misaligned address; a page that may not be written, one with nothing behind it, and a quarantined granule; lane 1 at
fault and lane 0 not; an offset past scratchpad, and a misaligned one. -/
theorem witness_AccessTraps :
    let size (x : Ctx) : Nat := typeWidth x.t / 8
    let fault (store : Bool) (x : Ctx) (s : State) (h : Nat) : Option (Nat × Nat) :=
      let a := x.globalAddr h true
      let info (k : Nat) : Nat := k + a.va % 2 ^ 52 / 4096 * 2 ^ 24
      if a.va % size x ≠ 0 then some (2, a.va)
      else match mapped s x a with
        | none => none
        | some (p, w, _) =>
          if store = true ∧ w = false then some (4, info 1)
          else if present s p = false ∨ present s (localPa s p) = false then some (4, info 2)
          else if quarantined s (localPa s p) = true then some (4, info 5)
          else none
    let some_ (flt : Nat → Option (Nat × Nat)) (x : Ctx) : Prop := ∃ h, laneIn x.act h = true ∧ flt h ≠ none
    let ld : Instr := .ld (.ext { ex with typ := 8, d := 16, ka := 1, a := 24, kb := 3 })
    let st : Instr := .st (.ext { ex with typ := 8, ka := 1, a := 24, kb := 3, c := 40 })
    let lds : Instr := .lds (.ext { ex with typ := 8, d := 16, a := 24, kb := 3 })
    (let pa : Nat → Nat := fun _ => 0
     (∀ s ∈ [one (put 24 2), one (mapTo 0x1800009000000009), one { ready with quarantine := [(0, false)] }],
       meets s ld (fun x s => (x.f.e.kd = 1#2 → x.uniform 1 = true) ∧ some_ (fault false x s) x ∧ ∀ h,
         laneIn x.act h = true → fault false x s h = none → finds s x {} (x.globalAddr h true) (pa h) ∧
         neverWaits s (pa h))) ∧
     (∀ s ∈ [one (put 24 2), one (mapTo 0x1000000000000009), one (mapTo 0x1800009000000009),
       one { ready with quarantine := [(0, false)] }],
       meets s st (fun x s => (x.md = 1 → (x.group s).shadow = false) ∧ some_ (fault true x s) x ∧ ∀ h,
         laneIn x.act h = true → fault true x s h = none → (x.group s).held = false ∧
         finds s x { write := true } (x.globalAddr h true) (pa h) ∧ neverWaits s (pa h) ∧ tierOf (pa h) ≠ .mx))) ∧
    (let pa : Nat → Nat := fun _ => 0x100
     meets twoLanes (.ld (.ext { ex with typ := 8, d := 16, ka := 1, a := 24, b := 32 })) (fun x s => (x.f.e.kd = 1#2 →
       x.uniform 1 = true) ∧ some_ (fault false x s) x ∧ ∀ h, laneIn x.act h = true → fault false x s h = none →
       finds s x {} (x.globalAddr h true) (pa h) ∧ neverWaits s (pa h)) ∧
     meets twoLanes (.st (.ext { ex with typ := 8, ka := 1, a := 24, b := 32, c := 40 })) (fun x s => (x.md = 1 →
       (x.group s).shadow = false) ∧ some_ (fault true x s) x ∧ ∀ h, laneIn x.act h = true → fault true x s h = none →
       (x.group s).held = false ∧ finds s x { write := true } (x.globalAddr h true) (pa h) ∧ neverWaits s (pa h) ∧
       tierOf (pa h) ≠ .mx)) ∧
    (∀ v ∈ [458750, 458752], meets (onG (fun g => setVreg g 24 7 (BitVec.ofNat 32 v))) lds (fun x s => (x.f.e.kd = 1#2 →
      x.uniform 1 = true) ∧ some_ (fun h => scratchFault (x.group s) (size x) (x.scratchAddr h true)) x)) := by
  dsimp only
  have none_ : ∀ {m : Mask} {p q : Nat → Prop}, lanesOf m = [0] → ¬ q 0 → ∀ k, laneIn m k = true → q k → p k :=
    fun hm h0 => only_lane hm (fun h => absurd h h0)
  refine ⟨⟨?_, ?_⟩, ⟨?_, ?_⟩, ?_⟩
  · intro s hs
    simp only [List.mem_cons, List.not_mem_nil, or_false] at hs
    rcases hs with rfl | rfl | rfl <;>
      exact meets_of (by decide) ⟨by decide, ⟨0, by decide⟩, none_ (by decide) (by decide)⟩
  · intro s hs
    simp only [List.mem_cons, List.not_mem_nil, or_false] at hs
    rcases hs with rfl | rfl | rfl | rfl <;>
      exact meets_of (by decide) ⟨by decide, ⟨0, by decide⟩, none_ (by decide) (by decide)⟩
  · refine meets_of (by decide) ⟨by decide, ⟨1, by decide⟩, forall_lanes (fun k hk => ?_)⟩
    rcases List.mem_pair.mp (show k ∈ [0, 1] from hk) with rfl | rfl
    · exact fun _ => ⟨⟨_, _, _, rfl, by decide⟩, .inr ⟨fun _ _ => rfl, by decide⟩⟩
    · exact fun h => absurd h (by decide)
  · refine meets_of (by decide) ⟨by decide, ⟨1, by decide⟩, forall_lanes (fun k hk => ?_)⟩
    rcases List.mem_pair.mp (show k ∈ [0, 1] from hk) with rfl | rfl
    · exact fun _ => ⟨by decide, ⟨_, _, _, rfl, by decide⟩, .inr ⟨fun _ _ => rfl, by decide⟩, by decide⟩
    · exact fun h => absurd h (by decide)
  · intro v hv
    simp only [List.mem_cons, List.not_mem_nil, or_false] at hv
    rcases hv with rfl | rfl <;> exact meets_of (by decide) ⟨by decide, 7, by decide⟩

def nearWork : NearOp := { kind := 0, dst := 0x8000000000, src := 0, len := 2 ^ 21, dreg := 0, layer := 0, arrived := 0, slot := 0, ctx := 0, id := 0 }

/-- The operation is the issuing gang's. -/
def nearby : State := onG (fun g => { g with ops := [{ flag := some 0, kind := .engine 0 }] }) (onC
  (fun c => { c with near := [nearWork], opSeq := 1 }))

theorem witness_WindowsFencesHints :
    (let e := loaderLeaf
     let n := 7
     meets (put 24 (2 ^ 21 - 1) 2 (put 32 (2 ^ 32 - 1) 1)) (.win (.ext { ex with kd := 2, d := 23, ka := 1, a := 24, kb := 1, b := 32 }))
       (fun x s => x.act ≠ 0 ∧ x.b x.lane0 ≠ 0 ∧ namedReg x.f.e.d.toNat = some (.w, n) ∧
         (getCore s x.cur.core).tlb.find? (fun e => e.covers x.gang.ctx (x.a x.lane0 % 2 ^ 52)) = some e ∧
         x.b x.lane0 < 2 ^ 32 ∧ e.size ≤ 21 ∧ e.phys (x.a x.lane0 % 2 ^ 52) < 2 ^ 52)) ∧
    (let n := 0
     meets ready (.win (.ext { ex with kd := 2, d := 16, ka := 1, a := 24, kb := 1, b := 32 })) (fun x _ => x.act ≠ 0 ∧
       x.b x.lane0 = 0 ∧ namedReg x.f.e.d.toNat = some (.w, n))) ∧
    (∀ k ∈ [0, 2, 3], meets ready (.fence (.ext { ex with sem := 3, agent := 3, stor := BitVec.ofNat 2 k }))
      (fun x s => x.act ≠ 0 ∧ ((x.f.e.stor = 2#2 ∨ x.f.e.stor = 3#2) → nearBusy x s = false))) ∧
    meets ready (.nfence (.ext ex)) (fun x s => x.act ≠ 0 ∧ nearBusy x s = false) ∧
    meets nearby (.nfence (.ext ex)) (fun x s => x.act ≠ 0 ∧ nearBusy x s = true) ∧
    (∀ k ∈ [2, 3], meets nearby (.fence (.ext { ex with sem := 3, agent := 3, stor := BitVec.ofNat 2 k }))
      (fun x s => x.act ≠ 0 ∧ (x.f.e.stor = 2#2 ∨ x.f.e.stor = 3#2) ∧ nearBusy x s = true)) ∧
    meets ready (.pref (.ext { ex with ka := 1, a := 24, kb := 3 })) (fun _ _ => True) ∧
    (let pa := 0
     meets (put 40 (2 ^ 21) 1) (.discard (.ext { ex with ka := 1, a := 24, kb := 3, kc := 1, c := 40 }))
       (fun x s => x.act ≠ 0 ∧ 0 < x.c x.lane0 ∧ x.c x.lane0 ≤ 2 ^ 21 ∧ x.c x.lane0 % 128 = 0 ∧
       (x.globalAddr x.lane0 false).va % 128 = 0 ∧
       finds s x { write := true, unsupported := fun t => t == .mx } (x.globalAddr x.lane0 false) pa ∧ pa % 128 = 0 ∧
       pa % 2 ^ leafLog2 (tierOf pa) + x.c x.lane0 ≤ 2 ^ leafLog2 (tierOf pa))) := by
  dsimp only
  refine ⟨meets_dec (by decide), meets_dec (by decide), meets_list (by decide), meets_dec (by decide),
    meets_dec (by decide),
    meets_list (by decide), meets_dec (by decide), meets_of (by decide) ⟨by decide, by decide, by decide, by decide,
      by decide,
      ⟨_, _, _, rfl, by decide⟩, by decide, by decide⟩⟩

/-- The exchange, the compare and swap, and a sum at the end of a page and of scratchpad; residues in the first line. -/
theorem witness_Atomics :
    let apartBy (n : Nat) (x : Ctx) (addr : Nat → Nat) : Prop :=
      ∀ h k, laneIn x.act h = true → laneIn x.act k = true → h < k → addr h + n ≤ addr k ∨ addr k + n ≤ addr h
    let inMemory (n : Nat) (pcie : Ctx → Bool) (indexed : Ctx → Bool) (pa : Nat → Nat) (x : Ctx) (s : State) : Prop :=
      x.f.e.ka ≠ 0#2 ∧ (x.group s).shadow = false ∧ apartBy n x pa ∧ ∀ h, laneIn x.act h = true →
        finds s x (atomAccess (pcie x)) (x.globalAddr h (indexed x)) (pa h) ∧
        (x.globalAddr h (indexed x)).va % n = 0 ∧ neverWaits s (pa h)
    let inScratch (n : Nat) (indexed : Ctx → Bool) (x : Ctx) (s : State) : Prop :=
      x.f.e.ka = 0#2 ∧ (x.group s).shadow = false ∧ apartBy n x (fun h => (x.group s).sbase + x.scratchAddr h (indexed x)) ∧
        ∀ h, laneIn x.act h = true → x.scratchAddr h (indexed x) % n = 0 ∧
          x.scratchAddr h (indexed x) + n ≤ (x.group s).ssize
    let word (x : Ctx) : Nat := typeWidth x.t / 8
    let pa : Nat → Nat := fun _ => 2 ^ 21 - 4
    let low := onG (fun g => setVreg g 24 0 458748) (one ready)
    (∀ mn ∈ [0, 6], meets edge (.atom (.ext { ex with minor := BitVec.ofNat 6 mn, typ := if mn = 0 then 0 else 8, d := 16, ka := 1, a := 24, kb := 3, c := 40 }))
      (fun x s => inMemory (word x) (fun x => (x.mn == 0 && x.t != 10) || x.mn == 6 || x.mn == 7)
        (fun x => x.mn != 7) pa x s)) ∧
    meets edge (.atom (.ext { ex with minor := 7, typ := 8, d := 16, ka := 1, a := 24, b := 32, c := 40 }))
      (fun x s => inMemory (word x) (fun x => (x.mn == 0 && x.t != 10) || x.mn == 6 || x.mn == 7)
      (fun x => x.mn != 7) pa x s) ∧
    meets low (.atom (.ext { ex with minor := 7, typ := 8, d := 16, a := 24, b := 32, c := 40 })) (fun x s => x.act ≠ 0 ∧
      inScratch (word x) (fun x => x.mn != 7) x s) ∧
    (let pa : Nat → Nat := fun _ => 2 ^ 21 - 32
     meets (one (put 24 (2 ^ 21 - 32))) (.atomw (.ext { ex with minor := 3, typ := 8, d := 16, ka := 1, a := 24, kb := 3, c := 40 })) (fun x s => inMemory 32 (fun _ => false) (fun _ => true) pa x s)) ∧
    meets (one ready) (.atomw (.ext { ex with typ := 8, d := 16, a := 24, kb := 3, c := 40 })) (inScratch 32
      (fun _ => true)) ∧
    (let h := 0
     let pa := 2 ^ 21 - 512 + 63
     meets (one (put 24 (2 ^ 21 - 512 + 63))) (.ratom (.ext { ex with typ := 8, ka := 1, a := 24, kb := 3, c := 40 }))
       (fun x s => x.f.e.ka ≠ 0#2 ∧ (x.group s).shadow = false ∧ x.lanes = [h] ∧
       finds s x (atomAccess false) (x.globalAddr h true) pa ∧ (x.globalAddr h true).va % 512 < 64 ∧ pa % 512 < 64 ∧ ∀ j,
       j < 8 → neverWaits s (pa + 64 * j))) ∧
    (let h := 0
     meets (one ready) (.ratom (.ext { ex with typ := 8, a := 24, kb := 3, c := 40 })) (fun x s => x.f.e.ka = 0#2 ∧
       (x.group s).shadow = false ∧ x.lanes = [h] ∧ x.scratchAddr h true % 512 < 64 ∧
       x.scratchAddr h true / 512 * 512 + 512 ≤ (x.group s).ssize)) := by
  dsimp only
  have pair : ∀ (m : Mask) (q : Nat → Nat → Prop), lanesOf m = [0] →
      ∀ h k, laneIn m h = true → laneIn m k = true → h < k → q h k := by
    intro m q hm h k h1 h2 hlt
    have e := only_lane (m := m) (p := fun k => k = 0) hm rfl
    have := e h h1; have := e k h2
    omega
  refine ⟨fun mn hm => ?_, ?_, ?_, ?_, ?_, ?_, ?_⟩
  · simp only [List.mem_cons, List.not_mem_nil, or_false] at hm
    rcases hm with rfl | rfl <;>
      exact meets_of (by decide) ⟨by decide, by decide, pair _ _ (by decide),
        only_lane (by decide) ⟨⟨_, _, _, rfl, by decide⟩, by decide, .inr ⟨fun _ _ => rfl, by decide⟩⟩⟩
  · exact meets_of (by decide) ⟨by decide, by decide, pair _ _ (by decide),
      only_lane (by decide) ⟨⟨_, _, _, rfl, by decide⟩, by decide, .inr ⟨fun _ _ => rfl, by decide⟩⟩⟩
  · exact meets_of (by decide) ⟨by decide, by decide, by decide, pair _ _ (by decide), only_lane (by decide) ⟨by decide,
    by decide⟩⟩
  · exact meets_of (by decide) ⟨by decide, by decide, pair _ _ (by decide),
      only_lane (by decide) ⟨⟨_, _, _, rfl, by decide⟩, by decide, .inr ⟨fun _ _ => rfl, by decide⟩⟩⟩
  · exact meets_of (by decide) ⟨by decide, by decide, pair _ _ (by decide), only_lane (by decide) ⟨by decide, by decide⟩⟩
  · exact meets_of (by decide) ⟨by decide, by decide, by decide, ⟨_, _, _, rfl, by decide⟩, by decide, by decide,
      fun j hj => .inr ⟨fun _ _ => rfl, show (0 : Nat) < 24 by decide⟩⟩
  · exact meets_dec (by decide)

/-- A whole page, and 64 bytes at its end. -/
theorem witness_NearOperations :
    let goes (kind len : Nat) (ranges : List NearRange) (pas : List Nat) (x : Ctx) (s : State) : Prop :=
      x.act ≠ 0 ∧ (kind = 2 ∨ (x.group s).shadow = false) ∧ len % 64 = 0 ∧ 0 < len ∧ len ≤ 2 ^ 21 ∧
        (getCore s x.cur.core).near.length < 4 ∧ pas.length = ranges.length ∧
        ∀ e ∈ ranges.zip pas, e.1.va % 64 = 0 ∧ e.1.va % 2 ^ 21 + len ≤ 2 ^ 21 ∧ nearLayer e.2 = nearLayer (pas.headD 0) ∧
          ∃ l, (getCore s x.cur.core).tlb.find? (fun l => l.covers x.gang.ctx e.1.va) = some l ∧
            e.2 = localPa s (l.phys e.1.va) ∧
            nearCause s e.2 len l.writable e.1 (kind == 0) = none
    let va (v : Nat) (write : Bool) : NearRange := { va := v % 2 ^ 52, write := write }
    (let pas := [0x8000000000]
     meets (put 40 (2 ^ 21) 1 (mapTo nearPte)) (.nzero (.ext { ex with ka := 1, a := 24, kc := 1, c := 40 }))
       (fun x s => goes 0 (x.c x.lane0) [va (x.a x.lane0) true] pas x s)) ∧
    (let pas := [0x80001FFFC0, 0x8000000000]
     meets (put 40 64 1 (put 16 (2 ^ 21 - 64) 2 (mapTo nearPte))) (.ncopy (.ext { ex with kd := 1, d := 16, ka := 1, a := 24, kc := 1, c := 40 }))
       (fun x s => goes 1 (x.c x.lane0) [va (x.d x.lane0) true, va (x.a x.lane0) false] pas x s)) ∧
    (let pas := [0x8000000000, 0x80001FFFC0]
     meets (put 40 64 1 (put 32 (2 ^ 21 - 64) 2 (mapTo nearPte)))
       (.ncmp (.ext { ex with kd := 1, d := 16, ka := 1, a := 24, kb := 1, b := 32, kc := 1, c := 40 }))
         (fun x s => goes 2 (x.c x.lane0) [va (x.a x.lane0) false, va (x.b x.lane0) false] pas x s)) ∧
    (∀ k ∈ [0, 1, 2], let s := onC (fun c => { c with near := [{ nearWork with kind := k }] })
      (getCore s 0).near = [{ nearWork with kind := k }] ∧ layerBusy s 0 { nearWork with kind := k } = false ∧
        tierOf nearWork.dst ≠ .mx) := by
  dsimp only
  refine ⟨meets_of (by decide) ?_, meets_of (by decide) ?_, meets_of (by decide) ?_, by decide⟩
  · refine ⟨by decide, by decide, by decide, by decide, by decide, by decide, rfl, ?_⟩
    intro e he
    have : e ∈ [(({ va := 0, write := true } : NearRange), 0x8000000000)] := he
    rw [List.mem_singleton] at this
    subst this
    exact ⟨by decide, by decide, by decide, _, rfl, by decide, by decide⟩
  · refine ⟨by decide, by decide, by decide, by decide, by decide, by decide, rfl, ?_⟩
    intro e he
    have : e ∈ [(({ va := 2 ^ 21 - 64, write := true } : NearRange), 0x80001FFFC0), ({ va := 0, write := false },
      0x8000000000)] := he
    simp only [List.mem_cons, List.not_mem_nil, or_false] at this
    rcases this with rfl | rfl <;> exact ⟨by decide, by decide, by decide, _, rfl, by decide, by decide⟩
  · refine ⟨by decide, by decide, by decide, by decide, by decide, by decide, rfl, ?_⟩
    intro e he
    have : e ∈ [(({ va := 0, write := false } : NearRange), 0x8000000000), ({ va := 2 ^ 21 - 64, write := false },
      0x80001FFFC0)] := he
    simp only [List.mem_cons, List.not_mem_nil, or_false] at this
    rcases this with rfl | rfl <;> exact ⟨by decide, by decide, by decide, _, rfl, by decide, by decide⟩

/-! ## Engines and barriers -/

/-- A tile table entry with a word: state 2 is ready, 1 filling, 3 draining. -/
def tileIs (e : Nat) (w : Word) (s : State := ready) : State := setTileWord 0 e w s

def copyWaiting : CopySlot := { slot := 0, gslot := 0, ctx := 0, id := 0 }

theorem witness_CopiesAndTiles :
    let tile (d : Nat) (x : Ctx) (s : State) (e : Nat) : Prop :=
      ∃ r, namedReg d = some r ∧ (x.group s).tiles[r.2]? = some e
    let tdef : Instr := .tdef (.ext { ex with kd := 2, d := 191, ka := 1, a := 24, kb := 1, b := 32 })
    let trel : Instr := .trel (.ext { ex with kd := 2, d := 191 })
    let full (n : Nat) : State := onC (fun c => { c with copyq := List.replicate n copyWaiting })
    meets (full 31) (.cpy (.ext { ex with ka := 1, a := 32 })) (fun x s => x.act ≠ 0 ∧
      (getCore s x.cur.core).copyq.length < 32) ∧
    meets (put 24 (458752 - 64) 1 (put 40 1 1)) (.cpyl (.ext { ex with ka := 1, a := 24, kb := 3, kc := 1, c := 40 }))
      (fun x s => x.act ≠ 0 ∧ (getCore s x.cur.core).copyq.length < 32 ∧ 0 < x.c x.lane0 ∧ x.c x.lane0 ≤ 256 ∧
      x.scratchAddr x.lane0 false % 64 = 0 ∧ x.scratchAddr x.lane0 false + 64 * x.c x.lane0 ≤ (x.group s).ssize) ∧
    meets (put 40 256 1) (.cpyl (.ext { ex with ka := 1, a := 24, kb := 3, kc := 1, c := 40 })) (fun x s => x.act ≠ 0 ∧
      (getCore s x.cur.core).copyq.length < 32 ∧ 0 < x.c x.lane0 ∧ x.c x.lane0 ≤ 256 ∧
      x.scratchAddr x.lane0 false % 64 = 0 ∧ x.scratchAddr x.lane0 false + 64 * x.c x.lane0 ≤ (x.group s).ssize) ∧
    meets (full 32) (.cpy (.ext { ex with ka := 1, a := 32 })) (fun x s => x.act ≠ 0 ∧
      32 ≤ (getCore s x.cur.core).copyq.length) ∧
    meets (put 24 (458752 - 64) 1 (put 40 1 1 (full 32))) (.cpyl (.ext { ex with ka := 1, a := 24, kb := 3, kc := 1, c := 40 }))
      (fun x s => x.act ≠ 0 ∧ 32 ≤ (getCore s x.cur.core).copyq.length ∧ 0 < x.c x.lane0 ∧ x.c x.lane0 ≤ 256 ∧
        x.scratchAddr x.lane0 false % 64 = 0 ∧ x.scratchAddr x.lane0 false + 64 * x.c x.lane0 ≤ (x.group s).ssize) ∧
    (let e := 63
     meets (put 24 (458752 - 65536) 1 (put 32 65536 1)) tdef (fun x s => x.act ≠ 0 ∧ tile x.f.e.d.toNat x s e ∧
       field (tileWord s x.cur.core e) 31 30 = 0 ∧ x.a x.lane0 % 256 = 0 ∧ x.b x.lane0 % 256 = 0 ∧ 256 ≤ x.b x.lane0 ∧
       x.b x.lane0 ≤ 65536 ∧ x.a x.lane0 < 2 ^ 19 ∧ x.a x.lane0 + x.b x.lane0 ≤ (x.group s).ssize) ∧
     meets (put 24 (458752 - 256) 1 (put 32 256 1)) tdef (fun x s => x.act ≠ 0 ∧ tile x.f.e.d.toNat x s e ∧
       field (tileWord s x.cur.core e) 31 30 = 0 ∧ x.a x.lane0 % 256 = 0 ∧ x.b x.lane0 % 256 = 0 ∧ 256 ≤ x.b x.lane0 ∧
       x.b x.lane0 ≤ 65536 ∧ x.a x.lane0 < 2 ^ 19 ∧ x.a x.lane0 + x.b x.lane0 ≤ (x.group s).ssize) ∧
     meets ready (.tstat (.ext { ex with kd := 1, d := 16, ka := 2, a := 191 })) (fun x s => x.act ≠ 0 ∧
       tile x.f.e.a.toNat x s e) ∧
     (∀ w ∈ [0x80000000, 0x82000000], meets (tileIs 63 (BitVec.ofNat 32 w)) trel (fun x s => x.act ≠ 0 ∧
       tile x.f.e.d.toNat x s e ∧ field (tileWord s x.cur.core e) 31 30 = 2)) ∧
     (∀ w ∈ [0x40000000, 0x80000000, 0xC0000000], meets (tileIs 63 (BitVec.ofNat 32 w)) tdef (fun x s => x.act ≠ 0 ∧
       tile x.f.e.d.toNat x s e ∧ field (tileWord s x.cur.core e) 31 30 ≠ 0)) ∧
     (∀ w ∈ [0, 0x40000000, 0xC0000000], meets (tileIs 63 (BitVec.ofNat 32 w)) trel (fun x s => x.act ≠ 0 ∧
       tile x.f.e.d.toNat x s e ∧ field (tileWord s x.cur.core e) 31 30 ≠ 2))) ∧
    (∀ i ∈ [tdef, trel], meets (onGrp (fun g => { g with tiles := List.range 63 })) i (fun x s => ∀ r,
      namedReg x.f.e.d.toNat = some r → (x.group s).tiles.length ≤ r.2)) ∧
    meets (onGrp (fun g => { g with tiles := List.range 63 })) (.tstat (.ext { ex with kd := 1, d := 16, ka := 2, a := 191 })) (fun x s => ∀ r, namedReg x.f.e.a.toNat = some r → (x.group s).tiles.length ≤ r.2) := by
  dsimp only
  refine ⟨meets_dec (by decide), meets_dec (by decide), meets_dec (by decide), meets_dec (by decide), meets_dec (by decide),
    ⟨meets_of (by decide) ⟨by decide, ⟨_, rfl, by decide⟩, by decide, by decide, by decide, by decide, by decide,
      by decide, by decide⟩,
     meets_of (by decide) ⟨by decide, ⟨_, rfl, by decide⟩, by decide, by decide, by decide, by decide, by decide,
       by decide, by decide⟩,
     meets_of (by decide) ⟨by decide, _, rfl, by decide⟩, fun w hw => ?_, fun w hw => ?_, fun w hw => ?_⟩, fun i hi => ?_,
    meets_of (by decide) (fun r h => by
      have : r = (File.t, 63) := (Option.some.inj h).symm
      subst this; decide)⟩ <;>
    simp only [List.mem_cons, List.not_mem_nil, or_false] at *
  · rcases hw with rfl | rfl <;> exact meets_of (by decide) ⟨by decide, ⟨_, rfl, by decide⟩, by decide⟩
  · rcases hw with rfl | rfl | rfl <;> exact meets_of (by decide) ⟨by decide, ⟨_, rfl, by decide⟩, by decide⟩
  · rcases hw with rfl | rfl | rfl <;> exact meets_of (by decide) ⟨by decide, ⟨_, rfl, by decide⟩, by decide⟩
  · rcases hi with rfl | rfl <;>
      exact meets_of (by decide) (fun r h => by
        have : r = (File.t, 63) := (Option.some.inj h).symm
        subst this; decide)

/-- A phase barrier at the last 16 bytes of scratchpad, with bytes due, arrivals and a count. -/
def phased (due arrived count gen c : Nat) : State :=
  put 24 458736 1 (put 40 c 1 (scratchWrite 0 { ctx := 0, ssize := 458752 } 458736
    (natToBytes 16 (due * 2 ^ 96 + gen * 2 ^ 48 + arrived * 2 ^ 32 + count)) ready))

theorem witness_PhaseBarriers :
    let at_ (x : Ctx) (s : State) : Prop := x.act ≠ 0 ∧ x.phaseAt % 16 = 0 ∧ x.phaseAt + 16 ≤ (x.group s).ssize
    let phase (x : Ctx) (s : State) : Phase := readPhase s x.cur.core (x.group s) x.phaseAt
    let n (x : Ctx) : Nat := if x.mn = 0 then 1 else laneCount x.act
    let e : Ext := { ex with ka := 1, a := 24, kb := 3, kc := 1, c := 40 }
    let arrive (mn : BitVec 6) : Instr := .pbarv (.ext { ex with minor := mn, ka := 1, a := 24, kb := 3 })
    (∀ k ∈ [1, 65535], meets (phased 0 0 0 0 k) (.pbinit (.ext e)) (fun x s => at_ x s ∧ 0 < x.c x.lane0 ∧
      x.c x.lane0 ≤ 65535)) ∧
    (∀ k ∈ [0, 2 ^ 32 - 2], meets (phased 1 0 1 0 k) (.pbexp (.ext e)) (fun x s => at_ x s ∧
      (phase x s).due + x.c x.lane0 < 2 ^ 32)) ∧
    meets (phased 1 0 1 0 (2 ^ 32 - 1)) (.pbexp (.ext e)) (fun x s => at_ x s ∧ 2 ^ 32 ≤ (phase x s).due + x.c x.lane0) ∧
    meets (phased 0 0 1 0 0) (arrive 0) (fun x s => at_ x s ∧ (phase x s).arrived + n x ≤ (phase x s).count ∧
      justFlipped x x.phaseAt s = false) ∧ meets (phased 0 0 8 0 0) (arrive 1) (fun x s => at_ x s ∧
      (phase x s).arrived + n x ≤ (phase x s).count ∧ justFlipped x x.phaseAt s = false) ∧
    meets (onC (fun c => { c with flips := [(458736, 0)] }) (phased 0 0 1 0 0)) (arrive 0) (fun x s => at_ x s ∧
      (phase x s).arrived + n x ≤ (phase x s).count ∧ justFlipped x x.phaseAt s = true) ∧
    meets (phased 0 1 1 0 0) (arrive 0) (fun x s => at_ x s ∧ (phase x s).count < (phase x s).arrived + n x) ∧
      meets (phased 0 0 7 0 0) (arrive 1) (fun x s => at_ x s ∧ (phase x s).count < (phase x s).arrived + n x) ∧
    meets (phased 0 0 1 65535 0) (.pbwait (.ext e)) (fun x s => at_ x s ∧ (phase x s).gen ≠ x.c x.lane0 % 2 ^ 16) ∧
    meets (phased 0 0 1 65535 (2 ^ 32 - 1)) (.pbwait (.ext e)) (fun x s => at_ x s ∧
      (phase x s).gen = x.c x.lane0 % 2 ^ 16) := by
  dsimp only
  exact ⟨meets_list (by decide), meets_list (by decide), meets_dec (by decide), meets_dec (by decide),
    meets_dec (by decide),
    meets_dec (by decide), meets_dec (by decide), meets_dec (by decide), meets_dec (by decide), meets_dec (by decide)⟩

/-- b0 with arrivals of a member gang, the wait of the issuing split at it,
  and a `bdef` of another gang that is due there. -/
def arrivedAt (n : Nat) : State := onGrp
  (fun g => { g with barriers := mapSet g.barriers 0 { members := 1, arrived := n } })
def waitingAt (ended : Bool) : State :=
  onG (fun g => modSplit 0
    (fun sp => { sp with wait := some { kind := .barrier, obj := 0, since := 0, acted := true, ended := ended } }) g)
def defining : State := setGang ready 0 1 { loaderGang with
  id := 1, splits := [{ mask := 0xFF, pc := 0, wait := some { kind := .barrier, obj := 0, since := 0, defines := true } }] }

/-- A cohort of two groups, the second on core 1. -/
def paired : State :=
  modCore (onGrp (fun g => { g with cohortSize := 2 })) 1 (fun c =>
    { c with groups := [(0, { ctx := 0, cohortSize := 2, index := 1, barriers := [(19, { members := 1 })] })], gangs := [(0, loaderGang)] })

/-- The barriers b15 and k3 at the ends of their names, k3 in a cohort of one group and of two; the arrival that completes a
generation, and one before it; no lane late, some, and all; a wait that goes on and one that has ended. -/
theorem witness_NamedBarriers :
    let bar (x : Ctx) : Nat := barrierName x.f.e.a.toNat
    let keyed (x : Ctx) (s : State) : Prop := bar x < 16 ∨ (x.group s).cohortSize ≤ 1 ∨
      (risingFrom 0 s.cores = true ∧ ∀ e ∈ s.cores, risingFrom 0 e.2.groups = true)
    let ours (x : Ctx) (s : State) : Prop :=
      x.gang.id < 128 ∧ x.act ≠ 0 ∧ (getGroup s x.cur.core x.gang.gslot).isSome ∧ keyed x s
    let member (x : Ctx) (s : State) : Prop := isMember (x.group s) x.gang (bar x) = true ∧ barrierWait x = none
    let late (x : Ctx) : Mask := mapGet 0 x.gang.pend (bar x) &&& x.act
    let undefined (x : Ctx) (s : State) : Prop := definesDue s x.cur.core x.gang.gslot (bar x) = []
    let on (a : BitVec 8) : Ext := { ex with ka := 2, a := a }
    let set (a : BitVec 8) : Instr := .bdef (.ext { ex with ka := 2, a := a, kb := 1, b := 32 })
    let half : Ext := { ex with ka := 2, a := 0x40, gp := 1 }
    let pended (m : Mask) : State := onG (fun g => { g with pend := [(0, m)] })
    meets ready (set 0x4F) (fun x s => ours x s ∧ barrierArrived s x.cur.core x.gang.gslot (bar x) = 0) ∧
      meets ready (set 0x53) (fun x s => ours x s ∧ barrierArrived s x.cur.core x.gang.gslot (bar x) = 0) ∧
      meets paired (set 0x53) (fun x s => ours x s ∧ barrierArrived s x.cur.core x.gang.gslot (bar x) = 0) ∧
    meets (arrivedAt 1) (set 0x40) (fun x s => ours x s ∧ barrierArrived s x.cur.core x.gang.gslot (bar x) ≠ 0) ∧
    meets ready (.barv (.ext (on 0x40))) (fun x s => ours x s ∧ member x s ∧ late x = 0 ∧ undefined x s) ∧
      meets paired (.barv (.ext (on 0x53))) (fun x s => ours x s ∧ member x s ∧ late x = 0 ∧ undefined x s) ∧
    meets (onG (fun g => setPreg g 1 0xFF 1)) (.barv (.ext half)) (fun x s => ours x s ∧ member x s ∧ late x = 0 ∧
      undefined x s) ∧
    meets ready (.bsync (.ext (on 0x53))) (fun x s => ours x s ∧ member x s ∧ late x = 0 ∧ undefined x s) ∧
      meets paired (.bsync (.ext (on 0x53))) (fun x s => ours x s ∧ member x s ∧ late x = 0 ∧ undefined x s) ∧
    (∀ i ∈ [Instr.barv (.ext (on 0x40)), .bsync (.ext (on 0x40))],
      meets (pended 1) i (fun x s => ours x s ∧ member x s ∧ late x ≠ 0 ∧ late x ≠ x.act ∧ undefined x s) ∧
        meets (pended 0xFF) i (fun x s => ours x s ∧ member x s ∧ (late x = x.act ∨ ¬ undefined x s)) ∧ meets defining i
        (fun x s => ours x s ∧ member x s ∧ (late x = x.act ∨ ¬ undefined x s))) ∧
    meets ready (.bwait (.ext (on 0x40))) (fun x s => ours x s ∧ member x s) ∧ meets paired (.bwait (.ext (on 0x53)))
      (fun x s => ours x s ∧ member x s) ∧
    (∀ i ∈ [Instr.bsync (.ext (on 0x40)), .bwait (.ext (on 0x40))],
      (let w : Wait := { kind := .barrier, obj := 0, since := 0, acted := true }
       meets (waitingAt false) i (fun x s => ours x s ∧ barrierWait x = some w ∧ w.ended = false)) ∧
      (let w : Wait := { kind := .barrier, obj := 0, since := 0, acted := true, ended := true }
       meets (waitingAt true) i (fun x _ => x.gang.id < 128 ∧ x.act ≠ 0 ∧ barrierWait x = some w ∧ w.ended = true))) ∧
    (∀ i ∈ [set 0x40, .barv (.ext (on 0x40)), .bwait (.ext (on 0x40)), .bsync (.ext (on 0x40))],
      meets (onG (fun g => { g with id := 128 })) i (fun x _ => 128 ≤ x.gang.id)) ∧
    (∀ i ∈ [Instr.barv (.ext (on 0x40)), .bwait (.ext (on 0x40)), .bsync (.ext (on 0x40))],
      meets (onG (fun g => { g with id := 127 })) i (fun x s => x.gang.id < 128 ∧ x.act ≠ 0 ∧
        isMember (x.group s) x.gang (bar x) = false ∧ barrierWait x = none)) := by
  dsimp only [Gang.divided]
  refine ⟨meets_dec (by decide), meets_dec (by decide), meets_dec (by decide), meets_dec (by decide), meets_dec (by decide),
    meets_dec (by decide), meets_dec (by decide), meets_dec (by decide), meets_dec (by decide), fun i hi => ?_,
      meets_dec (by decide),
    meets_dec (by decide), fun i hi => ?_, meets_list (by decide), meets_list (by decide)⟩ <;>
    simp only [List.mem_cons, List.not_mem_nil, or_false] at hi
  · rcases hi with rfl | rfl <;> exact ⟨meets_dec (by decide), meets_dec (by decide), meets_dec (by decide)⟩
  · rcases hi with rfl | rfl <;> exact ⟨meets_dec (by decide), meets_dec (by decide)⟩

/-- A request of scope 0: 8 by 8, one step; and one of scope 1, which needs a second core. -/
theorem witness_MatrixInstructions :
    let ok (x : Ctx) (s : State) (n : Nat) : Prop :=
      x.accName s = some n ∧ leads x (taken x.cur s) n = true ∧ x.act ≠ 0 ∧ (getCore s x.cur.core).mqueue.length < 32
    let request (x : Ctx) : BitVec 64 := BitVec.ofNat 64 (x.a x.lane0)
    let legal (x : Ctx) : Prop := x.act ≠ 0 ∧ field (request x) 63 40 = 0 ∧ field (request x) 18 16 = 0 ∧
      shapeScope (request x) ≠ 3 ∧ shapeScope (request x) = x.mn
    let shape (mn : BitVec 6) : Instr := .mshape (.ext { ex with minor := mn, kd := 1, d := 16, ka := 1, a := 24 })
    let tile (d : BitVec 8) : Ext := { ex with kd := 2, d := d, ka := 1, a := 24 }
    let mma (mn : BitVec 6) : Instr := .mma (.ext { ex with minor := mn, kd := 2, d := 0x33, ka := 1, a := 24, kb := 1, b := 32 })
    let rings : Instr := .mma (.ext { ex with kd := 2, d := 0x33, ka := 2, a := 0x80, kb := 2, b := 0x90, imm := 0xFF })
    let busy : State := onC
      (fun c => { c with mqueue := List.replicate 31 { kind := .mzero, tile := 0, slot := 0, gslot := 0, ctx := 0, id := 0 } })
    meets ready (shape 0) (fun x s => legal x ∧ grants (taken x.cur s) x.cur.core x.gang.gslot x.mn = true) ∧
    meets (put 24 (2 ^ 38)) (shape 1) (fun x s => legal x ∧ grants (taken x.cur s) x.cur.core x.gang.gslot x.mn = false) ∧
    (let n := 3
     meets busy (.mzero (.ext { ex with kd := 2, d := 0x33 })) (fun x s => ok x s n) ∧
     (let r : BitVec 64 := 0
      meets (onG (fun g => { g with shape := some 0 }) busy) (mma 0) (fun x s => ok x s n ∧ x.gang.shape = some r ∧
        shapeScope r = x.mn) ∧
      meets (onG (fun g => { g with shape := some 0 }) busy) rings (fun x s => ok x s n ∧ x.gang.shape = some r ∧
        shapeScope r = x.mn)) ∧
     meets busy (.mldcRp8 (.ext { tile 0x33 with imm := 63 })) (fun x s => ok x s n) ∧
     meets busy (.mldcImg (.ext { tile 0x33 with md := 1 })) (fun x s => ok x s n) ∧
     meets (put 24 (458752 - 32) 1 busy) (.mdrain (.ext (tile 0x33))) (fun x s => ok x s n ∧ x.a x.lane0 % 32 = 0 ∧
       x.a x.lane0 + 32 ≤ (x.group s).ssize) ∧
     meets busy (.msave (.ext (tile 0x33))) (fun x s => ok x s n)) ∧
    meets ready (mma 0) (fun x _ => x.gang.shape = none) ∧
    (∀ i ∈ [Instr.mzero (.ext { ex with kd := 2, d := 0x33 }), .mldcRp8 (.ext (tile 0x33)),
      .mldcImg (.ext { tile 0x33 with md := 1 }),
        .mdrain (.ext (tile 0x33)), .msave (.ext (tile 0x33))],
      meets (onGrp (fun g => { g with acc := [0, 1, 2] })) i (fun x s => x.accName s = none)) ∧
    (∀ k ∈ [0, 1], meets ready (.mstat (.ext { ex with kd := 1, d := 16, imm := BitVec.ofNat 16 k }))
      (fun x _ => x.act ≠ 0 ∧ x.immN < 4)) ∧
    (∀ k ∈ [4, 7, 8, 11], let n := k % 4
      meets ready (.mstat (.ext { ex with kd := 1, d := 16, imm := BitVec.ofNat 16 k })) (fun x s => x.act ≠ 0 ∧
        4 ≤ x.immN ∧ (x.group s).acc[x.immN % 4]? = some n)) := by
  dsimp only
  refine ⟨meets_dec (by decide), meets_dec (by decide), ⟨meets_dec (by decide), ⟨meets_dec (by decide),
    meets_dec (by decide)⟩,
    meets_dec (by decide), meets_dec (by decide), meets_dec (by decide), meets_dec (by decide)⟩, meets_dec (by decide),
      meets_list (by decide),
    meets_list (by decide), meets_list (by decide)⟩

/-! ## Steps of the device -/

/-- A state meets a condition: the hypothesis of `Moves`. -/
def holds (s : State) (P : State → Prop) : Prop := P s

theorem holds_of {s : State} {P : State → Prop} (h : P s) : holds s P := h

theorem some_pair {α β : Type} {p : Option α × β} (h : p.1.isSome = true) : p = (some (p.1.get h), p.2) :=
  Prod.ext (Option.some_get h).symm rfl

/-- The gang and the group of `ready` in a state. -/
def gangOf (s : State) : Gang := (getGang s 0 0).getD loaderGang
def groupOf (s : State) : Group := (getGroup s 0 0).getD { ctx := 0 }

/-- A second gang, id 1 in slot 1. -/
def two (f : Gang → Gang) (s : State := ready) : State :=
  onC (fun c => { c with gangs := mapSet c.gangs 1 (f { gangOf s with id := 1 }) }) s

/-- A spawn record that has landed. -/
def landed : SpawnRec := { payload := [7], entry := 64, landed := some 0 }

theorem witness_IssueAndResidency :

    let core := 0
    let slot := 0
    holds ready (fun s => lcoreValid s core = true ∨ (getCore s core).gangs ≠ []) ∧
    (let g := gangOf ready
     holds ready (fun s => getGang s core slot = some g ∧ g.rebuilt = none)) ∧
    (let s := onG (fun g => { g with squashed := true })
     let g := gangOf s
     holds s (fun s => getGang s core slot = some g ∧ g.squashed = true ∧ ∀ o ∈ g.ops, o.kind.waits = true)) ∧
    (let o : Op := { flag := some 11, kind := .lane true }
     let pre : List Op := [{ flag := some 0, kind := .engine 1 }]
     let post : List Op := [o]
     let s := onG (fun g => { g with ops := pre ++ o :: post })
     let g := gangOf s
     holds s (fun s => getGang s core slot = some g ∧ g.ops = pre ++ o :: post ∧ (o.kind.isLane || o.made g) = true ∧
       ∀ p ∈ pre, (p.kind.isLane || p.made g) = false)) ∧
    (let s := onG (fun g => { g with residency := .waitingRoom, regs := 8 })
     let g := gangOf s
     holds s (fun s => getGang s core slot = some g ∧ wantsRoom s core slot g = true ∧ moveBudget s core g = true ∧
       imageFits (getCore s core) g = true ∧ ∀ e ∈ (getCore s core).gangs, e ≠ (slot, g) →
       wantsRoom s core e.1 e.2 = false)) ∧
    (let s := onG (fun g => { g with residency := .lifting })
     let g := gangOf s
     holds s (fun s => getGang s core slot = some g ∧ g.residency = .lifting)) ∧
    (let s := onG (fun g => { g with residency := .recalling, due := [{ lane := 0, cause := 9, tmask := 1, tinfo := 5 }] })
     let g := gangOf s
     holds s (fun s => getGang s core slot = some g ∧ g.residency = .recalling)) ∧
    (let s := two id (onG (fun g => { g with splits := [] }))
     let g := gangOf s
     let k := 1
     let g' := (getGang s 0 1).getD g
     holds s (fun s => getGang s core slot = some g ∧ gangSpent s core slot g = true ∧ k ≠ slot ∧
       getGang s core k = some g' ∧ g'.gslot = g.gslot ∧ ∀ f ∈ (getCore s core).faults, f.slot ≠ slot)) ∧
    (let s := onG (fun g => { g with splits := [] })
     let g := gangOf s
     let grp := groupOf s
     holds s (fun s => getGang s core slot = some g ∧ gangSpent s core slot g = true ∧
       getGroup s core g.gslot = some grp ∧ grp.held = false ∧ grp.spilled = [] ∧ queuedOf (getCore s core) g.gslot = 0 ∧
       s.completions.length < 4096 ∧ (∀ f ∈ (getCore s core).faults, f.slot ≠ slot) ∧ (∀ q ∈ (getCore s core).copyq,
       q.gslot ≠ g.gslot) ∧ (∀ r ∈ (getCore s core).copyrun, r.gslot ≠ g.gslot) ∧ (∀ o ∈ (getCore s core).near,
       o.gslot ≠ g.gslot) ∧ ∀ e ∈ (getCore s core).gangs, e.2.gslot = g.gslot → e.1 = slot)) ∧
    (let s := onC (fun c => { c with faults := [{ slot := 0, tinfo := 5 }] }) (onG (fun g => { g with splits := [] }))
     let g := gangOf s
     holds s (fun s => getGang s core slot = some g ∧ gangSpent s core slot g = true ∧ ∃ f ∈ (getCore s core).faults,
       f.slot = slot)) := by
  dsimp only
  exact ⟨holds_of (by decide), holds_of (by decide), holds_of (by decide), holds_of (by decide), holds_of (by decide),
    holds_of (by decide), holds_of (by decide),
    holds_of (by decide), holds_of (by decide), holds_of (by decide)⟩

/-- A gang forms from as many records as the group is wide; a batch of two records is read; a record lands. -/
theorem witness_SpawnQueues :
    let core := 0;
    (let s := onC (fun c => { c with spawnq := [landed, landed] }) (onGrp (fun g => { g with width := 2 }))
     let grp := groupOf s
     let slot := 1
     let gslot := 0
     let entry : BitVec 52 := 64
     holds s (fun s => let c := getCore s core; 0 < grp.width ∧ grp.width ≤ 64 ∧ c.spawnq.length = grp.width ∧
       getGroup s core gslot = some grp ∧ freeSlotOf c = some slot ∧ mapFind s.preempts grp.ctx = none ∧ ∀ r ∈ c.spawnq,
       r.gslot = gslot ∧ r.entry = entry ∧ r.landed ≠ none ∧ r.ggen = mapGet 0 c.ggen gslot)) ∧
    (let s := onGrp (fun g => { g with spilled := [{ payload := [] }, { payload := [] }], spillBase := 4096, spillSize := 4 })
     let k := 0
     let g := groupOf s
     ∃ recs u, holds s (fun s => let n := min (batchSize g) g.spilled.length; (getCore s core).groups.find?
       (fun e => refillReady s core e.1 e.2) = some (k, g) ∧
       readSpill core g n g.spillHead (chargeBudget 3 core (levelOf s g) n s) = (some recs, u))) ∧
    (let r : SpawnRec := { landed with landed := none }
     let pre := [landed]
     let post := [r]
     holds (onC (fun c => { c with spawnq := pre ++ r :: post })) (fun s => (getCore s core).spawnq = pre ++ r :: post ∧
       r.landed = none ∧ ∀ q ∈ pre, q.landed ≠ none)) := by
  dsimp only
  exact ⟨holds_of (by decide), ⟨_, _, by decide, some_pair (by decide)⟩, holds_of (by decide)⟩

/-- The issuing split waits, with its effect done, since period 0. -/
def waiting (k : WaitKind) (obj : Nat) (s : State := ready) : State :=
  onG (modSplit 0 (fun sp => { sp with wait := some { kind := k, obj := obj, since := 0, acted := true } })) s

/-- A rendezvous of the one gang. -/
def meeting (m : Mask) : Rendezvous :=
  { parts := [0], pc := 0, slot := 0, mode := 0, live := 0, arrived := [(0, m)], timer := 0, nextPc := 16, nextSlot := 0 }

/-- The barrier b0 with its stall timer started at period 0, when a clock stands at c. -/
def stalled (c : Nat) : State :=
  onGrp (fun g => { g with barriers := mapSet g.barriers 0 { members := 1, timer := some 0 } }) { waiting .barrier 0 with clock := c }

theorem witness_WaitsAndTasks :

    let core := 0
    let slot := 0
    let gslot := 0
    let bar := 0
    let t0 := 0
    let k := 0;
    (let s := waiting .barrier 32
     let g := gangOf s
     let grp := groupOf s
     holds s (fun s => getGang s core slot = some g ∧ getGroup s core g.gslot = some grp)) ∧
    (∀ r ∈ [Residency.present, .lifted],
      let s := onG (fun g => { g with residency := r }) (stalled 850000)
      let g := gangOf s
      let grp := groupOf s
      let sp := g.splits.headD { mask := 0, pc := 0 }
      holds s (fun s => getGroup s core gslot = some grp ∧ (grp.barrier bar).timer = some t0 ∧
        t0 + 850 * grp.bst ≤ s.clock ∧ barrierGangs s core gslot bar = [(core, k, grp, g)] ∧ getGang s core k = some g ∧
        waitingSplit g (waitsBarrier bar (grp.barrier bar).gen.toNat) = some sp)) ∧
    (let s := onG (modSplit 0 (fun sp => { sp with wait := none })) (stalled 850000)
     let grp := groupOf s
     holds s (fun s => getGroup s core gslot = some grp ∧ (grp.barrier bar).timer = some t0 ∧
       t0 + 850 * grp.bst ≤ s.clock ∧ barrierWaiters s core gslot bar = false)) ∧
    (let s := stalled 849999
     let grp := groupOf s
     holds s (fun s => getGroup s core gslot = some grp ∧ (grp.barrier bar).timer = some t0 ∧
       s.clock < t0 + 850 * grp.bst)) ∧
    (let s := waiting .barrier 0
     let grp := groupOf s
     holds s (fun s => getGroup s core gslot = some grp ∧ (grp.barrier bar).timer = none)) ∧
    (let r := meeting 0xFF
     let s := onGrp (fun g => { g with rendezvous := [r] })
     let grp := groupOf s
     holds s (fun s => getGroup s core gslot = some grp ∧ grp.rendezvous = [r] ∧ rendezvousDone s core r = true ∧
       writesDrained s core r = true ∧ rendezvousStopped s core r = false ∧
       (regangPresent (getCore s core) r = true ∨ regangFits (getCore s core) r = false))) ∧
    (let r := meeting 0x7F
     let s := { onGrp (fun g => { g with rendezvous := [r] }) (waiting .regang 0) with clock := 850000 }
     let g := gangOf s
     let grp := groupOf s
     let mask : Mask := 0x80
     let sp := g.splits.headD { mask := 0, pc := 0 }
     holds s (fun s => getGroup s core gslot = some grp ∧ grp.rendezvous = [r] ∧ r.timer + 850 * grp.bst ≤ s.clock ∧
       rendezvousDone s core r = false ∧ awaitedGangs s core r = [(k, g, mask)] ∧ mask ≠ 0 ∧ waitingSplit g
       (fun w => w.kind == .regang && w.acted) = some sp)) ∧
    (let s := { waiting .tile 2 with clock := 85000000 }
     let n := 0
     let k := 3
     let g := gangOf s
     let sp := g.splits.headD { mask := 0, pc := 0 }
     let w := sp.wait.getD { kind := .flag, obj := 0, since := 0 }
     holds s (fun s => let limit := field (reg32 s offWdogCfg) 23 0; getGang s core slot = some g ∧
       g.splits[n]? = some sp ∧ sp.wait = some w ∧ watchKind w.kind = some k ∧ sp.trapPend = false ∧ g.owes sp = false ∧
       sp.stop = none ∧ limit ≠ 0 ∧ w.since + 850 * limit ≤ s.clock ∧ waitStands s core g w = false ∧
       waitOver s core slot g (peekSplit s core slot g sp).ctx w = false)) ∧
    (let f : EngineFault := { slot := 0, tinfo := 5 }
     let pre : List EngineFault := [{ slot := 1, tinfo := 4 }]
     let post := [f]
     let s := onC (fun c => { c with faults := pre ++ f :: post })
     let g := gangOf s
     let sp := g.splits.headD { mask := 0, pc := 0 }
     holds s (fun s => getGang s core slot = some g ∧ (getCore s core).faults = pre ++ f :: post ∧ f.slot = slot ∧
       (∀ x ∈ pre, x.slot ≠ slot) ∧ g.splits ≠ [] ∧ boundarySplit g = some sp)) ∧
    (∀ reason ∈ [2, 3],
      let s := onGrp (fun g => { g with held := true })
      let g := groupOf s
      holds s (fun s => getGroup s core gslot = some g ∧ g.held = true ∧ g.task = .retryable ∧ g.twin = none ∧
        bindsNow s core gslot = false ∧ (reason = 2 ∨ reason = 3))) := by
  dsimp only
  refine ⟨holds_of (by decide), fun r h => ?_, holds_of (by decide), holds_of (by decide), holds_of (by decide),
    holds_of (by decide),
    holds_of (by decide), holds_of (by decide), holds_of (by decide), fun reason h => ?_⟩ <;>
    simp only [List.mem_cons, List.not_mem_nil, or_false] at h
  · rcases h with rfl | rfl <;> exact holds_of (by decide)
  · rcases h with rfl | rfl <;> exact holds_of (by decide)

/-- Shadow copies in the group slots 0 and 1 at a commit point, with two signatures. -/
def copies (a b : BitVec 64) : State :=
  onC (fun c => { c with groups := [(0, { ctx := 0, held := true, shadow := true, twin := some (0, 1), atCommit := 1, sign := a }),
    (1, { ctx := 0, held := true, shadow := true, copy := 1, twin := some (0, 0), atCommit := 1, sign := b })] })

theorem witness_ShadowCompare :
    let core := 0
    let gslot := 0
    let c := 0
    let k := 0
    let c' := 0
    let k' := 1
    let other (s : State) : Group := (getGroup s 0 1).getD { ctx := 0 };
    (let g := groupOf (copies 9 9)
     let g' := other (copies 9 9)
     holds (copies 9 9) (fun s => taskCopies core gslot s = [(c, k, g), (c', k', g')] ∧ (c, k) ≠ (c', k') ∧
       getGroup s c k = some g ∧ getGroup s c' k' = some g' ∧ g.atCommit = 1 ∧ g'.atCommit = 1 ∧ g.sign = g'.sign)) ∧
    (let g := groupOf (copies 9 8)
     let g' := other (copies 9 8)
     holds (copies 9 8) (fun s => taskCopies core gslot s = [(c, k, g), (c', k', g')] ∧ g.atCommit ≠ 0 ∧ g'.atCommit ≠ 0 ∧
       g.sign ≠ g'.sign)) := by
  dsimp only
  exact ⟨holds_of (by decide), holds_of (by decide)⟩

/-- A matrix command of the issuing gang. -/
def command (k : MKind) (row : Nat := 0) : MCommand := { kind := k, tile := 3, slot := 0, gslot := 0, ctx := 0, id := 5, row := row }

/-- The command runs, or waits in the queue. -/
def inEngine (m : MCommand) : State := onC (fun c => { c with mrun := [m] })
def inQueue (m : MCommand) : State := onC (fun c => { c with mqueue := [m] })

theorem witness_EngineSteps :
    let noGroupSpent (s : State) (core : Nat) : Prop :=
      ∀ e ∈ (getCore s core).groups, gangsOfGroup (getCore s core) e.1 ≠ []
    let runs (core : Nat) (s : State) (m : MCommand) (code : Nat) : Prop :=
      (getCore s core).mrun = [m] ∧ kindCode m.kind = code ∧ m.onPage = none ∧ m.scope = 0
    let queued (core : Nat) (s : State) (m : MCommand) (rest : List MCommand) : Prop :=
      (getCore s core).mqueue = m :: rest ∧ m.kind = .mzero ∧ (getCore s core).mrun = [] ∧ (getCore s core).slaved = none ∧
      heldForSave s core m.ctx (rest.length + 1) = false ∧ cmdBudget s core m = true
    let alone (core : Nat) (s : State) (m : MCommand) (g : Group) : Prop :=
      cmdParts s core m = [(core, m.gslot, g)] ∧ cmdBudget s core m = true
    let core := 0
    -- 512 bytes of scratchpad at 0 are copied to 512.
    let req : BitVec 512 := BitVec.ofNat 512 (512 * 2 ^ 408 + 512 * 2 ^ 276 + 2 ^ 223 + 2 ^ 222)
    let rest : List MCommand := [];
    (let q : CopySlot := { request := req, slot := 0, gslot := 0, ctx := 0, id := 1 }
     let rest := [{ q with id := 2 }]
     let s := onC (fun c => { c with copyq := q :: rest })
     let g := groupOf s
     holds s (fun s => let r := copyOf q.request; (getCore s core).copyq = q :: rest ∧ (∀ x ∈ rest, x.id ≠ q.id) ∧
       q.count = 0 ∧ (getCore s core).copyrun = [] ∧ getGroup s core q.gslot = some g ∧
       hasBudget s 0 core (levelOf s g) = true ∧ heldForSave s core q.ctx (rest.length + 1) = false ∧
       r.reason s core g = none ∧ r.stile = false ∧ r.dtile = false ∧ r.direct = false ∧ noGroupSpent s core)) ∧
    (let run : CopyRun := { request := req, slot := 0, gslot := 0, ctx := 0, id := 1 }
     let s := onC (fun c => { c with copyrun := [run] })
     let g := groupOf s
     holds s (fun s => let r := copyOf run.request; (getCore s core).copyrun = [run] ∧ (∀ x ∈ (getCore s core).copyq,
       x.id ≠ run.id) ∧ run.onPage = none ∧ run.chunk = 0 ∧ getGroup s core run.gslot = some g ∧
       hasBudget s 0 core (levelOf s g) = true ∧ r.ssp = true ∧ r.dsp = true ∧ r.stile = false ∧ r.dtile = false ∧
       r.conv = 0 ∧ r.pbv = false ∧ r.tr = false ∧ r.rows = 1 ∧ 0 < r.rowb ∧ r.rowb ≤ 512 ∧ noGroupSpent s core)) ∧
    (let m := command .mzero
     holds (inQueue m) (fun s => queued core s m rest ∧ m.scope = 0)) ∧
    (let m := { command .mzero with scope := 1 }
     holds (inQueue m) (fun s => queued core s m rest ∧ m.scope ≠ 0 ∧ followersFree s core m = true)) ∧
    (let a := MOperand.addr 0 0
     let b := a
     let r : BitVec 64 := 0
     let sat := false
     let rel := false
     let m := command (.mma a b r sat rel) 1
     holds (inEngine m) (fun s => runs core s m 2 ∧ m.kind = .mma a b r sat rel ∧ shapeK r ≤ m.row)) ∧
    (let m := command .mzero
     let g := groupOf (inEngine m)
     holds (inEngine m) (fun s => runs core s m 1 ∧ cmdBudget s core m = true ∧ cmdParts s core m = [(core, m.gslot, g)])) ∧
    (∀ row ∈ [0, 32704],
      -- FP32 to scratchpad
      let d : BitVec 256 := BitVec.ofNat 256 (2 * 2 ^ 51 + 2 ^ 49)
      let m := { command (.mdrain 0) row with descs := [d] }
      let g := groupOf (inEngine m)
      holds (inEngine m) (fun s => runs core s m 4 ∧ alone core s m g ∧ m.descs = [d] ∧ dSp d = true ∧ dBand d = false ∧
        dFmt d ∈ [0, 1, 2, 3, 4, 5, 8] ∧ 64 ∣ m.row ∧ m.row < 32768)) ∧
    (let m := command (.mdrain 0) 32768
     let g := groupOf (inEngine m)
     holds (inEngine m) (fun s => runs core s m 4 ∧ alone core s m g ∧ 32768 ≤ m.row)) ∧
    (let base := 0
     let m := command (.msave base) 512
     let g := groupOf (inEngine m)
     holds (inEngine m) (fun s => runs core s m 5 ∧ m.kind = .msave base ∧ getGroup s core m.gslot = some g ∧
       512 ≤ m.row)) ∧
    (let base := 0
     let stride := 0
     let hb := 0
     let m := command (.mldcRp8 base stride hb) 512
     let g := groupOf (inEngine m)
     holds (inEngine m) (fun s => runs core s m 3 ∧ m.kind = .mldcRp8 base stride hb ∧ getGroup s core m.gslot = some g ∧
       cmdBudget s core m = true ∧ 512 * (cmdParts s core m).length ≤ m.row)) := by
  dsimp only
  refine ⟨holds_of (by decide), holds_of (by decide), holds_of (by decide), holds_of (by decide), holds_of (by decide),
    holds_of (by decide),
    fun row h => ?_, holds_of (by decide), holds_of (by decide), holds_of (by decide)⟩
  simp only [List.mem_cons, List.not_mem_nil, or_false] at h
  rcases h with rfl | rfl <;> exact holds_of (by decide)

theorem put_pair {p : Put × State} {r : Put} (h : p.1 = r) : p = (r, p.2) := Prod.ext h rfl

/-- The words that a step of an operand reads, and the bytes that a read gives. -/
def readWords : StepRead → List OpWord
  | .words l => l
  | _ => []
def readBytes : List Byte ⊕ Reach × Nat → List Byte
  | .inl bs => bs
  | .inr _ => []

theorem words_pair {p : StepRead × RingPos × State} (h : p.1 = .words (readWords p.1)) :
    p = (.words (readWords p.1), p.2.1, p.2.2) := Prod.ext h rfl

theorem bytes_pair {p : (List Byte ⊕ Reach × Nat) × State} (h : p.1.isLeft = true) : p = (.inl (readBytes p.1), p.2) := by
  obtain ⟨x | x, s⟩ := p
  · rfl
  · cases h

/-- A k-step whose column of A is zero, so that B is not read, and one whose first word of A is 1. -/
theorem witness_MmaStep :
    let runs (core : Nat) (s : State) (m : MCommand) (code : Nat) : Prop :=
      (getCore s core).mrun = [m] ∧ kindCode m.kind = code ∧ m.onPage = none ∧ m.scope = 0
    let alone (core : Nat) (s : State) (m : MCommand) (g : Group) : Prop :=
      cmdParts s core m = [(core, m.gslot, g)] ∧ cmdBudget s core m = true
    let core := 0
    let a := MOperand.addr 1048576 0
    let b := MOperand.addr 1114112 0
    let r : BitVec 64 := 0
    let sat := false
    let rel := false
    let m := command (.mma a b r sat rel)
    (let g := groupOf (inEngine m)
     ∃ col p u row q v, holds (inEngine m) (fun s => runs core s m 2 ∧ m.kind = .mma a b r sat rel ∧ m.row < shapeK r ∧
       alone core s m g ∧ heldForSave s core m.ctx (getCore s core).mqueue.length = false ∧
       readStep core g m a true (shapeWa r) (shapeRows r) 128 (shapeK r) m.row 0 (m.ringA.headD {}) s = (.words col, p,
       u) ∧ let spares : Prop := (∀ x ∈ col, x.val = 0 ∧ x.poison = false) ∧ ∃ base stride,
       b = .addr base stride; (spares → row = [] ∧ q = m.ringB ∧ v = u) ∧ (¬ spares →
       readStep core g m b false (shapeWb r) (shapeCols r) 256 (shapeK r) m.row 0 m.ringB u = (.words row, q, v)))) ∧
    (let s := poke (inEngine m) 1048576 [1]
     let g := groupOf s
     ∃ col p u row q v, holds s (fun s => runs core s m 2 ∧ m.kind = .mma a b r sat rel ∧ m.row < shapeK r ∧
       alone core s m g ∧ heldForSave s core m.ctx (getCore s core).mqueue.length = false ∧
       readStep core g m a true (shapeWa r) (shapeRows r) 128 (shapeK r) m.row 0 (m.ringA.headD {}) s = (.words col, p,
       u) ∧ let spares : Prop := (∀ x ∈ col, x.val = 0 ∧ x.poison = false) ∧ ∃ base stride,
       b = .addr base stride; (spares → row = [] ∧ q = m.ringB ∧ v = u) ∧ (¬ spares →
       readStep core g m b false (shapeWb r) (shapeCols r) 256 (shapeK r) m.row 0 m.ringB u = (.words row, q, v)))) ∧
    ringEntry { ctx := 0, tiles := List.range 64 } 60 4 { reading := true } = some 60 ∧
    (∃ bs u, cmdRead 0 m (groupOf ready) (2 ^ 21 - 64) 64 ready = (.inl bs, u)) := by
  dsimp only
  refine ⟨⟨_, _, _, [], _, _, by decide, by decide, by decide, by decide, by decide, words_pair (by decide),
    fun _ => ⟨rfl, rfl, rfl⟩,
      fun h => absurd ⟨by decide, _, _, rfl⟩ h⟩,
    ⟨_, _, _, _, _, _, by decide, by decide, by decide, by decide, by decide, words_pair (by decide),
      fun h => absurd h.1 (by decide),
      fun _ => words_pair (by decide)⟩, by decide, ⟨_, _, bytes_pair (by decide)⟩⟩

/-- Held versions of two other groups fill the set of the line at 0. -/
def crowdedSet (s : State) : State :=
  let ver (from_ : Nat) : SMap Byte := (List.range 8).map (fun n => ((from_ + n) * 2 ^ 27, 0))
  onC (fun c => { c with groups := c.groups ++ [(1, { ctx := 0, held := true, version := ver 1 }), (2, { ctx := 0, held := true, version := ver 9 })] })
    (onGrp (fun g => { g with held := true }) s)

/-- An RP8 unit at the end of a tile is written; an element of a held copy waits for a way. -/
theorem witness_DrainUnits :
    let runs (core : Nat) (s : State) (m : MCommand) (code : Nat) : Prop :=
      (getCore s core).mrun = [m] ∧ kindCode m.kind = code ∧ m.onPage = none ∧ m.scope = 0
    let alone (core : Nat) (s : State) (m : MCommand) (g : Group) : Prop :=
      cmdParts s core m = [(core, m.gslot, g)] ∧ cmdBudget s core m = true
    let charged (core : Nat) (g : Group) (n : Nat) (s : State) : State := chargeBudget 1 core (levelOf s g) n s
    let core := 0
    (let d : BitVec 256 := BitVec.ofNat 256 (2 ^ 20 * 2 ^ 204 + 7 * 2 ^ 51)
     let m := { command (.mdrain 0) 32704 with descs := [d] }
     let g := groupOf (inEngine m)
     ∃ u, holds (inEngine m) (fun s => runs core s m 4 ∧ alone core s m g ∧ m.descs = [d] ∧ dSp d = false ∧ dFmt d = 7 ∧
       64 ∣ m.row ∧ m.row < 32768 ∧
       cmdWrite core core m.gslot g m [(dDst d + m.row / 256 * dRow d + m.row % 256 / 64 * 512, (List.range 8).flatMap
       (fun j => (List.range 64).map
       (fun k => match (drainElem s (accTile s core (physTile g m)) (m.row + k)).val with | some v => BitVec.ofNat 8 (residueOf j v) | none => 0xFF)))] (charged core g 1 s) = (.done, u))) ∧
    (let d : BitVec 256 := BitVec.ofNat 256 (2 * 2 ^ 51)
     let m := { command (.mdrain 0) 0 with descs := [d] }
     let s := crowdedSet (inEngine m)
     let g := groupOf s
     ∃ u, holds s (fun s => runs core s m 4 ∧ alone core s m g ∧ m.descs = [d] ∧ dSp d = false ∧ dFmt d = 2 ∧
       m.row < 32768 ∧ cmdWrite core core m.gslot g m [(dDst d + m.row / 256 * dRow d + m.row % 256 * 4,
       natToBytes 4 (convertDrain s core g d (drainElem s (accTile s core (physTile g m)) m.row)).code)] (charged core g 1 s) = (.full, u))) := by
  dsimp only
  exact ⟨⟨_, by decide, by decide, by decide, by decide, by decide, by decide, by decide, put_pair (by decide)⟩,
    ⟨_, by decide, by decide, by decide, by decide, by decide, by decide, put_pair (by decide)⟩⟩

/-- The last 64 elements of an image are written within a page; a unit and an image are read. -/
theorem witness_ImagePieces :
    let runs (core : Nat) (s : State) (m : MCommand) (code : Nat) : Prop :=
      (getCore s core).mrun = [m] ∧ kindCode m.kind = code ∧ m.onPage = none ∧ m.scope = 0
    let alone (core : Nat) (s : State) (m : MCommand) (g : Group) : Prop :=
      cmdParts s core m = [(core, m.gslot, g)] ∧ cmdBudget s core m = true
    let core := 0
    let base := 1048576
    (let m := command (.msave base) 511
     let g := groupOf (inEngine m)
     ∃ u, holds (inEngine m) (fun s => let image (a n : Nat) := (base + a, (List.range n).map
       (fun k => imageByte s (accTile s core (physTile g m)) (a + k))); runs core s m 5 ∧ m.kind = .msave base ∧
       getGroup s core m.gslot = some g ∧ m.row < 512 ∧ cmdBudget s core m = true ∧
       cmdWrite core core m.gslot g m ([image (512 * m.row) 512, image (262144 + 256 * m.row) 256,
       image (393216 + 8 * m.row) 8] ++ (if m.row = 511 then [image 397312 4096] else [])) s = (.done, u))) ∧
    (let stride := 0
     let hb := 0
     let m := command (.mldcRp8 base stride hb) 511
     let g := groupOf (inEngine m)
     ∃ bs v, holds (inEngine m) (fun s => runs core s m 3 ∧ m.kind = .mldcRp8 base stride hb ∧
       getGroup s core m.gslot = some g ∧ alone core s m g ∧ m.row < 512 ∧
       cmdRead core m g (base + m.row / 4 * stride + m.row % 4 * 512) 512 s = (.inl bs, v))) ∧
    (let m := command (.mldcImg base) 0
     let g := groupOf (inEngine m)
     ∃ bs v, holds (inEngine m) (fun s => runs core s m 3 ∧ m.kind = .mldcImg base ∧ getGroup s core m.gslot = some g ∧
       cmdBudget s core m = true ∧ cmdRead core m g base 401408 s = (.inl bs, v))) := by
  dsimp only
  exact ⟨⟨_, by decide, by decide, by decide, by decide, by decide, put_pair (by decide +kernel)⟩,
    ⟨_, _, by decide, by decide, by decide, by decide, by decide, bytes_pair (by decide)⟩,
    ⟨_, _, by decide, by decide, by decide, by decide, bytes_pair (by decide +kernel)⟩⟩

/-- Context 0 active, its record in a table at 1 MiB. -/
def active (s : State := State.reset) : State :=
  let s := setReg64 s offCtxtBase 0x100000
  poke s (ctxRecordAddr s 0 + 4) [0x40]

/-- Context 0 is to be suspended since period 0. -/
def suspending (s : State := State.reset) : State := { s with preempts := [(0, { since := 0, byDriver := false })] }

/-- A saved context with the given groups. -/
def savedState (l : List SavedGroup) (s : State := State.reset) : State :=
  { s with saved := [(0, { gen := 0, byDriver := false, since := 0, groups := l })] }

theorem mem_of_mapFind {α : Type} {m : SMap α} {n : Nat} {x : α} (h : mapFind m n = some x) : (n, x) ∈ m := by
  induction m with
  | nil => cases h
  | cons e m ih =>
    unfold mapFind at h
    split at h
    · rename_i he
      cases h
      rw [← beq_iff_eq.mp he]
      exact List.mem_cons_self
    · exact List.mem_cons_of_mem _ (ih h)

/-- A stretch of memory above or below every listed byte reads as zeros. -/
theorem zeros (m : Memory) (n a : Nat) (h : ∀ e ∈ m, e.1 < a ∨ a + n ≤ e.1) : (memReadBytes m a n).all (· == 0) = true := by
  induction n generalizing a with
  | zero => rfl
  | succ n ih =>
    have hz : memRead m a = 0 := by
      unfold memRead mapGet
      rw [show mapFind m a = none from ?_]
      · rfl
      · cases hf : mapFind m a with
        | none => rfl
        | some v => exact absurd (h _ (mem_of_mapFind hf)) (by simp only; omega)
    simp only [memReadBytes, List.all_cons, hz, Bool.and_eq_true]
    exact ⟨rfl, ih (a + 1) (fun e he => by have := h e he; omega)⟩

/-- An image of no bytes, whose directory entry is right. -/
def emptyImage : SavedGroup :=
  { core := 0, gslot := 0, group := { ctx := 0, counts := [], regsOf := [] }, gangs := [], scratch := [], tileWords := [], accTiles := [],
    ranges := [], spawn := [], copies := [], copyWait := [], cmds := [], offset := 65536, length := 0 }
def oneImage : State :=
  savedState [emptyImage] (poke (poke active 8 [1, 0, 0, 0, 0, 0, 1, 0]) 64 (natToBytes 16 (dirEntry 65536 [])))

/-- The issuing gang, stopped, its group without scratchpad and accumulators, in a context whose save area at address 0
holds 128 KiB. -/
def stopping (f : Gang → Gang := id) : State :=
  let s := onGrp (fun g => { g with ssize := 0, acc := [] }) (onG
    (fun g => f { g with regs := 1, splits := g.splits.map (fun sp => { sp with stop := some .deadline }) }))
  poke (suspending (active { s with issueQ := [] })) 0 [0, 0, 2, 0]

theorem low_memory (a n : Nat) (h : a + n ≤ 0x8000000000) : ∀ k, k < n → tierOf (a + k) ≠ .mx := by
  intro k hk
  unfold tierOf
  rw [if_pos (by omega)]
  decide

theorem witness_SavesAndKills :
    let idle (s : State) (ctx : Nat) : Prop := cmdBusy s = false ∧ ctx < 2 ^ 16 ∧ ctxState s ctx = 1
    let whateverGangs (s : State) (p : State → Prop) : Prop :=
      ∀ u : State, u.apart = s.apart → (∀ n, (getCore u n).apart = (getCore s n).apart) → p u
    let plain (a n : Nat) : Prop := ∀ k, k < n → tierOf (a + k) ≠ .mx
    let ctx := 0
    let core := 0
    let slot := 0
    let p : Preempt := { since := 0, byDriver := false };
    (let s := { suspending (waiting .fence 0) with clock := 17000 }
     let g := gangOf s
     let n := 0
     let sp := g.splits.headD { mask := 0, pc := 0 }
     holds s (fun s => mapFind s.preempts ctx ≠ none ∧ getGang s core slot = some g ∧ g.ctx = ctx ∧
       deadlinePassed s g = true ∧ g.splits[n]? = some sp ∧ sp.slot = 0 ∧ sp.fresh = true ∧ whateverGangs s
       (fun u => illegalHeaderDue u core slot g sp = false))) ∧
    (let s := suspending (waiting .regang 0)
     let g := gangOf s
     let n := 0
     let sp := g.splits.headD { mask := 0, pc := 0 }
     let w := sp.wait.getD { kind := .flag, obj := 0, since := 0 }
     holds s (fun s => mapFind s.preempts ctx ≠ none ∧ getGang s core slot = some g ∧ g.ctx = ctx ∧
       g.splits[n]? = some sp ∧ sp.stop = none ∧ sp.wait = some w ∧ w.kind ≠ .fence ∧ whateverGangs s
       (fun u => waitOver u core slot g (peekSplit u core slot g sp).ctx w = false))) ∧
    (let s := suspending ready
     let g := gangOf s
     let ctx := 1
     holds s (fun s => getGang s core slot = some g ∧ g.ctx ≠ ctx)) ∧
    (let s := stopping
     let g := gangOf s
     holds s (fun s => getGang s core slot = some g ∧ mapFind s.preempts g.ctx = some p ∧ g.saved = false ∧
       gangSettled s core slot g = true ∧ hasBudget s 2 core p.level = true ∧ viralBlocks s (ctxSave s g.ctx) = false) ∧
       recordPlace s 0 0 g = some (65536 + 256) ∧ saveRoom s 0 (65536 + 256) (gangBytes s g).length = true ∧
       (gangBytes s g).length ≤ 65536) ∧
    (let s := stopping (fun g => { g with saved := true })
     let gslot := 0
     let g := groupOf s
     holds s (fun s => mapFind s.preempts ctx = some p ∧ viralBlocks s (ctxSave s ctx) = false ∧
       readyGroups s ctx = [(core, gslot, g)] ∧ g.imaged = false ∧ hasBudget s 2 core p.level = true ∧
       saveImpossible s ctx (imagesOf s (readyGroups s ctx)) = false ∧ getGroup s core gslot = some g ∧
       plain (ctxSave s ctx + 65536) (groupImage s core gslot g).length)) ∧
    (let s := poke (suspending active) 0 [0, 0, 1, 0]
     holds s (fun s => mapFind s.preempts ctx = some p ∧ viralBlocks s (ctxSave s ctx) = false ∧
       contextReady s ctx = true ∧ allImaged s ctx = true ∧ hasBudget s 2 (headCore s ctx) p.level = true ∧
       saveImpossible s ctx (contextImages s ctx) = false)) ∧
    (let s := onGrp (fun g => { g with imaged := true }) (stopping (fun g => { g with saved := true }))
     holds s (fun s => mapFind s.preempts ctx = some p ∧ viralBlocks s (ctxSave s ctx) = false ∧
       contextReady s ctx = true ∧ allImaged s ctx = true ∧ hasBudget s 2 (headCore s ctx) p.level = true ∧
       saveImpossible s ctx (contextImages s ctx) = false)) ∧
    (let s := suspending active
     holds s (fun s => mapFind s.preempts ctx = some p ∧ (contextReady s ctx = true ∨ readyGroups s ctx ≠ []) ∧
       viralBlocks s (ctxSave s ctx) = false ∧ saveImpossible s ctx (imagesOf s (readyGroups s ctx)) = true)) ∧
    (let s := savedState [] active
     let v : Saved := { gen := 0, byDriver := false, since := 0, groups := [] }
     holds s (fun s => mapFind s.saved ctx = some v ∧ v.byDriver = false ∧ starvedAbove s ctx = false ∧
       saveCorrupt s ctx v = true)) ∧
    holds active (fun s => ctxState s ctx = 1 ∧ ctx ∉ s.killing ∧ s.migration = none) ∧
    holds { active with killing := [0] } (fun s => ctx ∈ s.killing) ∧
    holds active (fun s => idle s ctx ∧ mapFind s.saved ctx = none ∧ mapFind s.preempts ctx = none ∧
      mapFind s.preemptAgain ctx = none) ∧
    (let v : Saved := { gen := 0, byDriver := false, since := 0, groups := [] }
     holds (savedState [] active) (fun s => idle s ctx ∧ mapFind s.saved ctx = some v)) ∧
    holds active (fun s => idle s ctx) ∧
    (let ctx := 65535
     holds active (fun s => cmdBusy s = false ∧ ctx < 2 ^ 16 ∧ ctxState s ctx ≠ 1)) := by
  dsimp only
  refine ⟨⟨by decide, by decide, by decide, by decide, by decide, by decide, by decide, fun u _ _ => ?_⟩,
    ⟨by decide, by decide, by decide, by decide, by decide, by decide, by decide, fun u _ _ => rfl⟩, holds_of (by decide),
    ⟨holds_of (by decide), by decide +kernel, by decide +kernel, by decide +kernel⟩,
    ⟨by decide, by decide, by decide, by decide, by decide, by decide +kernel, by decide,
      low_memory _ _ (Nat.le_trans (m := 65536 + 65536 + 65536) ?_ (by decide))⟩,
    holds_of (by decide), holds_of (by decide +kernel), holds_of (by decide), holds_of (by decide), holds_of (by decide),
      holds_of (by decide),
    holds_of (by decide), holds_of (by decide), holds_of (by decide), holds_of (by decide)⟩
  · rfl
  · decide +kernel

/-- A save area of no groups, and one of one group that no quad takes. -/
theorem witness_Resumes :
    let ctx := 0
    (let s := savedState [] (poke active 14 [1])
     let v : Saved := { gen := 0, byDriver := false, since := 0, groups := [] }
     ∃ u, holds s (fun s => let groups := v.groups.map (decodeGroup s ctx v.groups); mapFind s.saved ctx = some v ∧
       v.byDriver = false ∧ starvedAbove s ctx = false ∧ saveCorrupt s ctx v = false ∧
       resumeQuads (s.clock - v.since) groups (distinct (sortBy id (groups.map (fun x => x.core / 4)))) s = some u)) ∧
    (let v : Saved := { gen := 0, byDriver := false, since := 0, groups := [emptyImage] }
     holds oneImage (fun s => let groups := v.groups.map (decodeGroup s ctx v.groups); mapFind s.saved ctx = some v ∧
       v.byDriver = false ∧ starvedAbove s ctx = false ∧ saveCorrupt s ctx v = false ∧
       resumeQuads (s.clock - v.since) groups (distinct (sortBy id (groups.map (fun x => x.core / 4)))) s = none)) := by
  dsimp only
  refine ⟨⟨_, by decide, by decide, by decide, ?_, rfl⟩, by decide, by decide, by decide, ?_, by decide⟩
  · simp only [saveCorrupt, Bool.or_eq_false_iff, Bool.not_eq_false']
    exact ⟨⟨⟨⟨⟨by decide, by decide⟩, by decide⟩, by decide⟩, zeros _ _ _ (by decide)⟩, by decide⟩
  · simp only [saveCorrupt, Bool.or_eq_false_iff, Bool.not_eq_false']
    exact ⟨⟨⟨⟨⟨by decide, by decide⟩, by decide⟩, by decide⟩, zeros _ _ _ (by decide)⟩, by decide⟩

/-- Tokens i, i + 1 … of context 0, armed. -/
def armedFrom (i : Nat) : Nat → SMap Token
  | 0 => []
  | n + 1 => (i, { ctx := 0, st := 1 }) :: armedFrom (i + 1) n

theorem armedFrom_rising (i n : Nat) : risingFrom i (armedFrom i n) = true := by
  induction n generalizing i with
  | zero => rfl
  | succ n ih => simp [armedFrom, risingFrom, ih]

theorem armedFrom_find (i n k : Nat) : mapFind (armedFrom i n) k = if i ≤ k ∧
  k < i + n then some { ctx := 0, st := 1 } else none := by
  induction n generalizing i with
  | zero => rw [if_neg (by omega)]; rfl
  | succ n ih =>
    unfold armedFrom mapFind
    by_cases h : i = k
    · subst h
      rw [if_pos (by simp), if_pos (by omega)]
    · rw [if_neg (by simpa using h), ih]
      congr 1
      apply propext
      omega

/-- The first n tokens are taken. -/
def taken (n : Nat) : State := { State.reset with tokens := armedFrom 0 n }

/-- Context 0 with tables at 2 MiB that map its first 2 MiB to physical address 4 MiB, and queues described at 8 MiB. -/
def tabled (s : State := State.reset) : State :=
  let s := setReg64 (setReg64 s offCtxtBase 0x100000) offQdescBase 0x800000
  poke (poke (poke (poke s 0x100000 (natToBytes 16 (0x20 * 2 ^ 92 + 2 ^ 38))) 0x200000 (natToBytes 8 0x210001))
    0x210000 (natToBytes 8 0x220001)) 0x220000 (natToBytes 8 0x1800000000400009)

/-- A launch of queue 0 that finishes with status 2 and signals token 4095. -/
def doomed : Launch :=
  { queue := 0, slot := 7, ctx := 0, header := BitVec.ofNat 512 (4095 * 2 ^ 338 + 2 ^ 337), stages := [0], doom := 2 }

/-- A pod launch of identifier 9, of two devices and one stage of ten groups. -/
def podLaunch : Launch :=
  { queue := 0, slot := 0, ctx := 0, header := BitVec.ofNat 512 (2 ^ 382 + 9 * 2 ^ 350 + 2 * 2 ^ 224),
    stages := [BitVec.ofNat 512 (10 * 2 ^ 379 + 2 ^ 363 + 2 ^ 347)] }
def podded (p : PodLaunch) : State :=
  setReg32 { State.reset with launches := [podLaunch], pods := [(9, p)] } offPodCfg 0x80000000

theorem witness_VentSteps :

    let plid := 9
    let l := podLaunch
    (let m : Queue := { tail := 5, mapped := true }
     let s := { State.reset with queues := [(1023, m)] }
     let q := 1023
     holds s (fun s => mappedQueue s q = some m ∧ m.recv = []) ∧
     holds s (fun s => q < 1024 ∧ qDev (queueDesc s q) = false ∧ mappedQueue s q = some m)) ∧
    (∀ n ∈ [0, 4095],
     holds (taken n) (fun s => risingFrom 0 s.tokens = true ∧ n < 4096 ∧ mapFind s.tokens n = none ∧ ∀ k, k < n →
       mapFind s.tokens k ≠ none)) ∧
    holds (taken 4096) (fun s => risingFrom 0 s.tokens = true ∧ ∀ k, k < 4096 → mapFind s.tokens k ≠ none) ∧
    holds { State.reset with clock := 8500 } (fun s => s.clock % 8500 = 0 ∧ risingFrom 0 s.spent = true) ∧
    holds { State.reset with clock := 1 } (fun s => s.clock % 8500 ≠ 0) ∧
    holds State.reset (fun s => s.running = false) ∧
    holds { State.reset with running := true } (fun s => s.running = true) ∧
    (let l := doomed
     let k : Token := { ctx := 0, st := 1 }
     holds { State.reset with launches := [l], tokens := [(4095, k)], queues := [(0, { mapped := true, stopped := true })] } (fun s => s.completions = [] ∧ s.launches = [l] ∧ l.finished = false ∧ hPod l.header = false ∧ l.doom ≠ 0 ∧ l.doom ≠ 1 ∧ launchLives s l = false ∧ (mapGet {} s.queues l.queue).onPage = none ∧ wordless s l.queue = true ∧ hSigV l.header = true ∧ mapFind s.tokens (hSig l.header) = some k ∧ k.ctx = l.ctx ∧ k.st = 1)) ∧
    (let l := doomed
     let pa := 0x400038
     holds (setQueueDesc 0 (BitVec.ofNat 512 (6 * 2 ^ 436)) (tabled { State.reset with launches := [l], queues := [(0, { mapped := true })] }))
       (fun s => s.completions = [] ∧ s.launches = [l] ∧ l.finished = false ∧ hPod l.header = false ∧ l.doom ≠ 0 ∧
         launchLives s l = false ∧ (mapGet {} s.queues l.queue).onPage = none ∧ wordless s l.queue = false ∧
         ventReach s l.ctx ((qCpl (queueDesc s l.queue) + 8 * (l.slot % 2 ^ qLogN (queueDesc s l.queue))) % 2 ^ 52) true = .ok pa ∧ tierOf pa ≠ .mx)) ∧
    holds State.reset (fun s => podActive s = false) ∧
    (∀ d ∈ [0, 511], let p : PodLaunch := {};
     holds (podded p) (fun s => podActive s = true ∧ (mapGet {} s.peers d).recovering = none ∧
       mapFind s.pods plid = some p ∧ podLaunchOf s plid = some l ∧ d ∉ p.joined ∧ p.leader = none)) ∧
    (let d := 3
     let stage := 0
     let count := 64
     let p : PodLaunch := { joined := [0, 3], leader := some 0, counters := [9] }
     holds (podded p) (fun s => podActive s = true ∧ (mapGet {} s.peers d).recovering = none ∧
       mapFind s.pods plid = some p ∧ podLaunchOf s plid = some l ∧ p.leader ≠ none ∧ d ∈ p.joined ∧ d ≠ podSelf s ∧
       stage < l.stages.length ∧ p.lost = [] ∧ stUnit (l.stage stage) ≤ min 64 count ∧
       p.counters.getD stage 0 < stGroups (l.stage stage))) ∧
    (let d := 3
     let stage := 0
     let count := 64
     let a := 4
     let n := 1
     let p : PodLaunch := { joined := [0, 3], leader := some 0, counters := [10], lost := [(stage, a, n)] }
     holds (podded p) (fun s => podActive s = true ∧ (mapGet {} s.peers d).recovering = none ∧
       mapFind s.pods plid = some p ∧ podLaunchOf s plid = some l ∧ p.leader ≠ none ∧ d ∈ p.joined ∧ d ≠ podSelf s ∧
       stage < l.stages.length ∧ p.lost = [(stage, a, n)] ∧ 0 < n ∧ stUnit (l.stage stage) ≤ min 64 count)) ∧
    (let failed := 0
     let p : PodLaunch := { joined := [0, 3], leader := some 0, counters := [9] }
     holds (podded p) (fun s => podActive s = true ∧ mapFind s.pods plid = some p ∧ podLaunchOf s plid = some l ∧
       p.leader = some failed ∧ l.batches = [] ∧ l.stages.length = 1) ∧
     (let d := 3
      holds (podded p) (fun s => podActive s = true ∧ (mapGet {} s.peers d).recovering = none ∧
        mapFind s.pods plid = some p ∧ podLaunchOf s plid = some l ∧ d ∈ p.joined))) ∧
    (let p : PodLaunch := { joined := [3] }
     holds { podded p with clock := 1700000000 } (fun s => mapFind s.pods plid = some p ∧ p.leader = none ∧
       p.since + 1700000000 ≤ s.clock)) ∧
    (let v := 3
     holds State.reset (fun s => v < 4 ∧ v ∉ s.ventDead ∧ field (reg32 s offVentStat) 23 23 = 1 ∧
       field (reg32 s offVentStat) 25 24 ≠ v) ∧
     holds (setReg32 State.reset offVentStat 0) (fun s => v < 4 ∧ v ∉ s.ventDead ∧
       field (reg32 s offVentStat) 23 23 = 0)) := by
  dsimp only
  refine ⟨⟨holds_of (by decide), holds_of (by decide)⟩, ?_, ?_, holds_of (by decide), holds_of (by decide),
    holds_of (by decide),
    holds_of (by decide), holds_of (by decide), holds_of (by decide +kernel), holds_of (by decide), ?_,
      holds_of (by decide),
    holds_of (by decide), ⟨holds_of (by decide), holds_of (by decide)⟩, holds_of (by decide),
    ⟨holds_of (by decide), holds_of (by decide)⟩⟩
  · intro n hn
    have : n < 4096 := by
      simp only [List.mem_cons, List.not_mem_nil, or_false] at hn
      omega
    refine holds_of ⟨armedFrom_rising 0 n, this, ?_, fun k hk => ?_⟩
    · simp only [taken, armedFrom_find]
      rw [if_neg (by omega)]
    · simp only [taken, armedFrom_find]
      rw [if_pos (by omega)]
      exact Option.some_ne_none _
  · refine holds_of ⟨armedFrom_rising 0 4096, fun k hk => ?_⟩
    simp only [taken, armedFrom_find]
    rw [if_pos (by omega)]
    exact Option.some_ne_none _
  · intro d hd
    simp only [List.mem_cons, List.not_mem_nil, or_false] at hd
    rcases hd with rfl | rfl <;> exact holds_of (by decide)

/-- A launch that waits for token 5, which is armed or has failed; a launch without OVL behind another of its queue; a queue
with work at the level 3. -/
theorem witness_VentServes :
    let l : Launch := { doomed with doom := 0, header := BitVec.ofNat 512 (5 * 2 ^ 325 + 2 ^ 324) }
    let s (st : Nat) : State := { State.reset with tokens := [(5, { ctx := 0, st := st })] }
    (l.begun = false ∧ (∀ k ∈ hWaits l.header, testToken l.ctx k (s 1) ≠ 3) ∧ ∃ k ∈ hWaits l.header,
      testToken l.ctx k (s 1) ≠ 2) ∧
    (∃ k ∈ hWaits l.header, testToken l.ctx k (s 3) = 3) ∧
    (let x := { doomed with doom := 0 }
     let l := { x with slot := 9 }
     x.queue = l.queue ∧ x.finished = false ∧ hOvl l.header = false ∧ (∀ y ∈ [x], y.queue ≠ l.queue ∨ y.slot ≠ l.slot) ∧
       hWaits l.header = []) ∧
    (let d : BitVec 512 := BitVec.ofNat 512 (3 * 2 ^ 440 + 6 * 2 ^ 436 + 2 ^ 435)
     let s := setKick 1023 1 (setQueueDesc 1023 d (setReg64 State.reset offQdescBase 0x800000))
     queueWork s 1023 = true ∧ qEnabled (queueDesc s 1023) = true ∧ qPrio (queueDesc s 1023) = 3) := by
  decide

/-- A page request of context 0 by the gang of `ready`. -/
def asked : PageRequest :=
  { tag := 0xFFFF, ctx := 0, gen := 0, va := 4096, lcore := 0, src := 0, wr := false, ex := false, waiters := [.gang 0 0 0] }
def parked : State := onG (fun g => { g with parked := some (.page 1) }) { ready with pages := [asked] }

/-- A migration of context 0's first range from HBM4 to LPDDR6. -/
def moving : Migration := { ctx := 0, va := 0, dpa := 0x10000000000, tpa := 0x230000, entry := 0x220000, toHbm := false }

theorem witness_PagingSteps :

    let core := 0
    let slot := 0
    let lane := 0
    let r := asked
    (let v : BitVec 64 := 0xFFFF0000
     holds parked (fun s => answered s v = some r ∧ field v 1 0 = 0 ∧ r.waiters = [.gang core slot lane])) ∧
    (∀ res ∈ [Residency.present, .lifted], let v : BitVec 64 := 0xFFFF0001;
     let s := onG (fun g => { g with residency := res, splits := g.splits.map (fun sp => { sp with missed := true }) }) parked
     let g := gangOf s
     let sp := g.splits.headD { mask := 0, pc := 0 }
     holds s (fun s => answered s v = some r ∧ field v 1 0 = 1 ∧ r.waiters = [.gang core slot lane] ∧
       getGang s core slot = some g ∧ splitOf g lane = some sp ∧ (sp.replay ≠ none ∨ sp.missed = true))) ∧
    (let v : BitVec 64 := 0xFFFF0001
     let g := gangOf parked
     let sp := g.splits.headD { mask := 0, pc := 0 }
     holds parked (fun s => answered s v = some r ∧ field v 1 0 = 1 ∧ r.waiters = [.gang core slot lane] ∧
       getGang s core slot = some g ∧ splitOf g lane = some sp ∧ sp.replay = none ∧ sp.missed = false)) ∧
    (let v : BitVec 64 := 0
     holds parked (fun s => answered s v = none ∨ 1 < field v 1 0)) ∧
    (let v : BitVec 64 := 2
     holds parked (fun s => answered s v = none ∨ 1 < field v 1 0)) ∧
    holds { State.reset with tlbi := List.replicate 63 0 } (fun s => s.tlbi.length < 64) ∧
    holds { State.reset with tlbi := List.replicate 64 0 } (fun s => 64 ≤ s.tlbi.length) ∧
    (let g := gangOf ready
     holds ready (fun s => getGang s core slot = some g ∧ risingFrom 0 (getCore s core).gangs = true)) ∧
    (let r := { asked with tag := 2 }
     let pre := [{ asked with tag := 1, written := true }]
     let post := [{ asked with tag := 3 }]
     holds (setReg64 { State.reset with pages := pre ++ r :: post } offPrqBase 4) (fun s => s.pages = pre ++ r :: post ∧
       (∀ x ∈ pre, x.written = true ∧ x.tag ≠ r.tag) ∧ (∀ x ∈ post, x.tag ≠ r.tag) ∧ r.written = false ∧
       prqRoom s = true ∧ isViral s = false)) ∧
    (let v : BitVec 64 := 0
     let rest : List (BitVec 64) := [1]
     holds { ready with tlbi := v :: rest } (fun s => s.tlbi = v :: rest ∧ translatedWork s (field v 63 48) = false)) ∧
    (let v : BitVec 128 := 0x80000#128 <<< 53
     let at_ := 0x220000
     holds tabled (fun s => let e := peek s at_ 8; s.migration = none ∧
       entryAt s (field v 52 22 * 2 ^ 21) 1 3 (ctxRoot s (field v 21 6)) = some at_ ∧ rangeShape s e = true ∧
       destinationOk s e (field v 83 53 * 2 ^ 21) = true ∧ leavesAlike (rangeLeaves s e) = true)) ∧
    (let v : BitVec 128 := 0
     holds State.reset (fun s => s.migration = none ∧
       entryAt s (field v 52 22 * 2 ^ 21) 1 3 (ctxRoot s (field v 21 6)) = none)) ∧
    (let m := moving
     holds { tabled with migration := some m } (fun s => s.migration = some m) ∧
     holds { setReg32 tabled (offBudget 4 15) 0 with migration := some m } (fun s => s.migration = some m ∧
       (referenced s (rangePages s (peek s m.entry 8)) = true ∨ moveBlocked s m = true ∨ hasBudget s 4 0 (levelOfCtx s m.ctx) = false)) ∧
     holds { tabled with migration := some m } (fun s => s.migration = some m ∧
       referenced s (rangePages s (peek s m.entry 8)) = false ∧ moveBlocked s m = false ∧
       hasBudget s 4 0 (levelOfCtx s m.ctx) = true ∧ m.toHbm = false ∧ fieldN (peek s m.entry 8) 3 2 = 2 ∧
       m.tpa < 2 ^ 60 ∧ (m.tpa + 256 ≤ m.dpa ∨ m.dpa + 2 ^ 21 ≤ m.tpa) ∧ (m.entry + 8 ≤ m.dpa ∨ m.dpa + 2 ^ 21 ≤ m.entry)) ∧
     holds (onC (fun c => { c with near := [{ kind := 0, dst := 0x400040, src := 0, len := 64, dreg := 0, layer := 0, arrived := 0, slot := 0, ctx := 0, id := 0 }] })
       { tabled with migration := some m }) (fun s => s.migration = some m ∧
         (referenced s (rangePages s (peek s m.entry 8)) = true ∨ moveBlocked s m = true ∨ hasBudget s 4 0 (levelOfCtx s m.ctx) = false))) := by
  dsimp only
  refine ⟨holds_of (by decide), ?_, holds_of (by decide), holds_of (by decide), holds_of (by decide),
    holds_of (by decide), holds_of (by decide),
    holds_of (by decide), holds_of (by decide), holds_of (by decide), holds_of (by decide +kernel),
      holds_of (by decide +kernel),
    holds_of (by decide +kernel), holds_of (by decide +kernel), holds_of (by decide +kernel), holds_of (by decide +kernel)⟩
  unfold holds; decide

/-- An image of n bytes stands at host address 0 and is being measured. -/
def measuring (n : Nat) : State := setReg32 (setReg32 State.reset 0x2410 (BitVec.ofNat 32 n)) offBootStat 0x40000000

theorem witness_HostSteps :

    let r := State.reset
    holds r (fun _ => True) ∧
    (let n := 5
     holds r (fun s => ∀ n, n < 6 → mapGet 0 s.irqSet n ≠ s.clock + 1) ∧
     holds (setReg32 { r with irqSet := [(5, 1)] } 0x2000 0x20) (fun s => n < 6 ∧ mapGet 0 s.irqSet n = s.clock + 1 ∧
       (reg32 s 0x2000).getLsbD n = true)) ∧
    (∀ off ∈ [1, 0x0403], holds r (fun _ => off % 4 ≠ 0)) ∧
    holds { r with tlbi := List.replicate 63 0 } (fun s => s.tlbi.length < 64) ∧
    holds r (fun s => field (reg32 s offPodCfg) 31 31 = 0) ∧
    holds (setReg32 r offPodCfg 0x80000000) (fun s => field (reg32 s offPodCfg) 31 31 = 1) ∧
    (let n := 15
     let v : BitVec 64 := 0x8000000000000000
     holds r (fun s => n < 16 ∧ mxAlias s n = none ∧ field v 63 63 = 1) ∧
     holds (setReg64 r (offMxr 15 0) v) (fun s => n < 16 ∧ mxAlias s n ≠ none)) := by
  dsimp only
  refine ⟨holds_of trivial, ⟨holds_of (by decide), holds_of (by decide)⟩, ?_, holds_of (by decide), holds_of (by decide),
    holds_of (by decide),
    ⟨holds_of (by decide), holds_of (by decide)⟩⟩
  unfold holds; decide

/-- The descriptor of an enabled queue. -/
def enabledDesc : BitVec 512 := 0xD#512 <<< 435

theorem witness_HostSteps_messages :

    let r := State.reset
    (holds r (fun _ => True) ∧ holds r (fun _ => True) ∧ holds r (fun _ => True) ∧ holds r (fun _ => True)) ∧
    (∀ off ∈ [0x2440, 0x2464], holds r (fun _ => 0x2440 ≤ off ∧ off < 0x2468 ∧ off % 4 = 0)) ∧
    (∀ e ∈ [1, 2], let v := BitVec.ofNat 32 e; holds r (fun s => attBusy s = false ∧ (v = 1 ∨ v = 2))) ∧
    (∀ e ∈ [0, 3], let v := BitVec.ofNat 32 e; holds r (fun s => attBusy s = true ∨ (v ≠ 1 ∧ v ≠ 2))) ∧
    (let v : BitVec 32 := 1
     holds (setReg32 r offAttStat 0x80000000) (fun s => attBusy s = true ∨ (v ≠ 1 ∧ v ≠ 2))) ∧
    (∀ off ∈ [0x0500, 0x2301, 0x243C, 0x2442, 0x2470], holds r (fun _ => off % 4 ≠ 0 ∨ (off ≠ 0x2200 ∧ off ≠ 0x2300 ∧
      (off < 0x2440 ∨ 0x2470 ≤ off)))) ∧
    (let q := 1023
     holds (setQueueDesc q enabledDesc (setReg64 r offQdescBase 0x800000)) (fun s => q < 1024 ∧
       qEnabled (queueDesc s q) = true)) := by
  dsimp only
  refine ⟨⟨holds_of trivial, holds_of trivial, holds_of trivial, holds_of trivial⟩, ?_, ?_, ?_, holds_of (by decide), ?_,
    holds_of (by decide +kernel)⟩ <;>
    (unfold holds; decide)

theorem witness_HostSteps_memory :

    let r := State.reset
    (let bs : List Byte := [1, 2]
     let off := 0x7FFFFFFFFE
     let len := 2
     holds r (fun _ => off + bs.length ≤ 0x8000000000) ∧
     holds r (fun _ => off + len ≤ 0x8000000000)) ∧
    (holds r (fun _ => True) ∧ holds r (fun _ => True) ∧ holds r (fun _ => True)) ∧
    (let v : BitVec 64 := 0x8000000000200000
     holds { r with quarantine := [(1, false)] } (fun s => field v 63 63 = 1 ∧ s.scrub = none ∧
       mapFind s.quarantine (field v 51 21) ≠ none)) ∧
    holds r (fun s => bootState s = 1 ∨ bootState s = 3) ∧
    holds (setReg32 r offBootStat 0x60000000) (fun s => bootState s = 1 ∨ bootState s = 3) ∧
    holds (measuring 1536) (fun s => s.running = false ∧ bootState s = 2 ∧ s.attCmd = 0 ∧ imageUnread s = false) ∧
    holds (setReg32 (measuring (2 ^ 24)) offViral 0x80000000) (fun s => s.running = false ∧ bootState s = 2 ∧
      s.attCmd = 0 ∧ imageUnread s = true ∧ 1536 ≤ (reg32 s 0x2410).toNat ∧ (reg32 s 0x2410).toNat ≤ 2 ^ 24) ∧
    holds (setReg32 r offBootStat 0x80000000) (fun s => bootState s ≠ 1 ∧ bootState s ≠ 3) ∧
    holds (setReg32 r offBootStat 0x80000000) (fun s => bootState s = 4) ∧
    holds r (fun s => attBusy s = false) ∧
    holds (setReg32 r offAttStat 0x80000000) (fun s => attBusy s = true) := by
  dsimp only
  refine ⟨⟨holds_of (by decide), holds_of (by decide)⟩,
    ⟨holds_of trivial, holds_of trivial, holds_of trivial⟩, holds_of (by decide), holds_of (by decide),
      holds_of (by decide),
    holds_of (by decide), holds_of (by decide), holds_of (by decide), holds_of (by decide), holds_of (by decide),
      holds_of (by decide)⟩

/-- A report or a certificate is asked for, its buffer at the ends of host memory or one byte past them. -/
theorem witness_Attestation :
    (∀ a ∈ [0, 2 ^ 51 - 1024], ∀ cmd ∈ [1, 2],
      let s := setReg64 (setReg32 { State.reset with attCmd := cmd } offBootStat 0xA0000000) 0x2460 (BitVec.ofNat 64 a)
      s.attCmd = cmd ∧ bootState s = 5 ∧ (reg64 s 0x2460).toNat % 2 ^ 51 + 1024 ≤ 2 ^ 51) ∧
    (let s := setReg64 (setReg32 { State.reset with attCmd := 1 } offBootStat 0xA0000000) 0x2460 (BitVec.ofNat 64 (2 ^ 51 - 1023))
     s.attCmd = 1 ∧ bootState s = 5 ∧ 2 ^ 51 < (reg64 s 0x2460).toNat % 2 ^ 51 + 1024) ∧
    bootState { State.reset with attCmd := 2 } ≠ 5 := by
  decide

theorem succ_ne {n : Nat} (h : 1 < n) (a : BitVec n) : a + 1 ≠ a := by
  intro e
  have := congrArg BitVec.toNat e
  have h2 : (1 : BitVec n).toNat = 1 := by
    have : 2 ^ 1 ≤ 2 ^ n := Nat.pow_le_pow_right (by decide) (by omega)
    simp
    omega
  have h3 : 2 ^ 1 ≤ 2 ^ n := Nat.pow_le_pow_right (by decide) (by omega)
  have h4 := a.isLt
  rw [BitVec.toNat_add, h2] at this
  by_cases hc : a.toNat + 1 < 2 ^ n
  · rw [Nat.mod_eq_of_lt hc] at this
    omega
  · rw [show a.toNat + 1 = 2 ^ n by omega, Nat.mod_self] at this
    omega

/-- Physical core 0 in a scan test since period 0, in logical core 0's place. -/
def scanning (c : Nat) : State := setReg32 { State.reset with scans := [(0, { since := 0 })], clock := c } (offCoreHealth 0) 4

theorem witness_ReliabilitySteps :

    let r := State.reset
    let x : Scan := { since := 0 }
    (let p := 135
     holds { r with running := true, clock := 24 * 3600 * second } (fun s => scanDue s p = true)) ∧
    (let p := 0
     (let sig := Config.scanGolden 0
      holds (scanning 170000) (fun s => mapFind s.scans p = some x ∧ x.since + 170000 ≤ s.clock ∧
        sig = Config.scanGolden p ∧ coreSlotOf s p ≠ 0xFF)) ∧
     (let sig := Config.scanGolden 0 + 1
      holds (scanning 170000) (fun s => mapFind s.scans p = some x ∧ x.since + 170000 ≤ s.clock ∧
        sig ≠ Config.scanGolden p ∧ x.rerun = false) ∧
      holds (scanning 169999) (fun s => mapFind s.scans p = some x ∧ s.clock < x.since + 170000))) ∧
    (let g := 7
     holds { r with scrub := some g } (fun s => s.scrub = some g ∧ nearLayer (g * 2 ^ 21) = none ∧
       tierOf (g * 2 ^ 21) ≠ .mx ∧ viralBlocks s (g * 2 ^ 21) = false)) ∧
    (∀ link ∈ [0, 0x1197, 0x2000, 0x200F],
      let held := 1; let occ := 2; let ret := 3; let total := 6;
      holds r (fun _ => isLink link = true ∧ held + occ + ret = total)) ∧
    (∀ link ∈ [0, 0x1197, 0x2000, 0x200F],
      let held := 1; let occ := 2; let ret := 3; let total := 7;
      holds r (fun s => isLink link = true ∧ held + occ + ret ≠ total ∧ isViral s = false ∧ link ∉ s.suspects)) ∧
    (∀ n ∈ [0, 15],
      let held := 1; let occ := 2; let ret := 3; let total := 7;
      holds { r with suspects := [0x2000, 0x200F] } (fun s => n < 16 ∧ held + occ + ret ≠ total ∧ isViral s = false ∧
        0x2000 + n ∈ s.suspects)) ∧
    (∀ link ∈ [0, 0x1197],
      let held := 1; let occ := 2; let ret := 3; let total := 7;
      holds { r with suspects := [link], linkResets := [(link, [0, 0])] } (fun s => isLink link = true ∧ link < 0x2000 ∧
        held + occ + ret ≠ total ∧ isViral s = false ∧ link ∈ s.suspects ∧ 2 ≤ ((mapGet [] s.linkResets link).filter
        (fun t => s.clock < t + second)).length)) ∧
    (∀ layer ∈ [0, 1], holds r (fun s => layer < 2 ∧ layerLost s layer = false)) ∧
    holds { r with clock := 1 } (fun s => s.clock % second ≠ 0) ∧
    holds { r with clock := second } (fun s => s.clock % second = 0) ∧
    (let d := 511
     holds r (fun _ => True) ∧ holds r (fun s => (mapGet {} s.peers d).lost = false ∧
       (mapGet {} s.peers d).recovering = none) ∧ holds r (fun _ => True)) ∧
    (let n := 15
     holds r (fun s => n < 16 ∧ n ∉ s.deadPorts) ∧
     holds { r with deadPorts := [15] } (fun s => n ∈ s.deadPorts)) ∧
    (let port := 3
     let pa := 0x40000001FFFFE
     let len := 2
     let bs : List Byte := [1, 2]
     let s := setReg32 { r with ports := [3] } offPodCfg 0x80000000
     holds s (fun s => podReaches s port pa (.read len) = true) ∧
     holds s (fun s => podReaches s port pa (.write bs) = true) ∧
     (let acc := PodAccess.read 2
      holds r (fun s => podReaches s port pa acc = false))) ∧
    (∀ w ∈ [0, 9], holds r (fun _ => w < 10)) ∧
    holds r (fun s => isViral s = false) ∧
    (let d := 511
     let plid := 0
     let r := 0
     let s := setReg32 (onG
       (fun g => { g with splits := g.splits.map (fun sp => { sp with wait := some { kind := .flag, obj := 0, since := 0, peer := some 511 } }) })
       { ready with peers := [(511, { recovering := some 0 })] }) offPodCfg 0x80000000
     holds s (fun s => podActive s = true ∧ mapFind s.pods plid = none ∧ (mapGet {} s.peers d).recovering = some r ∧
       (mapGet {} s.peers d).lost = false ∧ ∀ e ∈ peersRecovering s, e.1 = d) ∧
     ((gangOf s).splits.headD { mask := 0, pc := 0 }).wait.bind (·.peer) = some d) ∧
    holds r (fun _ => True) := by
  dsimp only
  refine ⟨holds_of (by decide), ⟨holds_of ⟨by decide, by decide, rfl, by decide⟩, holds_of ⟨by decide, by decide,
    succ_ne (by decide) _, rfl⟩,
    holds_of (by decide)⟩, holds_of (by decide), ?_, ?_, ?_, ?_, ?_, holds_of (by decide), holds_of (by decide),
    ⟨holds_of trivial, holds_of (by decide), holds_of trivial⟩,
    ⟨holds_of (by decide), holds_of (by decide)⟩, ⟨holds_of (by decide), holds_of (by decide), holds_of (by decide)⟩, ?_,
      holds_of (by decide),
    ⟨holds_of (by decide), by decide⟩, holds_of trivial⟩ <;>
    (unfold holds; decide)

theorem witness_PowerSteps :

    let r := State.reset
    (let mv := 699999
     holds r (fun _ => mv < 700000)) ∧
    (let mv := 700000
     holds r (fun _ => 700000 ≤ mv)) ∧
    holds { r with powered := false } (fun s => s.powered = false) ∧
    holds r (fun _ => True) ∧
    (∀ rail ∈ [0, 6], holds r (fun _ => rail < 7)) ∧
    (let ma := 3600001
     holds r (fun _ => 3600000 < ma)) ∧
    (let ma := 3600000
     holds r (fun _ => ma ≤ 3600000)) ∧
    (let dies : List DieSample := List.replicate 13 { tmax := 1000, power := 10, proc := 0 }
     holds r (fun _ => dies.length = 13)) ∧
    (let temp : Int := 2000
     holds r (fun s => 2000 ≤ temp ∧ isViral s = false ∧ field (reg64 s (offDieTel 0)) 20 20 = 0)) ∧
    (let temp : Int := 1999
     holds r (fun _ => temp < 2000)) ∧
    (let temp : Int := 2000
     let w := 9
     holds r (fun s => w < 10 ∧ 2000 ≤ temp ∧ mapFind s.tripped w = none)) ∧
    (let w := 9
     let layer := 1
     let c := 4
     holds { r with tripped := [(9, some 4)], clock := 4 + 10 * second } (fun s => mapFind s.tripped w = some (some c) ∧
       c + 10 * second ≤ s.clock) ∧
     holds { r with layersLost := [(1, some 4)], clock := 4 + 10 * second }
       (fun s => mapFind s.layersLost layer = some (some c) ∧ c + 10 * second ≤ s.clock)) ∧
    holds r (fun _ => True) := by
  dsimp only
  refine ⟨holds_of (by decide), holds_of (by decide), holds_of (by decide), holds_of trivial, ?_, holds_of (by decide),
    holds_of (by decide),
    holds_of (by decide), holds_of (by decide), holds_of (by decide), holds_of (by decide), ⟨holds_of (by decide),
      holds_of (by decide)⟩,
    holds_of trivial⟩
  unfold holds; decide
/-! ## Ill-formed terms, and words that are no instruction -/

/-- A term that is no instruction, for each reason of `IllegalReason` that a term can have (16 R342, R344, R347, R352,
  17 R367,
R372, 10 R215; a physical core is below 136, 01 R20). -/
theorem test_ill_formed :
    (Instr.iaddExt (.baseLit { g := 0, b := 1, a := 4, d := 4 } 5)).illegal = some .badBaseLiteral ∧
    (Instr.iaddExt (.ext { ex with minor := 1 })).illegal = some .badVariant ∧
    (Instr.ld (.ext { ex with typ := 8, kb := 3, agent := 7 })).illegal = some .badScope ∧
    (Instr.iaddExt (.ext { ex with fs := true })).illegal = some .badFlagSelect ∧
    (Instr.iaddExt (.ext { ex with kd := 2 })).illegal = some .badOperand ∧
    (Instr.iaddExt (.ext { ex with imm := 1 })).illegal = some .badImmediate ∧
    (Instr.iaddExt (.ext { ex with gn := true })).illegal = some .badGuard ∧
    (Instr.iaddExt (.ext { ex with kd := 1, ka := 1, b := 2 })).illegal = some .badScalar ∧
    (Instr.scanTestStart 136).illegal = some .badOperand ∧ ¬ (Instr.iaddExt (.ext { ex with minor := 1 })).WellFormed := by
  unfold Instr.WellFormed
  decide

/-- A base word of the opcode of `ld`, a missing literal, and the words of 17's table of illegal encodings. -/
theorem test_rejected_words :
    decodeWords [0x00000174#32] = .error .noBaseForm ∧ decodeWords [0x00000003#32, 0, 0] = .error .tooShort ∧
    decodeWords [] = .error .tooShort ∧ decodeWords [0x0C060235#32, 0x00170004#32, 0] = .error .badVariant :=
  ⟨rfl, rfl, rfl, rfl⟩

/-- The worked decode of 17: `icmp.lt.s32 p1, v3, v4`, and with MINOR 5. -/
theorem test_worked_decode :
    decodeWords [0x04060235#32, 0x00170004#32,
      0] = .ok (.icmpExt (.ext { ex with kd := 2, d := 1, a := 3, b := 4, minor := 2 }), 3) ∧
    decodeWords [0x0A060235#32, 0x00170004#32,
      0] = .ok (.icmpExt (.ext { ex with kd := 2, d := 1, a := 3, b := 4, minor := 5 }), 3) :=
  ⟨rfl, rfl⟩

/-- One word of each base family bit by bit, G, B, A, D, OP and LEN of 16 R341 from the left,
  the opcodes of 17 R368 to R370:
`iadd`, `and`, `fadd`, `radd`, `mov`. -/
theorem test_decode_bits :
    decodeWords [0b00000010100001000000100000000000#32] = .ok (.iadd { g := 0, b := 5, a := 4, d := 4 }, 1) ∧
    decodeWords [0b01000010000000110000010001000100#32] = .ok (.andB { g := 1, b := 4, a := 3, d := 2 }, 1) ∧
    decodeWords [0b10000010000000110000010010001000#32] = .ok (.fadd { g := 2, b := 4, a := 3, d := 2 }, 1) ∧
    decodeWords [0b11000011000001000000010011101100#32] = .ok (.radd { g := 3, b := 6, a := 4, d := 2 }, 1) ∧
    decodeWords [0b00000000000000110000010011111100#32] = .ok (.mov { g := 0, b := 0, a := 3, d := 2 }, 1) :=
  ⟨rfl, rfl, rfl, rfl, rfl⟩

/-- A literal follows the base word, or the three words of the extended form (16 R339, R340). -/
theorem test_decode_literals :
    decodeWords [0x00040802#32, 0xFFFFFFFF#32,
      0#32] = .ok (.iaddExt (.baseLit { g := 0, b := 0, a := 4, d := 4 } 0xFFFFFFFF), 3) ∧
    decodeWords [0x00080803#32, 0x01870000#32, 0, 5, 6] =
      .ok (.iaddExt (.extLit { ex with a := 4, d := 4, kb := 3 } 0x0000000600000005), 5) :=
  ⟨rfl, rfl⟩

/-! ## Single steps: results worked by hand from the rules, and the spec's own worked examples -/

/-- The issuing gang after an instruction. -/
def after (i : Instr) (s : State) : Gang :=
  match exec i s with
  | .next t => gangOf t
  | _ => loaderGang

/-- Register n holds the listed values, lane by lane. -/
def fill (n : Nat) (l : List Nat) (s : State := ready) : State :=
  onG (fun g => (l.zip (List.range l.length)).foldl (fun g e => setVreg g n e.2 (BitVec.ofNat 32 e.1)) g) s

/-- The split holds the first k lanes. -/
def narrow (k : Nat) (s : State := ready) : State :=
  onG (fun g => { g with splits := g.splits.map (fun sp => { sp with mask := firstLanes k }) }) s

/-- Register n in the first k lanes after an instruction. -/
def out (i : Instr) (s : State) (n k : Nat) : List Nat := (List.range k).map (fun h => (vreg (after i s) n h).toNat)

/-- The fetched `iadd v4, v4, v5` wraps, and only the pc and v4 change (19 R437). -/
theorem test_iadd_wraps :
    (match step ((fill 4 [0xFFFFFFFF] (fill 5 [2])).withFetchWord 32 0x02840800) with
      | .next t => ((vreg (gangOf t) 4 0).toNat, (vreg (gangOf t) 5 0).toNat, (gangOf t).splits.map
        (fun sp => (sp.pc.toNat, sp.slot)))
      | _ => (0, 0, [])) = (1, 2, [(8, 0)]) := by
  decide

/-- 05: `.s8` addition of 100 and 50 gives −106, and 127 under `.sat`. -/
theorem test_iadd_s8 : ∀ e ∈ [(false, 0xFFFFFF96), (true, 127)],
    out (.iaddExt (.ext { ex with typ := 1, sat := e.1, d := 4, a := 5, b := 6 })) (fill 5 [100] (fill 6 [50])) 4 1 = [e.2] := by
  decide

/-- 16 R347: IMM 0xFFF0 is −16 for `iadd.s32` and 65,520 for `iadd.n32`. -/
theorem test_immediate : ∀ e ∈ [(0, 4), (4, 65540)],
    out (.iaddExt (.ext { ex with typ := BitVec.ofNat 4 e.1, d := 4, a := 5, kb := 3, imm := 0xFFF0 })) (fill 5 [20]) 4 1 = [e.2] := by
  decide

/-- 16 R347: the literal 0x3FC00000 is 1.5 for `fmul.f32`; 1.5 × 2 = 3. -/
theorem test_fmul_literal :
    out (.fmulExt (.extLit { ex with typ := 10, d := 4, a := 5, kb := 3 } 0x3FC00000)) (fill 5 [0x40000000]) 4 1 = [0x40400000] := by
  decide

/-- 05 R98: 1 + 3 × 2^−9 to BF16 gives 0x3F81 under `.rn` and 0x3F80 under `.rz`. -/
theorem test_cvt_bf16 : ∀ e ∈ [(0, 0x3F81), (2, 0x3F80)],
    out (.cvt (.ext { ex with typ := 13, minor := 10, rm := BitVec.ofNat 3 e.1, d := 4, a := 6 })) (fill 6 [0x3F80C000]) 4 1 = [e.2] := by
  decide

/-- 18 R403: 1.0, 470.0, −0.0 and a NaN to E4M3. -/
theorem test_cvt_e4m3 :
    out (.cvt (.ext { ex with typ := 10, md := 1, d := 8 }))
      (fill 0 [0x3F800000] (fill 1 [0x43EB0000] (fill 2 [0x80000000] (fill 3 [0x7FC00001])))) 8 1 = [0x7F807E38] := by
  decide

/-- 20 R497: the float sum of 1, 2^24, 1, −2^24 and 1 in a split of width 5 is 2. -/
theorem test_redx_add :
    out (.redx (.ext { ex with typ := 10, d := 4, a := 5 }))
      (narrow 5 (fill 5 [0x3F800000, 0x4B800000, 0x3F800000, 0xCB800000,
        0x3F800000])) 4 5 = List.replicate 5 0x40000000 := by
  decide

/-- 20 R502: rotation with `.edge` by 2 and by −2, and exchange in pairs. -/
theorem test_shfl : ∀ e ∈ [(1, 1, 2, [12, 13, 14, 15, 14, 15]), (1, 1, 0xFFFFFFFE, [10, 11, 10, 11, 12, 13]),
      (1, 0, 2, [12, 13, 14, 15, 10, 11]), (2, 0, 1, [11, 10, 13, 12, 15, 14]), (3, 0, 5, [15, 14, 13, 12, 11, 10])],
    out (.shfl (.ext { ex with typ := 8, minor := BitVec.ofNat 6 e.1, md := BitVec.ofNat 5 e.2.1, d := 4, a := 5, b := 6 }))
      (narrow 6 (fill 5 [10, 11, 12, 13, 14, 15] (fill 6 (List.replicate 6 e.2.2.1)))) 4 6 = e.2.2.2 := by
  decide

/-- 20 R492: 3.0, 1.5, −0.75, 0 and a NaN have the band exponent 17. -/
theorem test_qblk :
    out (.qblk (.ext { ex with typ := 10, d := 4, a := 5 }))
      (narrow 5 (fill 5 [0x40400000, 0x3FC00000, 0xBF400000, 0, 0x7FC00000])) 4 1 = [17] := by
  decide

/-- 20 R542: the block 0x2C5103A7 with scale 1.5 is 9, −1.5, 2.25, 0, 0.75, 4.5, −3 and 1.5. -/
theorem test_unpkf4 :
    (List.range 8).map (fun k => out (.unpkf4 (.ext { ex with typ := 10, d := 8, a := 4 })) (fill 4 [0x2C5103A7] (fill 5 [0x70])) (8 + k) 1) =
      [[0x41100000], [0xBFC00000], [0x40100000], [0], [0x3F400000], [0x40900000], [0xC0400000], [0x3FC00000]] := by
  decide

/-- 20 R500: the residues of −1,000 merge to it. -/
theorem test_rmerge : ∀ e ∈ [(6, 0xFFFFFC18), (7, 0xFFFFFFFF)],
    out (.rmerge (.ext { ex with typ := 3, d := 6, a := 4 })) (fill 4 [0x040C1418] (fill 5 [0xA5C3CDEB])) e.1 1 = [e.2] := by
  decide

/-- 20 R496: channel 4 of the worked correction is replaced by 12. -/
theorem test_rchk : ∀ e ∈ [(6, 0x80000004), (7, 12)],
    out (.rchkExt (.ext { ex with typ := 8, d := 6, a := 4, b := 8 })) (fill 4 [0xF7F1EBE8] (fill 5 [0x442C24C8] (fill 8 [0x00C100D3]))) e.1 1 =
      [e.2] := by
  decide

/-- 18 R382: four lanes add 1 at one word that holds 10. -/
theorem test_atom_add :
    let i : Instr := .atom (.ext { ex with d := 4, ka := 1, a := 24, kb := 3, c := 5 })
    let s := narrow 4 (put 24 0x10000 2 (fill 5 [1, 1, 1, 1] (poke ready 0x10000 [10])))
    out i s 4 4 = [10, 11, 12, 13] ∧ (match exec i s with | .next t => peek t 0x10000 4 | _ => 0) = 14 := by
  decide

/-- 18 R385: a block of 1 in word 0, with 0x100 combined by `or`. -/
theorem test_atomw_or :
    let i : Instr := .atomw (.ext { ex with typ := 8, d := 16, ka := 1, a := 24, kb := 3, c := 8 })
    let s := narrow 1 (put 24 0x10000 2 (fill 8 [0x100] (poke ready 0x10000 [1])))
    out i s 16 1 = [1] ∧ (match exec i s with | .next t => peek t 0x10000 4 | _ => 0) = 0x101 := by
  decide

/-- 13 R281 to R283: `trap` 5 sets ACTIVE with the cause 0x0B, keeps its code and its lanes, and goes to the handler. -/
theorem test_trap :
    let g := after (.trapOp (.ext { ex with imm := 5 })) (onGrp (fun g => { g with handler := 0x40 }))
    (g.tcause.toNat, g.tinfo.toNat, g.tmask.toNat, g.splits.map (fun sp => (sp.pc.toNat, sp.handler))) = (0x8000000B, 5,
      0xFF, [(0x40, true)]) := by
  decide

/-- 18 R401, 20 R490: `ctz` of 0x00010000 is 16, `popc` of 0xF0F00001 is 9. -/
theorem test_counts :
    out (.ctzExt (.ext { ex with typ := 8, d := 4, a := 5 })) (fill 5 [0x10000]) 4 1 = [16] ∧
    out (.popcExt (.ext { ex with typ := 8, d := 4, a := 5 })) (fill 5 [0xF0F00001]) 4 1 = [9] := by
  decide

end Sys2Proof.Tests
end

section
/-! SUPPORT. Lists in order, and fields of registers after a write, as the steps of the device use them. -/

namespace Sys2Proof.Machine

/-! ## Lists in order -/

theorem mem_insertByFirst {α : Type} (f : α → Nat) (x y : α) (l : List α) :
    y ∈ sortBy.insertByFirst f x l ↔ y = x ∨ y ∈ l := by
  induction l with
  | nil => simp [sortBy.insertByFirst]
  | cons z l ih =>
    unfold sortBy.insertByFirst
    split
    · simp only [List.mem_cons, ih, or_left_comm]
    · simp

@[simp] theorem mem_sortBy {α : Type} (f : α → Nat) (y : α) (l : List α) : y ∈ sortBy f l ↔ y ∈ l := by
  induction l with
  | nil => rfl
  | cons x l ih => simp [sortBy, mem_insertByFirst, ih]

@[simp] theorem mem_distinct (y : Nat) (l : List Nat) : y ∈ distinct l ↔ y ∈ l := by
  fun_induction distinct l with
  | case1 x z l h ih =>
    have hx : x = z := by simpa using h
    simp [ih, hx]
  | case2 x z l h ih => simp [ih]
  | case3 l => rfl

/-! ## Maps whose values a function changes -/

theorem mapFind_map {α β : Type} (f : Nat → α → β) (m : SMap α) (n : Nat) :
    mapFind (m.map (fun e => (e.1, f e.1 e.2))) n = (mapFind m n).map (f n) := by
  induction m with
  | nil => rfl
  | cons e m ih =>
    obtain ⟨k, v⟩ := e
    by_cases hk : k = n
    · simp [mapFind, hk]
    · simp [mapFind, hk, ih]

/-- Values set one after another at different keys are all found. -/
theorem mapFind_foldl_mapSet {α β : Type} (f : Nat × α → β) (l : List (Nat × α)) (hl : (l.map Prod.fst).Nodup) (m : SMap β)
    (e : Nat × α) (he : e ∈ l) : mapFind (l.foldl (fun m x => mapSet m x.1 (f x)) m) e.1 = some (f e) := by
  have kept (l : List (Nat × α)) (k : Nat) (hk : k ∉ l.map Prod.fst) (m : SMap β) :
      mapFind (l.foldl (fun m x => mapSet m x.1 (f x)) m) k = mapFind m k := by
    refine List.foldlRecOn (motive := fun m' => mapFind m' k = mapFind m k) l _ rfl (fun b hb a ha => ?_)
    have hne : k ≠ a.1 := fun h => hk (by rw [h]; exact List.mem_map_of_mem ha)
    rw [mapFind_mapSet_ne _ _ _ _ hne, hb]
  induction l generalizing m with
  | nil => simp at he
  | cons x l ih =>
    simp only [List.map_cons, List.nodup_cons] at hl
    rcases List.mem_cons.mp he with rfl | he
    · rw [List.foldl_cons, kept l e.1 hl.1, mapFind_mapSet_same]
    · exact ih hl.2 _ he

/-! ## Fields of registers -/

/-- A field in the low half of a 64-bit register is one of its low word. -/
theorem field_reg64_low (s : State) (off hi lo : Nat) (h : hi < 32) :
    field (reg64 s off) hi lo = field (reg32 s off) hi lo := by
  apply Nat.eq_of_testBit_eq
  intro i
  simp only [field, testBit_fieldN, BitVec.testBit_toNat, reg64, BitVec.getLsbD_append]
  by_cases hi' : i < hi + 1 - lo
  · simp [show lo + i < 32 by omega]
  · simp [hi']

theorem reg64_setReg64_ne (s : State) (off o : Nat) (v : BitVec 64) (h : o + 8 ≤ off ∨ off + 8 ≤ o) (h4 : off % 4 = 0) :
    reg64 (setReg64 s off v) o = reg64 s o := by
  simp only [reg64]
  rw [reg32_setReg64_ne _ _ _ _ (by omega) (by omega), reg32_setReg64_ne _ _ _ _ (by omega) (by omega)]

theorem field_setReg64Field_same (s : State) (off hi lo v : Nat) (h4 : off % 4 = 0) (hh : hi < 64) (hl : lo ≤ hi + 1) :
    field (reg64 (setReg64Field s off hi lo v) off) hi lo = v % 2 ^ (hi + 1 - lo) := by
  rw [setReg64Field, reg64_setReg64_same _ _ _ h4, field_setField_same _ _ _ _ hh hl]

theorem field_setReg64Field_ne (s : State) (off hi lo v hi' lo' : Nat) (h4 : off % 4 = 0) (hh : hi < 64) (hl : lo ≤ hi + 1)
    (h : hi < lo' ∨ hi' < lo) : field (reg64 (setReg64Field s off hi lo v) off) hi' lo' = field (reg64 s off) hi' lo' := by
  rw [setReg64Field, reg64_setReg64_same _ _ _ h4, field_setField_ne _ _ _ _ _ _ hh hl h]

theorem reg64_setReg64Field_ne (s : State) (off hi lo v o : Nat) (h : o + 8 ≤ off ∨ off + 8 ≤ o) (h4 : off % 4 = 0) :
    reg64 (setReg64Field s off hi lo v) o = reg64 s o := reg64_setReg64_ne _ _ _ _ h h4

theorem reg32_setReg64Field_ne (s : State) (off hi lo v o : Nat) (h : o + 4 ≤ off ∨ off + 8 ≤ o) (h4 : off % 4 = 0) :
    reg32 (setReg64Field s off hi lo v) o = reg32 s o := reg32_setReg64_ne _ _ _ _ (by omega) (by omega)

/-- Setting a field of the word at one offset leaves a field beside it as it was, at every offset. -/
theorem field_setRegField_ne (s : State) (off hi lo v o hi' lo' : Nat) (hh : hi < 32) (hl : lo ≤ hi + 1)
    (h : hi < lo' ∨ hi' < lo) : field (reg32 (setRegField s off hi lo v) o) hi' lo' = field (reg32 s o) hi' lo' := by
  by_cases ho : o / 4 = off / 4
  · have same (t : State) : reg32 t o = reg32 t off := by simp only [reg32, ho]
    rw [same, same, setRegField, reg32_setReg32_same, field_setField_ne _ _ _ _ _ _ hh hl h]
  · rw [reg32_setRegField_ne _ _ _ _ _ _ ho]

theorem field_lt {n : Nat} (w : BitVec n) (hi lo : Nat) : field w hi lo < 2 ^ (hi + 1 - lo) :=
  Nat.mod_lt _ (Nat.two_pow_pos _)

end Sys2Proof.Machine
end

section
/-! SUPPORT. What containment leaves alone: the record of an event, viral state, and the kill of a context (13 R300,
14 R303 to R305, R314). -/

namespace Sys2Proof.Machine

/-! ## Records of events -/

/-- The words that the record of an event may write, by offset / 4: `CONTAIN_LOG`, `CEV_PTR` and `IRQ_STAT`. -/
def recordWords : List Nat := [0x0400 / 4, 0x0404 / 4, 0x0448 / 4, 0x044C / 4, 0x2000 / 4]

/-- No word of telemetry is one of them. -/
theorem not_mem_recordWords (o : Nat) (h : 0x2100 ≤ o) : o / 4 ∉ recordWords := by
  intro hm
  simp only [recordWords, List.mem_cons, List.not_mem_nil, or_false] at hm
  omega

/-- A state after an event has been recorded: only the interrupt, the log, the ring's pointers and host memory differ. -/
structure Recorded (s t : State) : Prop where
  rest : { t with dcb := s.dcb, mem := s.mem, msix := s.msix, irqSet := s.irqSet, irqSent := s.irqSent, cevNow := s.cevNow,
                  cevClock := s.cevClock } = s
  words : ∀ o, o / 4 ∉ recordWords → reg32 t o = reg32 s o
  memory : ∀ a, a < 0x8000000000000 → memRead t.mem a = memRead s.mem a

theorem Recorded.refl (s : State) : Recorded s s := ⟨rfl, fun _ _ => rfl, fun _ _ => rfl⟩

theorem Recorded.trans {a b c : State} (h : Recorded a b) (k : Recorded b c) : Recorded a c where
  rest := (congrArg (fun x : State => { x with
    dcb := a.dcb, mem := a.mem, msix := a.msix, irqSet := a.irqSet, irqSent := a.irqSent, cevNow := a.cevNow,
    cevClock := a.cevClock }) k.rest).trans h.rest
  words o ho := (k.words o ho).trans (h.words o ho)
  memory x hx := (k.memory x hx).trans (h.memory x hx)

/-- What an event's record is not made of stands. -/
theorem Recorded.keeps {s t : State} (h : Recorded s t) {α : Type} (f : State → α)
    (hf : ∀ (x : State) d m i a b n c,
      f { x with dcb := d, mem := m, msix := i, irqSet := a, irqSent := b, cevNow := n, cevClock := c } = f x := by
        intros; rfl) : f t = f s := by
  rw [← hf t, h.rest]

theorem recorded_setReg32 (s : State) (off : Nat) (v : Word) (h : off / 4 ∈ recordWords) :
    Recorded s (setReg32 s off v) :=
  ⟨rfl, fun _ ho => reg32_setReg32_ne _ _ _ _ (fun e => ho (e ▸ h)), fun _ _ => rfl⟩

theorem recorded_setReg64 (s : State) (off : Nat) (v : BitVec 64) (h : off / 4 ∈ recordWords)
    (h4 : (off + 4) / 4 ∈ recordWords) : Recorded s (setReg64 s off v) :=
  (recorded_setReg32 _ _ _ h).trans (recorded_setReg32 _ _ _ h4)

theorem raiseIrq_recorded (n : Nat) (s : State) : Recorded s (raiseIrq n s) :=
  ⟨rfl, (recorded_setReg32 s offIrqStat _ (by decide)).words, fun _ _ => rfl⟩

/-- The interrupt's bit is set. -/
theorem field_raiseIrq (n : Nat) (s : State) (h : n < 32) : field (reg32 (raiseIrq n s) offIrqStat) n n = 1 := by
  have hs := field_setRegField_same s offIrqStat n n 1 h (by omega)
  rwa [show n + 1 - n = 1 by omega] at hs

theorem poke_host_recorded (s : State) (h : Nat) (k : Nat) (bs : List Byte) : Recorded s (poke s (hostAddr h + k) bs) :=
  ⟨rfl, fun _ _ => rfl, fun a ha => memRead_poke_outside _ _ _ _ (.inl (by unfold hostAddr; omega))⟩

theorem writeRecords_recorded (base : BitVec 64) (n : Nat) (l : List (Nat × Nat)) (s : State) :
    Recorded s (writeRecords base n l s) := by
  induction l generalizing n s with
  | nil => exact .refl s
  | cons e l ih => exact (poke_host_recorded s _ _ _).trans (ih _ _)

theorem dropRecord_recorded (s : State) : Recorded s (dropRecord s) :=
  recorded_setReg64 _ _ _ (by decide) (by decide)

theorem writeRecords_started_recorded (base : BitVec 64) (n clock : Nat) (l now : List (Nat × Nat)) (s : State) :
    Recorded s (writeRecords base n l { s with cevNow := now, cevClock := clock }) :=
  have started : Recorded s { s with cevNow := now, cevClock := clock } := ⟨rfl, fun _ _ => rfl, fun _ _ => rfl⟩
  started.trans (writeRecords_recorded base n l _)

theorem writeEvent_recorded (kind pcore info ctx : Nat) (task : Option Group) (s : State) :
    Recorded s (writeEvent kind pcore info ctx task s) := by
  unfold writeEvent
  simp only
  split
  · exact dropRecord_recorded s
  · split
    · exact (writeRecords_started_recorded _ _ _ _ _ s).trans (dropRecord_recorded _)
    · exact (writeRecords_started_recorded _ _ _ _ _ s).trans (recorded_setReg64 _ _ _ (by decide) (by decide))

/-- A containment event changes what its record is made of, and nothing else (14 R303). -/
theorem containEvent_recorded (kind pcore welt info ctx : Nat) (task : Option Group) (s : State) :
    Recorded s (containEvent kind pcore welt info ctx task s) :=
  ((recorded_setReg64 s offContainLog _ (by decide) (by decide)).trans (raiseIrq_recorded 2 _)).trans
    (writeEvent_recorded _ _ _ _ _ _)

/-! ## Viral state -/

/-- A device that enters viral state sets `VIRAL` and records it (14 R314). -/
theorem enterViral_recorded (cause : Nat) (s : State) (h : isViral s = false) :
    Recorded (setReg32 s offViral (BitVec.ofNat 32
      (2 ^ 31 + cause % 16 * 2 ^ 24 + saturate (s.clock / 850000) (2 ^ 24 - 1)))) (enterViral cause s) := by
  unfold enterViral
  rw [if_neg (by simp [h])]
  exact containEvent_recorded ..

/-- `VIRAL` of a device that enters viral state. -/
theorem field_viral_enterViral (cause : Nat) (s : State) (h : isViral s = false) :
    field (reg32 (enterViral cause s) offViral) 31 31 = 1 ∧
      field (reg32 (enterViral cause s) offViral) 27 24 = cause % 16 := by
  rw [(enterViral_recorded cause s h).words offViral (by decide), reg32_setReg32_same]
  simp only [field, fieldN, BitVec.toNat_ofNat, saturate]
  omega

theorem enterViral_cores (cause : Nat) (s : State) : (enterViral cause s).cores = s.cores := by
  by_cases h : isViral s
  · rw [enterViral, if_pos h]
  · exact (enterViral_recorded cause s (by simpa using h)).keeps State.cores |>.trans (setReg32_cores _ _ _)

/-! ## Kills -/

/-- A state after containment has worked on it, kills of contexts included: only the words of records and `XLAT_STAT`
differ among the words, no kill is taken back, and the sensors' and layers' records stand. -/
structure Contained (s t : State) : Prop where
  words : ∀ o, o / 4 ∉ recordWords → o / 4 ≠ offXlatStat / 4 → reg32 t o = reg32 s o
  killing : ∀ ctx ∈ s.killing, ctx ∈ t.killing
  dtemp : t.dtemp = s.dtemp
  layersLost : t.layersLost = s.layersLost

theorem Contained.refl (s : State) : Contained s s := ⟨fun _ _ _ => rfl, fun _ h => h, rfl, rfl⟩

theorem Contained.trans {a b c : State} (h : Contained a b) (k : Contained b c) : Contained a c where
  words o ho hx := (k.words o ho hx).trans (h.words o ho hx)
  killing x hx := k.killing x (h.killing x hx)
  dtemp := k.dtemp.trans h.dtemp
  layersLost := k.layersLost.trans h.layersLost

theorem Recorded.contained {s t : State} (h : Recorded s t) : Contained s t where
  words o ho _ := h.words o ho
  killing x hx := by rwa [h.keeps State.killing]
  dtemp := h.keeps State.dtemp
  layersLost := h.keeps State.layersLost

theorem freeRange_other (base n : Nat) (s : State) : ∃ m f, freeRange base n s = { s with mem := m, free := f } := by
  induction n generalizing s with
  | zero => exact ⟨_, _, rfl⟩
  | succ n ih =>
    unfold freeRange takeFree
    simp only
    split <;> obtain ⟨m, f, h⟩ := ih _ <;> exact ⟨m, f, h⟩

theorem spoilSave_other (ctx : Nat) (s : State) : ∃ m f, spoilSave ctx s = { s with mem := m, free := f } := by
  unfold spoilSave
  split
  · exact freeRange_other _ _ _
  · exact ⟨_, _, rfl⟩

theorem dropGroup_other (core gslot : Nat) (s : State) :
    ∃ p c, dropGroup core gslot s = { s with pages := p, cores := c } := by
  unfold dropGroup
  split
  · exact ⟨_, _, rfl⟩
  · simp only
    split <;> exact ⟨_, _, rfl⟩

theorem contained_of_dcb {s t : State} (hw : t.dcb = s.dcb) (hk : ∀ ctx ∈ s.killing, ctx ∈ t.killing)
    (hd : t.dtemp = s.dtemp) (hl : t.layersLost = s.layersLost) : Contained s t :=
  ⟨fun o _ _ => by simp only [reg32, hw], hk, hd, hl⟩

theorem poke_contained (s : State) (a : Nat) (bs : List Byte) : Contained s (poke s a bs) :=
  contained_of_dcb rfl (fun _ h => h) rfl rfl

theorem spoilSave_contained (ctx : Nat) (s : State) : Contained s (spoilSave ctx s) := by
  obtain ⟨m, f, h⟩ := spoilSave_other ctx s
  rw [h]
  exact contained_of_dcb rfl (fun _ h => h) rfl rfl

theorem dropGroup_contained (core gslot : Nat) (s : State) : Contained s (dropGroup core gslot s) := by
  obtain ⟨p, c, h⟩ := dropGroup_other core gslot s
  rw [h]
  exact contained_of_dcb rfl (fun _ h => h) rfl rfl

theorem dropMigration_contained (s : State) : Contained s { s with migration := none } :=
  contained_of_dcb rfl (fun _ h => h) rfl rfl

theorem setXlatField_contained (s : State) (hi lo v : Nat) : Contained s (setRegField s offXlatStat hi lo v) :=
  ⟨fun _ _ hx => reg32_setRegField_ne _ _ _ _ _ _ hx, fun _ h => h, rfl, rfl⟩

/-- The first part of a kill: the record of the context and its groups (13 R300). -/
def killGroups (ctx : Nat) (s : State) : State :=
  let r := ctxRecord s ctx
  let s := setCtxRecord (spoilSave ctx s) ctx (setField (setField r 55 40 (field r 55 40 + 1)) 39 38 2)
  ((allGroups s).filter (fun e => e.2.2.ctx == ctx)).foldl (fun s e => dropGroup e.1 e.2.1 s) s

/-- The second part: the kill is under way, and the context's requests, pre-emptions and image are dropped. -/
def killMarked (ctx : Nat) (s : State) : State :=
  { s with
    pages := s.pages.filter (fun p => p.ctx != ctx),
    killing := s.killing ++ [ctx],
    preempts := mapErase s.preempts ctx,
    preemptAgain := mapErase s.preemptAgain ctx,
    saved := mapErase s.saved ctx }

/-- The last part: the context's migration ends (11 R253). -/
def endMigration (ctx : Nat) (s : State) : State :=
  match s.migration with
  | none => s
  | some m =>
    if m.ctx == ctx then
      let e := peek s m.entry 8
      let s := poke s m.entry (natToBytes 8 (setFieldN e 63 63 0))
      let s := setRegField s offXlatStat 22 20 4
      { setRegField s offXlatStat 23 23 0 with migration := none }
    else s

/-- The kill of a context, by its parts. -/
theorem killContext_eq (ctx : Nat) (s : State) : killContext ctx s =
    if s.killing.contains ctx then s else endMigration ctx (killMarked ctx (killGroups ctx s)) := rfl

theorem killGroups_contained (ctx : Nat) (s : State) : Contained s (killGroups ctx s) :=
  List.foldlRecOn (motive := Contained s) _ _ ((spoilSave_contained ctx s).trans (poke_contained _ _ _))
    (fun _ hb _ _ => hb.trans (dropGroup_contained _ _ _))

theorem killMarked_contained (ctx : Nat) (s : State) : Contained s (killMarked ctx s) :=
  contained_of_dcb rfl (fun _ h => List.mem_append_left _ h) rfl rfl

theorem endMigration_contained (ctx : Nat) (s : State) : Contained s (endMigration ctx s) := by
  unfold endMigration
  split
  · exact .refl s
  · split
    · exact (((poke_contained _ _ _).trans (setXlatField_contained _ _ _ _)).trans (setXlatField_contained _ _ _ _)).trans
        (dropMigration_contained _)
    · exact .refl s

theorem killContext_contained (ctx : Nat) (s : State) : Contained s (killContext ctx s) := by
  rw [killContext_eq]
  split
  · exact .refl s
  · exact ((killGroups_contained _ _).trans (killMarked_contained _ _)).trans (endMigration_contained _ _)

/-- The kill of a context is under way (13 R300). -/
theorem mem_killing_killContext (ctx : Nat) (s : State) : ctx ∈ (killContext ctx s).killing := by
  rw [killContext_eq]
  split
  · rename_i h
    simpa using h
  · exact (endMigration_contained _ _).killing _ (List.mem_append_right _ (List.mem_singleton_self _))

theorem killByEvent_contained (ctx kind : Nat) (s : State) : Contained s (killByEvent ctx kind s) :=
  (containEvent_recorded ..).contained.trans (killContext_contained _ _)

theorem mem_killing_killByEvent (ctx kind : Nat) (s : State) : ctx ∈ (killByEvent ctx kind s).killing := by
  rw [killByEvent]
  exact mem_killing_killContext _ _

/-! ## Fatal errors on the Last (01 R29, 14 R314) -/

theorem fatalError_contained (cause : Nat) (s : State) : Contained (enterViral cause s) (fatalError cause s) :=
  List.foldlRecOn (motive := Contained (enterViral cause s)) _ _ (.refl _)
    (fun _ hb _ _ => hb.trans (killByEvent_contained _ _ _))

/-- Contexts killed one after another are all being killed. -/
theorem mem_killing_foldl_killByEvent (kind : Nat) (l : List Nat) (s : State) (ctx : Nat) (h : ctx ∈ s.killing ∨ ctx ∈ l) :
    ctx ∈ (l.foldl (fun s ctx => killByEvent ctx kind s) s).killing := by
  induction l generalizing s with
  | nil => simpa using h
  | cons c l ih =>
    rw [List.foldl_cons]
    refine ih _ ?_
    rcases h with h | h
    · exact .inl ((killByEvent_contained c kind s).killing ctx h)
    · rcases List.mem_cons.mp h with rfl | h
      · exact .inl (mem_killing_killByEvent _ _ _)
      · exact .inr h

theorem mem_allGroups (s : State) (core k : Nat) (g : Group) (h : getGroup s core k = some g) :
    (core, k, g) ∈ allGroups s := by
  unfold getGroup getCore mapGet at h
  cases hc : mapFind s.cores core with
  | none => simp [hc, mapFind] at h
  | some c =>
    rw [hc] at h
    exact List.mem_flatMap.mpr ⟨_, mapFind_mem _ _ _ hc, List.mem_map.mpr ⟨_, mapFind_mem _ _ _ h, rfl⟩⟩

/-- A fatal error ends every active context that has a group on the device. -/
theorem mem_killing_fatalError (cause : Nat) (s : State) (core k : Nat) (g : Group) (hg : getGroup s core k = some g)
    (ha : ctxState (enterViral cause s) g.ctx = 1) : g.ctx ∈ (fatalError cause s).killing := by
  refine mem_killing_foldl_killByEvent _ _ _ _ (or_iff_not_imp_left.mpr fun hk => ?_)
  have hg' : getGroup (enterViral cause s) core k = some g := by
    rw [← hg, getGroup, getGroup, getCore, getCore, enterViral_cores]
  have hm := List.mem_map_of_mem (f := fun e : Nat × Nat × Group => e.2.2.ctx) (mem_allGroups _ _ _ _ hg')
  simp only [lastContexts, List.mem_filter, mem_distinct, mem_sortBy, List.mem_append]
  exact ⟨by simp only [hm, true_or], by simp [ha, hk]⟩

/-- A fatal error makes a device that is not viral so, with its cause. -/
theorem field_viral_fatalError (cause : Nat) (s : State) (h : isViral s = false) :
    isViral (fatalError cause s) = true ∧ field (reg32 (fatalError cause s) offViral) 27 24 = cause % 16 := by
  have hw := (fatalError_contained cause s).words offViral (by decide) (by decide)
  obtain ⟨hv, hc⟩ := field_viral_enterViral cause s h
  simp only [isViral, hw, hv, hc, BEq.rfl, and_self]

end Sys2Proof.Machine
end

section
/-! SUPPORT. What a change of the core map leaves alone, and what a lost layer loses (01 R20, 14 R317, R320). -/

namespace Sys2Proof.Machine

/-! ## Changes of the core map -/

/-- A state after the core map has followed its cores: the device's own memory stands, and so do the sensors' and layers'
records and the upper half of every word of telemetry. The condition speaks of halves of words because a spare that is no
physical core names a word beyond `CORE_HEALTH`, where STATE and LCORE are written all the same. -/
structure Remapped (s t : State) : Prop where
  memory : ∀ a, a < 0x8000000000000 → memRead t.mem a = memRead s.mem a
  upper : ∀ o hi lo, 0x2100 ≤ o → o < 0x2300 → 16 ≤ lo → field (reg32 t o) hi lo = field (reg32 s o) hi lo
  dtemp : t.dtemp = s.dtemp
  layersLost : t.layersLost = s.layersLost

theorem Remapped.refl (s : State) : Remapped s s := ⟨fun _ _ => rfl, fun _ _ _ _ _ _ => rfl, rfl, rfl⟩

theorem Remapped.trans {a b c : State} (h : Remapped a b) (k : Remapped b c) : Remapped a c where
  memory x hx := (k.memory x hx).trans (h.memory x hx)
  upper o hi lo h1 h2 h3 := (k.upper o hi lo h1 h2 h3).trans (h.upper o hi lo h1 h2 h3)
  dtemp := k.dtemp.trans h.dtemp
  layersLost := k.layersLost.trans h.layersLost

theorem remapped_of_eq {s t : State} (hm : t.mem = s.mem) (hw : t.dcb = s.dcb) (hd : t.dtemp = s.dtemp)
    (hl : t.layersLost = s.layersLost) : Remapped s t :=
  ⟨fun _ _ => by rw [hm], fun _ _ _ _ _ _ => by simp only [reg32, hw], hd, hl⟩

/-- The pool, the scans and the quarantine are not what `Remapped` speaks of. -/
theorem remapped_pool (s : State) (spares gone : List Nat) (scans : SMap Scan) (q : SMap Bool) :
    Remapped s { s with spares := spares, gone := gone, scans := scans, quarantine := q } :=
  remapped_of_eq rfl rfl rfl rfl

theorem Recorded.remapped {s t : State} (h : Recorded s t) : Remapped s t where
  memory := h.memory
  upper o _ _ h1 _ _ := by rw [h.words o (not_mem_recordWords o h1)]
  dtemp := h.keeps State.dtemp
  layersLost := h.keeps State.layersLost

theorem remapped_setReg32 (s : State) (off : Nat) (v : Word) (h : off < 0x2100) : Remapped s (setReg32 s off v) :=
  ⟨fun _ _ => rfl, fun o _ _ h1 _ _ => by rw [reg32_setReg32_ne _ _ _ _ (by omega)], rfl, rfl⟩

/-- A field in the lower half of any word. -/
theorem remapped_setRegField (s : State) (off hi lo v : Nat) (hh : hi < 16) (hl : lo ≤ hi) :
    Remapped s (setRegField s off hi lo v) :=
  ⟨fun _ _ => rfl, fun _ _ _ _ _ h => field_setRegField_ne _ _ _ _ _ _ _ _ (by omega) (by omega) (.inl (by omega)),
    rfl, rfl⟩

theorem remapped_foldl {α : Type} (f : State → α → State) (l : List α) (h : ∀ s, ∀ x ∈ l, Remapped s (f s x)) (s : State) :
    Remapped s (l.foldl f s) :=
  List.foldlRecOn (motive := Remapped s) l f (.refl s) (fun b hb x hx => hb.trans (h b x hx))

theorem setCoreState_remapped (p st : Nat) (s : State) : Remapped s (setCoreState p st s) :=
  remapped_setRegField _ _ _ _ _ (by omega) (by omega)

theorem setCoreSlot_remapped (p l : Nat) (s : State) : Remapped s (setCoreSlot p l s) :=
  remapped_setRegField _ _ _ _ _ (by omega) (by omega)

theorem countSpares_remapped (s : State) : Remapped s (countSpares s) := remapped_setReg32 _ _ _ (by decide)

theorem mapChanged_remapped (s : State) : Remapped s (mapChanged s) := remapped_setReg32 _ _ _ (by decide)

theorem mapCore_remapped (l p : Nat) (s : State) (h : l < 128) : Remapped s (mapCore l p s) :=
  ((remapped_setReg32 s _ _ (by unfold offLcmap; omega)).trans (setCoreState_remapped _ _ _)).trans (setCoreSlot_remapped _ _ _)

theorem mapEvent_remapped (l old new : Nat) (s : State) : Remapped s (mapEvent l old new s) :=
  (containEvent_recorded ..).remapped

theorem leaveSlot_remapped (p : Nat) (s : State) : Remapped s (leaveSlot p s) :=
  (setCoreState_remapped _ _ _).trans (setCoreSlot_remapped _ _ _)

theorem replaceCore_remapped (l p spare : Nat) (s : State) (h : l < 128) : Remapped s (replaceCore l p spare s) :=
  ((((remapped_pool s _ _ _ _).trans (leaveSlot_remapped _ _)).trans (mapCore_remapped _ _ _ h)).trans
    (mapChanged_remapped _)).trans (mapEvent_remapped _ _ _ _)

theorem freeSlot_remapped (l : Nat) (s : State) (h : l < 128) : Remapped s (freeSlot s l) := by
  have cleared : Remapped s (setReg32 s (offLcmap l) 0) := remapped_setReg32 s _ _ (by unfold offLcmap; omega)
  unfold freeSlot
  simp only
  split
  · exact ((cleared.trans (remapped_pool _ _ _ _ _)).trans (setCoreState_remapped _ _ _)).trans (setCoreSlot_remapped _ _ _)
  · exact cleared.trans (leaveSlot_remapped _ _)

theorem invalidateQuad_remapped (l : Nat) (s : State) (h : l < 128) : Remapped s (invalidateQuad l s) := by
  refine (Remapped.trans (remapped_foldl _ _ (fun u k hk => freeSlot_remapped k u ?_) s) (mapChanged_remapped _)).trans
    (remapped_foldl _ _ (fun u e _ => mapEvent_remapped _ _ _ u) _)
  simp only [List.mem_map, List.mem_range] at hk
  omega

theorem restoreQuads_remapped (l : List Nat) (s : State) (h : ∀ q ∈ l, q < 32) : Remapped s (restoreQuads l s) := by
  induction l generalizing s with
  | nil => exact .refl s
  | cons q rest ih =>
    have hq : q < 32 := h q List.mem_cons_self
    have hr : ∀ q ∈ rest, q < 32 := fun k hk => h k (List.mem_cons_of_mem _ hk)
    unfold restoreQuads
    split
    · refine ((((((remapped_pool s _ _ _ _).trans (mapCore_remapped _ _ _ ?_)).trans (mapCore_remapped _ _ _ ?_)).trans
        (mapCore_remapped _ _ _ ?_)).trans (mapCore_remapped _ _ _ ?_)).trans (mapChanged_remapped _)).trans
        ((remapped_foldl _ _ (fun u e _ => mapEvent_remapped _ _ _ u) _).trans (ih _ hr)) <;> omega
    · exact ih _ hr

theorem markFailed_remapped (p : Nat) (s : State) : Remapped s (markFailed p s) := by
  unfold markFailed
  split
  · exact setCoreState_remapped _ _ _
  · exact .refl s

theorem refillSlot_remapped (l : Nat) (s : State) (h : l < 128) : Remapped s (refillSlot l s) := by
  unfold refillSlot
  simp only
  split
  · exact .refl s
  · refine (markFailed_remapped (physCore s l) s).trans ?_
    split
    · exact .refl _
    · split
      · exact replaceCore_remapped _ _ _ _ h
      · split
        · exact .refl _
        · exact invalidateQuad_remapped _ _ h

/-- The map after every change that is due (01 R20). -/
theorem refillMap_remapped (s : State) : Remapped s (refillMap s) :=
  (remapped_foldl _ _ (fun u l hl => refillSlot_remapped l u (List.mem_range.mp hl)) s).trans
    (restoreQuads_remapped _ _ (fun _ hq => List.mem_range.mp hq))

theorem closeCore_remapped (s : State) (k : Nat) : Remapped s (closeCore s k) := by
  unfold closeCore
  simp only
  split
  · exact .refl s
  · exact (remapped_pool s _ _ _ _).trans (setCoreState_remapped _ _ _)

/-! ## Lost layers -/

/-- A state in which a layer has been lost and its contexts have been killed, with nothing left of what it held. -/
def layerWiped (layer : Nat) (s : State) : State :=
  let s := containEvent 9 0xFF 0xF layer 0 none ((layerContexts s layer).foldl
    (fun s ctx => if s.killing.contains ctx then s else killByEvent ctx 9 s)
    { s with layersLost := mapSet s.layersLost layer none })
  { s with mem := s.mem.filter (fun c => nearLayer c.1 != some layer),
           l2 := s.l2.filter (fun e => nearLayer (e.1 * 128) != some layer) }

/-- Losing a layer is wiping it, setting its die's TRIP, and otherwise changes of the core map. -/
theorem loseLayer_parts (layer : Nat) (s : State) : ∃ u, Remapped (layerWiped layer s) u ∧
    Remapped (setReg64Field u (offDieTel (11 + layer)) 20 20 1) (loseLayer layer s) := by
  let shut := (layerCores layer).foldl quarantineWindow (layerWiped layer s)
  refine ⟨setRegField shut offQuarStat 12 0 (shut.quarantine.filter (fun e => !e.2)).length,
    Remapped.trans (remapped_foldl _ _ (fun u k _ => remapped_pool u _ _ _ _) _)
      (remapped_setRegField _ _ _ _ _ (by omega) (by omega)), ?_⟩
  exact ((remapped_foldl closeCore _ (fun u k _ => closeCore_remapped u k) _).trans (countSpares_remapped _)).trans
    (refillMap_remapped _)

/-- The kills and the event of a lost layer keep what containment keeps. -/
theorem layerWiped_contained (layer : Nat) (s : State) :
    Contained { s with layersLost := mapSet s.layersLost layer none } (layerWiped layer s) := by
  have filtered (u : State) (m : Memory) (l : SMap Nat) : Contained u { u with mem := m, l2 := l } :=
    contained_of_dcb rfl (fun _ h => h) rfl rfl
  refine Contained.trans (Contained.trans ?_ (containEvent_recorded ..).contained) (filtered _ _ _)
  refine List.foldlRecOn (motive := Contained _) _ _ (.refl _) (fun b hb ctx _ => hb.trans ?_)
  split
  · exact .refl b
  · exact killByEvent_contained _ _ _

/-- Nothing is left in a layer that is wiped. -/
theorem memRead_layerWiped (layer : Nat) (s : State) (a : Nat) (h : nearLayer a = some layer) :
    memRead (layerWiped layer s).mem a = 0 := by
  simp only [layerWiped, memRead, mapGet, mapFind_filter (fun k => nearLayer k != some layer), h,
    bne_self_eq_false, Bool.false_eq_true, if_false]
  rfl

/-- The near windows lie below the host's memory. -/
theorem lt_host_of_nearLayer {a layer : Nat} (h : nearLayer a = some layer) : a < 0x8000000000000 := by
  by_contra hh
  have : tierOf a = .host := by
    unfold tierOf
    grind
  simp [nearLayer, this] at h

/-- A lost layer is recorded as lost. -/
theorem layerLost_loseLayer (layer : Nat) (s : State) : layerLost (loseLayer layer s) layer = true := by
  obtain ⟨u, hu, ht⟩ := loseLayer_parts layer s
  have : (loseLayer layer s).layersLost = mapSet s.layersLost layer none :=
    ht.layersLost.trans ((setReg64_layersLost _ _ _).trans (hu.layersLost.trans (layerWiped_contained layer s).layersLost))
  simp [layerLost, this]

/-- A lost layer reads as memory that nothing has written (log 4). -/
theorem memRead_loseLayer (layer : Nat) (s : State) (a : Nat) (h : nearLayer a = some layer) :
    memRead (loseLayer layer s).mem a = 0 := by
  obtain ⟨u, hu, ht⟩ := loseLayer_parts layer s
  have ha := lt_host_of_nearLayer h
  rw [ht.memory a ha, setReg64Field, setReg64_mem, hu.memory a ha, memRead_layerWiped layer s a h]

theorem trip_loseLayer (layer : Nat) (s : State) (h : layer < 2) :
    field (reg64 (loseLayer layer s) (offDieTel (11 + layer))) 20 20 = 1 := by
  obtain ⟨u, -, ht⟩ := loseLayer_parts layer s
  rw [field_reg64_low _ _ _ _ (by omega), ht.upper _ _ _ (by unfold offDieTel; omega) (by unfold offDieTel; omega) (by omega),
    ← field_reg64_low _ _ _ _ (by omega), field_setReg64Field_same _ _ _ _ _ (by unfold offDieTel; omega) (by omega) (by omega)]
  rfl

end Sys2Proof.Machine
end

section
/-! SUPPORT. Scans, scrubs, audits, layers, welts, peers and expanders: what each step of 14 R312 to R319 and of its
neighbours in 01 R29, 06 R137, 08 R184, 13 R288 and 15 R324 does. -/

namespace Sys2Proof.Machine

/-! ## Scan tests (14 R319) -/

@[simp] theorem coreState_setCoreState (p st : Nat) (s : State) : coreState (setCoreState p st s) p = st % 8 :=
  field_setRegField_same _ _ _ _ _ (by omega) (by omega)

theorem beginScan_other (p : Nat) (rerun : Bool) (s : State) : ∃ w, beginScan p rerun s =
    { s with scans := mapSet s.scans p { since := s.clock, rerun := rerun }, dcb := w } := ⟨_, rfl⟩

theorem mapFind_beginScan (p : Nat) (rerun : Bool) (s : State) :
    mapFind (beginScan p rerun s).scans p = some { since := s.clock, rerun := rerun } := by
  obtain ⟨w, hw⟩ := beginScan_other p rerun s
  rw [hw, mapFind_mapSet_same]

theorem coreState_beginScan (p : Nat) (rerun : Bool) (s : State) : coreState (beginScan p rerun s) p = 4 :=
  coreState_setCoreState _ _ _

/-- A scan that starts keeps the count of its core's failures. -/
theorem scanCount_beginScan (p : Nat) (rerun : Bool) (s : State) :
    field (reg32 (beginScan p rerun s) (offCoreHealth p)) 23 16 = field (reg32 s (offCoreHealth p)) 23 16 :=
  field_setRegField_ne { s with scans := _ } _ _ _ _ _ _ _ (by omega) (by omega) (by omega)

theorem countSpares_other (s : State) : ∃ w, countSpares s = { s with dcb := w } := ⟨_, rfl⟩

theorem startScan_other (p : Nat) (s : State) : ∃ w, startScan p s =
    { s with spares := s.spares.erase p, scans := mapSet s.scans p { since := s.clock, rerun := false }, dcb := w } := by
  obtain ⟨v, hv⟩ := countSpares_other { s with spares := s.spares.erase p }
  obtain ⟨w, hw⟩ := beginScan_other p false (countSpares { s with spares := s.spares.erase p })
  exact ⟨w, by rw [startScan, hw, hv]⟩

theorem coreState_startScan (p : Nat) (s : State) : coreState (startScan p s) p = 4 := coreState_beginScan _ _ _

/-- A scan that starts closes its core, which leaves the pool. -/
theorem startScan_closes (p : Nat) : Moves (.scanTestStart p) (fun s => scanDue s p = true) (fun s t => coreState t p = 4 ∧
    mapFind t.scans p = some { since := s.clock, rerun := false } ∧ t.spares = s.spares.erase p ∧ t.mem = s.mem) := by
  intro s h
  refine ⟨startScan p s, ?_, coreState_startScan p s, ?_⟩
  · change execScanTestStart p s = _
    rw [execScanTestStart, if_pos h]
  · obtain ⟨w, hw⟩ := startScan_other p s
    rw [hw]
    exact ⟨mapFind_mapSet_same _ _ _, rfl, rfl⟩

/-- A core in a slot that passes goes back to it. -/
theorem scanPassed_opens (p : Nat) (s : State) (h : coreSlotOf s p ≠ 0xFF) :
    coreState (scanPassed p s) p = 0 ∧ mapFind (scanPassed p s).scans p = none ∧
      mapGet 0 (scanPassed p s).scanned p = s.clock ∧ (scanPassed p s).spares = s.spares := by
  have hp : (coreSlotOf s p != 0xFF) = true := bne_iff_ne.mpr h
  have hs : scanPassed p s = setCoreState p 0 { s with
      scanned := mapSet s.scanned p s.clock, scans := mapErase s.scans p } := if_pos hp
  rw [hs]
  exact ⟨coreState_setCoreState _ _ _, mapFind_mapErase_same _ _, mapGet_mapSet_same _ _ _ _, rfl⟩

theorem scanTestEnd_passes (p : Nat) (sig : BitVec 64) (x : Scan) : Moves (.scanTestEnd p sig)
    (fun s => mapFind s.scans p = some x ∧ x.since + 170000 ≤ s.clock ∧ sig = Config.scanGolden p ∧ coreSlotOf s p ≠ 0xFF)
    (fun s t => coreState t p = 0 ∧ mapFind t.scans p = none ∧ mapGet 0 t.scanned p = s.clock ∧ t.spares = s.spares) := by
  intro s ⟨hx, hc, hs, hp⟩
  refine ⟨scanPassed p s, ?_, scanPassed_opens p s hp⟩
  change execScanTestEnd p sig s = _
  simp only [execScanTestEnd, hx, if_neg (Nat.not_lt.mpr hc), hs, beq_self_eq_true, if_true]

/-- A signature that differs for the first time is counted, and the scan runs again. -/
theorem scanFailed_reruns (p : Nat) (sig : BitVec 64) (s : State) :
    coreState (scanFailed p sig false s) p = 4 ∧
      mapFind (scanFailed p sig false s).scans p = some { since := s.clock, rerun := true } ∧
      field (reg32 (scanFailed p sig false s) (offCoreHealth p)) 23 16 =
        min (field (reg32 s (offCoreHealth p)) 23 16 + 1) 255 := by
  have hf : scanFailed p sig false s = beginScan p true
      (setRegField s (offCoreHealth p) 23 16 (saturate (field (reg32 s (offCoreHealth p)) 23 16 + 1) 255)) := by
    simp only [scanFailed, Bool.false_eq_true, if_false]
  rw [hf]
  refine ⟨coreState_beginScan _ _ _, ?_, ?_⟩
  · rw [mapFind_beginScan, setRegField, setReg32_clock]
  · rw [scanCount_beginScan, field_setRegField_same _ _ _ _ _ (by omega) (by omega)]
    simp only [saturate]
    omega

theorem scanTestEnd_reruns (p : Nat) (sig : BitVec 64) (x : Scan) : Moves (.scanTestEnd p sig)
    (fun s => mapFind s.scans p = some x ∧ x.since + 170000 ≤ s.clock ∧ sig ≠ Config.scanGolden p ∧ x.rerun = false)
    (fun s t => coreState t p = 4 ∧ mapFind t.scans p = some { since := s.clock, rerun := true } ∧
      field (reg32 t (offCoreHealth p)) 23 16 = min (field (reg32 s (offCoreHealth p)) 23 16 + 1) 255) := by
  intro s ⟨hx, hc, hs, hr⟩
  refine ⟨scanFailed p sig false s, ?_, scanFailed_reruns p sig s⟩
  change execScanTestEnd p sig s = _
  simp only [execScanTestEnd, hx, if_neg (Nat.not_lt.mpr hc), beq_false_of_ne hs, Bool.false_eq_true, if_false, hr]

theorem scanTestEnd_waits (p : Nat) (sig : BitVec 64) (x : Scan) : Moves (.scanTestEnd p sig)
    (fun s => mapFind s.scans p = some x ∧ s.clock < x.since + 170000) (fun s t => t = s) := by
  intro s ⟨hx, hc⟩
  refine ⟨s, ?_, rfl⟩
  change execScanTestEnd p sig s = _
  simp only [execScanTestEnd, hx, if_pos hc]

/-! ## Scrubs (14 R313) -/

/-- A granule outside the MX range is zeroed, and nothing else of memory. -/
theorem zeroGranule_mem (g : Nat) (s : State) (h : tierOf (g * 2 ^ 21) ≠ .mx) :
    (zeroGranule g s).mem = zeroRange s.mem (g * 2 ^ 21) (2 ^ 21) := by
  unfold zeroGranule
  simp only [beq_false_of_ne h, Bool.false_eq_true, if_false]
  rfl

theorem zeroGranule_quarantine (g : Nat) (s : State) (h : tierOf (g * 2 ^ 21) ≠ .mx) :
    (zeroGranule g s).quarantine = s.quarantine := by
  unfold zeroGranule
  simp only [beq_false_of_ne h, Bool.false_eq_true, if_false]
  rfl

/-- A state whose scrub of a granule has ended. -/
def scrubbed (g : Nat) (s : State) : State :=
  let u := zeroGranule g s
  let u := if s.scrubKeep then u else liftQuarantine g u
  setRegField { u with scrub := none, scrubKeep := false } offQuarStat 31 31 0

theorem liftQuarantine_mem (g : Nat) (s : State) : (liftQuarantine g s).mem = s.mem := rfl

theorem liftQuarantine_quarantine (g : Nat) (s : State) : (liftQuarantine g s).quarantine = mapErase s.quarantine g := rfl

theorem endScrub_mem (s : State) : (setRegField { s with scrub := none, scrubKeep := false } offQuarStat 31 31 0).mem = s.mem :=
  setReg32_mem _ _ _

theorem endScrub_quarantine (s : State) :
    (setRegField { s with scrub := none, scrubKeep := false } offQuarStat 31 31 0).quarantine = s.quarantine :=
  setReg32_quarantine _ _ _

theorem scrubbed_mem (g : Nat) (s : State) (h : tierOf (g * 2 ^ 21) ≠ .mx) :
    (scrubbed g s).mem = zeroRange s.mem (g * 2 ^ 21) (2 ^ 21) := by
  rw [scrubbed, endScrub_mem]
  split
  · exact zeroGranule_mem g s h
  · rw [liftQuarantine_mem, zeroGranule_mem g s h]

theorem scrubbed_quarantine (g : Nat) (s : State) (h : tierOf (g * 2 ^ 21) ≠ .mx) :
    (mapFind (scrubbed g s).quarantine g).isSome = (s.scrubKeep && (mapFind s.quarantine g).isSome) := by
  rw [scrubbed, endScrub_quarantine]
  split
  · rename_i hk
    rw [zeroGranule_quarantine g s h, hk, Bool.true_and]
  · rename_i hk
    simp [liftQuarantine_quarantine, hk]

theorem scrubComplete_zeroes (g : Nat) : Moves .scrubComplete
    (fun s => s.scrub = some g ∧ nearLayer (g * 2 ^ 21) = none ∧ tierOf (g * 2 ^ 21) ≠ .mx ∧
      viralBlocks s (g * 2 ^ 21) = false)
    (fun s t => t.scrub = none ∧ field (reg32 t offQuarStat) 31 31 = 0 ∧
      (mapFind t.quarantine g).isSome = (s.scrubKeep && (mapFind s.quarantine g).isSome) ∧
      (∀ a, g * 2 ^ 21 ≤ a → a < g * 2 ^ 21 + 2 ^ 21 → memRead t.mem a = 0) ∧
      ∀ a, a < g * 2 ^ 21 ∨ g * 2 ^ 21 + 2 ^ 21 ≤ a → memRead t.mem a = memRead s.mem a) := by
  intro s ⟨hg, hn, ht, hv⟩
  refine ⟨scrubbed g s, ?_, rfl, field_setRegField_same _ _ _ _ _ (by omega) (by omega), scrubbed_quarantine g s ht,
    fun a h1 h2 => ?_, fun a h => ?_⟩
  · change execScrubComplete s = _
    simp only [execScrubComplete, hg, hn, hv, Option.map_none, Option.getD_none, Bool.or_self, Bool.false_eq_true, if_false]
    rfl
  · rw [scrubbed_mem g s ht, memRead_zeroRange, if_pos ⟨h1, h2⟩]
  · rw [scrubbed_mem g s ht, memRead_zeroRange, if_neg (by omega)]

/-! ## The awl (14 R315, R316) -/

theorem awlAudit_clears (link held occ ret total : Nat) : Moves (.awlAudit link held occ ret total)
    (fun _ => isLink link = true ∧ held + occ + ret = total)
    (fun s t => t = { s with suspects := s.suspects.erase link }) := by
  intro s ⟨hl, he⟩
  refine ⟨_, ?_, rfl⟩
  change execAwlAudit link held occ ret total s = _
  simp only [execAwlAudit, hl, he, Bool.not_true, Bool.false_eq_true, if_false, beq_self_eq_true, if_true]

theorem link_lt (link : Nat) (h : isLink link = true) : link < 0x2010 := by
  simp only [isLink, Bool.or_eq_true, Bool.and_eq_true, decide_eq_true_eq] at h
  omega

/-- `AWL_STAT` after a mismatch. -/
def awlStat (s : State) (link total found : Nat) : BitVec 64 :=
  BitVec.ofNat 64 (saturate (field (reg64 s offAwlStat) 63 48 + 1) 0xFFFF * 2 ^ 48 + link * 2 ^ 32 +
    total % 2 ^ 16 * 2 ^ 16 + found % 2 ^ 16)

/-- The four fields of `AWL_STAT` after a mismatch. -/
theorem awlStat_fields (s : State) (link total found : Nat) (h : link < 2 ^ 16) :
    field (awlStat s link total found) 63 48 = min (field (reg64 s offAwlStat) 63 48 + 1) 0xFFFF ∧
      field (awlStat s link total found) 47 32 = link ∧ field (awlStat s link total found) 31 16 = total % 2 ^ 16 ∧
      field (awlStat s link total found) 15 0 = found % 2 ^ 16 := by
  have hn := Nat.min_le_right (field (reg64 s offAwlStat) 63 48 + 1) 0xFFFF
  unfold awlStat saturate
  generalize min (field (reg64 s offAwlStat) 63 48 + 1) 0xFFFF = n at hn ⊢
  simp only [field, fieldN, BitVec.toNat_ofNat]
  omega

theorem recordMismatch_first (link total found : Nat) (s : State) : recordMismatch link total found true s =
    containEvent 8 0xFF 0xF link 0 none (setReg64 s offAwlStat (awlStat s link total found)) := by
  simp only [recordMismatch, awlStat, if_true]

theorem recordMismatch_second (link total found : Nat) (s : State) : recordMismatch link total found false s =
    setReg64 s offAwlStat (awlStat s link total found) := by
  simp only [recordMismatch, awlStat, Bool.false_eq_true, if_false]

theorem reg64_recordMismatch_first (link total found : Nat) (s : State) :
    reg64 (recordMismatch link total found true s) offAwlStat = awlStat s link total found := by
  have hw := (containEvent_recorded 8 0xFF 0xF link 0 none (setReg64 s offAwlStat (awlStat s link total found))).words
  rw [recordMismatch_first, reg64, hw offAwlStat (by decide), hw (offAwlStat + 4) (by decide), ← reg64,
    reg64_setReg64_same _ _ _ (by decide)]

theorem reg64_withSuspects (s : State) (l : List Nat) (o : Nat) : reg64 { s with suspects := l } o = reg64 s o := rfl

theorem awlAudit_suspects (link held occ ret total : Nat) : Moves (.awlAudit link held occ ret total)
    (fun s => isLink link = true ∧ held + occ + ret ≠ total ∧ isViral s = false ∧ link ∉ s.suspects)
    (fun s t => link ∈ t.suspects ∧ field (reg64 t offAwlStat) 63 48 = min (field (reg64 s offAwlStat) 63 48 + 1) 0xFFFF ∧
      field (reg64 t offAwlStat) 47 32 = link ∧ field (reg64 t offAwlStat) 31 16 = total % 2 ^ 16 ∧
      field (reg64 t offAwlStat) 15 0 = (held + occ + ret) % 2 ^ 16) := by
  intro s ⟨hl, hne, hv, hs⟩
  refine ⟨{ recordMismatch link total (held + occ + ret) true s with suspects := sortBy id (link :: s.suspects) }, ?_,
    by simp, ?_⟩
  · change execAwlAudit link held occ ret total s = _
    simp only [execAwlAudit, hl, beq_false_of_ne hne, hv, hs, List.contains_eq_mem, decide_false, Bool.not_true,
      Bool.false_eq_true, if_false]
  · dsimp only
    rw [reg64_withSuspects, reg64_recordMismatch_first]
    exact awlStat_fields _ _ _ _ (Nat.lt_trans (link_lt link hl) (by omega))

/-- A link whose second audit fails is reset. -/
theorem awlAudit_second (link held occ ret total : Nat) (s : State) (hl : isLink link = true)
    (hne : held + occ + ret ≠ total) (hv : isViral s = false) (hs : link ∈ s.suspects) :
    exec (.awlAudit link held occ ret total) s =
      .next (resetLink link (recordMismatch link total (held + occ + ret) false s)) := by
  change execAwlAudit link held occ ret total s = _
  simp only [execAwlAudit, hl, beq_false_of_ne hne, hv, hs, List.contains_eq_mem, decide_true, Bool.not_true,
    Bool.false_eq_true, if_false, if_true]

/-- The reset of a port's link takes the port out of service (14 R316). -/
theorem resetLink_port (n : Nat) (s : State) :
    (resetLink (0x2000 + n) s).suspects = s.suspects.erase (0x2000 + n) ∧ (resetLink (0x2000 + n) s).ports = s.ports.erase n ∧
      (resetLink (0x2000 + n) s).mem = s.mem := by
  have hp : linkPort (0x2000 + n) = some n := by simp [linkPort]
  unfold resetLink
  simp only [hp]
  split <;> exact ⟨rfl, rfl, rfl⟩

theorem awlAudit_resets_port (n held occ ret total : Nat) : Moves (.awlAudit (0x2000 + n) held occ ret total)
    (fun s => n < 16 ∧ held + occ + ret ≠ total ∧ isViral s = false ∧ 0x2000 + n ∈ s.suspects)
    (fun s t => t.suspects = s.suspects.erase (0x2000 + n) ∧ t.ports = s.ports.erase n ∧ t.mem = s.mem) := by
  intro s ⟨hn, hne, hv, hs⟩
  have hl : isLink (0x2000 + n) = true := by
    simp only [isLink, Bool.or_eq_true, Bool.and_eq_true, decide_eq_true_eq]
    omega
  refine ⟨_, awlAudit_second _ _ _ _ _ s hl hne hv hs, ?_⟩
  have hr := resetLink_port n (recordMismatch (0x2000 + n) total (held + occ + ret) false s)
  rw [recordMismatch_second, setReg64_suspects, setReg64_ports, setReg64_mem] at hr
  exact hr

theorem isViral_ofReset (s : State) (r : SMap (List Nat)) (l : List Nat) :
    isViral { s with linkResets := r, suspects := l } = isViral s := rfl

/-- The third reset of a link of the device within a second is a fatal error (14 R316). -/
theorem resetLink_third (link : Nat) (s : State) (hl : link < 0x2000) (hv : isViral s = false)
    (hr : 2 ≤ ((mapGet [] s.linkResets link).filter (fun t => s.clock < t + second)).length) :
    isViral (resetLink link s) = true ∧ field (reg32 (resetLink link s) offViral) 27 24 = 5 := by
  have hp : linkPort link = none := by simp [linkPort, hl]
  unfold resetLink
  simp only [hp]
  rw [if_pos (by simp only [List.length_append, List.length_singleton]; omega)]
  exact field_viral_fatalError 5 _ ((isViral_ofReset s _ _).trans hv)

theorem awlAudit_third_reset (link held occ ret total : Nat) : Moves (.awlAudit link held occ ret total)
    (fun s => isLink link = true ∧ link < 0x2000 ∧ held + occ + ret ≠ total ∧ isViral s = false ∧ link ∈ s.suspects ∧
      2 ≤ ((mapGet [] s.linkResets link).filter (fun t => s.clock < t + second)).length)
    (fun _ t => isViral t = true ∧ field (reg32 t offViral) 27 24 = 5) := by
  intro s ⟨hl, hlt, hne, hv, hs, hr⟩
  refine ⟨_, awlAudit_second _ _ _ _ _ s hl hne hv hs, resetLink_third link _ hlt ?_ ?_⟩
  · rwa [recordMismatch_second, isViral, reg32_setReg64_ne _ _ _ _ (by decide) (by decide)]
  · rwa [recordMismatch_second, setReg64_linkResets, setReg64_clock]

/-! ## Layers and welts (14 R317, R318) -/

theorem sinterLayerLoss_loses (layer : Nat) : Moves (.sinterLayerLoss layer) (fun s => layer < 2 ∧ layerLost s layer = false)
    (fun _ t => layerLost t layer = true ∧ field (reg64 t (offDieTel (11 + layer))) 20 20 = 1 ∧
      ∀ a, nearLayer a = some layer → memRead t.mem a = 0) := by
  intro s ⟨hl, hn⟩
  refine ⟨loseLayer layer s, ?_, layerLost_loseLayer layer s, trip_loseLayer layer s hl, memRead_loseLayer layer s⟩
  change execSinterLayerLoss layer s = _
  simp only [execSinterLayerLoss, hn, decide_eq_false (Nat.not_le.mpr hl), Bool.or_self, Bool.false_eq_true, if_false]

theorem weltDegradeSample_waits : Moves .weltDegradeSample (fun s => s.clock % second ≠ 0) (fun s t => t = s) := by
  intro s h
  refine ⟨s, ?_, rfl⟩
  change execWeltDegradeSample s = _
  rw [execWeltDegradeSample, if_pos (bne_iff_ne.mpr h)]

/-- The sample of a second: the counts, and the report of a welt that has degraded. -/
def sampleWelts (s : State) : State :=
  let now := weltCountsNow s
  let rises := (List.range 10).map (fun w => now.getD w 0 - s.weltCounts.getD w 0)
  match (List.range 10).find? (fun w => weltDegraded rises w && !s.weltReported.contains w) with
  | some w => containEvent 0xC 0xFF w w 0 none { s with weltCounts := now, weltReported := sortBy id (w :: s.weltReported) }
  | none => { s with weltCounts := now }

theorem execWeltDegradeSample_eq (s : State) :
    execWeltDegradeSample s = .next (if s.clock % second != 0 then s else sampleWelts s) := rfl

theorem offWcnt_not_record (w : Nat) (h : w < 10) : offWcnt w / 4 ∉ recordWords := by
  intro hm
  simp only [offWcnt, recordWords, List.mem_cons, List.not_mem_nil, or_false] at hm
  omega

/-- The report of a degraded welt changes no count. -/
theorem sampleWelts_counts (s : State) : (sampleWelts s).weltCounts = weltCountsNow s ∧
    ∀ w, w < 10 → reg32 (sampleWelts s) (offWcnt w) = reg32 s (offWcnt w) := by
  have sampled (now l : List Nat) (o : Nat) : reg32 { s with weltCounts := now, weltReported := l } o = reg32 s o := rfl
  unfold sampleWelts
  simp only
  split
  · have hr := containEvent_recorded
    exact ⟨(hr ..).keeps State.weltCounts, fun w hw => ((hr ..).words _ (offWcnt_not_record w hw)).trans (sampled _ _ _)⟩
  · exact ⟨rfl, fun _ _ => rfl⟩

theorem weltDegradeSample_samples : Moves .weltDegradeSample (fun s => s.clock % second = 0)
    (fun s t => t.weltCounts = (List.range 10).map (fun w => (reg32 s (offWcnt w)).toNat) ∧
      ∀ w, w < 10 → reg32 t (offWcnt w) = reg32 s (offWcnt w)) := by
  intro s h
  refine ⟨sampleWelts s, ?_, sampleWelts_counts s⟩
  change execWeltDegradeSample s = _
  rw [execWeltDegradeSample_eq, if_neg (by simp [h])]

/-! ## Peers (13 R288, 14 R314, 15 R324) -/

theorem peerLost_marks (d : Nat) : Moves (.peerLost d) (fun _ => True)
    (fun s t => t = { s with peers := mapSet s.peers d { mapGet {} s.peers d with lost := true } }) :=
  fun _ _ => ⟨_, rfl, rfl⟩

theorem peerViralNotice_marks (d : Nat) : Moves (.peerViralNotice d) (fun _ => True)
    (fun s t => t = { s with peers := mapSet s.peers d { mapGet {} s.peers d with viral := true } }) :=
  fun _ _ => ⟨_, rfl, rfl⟩

theorem peerRecoveryNotice_marks (d : Nat) : Moves (.peerRecoveryNotice d)
    (fun s => (mapGet {} s.peers d).lost = false ∧ (mapGet {} s.peers d).recovering = none)
    (fun s t => t = { s with peers := mapSet s.peers d { mapGet {} s.peers d with recovering := some s.clock } }) := by
  intro s ⟨hl, hr⟩
  refine ⟨_, rfl, ?_⟩
  simp only [modPeer, hl, hr, Option.isSome_none, Bool.or_self, Bool.false_eq_true, if_false]

theorem ualinkPortTrained_carries (n : Nat) : Moves (.ualinkPortTrained n) (fun s => n < 16 ∧ n ∉ s.deadPorts) (fun s t =>
    (∀ k, k ∈ t.ports ↔ k ∈ s.ports ∨ k = n) ∧ t.mem = s.mem) := by
  intro s ⟨hn, hd⟩
  refine ⟨_, rfl, ?_⟩
  by_cases hp : n ∈ s.ports
  · rw [if_pos (by simp [hp])]
    exact ⟨fun k => ⟨.inl, fun h => h.elim id (fun e => e ▸ hp)⟩, rfl⟩
  · rw [if_neg (by simp [hp, hd]; omega)]
    exact ⟨fun k => by simp [or_comm], rfl⟩

theorem ualinkPortTrained_failed (n : Nat) : Moves (.ualinkPortTrained n) (fun s => n ∈ s.deadPorts) (fun s t => t = s) :=
  fun s h => ⟨_, rfl, if_pos (by simp [h])⟩

theorem podRemoteAccess_reads (port pa len : Nat) : Moves (.podRemoteAccess port pa (.read len))
    (fun s => podReaches s port pa (.read len) = true)
    (fun s t => t = { s with podAnswer := physRead s none (pa % 0x20000000000) len }) :=
  fun s h => ⟨_, rfl, by rw [if_pos h]; rfl⟩

/-- Memory behind a pod window is HBM or a near window. -/
theorem tierOf_ne_mx_of_podPresent (o : Nat) (h : podPresent o = true) : tierOf o ≠ .mx := by
  intro hm
  simp [podPresent, hm] at h

theorem physWrite_of_ne_mx (pa : Nat) (bs : List Byte) (s : State) (h : tierOf pa ≠ .mx) :
    physWrite pa bs s = poke s pa bs := by
  unfold physWrite
  split
  · contradiction
  · rfl

theorem podPerform_write_mem (pa : Nat) (bs : List Byte) (s : State) (h : tierOf pa ≠ .mx) :
    (podPerform pa (.write bs) s).mem = memWriteBytes s.mem pa bs := by
  simp only [podPerform, physWrite_of_ne_mx _ _ _ h]
  rfl

theorem podRemoteAccess_writes (port pa : Nat) (bs : List Byte) : Moves (.podRemoteAccess port pa (.write bs))
    (fun s => podReaches s port pa (.write bs) = true)
    (fun s t => (∀ k, k < bs.length → memRead t.mem (pa % 0x20000000000 + k) = bs.getD k 0) ∧
      ∀ a, a < pa % 0x20000000000 ∨ pa % 0x20000000000 + bs.length ≤ a → memRead t.mem a = memRead s.mem a) := by
  intro s h
  have hp : podPresent (pa % 0x20000000000) = true := by
    simp only [podReaches, Bool.and_eq_true] at h
    tauto
  refine ⟨podPerform (pa % 0x20000000000) (.write bs) s, ?_, ?_⟩
  · change execPodRemoteAccess port pa (.write bs) s = _
    rw [execPodRemoteAccess, if_pos h]
  · dsimp only
    rw [podPerform_write_mem _ _ _ (tierOf_ne_mx_of_podPresent _ hp)]
    exact ⟨fun k hk => memRead_memWriteBytes_inside _ _ _ _ hk, fun a ha => memRead_memWriteBytes_outside _ _ _ _ ha⟩

theorem podRemoteAccess_refused (port pa : Nat) (acc : PodAccess) : Moves (.podRemoteAccess port pa acc)
    (fun s => podReaches s port pa acc = false) (fun s t => t = { s with podAnswer := [] }) :=
  fun s h => ⟨_, rfl, if_neg (by simp [h])⟩

/-! ## A peer that is back (13 R288, log 46) -/

/-- A core whose gangs' waits on the peer run on. -/
def coreReturned (s : State) (d r core : Nat) (c : Core) : Core :=
  { c with gangs := c.gangs.map (fun g => (g.1, g.2.peerBack s core d r)) }

/-- The state after a peer in recovery is back. -/
def peerReturned (d r : Nat) (s : State) : State :=
  { s with
    peers := mapSet s.peers d { mapGet {} s.peers d with recovering := none },
    cores := s.cores.map (fun e => (e.1, coreReturned s d r e.1 e.2)),
    saved := s.saved.map (fun e => (e.1, { e.2 with groups := e.2.groups.map (fun x =>
      { x with gangs := x.gangs.map (fun g => (g.1, g.2.savedBack d r e.2.since)) }) })) }

theorem peerBack_eq (d : Nat) (s : State) (r : Nat) (hr : (mapGet {} s.peers d).recovering = some r)
    (hl : (mapGet {} s.peers d).lost = false) : peerBack d s = peerReturned d r s := by
  unfold peerBack
  simp only [hr]
  rw [if_neg (by simp [hl])]
  rfl

theorem getGang_peerReturned (d r : Nat) (s : State) (core slot : Nat) :
    getGang (peerReturned d r s) core slot = (getGang s core slot).map (Gang.peerBack s core d r) := by
  have hc : mapFind (peerReturned d r s).cores core = (mapFind s.cores core).map (coreReturned s d r core) :=
    mapFind_map (coreReturned s d r) s.cores core
  unfold getGang getCore mapGet
  rw [hc]
  cases mapFind s.cores core with
  | none => rfl
  | some c => exact mapFind_map (fun _ g => Gang.peerBack s core d r g) c.gangs slot

/-- While no other peer is in recovery, the timer of a wait on the peer that is back stood up to now. -/
theorem resumed_until_now (s : State) (core : Nat) (g : Gang) (w : Wait) (d : Nat) (h : ∀ e ∈ peersRecovering s, e.1 = d) :
    standsFrom s core g w d s.clock = s.clock := by
  have hn : (peersRecovering s).filter (fun e => e.1 != d && waitOnPeer s core g w e.1) = [] := by
    rw [List.filter_eq_nil_iff]
    intro e he
    simp [h e he]
  rw [standsFrom, hn, List.foldl_nil]

/-- The wait of a split on the peer that is back runs on from where it stopped. -/
theorem wait_peerBack (s : State) (core d r : Nat) (g : Gang) (n : Nat) (sp : Split) (w : Wait) (hs : g.splits[n]? = some sp)
    (hw : sp.wait = some w) (hp : w.peer = some d) (h : ∀ e ∈ peersRecovering s, e.1 = d) :
    ∃ sp', (g.peerBack s core d r).splits[n]? = some sp' ∧ sp'.mask = sp.mask ∧
      sp'.wait = some { w with since := w.since + (s.clock - max r w.since) } := by
  have hd : waitOnPeer s core g w d = true := by simp [waitOnPeer, hp]
  refine ⟨_, List.getElem?_map.trans (congrArg (Option.map _) hs), rfl, ?_⟩
  simp only [hw, Option.map_some, hd, if_true, Wait.resumed, resumed_until_now s core g w d h]

theorem podParticipantReport_resumes (plid d r : Nat) : Moves (.podParticipantReport plid d)
    (fun s => podActive s = true ∧ mapFind s.pods plid = none ∧ (mapGet {} s.peers d).recovering = some r ∧
      (mapGet {} s.peers d).lost = false ∧ ∀ e ∈ peersRecovering s, e.1 = d)
    (fun s t => (mapGet {} t.peers d).recovering = none ∧ t.mem = s.mem ∧
      ∀ core slot (g : Gang) (n : Nat) (sp : Split) (w : Wait), getGang s core slot = some g → g.splits[n]? = some sp →
        sp.wait = some w → w.peer = some d →
        ∃ (g' : Gang) (sp' : Split), getGang t core slot = some g' ∧ g'.splits[n]? = some sp' ∧ sp'.mask = sp.mask ∧
          sp'.wait = some { w with since := w.since + (s.clock - max r w.since) }) := by
  intro s ⟨ha, hp, hr, hl, ho⟩
  refine ⟨peerReturned d r s, ?_, by simp [peerReturned], rfl, fun core slot g n sp w hg hs hw hd => ?_⟩
  · change execPodParticipantReport plid d s = _
    have hn : mapFind (peerReturned d r s).pods plid = none := hp
    simp only [execPodParticipantReport, ha, if_true, peerBack_eq d s r hr hl, podReport, hn]
  · obtain ⟨sp', h⟩ := wait_peerBack s core d r g n sp w hs hw hd ho
    exact ⟨_, sp', by rw [getGang_peerReturned, hg, Option.map_some], h⟩

/-! ## Parts that fail -/

theorem weltFailure_records (w : Nat) (mode : WeltMode) : Moves (.weltFailure w mode) (fun _ => w < 10)
    (fun s t => t = { s with welts := mapSet s.welts w mode }) :=
  fun _ h => ⟨_, rfl, if_neg (Nat.not_le.mpr h)⟩

theorem l2TagUncorrectableError_fatal : Moves .l2TagUncorrectableError (fun s => isViral s = false)
    (fun s t => isViral t = true ∧ field (reg32 t offViral) 27 24 = 3 ∧ ∀ core k g, getGroup s core k = some g →
      ctxState (enterViral 3 s) g.ctx = 1 → g.ctx ∈ t.killing) := by
  intro s h
  obtain ⟨hv, hc⟩ := field_viral_fatalError 3 s h
  exact ⟨fatalError 3 s, rfl, hv, hc, mem_killing_fatalError 3 s⟩

theorem expanderFailure_empties (port : Nat) : Moves (.expanderFailure port) (fun _ => True) (fun s t =>
    t = { s with expanders := mapErase s.expanders port } ∧ ∀ pa, tierOf pa = .expander port → present t pa = false) := by
  intro s _
  refine ⟨{ s with expanders := mapErase s.expanders port }, rfl, rfl, fun pa h => ?_⟩
  simp [present, h, mapGet]

/-- Settles O59: each clause is what the step's own lemma above says. -/
theorem reliabilitySteps : Obligations.ReliabilitySteps :=
  ⟨startScan_closes, scanTestEnd_passes, scanTestEnd_reruns, scanTestEnd_waits, scrubComplete_zeroes, awlAudit_clears,
    awlAudit_suspects, awlAudit_resets_port, awlAudit_third_reset, sinterLayerLoss_loses, weltDegradeSample_waits,
    weltDegradeSample_samples, peerLost_marks, peerRecoveryNotice_marks, peerViralNotice_marks,
    ualinkPortTrained_carries, ualinkPortTrained_failed, podRemoteAccess_reads, podRemoteAccess_writes,
    podRemoteAccess_refused, weltFailure_records, l2TagUncorrectableError_fatal, podParticipantReport_resumes,
    expanderFailure_empties⟩

end Sys2Proof.Machine
end

section
/-! SUPPORT. Reset, rails and the connector: what each step of 14 R314, 15 R326, R327, R331 and R332 does. -/

namespace Sys2Proof.Machine

/-! ## Reset and power (14 R314, 15 R327, R332) -/

/-- An address is not the device's own: the host's, a pod peer's or an expander's. -/
def outsideDevice (a : Nat) : Prop := tierOf a = .host ∨ (∃ d, tierOf a = .pod d) ∨ ∃ p, tierOf a = .expander p

/-- A state is one after a reset in the world of another: nothing of the device survives (log 47). -/
def ResetFrom (s t : State) : Prop :=
  t.cores = [] ∧ t.dcb = [] ∧ t.queues = [] ∧ t.launches = [] ∧ bootState t = 1 ∧ isViral t = false ∧
    t.connFirst = s.connFirst ∧ (∀ a, outsideDevice a → memRead t.mem a = memRead s.mem a) ∧
    ∀ a, ¬ outsideDevice a → memRead t.mem a = 0

/-- The test by which `outsideMemory` keeps an address. -/
def keptOutside (a : Nat) : Bool :=
  match tierOf a with
  | .host | .pod _ | .expander _ => true
  | _ => false

theorem keptOutside_iff (a : Nat) : keptOutside a = true ↔ outsideDevice a := by
  unfold keptOutside outsideDevice
  cases tierOf a <;> simp

/-- Memory after a reset: what is outside the device stands, and nothing else. -/
theorem memRead_outsideMemory (m : Memory) (a : Nat) :
    memRead (outsideMemory m) a = if keptOutside a then memRead m a else 0 := by
  have hf : outsideMemory m = m.filter (fun c => keptOutside c.1) := rfl
  simp only [memRead, mapGet, hf, mapFind_filter]
  split <;> rfl

/-- Registers right after reset: boot is in state 1, and the device is not viral. -/
theorem reset_registers (t : State) (h : t.dcb = []) : bootState t = 1 ∧ isViral t = false := by
  simp only [bootState, isViral, reg32, h]
  decide

theorem resetIn_resets (s : State) (p : Bool) : ResetFrom s { resetIn s with powered := p } := by
  obtain ⟨hb, hv⟩ := reset_registers { resetIn s with powered := p } rfl
  refine ⟨rfl, rfl, rfl, rfl, hb, hv, rfl, fun a h => ?_, fun a h => ?_⟩
  · exact (memRead_outsideMemory s.mem a).trans (if_pos ((keptOutside_iff a).mpr h))
  · exact (memRead_outsideMemory s.mem a).trans (if_neg (fun hk => h ((keptOutside_iff a).mp hk)))

theorem powerLoss_loses (mv : Nat) : Moves (.powerLoss mv) (fun _ => mv < 700000)
    (fun s t => ResetFrom s t ∧ t.powered = false) := by
  intro s h
  refine ⟨{ resetIn s with powered := false }, ?_, resetIn_resets s false, rfl⟩
  change execPowerLoss mv s = _
  rw [execPowerLoss, if_pos h]

theorem powerLoss_stays (mv : Nat) : Moves (.powerLoss mv) (fun _ => 700000 ≤ mv) (fun s t => t = s) :=
  fun _ h => ⟨_, rfl, if_neg (Nat.not_lt.mpr h)⟩

theorem powerOn_resets : Moves .powerOn (fun s => s.powered = false) (fun s t => ResetFrom s t ∧ t.powered = true) := by
  intro s h
  refine ⟨resetIn s, ?_, resetIn_resets s true, rfl⟩
  change execPowerOn s = _
  rw [execPowerOn, if_neg (by simp [h])]

theorem conventionalReset_resets : Moves .conventionalReset (fun _ => True)
    (fun s t => ResetFrom s t ∧ t.powered = s.powered) :=
  fun s _ => ⟨{ resetIn s with powered := s.powered }, rfl, resetIn_resets s s.powered, rfl⟩

/-! ## Rails (15 R326, R327) -/

/-- A rail's telemetry as a word. -/
def railWord (volt curr : Nat) (temp : BitVec 12) (ilim : Bool) : BitVec 64 :=
  BitVec.ofNat 64 (volt % 2 ^ 20 * 2 ^ 44 + curr % 2 ^ 18 * 2 ^ 26 + temp.toNat * 2 ^ 14 + if ilim then 2 ^ 13 else 0)

theorem railWord_fields (volt curr : Nat) (temp : BitVec 12) (ilim : Bool) :
    let v := railWord volt curr temp ilim
    field v 63 44 = volt % 2 ^ 20 ∧ field v 43 26 = curr % 2 ^ 18 ∧ field v 25 14 = temp.toNat ∧
      (field v 13 13 = 1 ↔ ilim = true) := by
  have := temp.isLt
  simp only [railWord, field, fieldN, BitVec.toNat_ofNat]
  cases ilim <;> simp only [if_true, Bool.false_eq_true, if_false, iff_true, iff_false] <;> omega

theorem onlyWords_setReg64 (s : State) (off : Nat) (v : BitVec 64) : onlyWords [off, off + 4] s (setReg64 s off v) :=
  ⟨rfl, fun o h => reg32_setReg64_ne _ _ _ _ (h off (by simp)) (h (off + 4) (by simp))⟩

theorem railTelemetryUpdate_measures (rail volt curr : Nat) (temp : BitVec 12) (ilim : Bool) :
    Moves (.railTelemetryUpdate rail volt curr temp ilim) (fun _ => rail < 7) (fun s t =>
      let v := reg64 t (offRailTel rail)
      onlyWords [offRailTel rail, offRailTel rail + 4] s t ∧ field v 63 44 = volt % 2 ^ 20 ∧ field v 43 26 = curr % 2 ^ 18 ∧
      field v 25 14 = temp.toNat ∧ (field v 13 13 = 1 ↔ ilim = true)) := by
  intro s h
  refine ⟨setReg64 s (offRailTel rail) (railWord volt curr temp ilim), ?_, onlyWords_setReg64 _ _ _, ?_⟩
  · change execRailTelemetryUpdate rail volt curr temp ilim s = _
    rw [execRailTelemetryUpdate, if_neg (Nat.not_le.mpr h), railWord]
  · rw [reg64_setReg64_same _ _ _ (by unfold offRailTel; omega)]
    exact railWord_fields volt curr temp ilim

/-! ## DUTY of the dies (15 R328) -/

theorem offDieTel_aligned (d : Nat) : offDieTel d % 4 = 0 := by
  unfold offDieTel
  omega

theorem dutyOf_setDuty_same (d n : Nat) (s : State) : dutyOf (setDuty d n s) d = n % 128 :=
  field_setReg64Field_same _ _ _ _ _ (offDieTel_aligned d) (by omega) (by omega)

theorem reg64_setDuty_ne (e n : Nat) (s : State) (o : Nat) (h : o + 8 ≤ offDieTel e ∨ offDieTel e + 8 ≤ o) :
    reg64 (setDuty e n s) o = reg64 s o := reg64_setReg64Field_ne _ _ _ _ _ _ h (offDieTel_aligned e)

theorem dutyOf_setDuty_ne (d e n : Nat) (s : State) (h : d ≠ e) : dutyOf (setDuty e n s) d = dutyOf s d := by
  rw [dutyOf, reg64_setDuty_ne _ _ _ _ (by unfold offDieTel; omega), dutyOf]

theorem setDuty_dtemp (d n : Nat) (s : State) : (setDuty d n s).dtemp = s.dtemp := setReg64_dtemp _ _ _

/-- DUTY of dies that are set one after another, each from what the others' DUTY has no part in. -/
theorem dutyOf_foldl_setDuty (f : State → Nat → Nat) (hf : ∀ s d e n, d ≠ e → f (setDuty e n s) d = f s d) (l : List Nat)
    (hl : l.Nodup) (s : State) (d : Nat) :
    dutyOf (l.foldl (fun s d => setDuty d (f s d) s) s) d = if d ∈ l then f s d % 128 else dutyOf s d := by
  induction l generalizing s with
  | nil => simp
  | cons e l ih =>
    simp only [List.nodup_cons] at hl
    rw [List.foldl_cons, ih hl.2]
    by_cases he : d = e
    · subst he
      simp [hl.1, dutyOf_setDuty_same]
    · simp [he, hf _ _ _ _ he, dutyOf_setDuty_ne _ _ _ _ he]

/-- Setting DUTY of dies leaves the rails as they were. -/
theorem reg64_foldl_setDuty (f : State → Nat → Nat) (l : List Nat) (s : State) (o : Nat) (h : o + 8 ≤ 0x2180) :
    reg64 (l.foldl (fun s d => setDuty d (f s d) s) s) o = reg64 s o :=
  List.foldlRecOn (motive := fun t => reg64 t o = reg64 s o) l _ rfl
    (fun b hb d _ => (reg64_setDuty_ne d _ b o (.inl (by unfold offDieTel; omega))).trans hb)

/-- The state with ILIM set on the rails of the dies' supply. -/
def railsLimited (s : State) : State := setReg64Field (setReg64Field s (offRailTel 0) 13 13 1) (offRailTel 1) 13 13 1

theorem ilim_railsLimited (s : State) : field (reg64 (railsLimited s) (offRailTel 0)) 13 13 = 1 ∧
    field (reg64 (railsLimited s) (offRailTel 1)) 13 13 = 1 := by
  unfold railsLimited
  rw [reg64_setReg64Field_ne _ _ _ _ _ _ (by decide) (by decide),
    field_setReg64Field_same _ _ _ _ _ (by decide) (by omega) (by omega),
    field_setReg64Field_same _ _ _ _ _ (by decide) (by omega) (by omega)]
  exact ⟨rfl, rfl⟩

theorem dutyOf_railsLimited (s : State) (d : Nat) : dutyOf (railsLimited s) d = dutyOf s d := by
  unfold dutyOf railsLimited
  rw [reg64_setReg64Field_ne _ _ _ _ _ _ (by unfold offDieTel offRailTel; omega) (by decide),
    reg64_setReg64Field_ne _ _ _ _ _ _ (by unfold offDieTel offRailTel; omega) (by decide)]

/-- DUTY of a die after it has lost four steps. -/
def slowed (s : State) (d : Nat) : Nat := max 1 (dutyOf s d - 4)

theorem currentLimit_slows (ma : Nat) : Moves (.currentLimit ma) (fun _ => 3600000 < ma) (fun s t =>
    field (reg64 t (offRailTel 0)) 13 13 = 1 ∧ field (reg64 t (offRailTel 1)) 13 13 = 1 ∧
    ∀ d, d < 13 → dutyOf t d = max 1 (dutyOf s d - 4)) := by
  intro s h
  refine ⟨(List.range 13).foldl (fun s d => setDuty d (slowed s d) s) (railsLimited s), ?_, ?_, ?_, fun d hd => ?_⟩
  · change execCurrentLimit ma s = _
    rw [execCurrentLimit, if_neg (Nat.not_le.mpr h)]
    rfl
  · rw [reg64_foldl_setDuty slowed _ _ _ (by decide), (ilim_railsLimited s).1]
  · rw [reg64_foldl_setDuty slowed _ _ _ (by decide), (ilim_railsLimited s).2]
  · have hlt : dutyOf s d < 128 := field_lt _ 27 21
    rw [dutyOf_foldl_setDuty slowed
      (fun s d e n hne => by simp only [slowed, dutyOf_setDuty_ne _ _ _ _ hne]) _ List.nodup_range, if_pos (List.mem_range.mpr hd), slowed,
      dutyOf_railsLimited]
    omega

theorem currentLimit_stays (ma : Nat) : Moves (.currentLimit ma) (fun _ => ma ≤ 3600000) (fun s t => t = s) :=
  fun _ h => ⟨_, rfl, if_pos h⟩

/-! ## The connector (15 R331) -/

/-- The connector's values as they are measured: the first measurement is kept. -/
def connMeasured (pins : List PinSample) (s : State) : State :=
  { s with connFirst := if s.connFirst.isEmpty then pins else s.connFirst, connLast := pins }

/-- A pin calls for an alert. -/
def connAlert (pins : List PinSample) (s : State) : Bool :=
  ((List.range pins.length).zip pins).any (fun e => pinAlert (connMeasured pins s).connFirst[e.1]? e.2)

theorem execConnectorMeasure_eq (pins : List PinSample) (s : State) : execConnectorMeasure pins s =
    .next (if connAlert pins s then raiseIrq 4 (showPin (connMeasured pins s)) else showPin (connMeasured pins s)) := rfl

theorem connAlert_of_pin (pins : List PinSample) (s : State) (n : Nat) (x y : PinSample) (hy : pins[n]? = some y)
    (hx : (connMeasured pins s).connFirst[n]? = some x)
    (h : 2 * x.res < y.res ∨ (2 ≤ y.cls ∧ y.cls ≤ 4 ∧ y.margin < 8)) : connAlert pins s = true := by
  have hn : n < pins.length := (List.getElem?_eq_some_iff.mp hy).1
  refine List.any_eq_true.mpr ⟨(n, y), List.mem_of_getElem? (i := n) ?_, ?_⟩
  · exact List.getElem?_zip_eq_some.mpr ⟨List.getElem?_range hn, hy⟩
  · simpa [hx, pinAlert, lanePin, and_assoc] using h

theorem showPin_connFirst (s : State) : (showPin s).connFirst = s.connFirst := setReg32_connFirst _ _ _
theorem showPin_connLast (s : State) : (showPin s).connLast = s.connLast := setReg32_connLast _ _ _

theorem connectorMeasure_measures (pins : List PinSample) : Moves (.connectorMeasure pins) (fun _ => True) (fun s t =>
    t.connLast = pins ∧
    (s.connFirst ≠ [] → t.connFirst = s.connFirst) ∧ (s.connFirst = [] → t.connFirst = pins) ∧
    ∀ (n : Nat) x y, pins[n]? = some y → t.connFirst[n]? = some x →
      (2 * x.res < y.res ∨ (2 ≤ y.cls ∧ y.cls ≤ 4 ∧ y.margin < 8)) → field (reg32 t offIrqStat) 4 4 = 1) := by
  intro s _
  let t := if connAlert pins s then raiseIrq 4 (showPin (connMeasured pins s)) else showPin (connMeasured pins s)
  have hl : t.connLast = pins := by
    simp only [t]
    split
    · rw [(raiseIrq_recorded 4 _).keeps State.connLast, showPin_connLast, connMeasured]
    · rw [showPin_connLast, connMeasured]
  have hf : t.connFirst = (connMeasured pins s).connFirst := by
    simp only [t]
    split
    · rw [(raiseIrq_recorded 4 _).keeps State.connFirst, showPin_connFirst]
    · rw [showPin_connFirst]
  refine ⟨t, execConnectorMeasure_eq pins s, hl, fun h => ?_, fun h => ?_, fun n x y hy hx h => ?_⟩
  · rw [hf, connMeasured, if_neg (by simpa using h)]
  · rw [hf, connMeasured, if_pos (by simp [h])]
  · rw [hf] at hx
    simp only [t, connAlert_of_pin pins s n x y hy hx h, if_true]
    exact field_raiseIrq 4 _ (by omega)

end Sys2Proof.Machine
end

section
/-! SUPPORT. The boil governor and the thermal trips: what each step of 15 R328 to R330 does. -/

namespace Sys2Proof.Machine

/-! ## What a trip leaves alone -/

/-- A word of the device control block that a fatal error does not write. -/
theorem enterViral_word (cause : Nat) (s : State) (o : Nat) (h : o / 4 ∉ recordWords) (hv : o / 4 ≠ offViral / 4) :
    reg32 (enterViral cause s) o = reg32 s o := by
  by_cases hs : isViral s
  · rw [enterViral, if_pos hs]
  · rw [(enterViral_recorded cause s (by simpa using hs)).words o h, reg32_setReg32_ne _ _ _ _ hv]

theorem enterViral_dtemp (cause : Nat) (s : State) : (enterViral cause s).dtemp = s.dtemp := by
  by_cases hs : isViral s
  · rw [enterViral, if_pos hs]
  · rw [(enterViral_recorded cause s (by simpa using hs)).keeps State.dtemp, setReg32_dtemp]

theorem fatalError_word (cause : Nat) (s : State) (o : Nat) (h : 0x2100 ≤ o) : reg32 (fatalError cause s) o = reg32 s o := by
  have hr := not_mem_recordWords o h
  rw [(fatalError_contained cause s).words o hr (by unfold offXlatStat; omega),
    enterViral_word cause s o hr (by unfold offViral; omega)]

/-- What the boil governor has set stands: DTEMP, the dies' DUTY and DT. -/
structure KeepsDuty (s t : State) : Prop where
  dtemp : t.dtemp = s.dtemp
  duty : ∀ d, d < 13 → dutyOf t d = dutyOf s d
  boil : field (reg32 t offBoilStat) 31 25 = field (reg32 s offBoilStat) 31 25

theorem KeepsDuty.refl (s : State) : KeepsDuty s s := ⟨rfl, fun _ _ => rfl, rfl⟩

theorem KeepsDuty.trans {a b c : State} (h : KeepsDuty a b) (k : KeepsDuty b c) : KeepsDuty a c :=
  ⟨k.dtemp.trans h.dtemp, fun d hd => (k.duty d hd).trans (h.duty d hd), k.boil.trans h.boil⟩

/-- Telemetry's words by their fields above the sixteenth bit are enough. -/
theorem keepsDuty_of_upper {s t : State} (hd : t.dtemp = s.dtemp)
    (h : ∀ o hi lo, 0x2100 ≤ o → o < 0x2300 → 16 ≤ lo → field (reg32 t o) hi lo = field (reg32 s o) hi lo) : KeepsDuty s t where
  dtemp := hd
  duty d hd := by
    rw [dutyOf, dutyOf, field_reg64_low _ _ _ _ (by omega), field_reg64_low _ _ _ _ (by omega)]
    exact h _ _ _ (by unfold offDieTel; omega) (by unfold offDieTel; omega) (by omega)
  boil := h _ _ _ (by decide) (by decide) (by omega)

theorem keepsDuty_of_words {s t : State} (hd : t.dtemp = s.dtemp) (h : ∀ o, 0x2100 ≤ o → o < 0x2300 → reg32 t o = reg32 s o) :
    KeepsDuty s t := keepsDuty_of_upper hd (fun o _ _ h1 h2 _ => by rw [h o h1 h2])

theorem keepsDuty_of_dcb {s t : State} (hd : t.dtemp = s.dtemp) (h : t.dcb = s.dcb) : KeepsDuty s t :=
  keepsDuty_of_words hd (fun _ _ _ => by simp only [reg32, h])

theorem Remapped.keepsDuty {s t : State} (h : Remapped s t) : KeepsDuty s t := keepsDuty_of_upper h.dtemp h.upper

theorem Recorded.keepsDuty {s t : State} (h : Recorded s t) : KeepsDuty s t := h.remapped.keepsDuty

theorem Contained.keepsDuty {s t : State} (h : Contained s t) : KeepsDuty s t :=
  keepsDuty_of_words h.dtemp (fun o h1 _ => h.words o (not_mem_recordWords o h1) (by unfold offXlatStat; omega))

theorem fatalError_keepsDuty (cause : Nat) (s : State) : KeepsDuty s (fatalError cause s) :=
  keepsDuty_of_words ((fatalError_contained cause s).dtemp.trans (enterViral_dtemp cause s))
    (fun o h _ => fatalError_word cause s o h)

theorem keepsDuty_foldl {α : Type} (f : State → α → State) (l : List α) (h : ∀ s, ∀ x ∈ l, KeepsDuty s (f s x)) (s : State) :
    KeepsDuty s (l.foldl f s) :=
  List.foldlRecOn (motive := KeepsDuty s) l f (.refl s) (fun b hb x hx => hb.trans (h b x hx))

/-- TRIP of a die is beside its DUTY. -/
theorem setTrip_keepsDuty (s : State) (d v : Nat) (h : d < 13) : KeepsDuty s (setReg64Field s (offDieTel d) 20 20 v) where
  dtemp := setReg64_dtemp _ _ _
  duty e _ := by
    unfold dutyOf
    by_cases he : e = d
    · rw [he, field_setReg64Field_ne _ _ _ _ _ _ _ (offDieTel_aligned d) (by omega) (by omega) (by omega)]
    · rw [reg64_setReg64Field_ne _ _ _ _ _ _ (by unfold offDieTel; omega) (offDieTel_aligned d)]
  boil := by rw [reg32_setReg64Field_ne _ _ _ _ _ _ (by unfold offDieTel offBoilStat; omega) (offDieTel_aligned d)]

theorem layerWiped_keepsDuty (layer : Nat) (s : State) : KeepsDuty s (layerWiped layer s) :=
  have marked : KeepsDuty s { s with layersLost := mapSet s.layersLost layer none } := keepsDuty_of_dcb rfl rfl
  marked.trans (layerWiped_contained layer s).keepsDuty

theorem loseLayer_keepsDuty (layer : Nat) (s : State) (h : layer < 2) : KeepsDuty s (loseLayer layer s) := by
  obtain ⟨u, hu, ht⟩ := loseLayer_parts layer s
  exact (((layerWiped_keepsDuty layer s).trans hu.keepsDuty).trans (setTrip_keepsDuty u (11 + layer) 1 (by omega))).trans
    ht.keepsDuty

theorem tripLast_keepsDuty (s : State) : KeepsDuty s (tripLast s) :=
  (setTrip_keepsDuty s 0 1 (by omega)).trans (fatalError_keepsDuty 6 _)

theorem tripWelt_keepsDuty (w : Nat) (s : State) (h : w < 12) : KeepsDuty s (tripWelt w s) := by
  have marked (m : SMap (Option Nat)) : KeepsDuty s { s with tripped := m } := keepsDuty_of_dcb rfl rfl
  unfold tripWelt
  split
  · exact .refl s
  · exact (marked _).trans (setTrip_keepsDuty _ (w + 1) 1 (by omega))

theorem tripDie_keepsDuty (d : Nat) (tmax : Int) (s : State) (h : d < 13) : KeepsDuty s (tripDie d tmax s) := by
  unfold tripDie
  split
  · exact .refl s
  · split
    · split
      · exact .refl s
      · exact tripLast_keepsDuty s
    · split
      · exact tripWelt_keepsDuty _ _ (by omega)
      · split
        · exact .refl s
        · exact loseLayer_keepsDuty _ _ (by omega)

theorem watchDuty_keepsDuty (s : State) : KeepsDuty s (watchDuty s) := by
  have counted (n : Nat) : KeepsDuty s { s with dutyLow := n } := keepsDuty_of_dcb rfl rfl
  unfold watchDuty
  simp only
  split
  · split
    · exact (counted _).trans (raiseIrq_recorded 4 _).keepsDuty
    · exact counted _
  · exact counted _

theorem watchCooling_keepsDuty (dies : List DieSample) (s : State) : KeepsDuty s (watchCooling dies s) :=
  keepsDuty_of_dcb rfl rfl

/-! ## A period of the governor (15 R328) -/

/-- The dies with their numbers. -/
def numbered (dies : List DieSample) : List (Nat × DieSample) := (List.range 13).zip dies

/-- The state once the dies have reported and DTEMP has followed them. -/
def governDtemp (dies : List DieSample) (s : State) : State :=
  let s := (numbered dies).foldl (fun s e => reportDie e.1 e.2 s) s
  { s with dtemp := (numbered dies).foldl (fun m e => mapSet m e.1 (nextDtemp s e.1 e.2.tmax)) s.dtemp }

/-- DT: 64 while the governor is off (log 75). -/
def boilDuty (dies : List DieSample) (s : State) : Nat :=
  if field (reg32 s offBoilCfg) 31 31 == 1 then towerDuty s (towerPower s dies) else 64

/-- DUTY of a die under DT: the least of the Last's and the welts' for them, its own for a layer. -/
def nextDuty (dt : Nat) (s : State) (d : Nat) : Nat :=
  if d ≤ 10 then max 1 ((List.range 11).foldl (fun n d => min n (dtempOf s d)) dt) else max 1 (min dt (dtempOf s d))

/-- The state once DUTY has followed DT and DTEMP. -/
def governDuty (dt : Nat) (s : State) : State :=
  let last := max 1 ((List.range 11).foldl (fun n d => min n (dtempOf s d)) dt)
  (List.range 13).foldl (fun s d => setDuty d (if d ≤ 10 then last else max 1 (min dt (dtempOf s d))) s) s

/-- The state once `BOIL_STAT` holds DT and the tower's power. -/
def governStat (dies : List DieSample) (s : State) : State :=
  let pt := towerPower s dies
  setReg32 (governDuty (boilDuty dies s) (governDtemp dies s)) offBoilStat
    (BitVec.ofNat 32 (boilDuty dies s * 2 ^ 25 + saturate (pt.1 / pt.2) 0xFFFF))

/-- A period of the governor, by its parts. -/
theorem governBoil_eq (dies : List DieSample) (s : State) : governBoil dies s =
    (numbered dies).foldl (fun s e => tripDie e.1 e.2.tmax s) (watchDuty (watchCooling dies (governStat dies s))) := rfl

theorem numbered_keys (dies : List DieSample) (h : dies.length = 13) : (numbered dies).map Prod.fst = List.range 13 :=
  List.map_fst_zip (by simp [h])

theorem mem_numbered (dies : List DieSample) (d : Nat) (x : DieSample) (h : d < 13) (hx : dies[d]? = some x) :
    (d, x) ∈ numbered dies :=
  List.mem_of_getElem? (List.getElem?_zip_eq_some.mpr ⟨List.getElem?_range h, hx⟩)

theorem lt_of_mem_numbered (dies : List DieSample) (e : Nat × DieSample) (h : e ∈ numbered dies) : e.1 < 13 :=
  List.mem_range.mp (List.of_mem_zip h).1

/-- What follows `BOIL_STAT` in a period keeps what has been set. -/
theorem governBoil_keepsDuty (dies : List DieSample) (s : State) : KeepsDuty (governStat dies s) (governBoil dies s) := by
  rw [governBoil_eq]
  exact ((watchCooling_keepsDuty dies _).trans (watchDuty_keepsDuty _)).trans
    (keepsDuty_foldl _ _ (fun u e he => tripDie_keepsDuty e.1 e.2.tmax u (lt_of_mem_numbered dies e he)) _)

theorem nextDtemp_congr {s t : State} (h : t.dtemp = s.dtemp) (d : Nat) (tmax : Int) :
    nextDtemp t d tmax = nextDtemp s d tmax := by
  simp only [nextDtemp, dtempOf, h]

theorem reportDies_dtemp (l : List (Nat × DieSample)) (s : State) :
    (l.foldl (fun s e => reportDie e.1 e.2 s) s).dtemp = s.dtemp :=
  List.foldlRecOn (motive := fun t : State => t.dtemp = s.dtemp) l _ rfl (fun _ hb _ _ => (setReg64_dtemp _ _ _).trans hb)

/-- DTEMP of each die after a period. -/
theorem dtempOf_governDtemp (dies : List DieSample) (s : State) (d : Nat) (x : DieSample) (h : dies.length = 13)
    (hx : dies[d]? = some x) : dtempOf (governDtemp dies s) d = nextDtemp s d x.tmax := by
  have hd : d < 13 := h ▸ (List.getElem?_eq_some_iff.mp hx).1
  have hn : ((numbered dies).map Prod.fst).Nodup := numbered_keys dies h ▸ List.nodup_range
  have hf := mapFind_foldl_mapSet
    (fun e : Nat × DieSample => nextDtemp ((numbered dies).foldl (fun s e => reportDie e.1 e.2 s) s) e.1 e.2.tmax)
    (numbered dies) hn ((numbered dies).foldl (fun s e => reportDie e.1 e.2 s) s).dtemp (d, x) (mem_numbered dies d x hd hx)
  simp only [dtempOf, governDtemp, mapGet, hf, Option.getD_some]
  exact nextDtemp_congr (reportDies_dtemp _ s) d x.tmax

theorem governDuty_dtemp (dt : Nat) (s : State) : (governDuty dt s).dtemp = s.dtemp :=
  List.foldlRecOn (motive := fun t : State => t.dtemp = s.dtemp) _ _ rfl (fun _ hb _ _ => (setDuty_dtemp _ _ _).trans hb)

theorem dtempOf_setDuty (d e n : Nat) (s : State) : dtempOf (setDuty e n s) d = dtempOf s d := by
  rw [dtempOf, setDuty_dtemp, dtempOf]

theorem foldl_min_le (f : Nat → Nat) (l : List Nat) (n : Nat) :
    l.foldl (fun n d => min n (f d)) n ≤ n ∧ ∀ d ∈ l, l.foldl (fun n d => min n (f d)) n ≤ f d := by
  induction l generalizing n with
  | nil => simp
  | cons e l ih =>
    obtain ⟨h1, h2⟩ := ih (min n (f e))
    rw [List.foldl_cons]
    refine ⟨h1.trans (Nat.min_le_left _ _), fun d hd => ?_⟩
    rcases List.mem_cons.mp hd with rfl | hd
    · exact h1.trans (Nat.min_le_right _ _)
    · exact h2 d hd

/-- DUTY of a die is at most what DT and its DTEMP permit. -/
theorem nextDuty_le (dt : Nat) (s : State) (d : Nat) : nextDuty dt s d ≤ max 1 (min dt (dtempOf s d)) := by
  unfold nextDuty
  split
  · obtain ⟨h1, h2⟩ := foldl_min_le (dtempOf s) (List.range 11) dt
    have := h2 d (List.mem_range.mpr (by omega))
    omega
  · exact Nat.le_refl _

theorem dutyOf_governDuty (dt : Nat) (s : State) (d : Nat) (h : d < 13) (hdt : dt ≤ 64) :
    dutyOf (governDuty dt s) d = nextDuty dt s d := by
  have hle := nextDuty_le dt s d
  have hf := dutyOf_foldl_setDuty (fun u d => if d ≤ 10 then max 1 ((List.range 11).foldl (fun n d => min n (dtempOf s d)) dt)
    else max 1 (min dt (dtempOf u d))) (fun u d e n _ => by simp only [dtempOf_setDuty]) (List.range 13) List.nodup_range s d
  rw [if_pos (List.mem_range.mpr h)] at hf
  exact hf.trans (Nat.mod_eq_of_lt (Nat.lt_of_le_of_lt hle (by omega)))

theorem boilDuty_le (dies : List DieSample) (s : State) : boilDuty dies s ≤ 64 := by
  unfold boilDuty towerDuty
  simp only
  split
  · split
    · exact Nat.le_refl _
    · exact Nat.min_le_left _ _
  · exact Nat.le_refl _

theorem boilDuty_off (dies : List DieSample) (s : State) (h : field (reg32 s offBoilCfg) 31 31 = 0) : boilDuty dies s = 64 := by
  rw [boilDuty, h]
  rfl

theorem boilStat_fields (dt p : Nat) (h : dt ≤ 64) : field (BitVec.ofNat 32 (dt * 2 ^ 25 + saturate p 0xFFFF)) 31 25 = dt := by
  simp only [field, fieldN, BitVec.toNat_ofNat, saturate]
  omega

/-- What a period has set, as the state after it holds it. -/
theorem governBoil_sets (dies : List DieSample) (s : State) :
    field (reg32 (governBoil dies s) offBoilStat) 31 25 = boilDuty dies s ∧
      (governBoil dies s).dtemp = (governDtemp dies s).dtemp ∧
      ∀ d, d < 13 → dutyOf (governBoil dies s) d = nextDuty (boilDuty dies s) (governDtemp dies s) d := by
  have hk := governBoil_keepsDuty dies s
  have hle := boilDuty_le dies s
  refine ⟨?_, ?_, fun d hd => ?_⟩
  · rw [hk.boil, governStat, reg32_setReg32_same, boilStat_fields _ _ hle]
  · rw [hk.dtemp, governStat, setReg32_dtemp, governDuty_dtemp]
  · rw [hk.duty d hd, governStat, dutyOf, reg64, reg32_setReg32_ne _ _ _ _ (by unfold offDieTel offBoilStat; omega),
      reg32_setReg32_ne _ _ _ _ (by unfold offDieTel offBoilStat; omega), ← reg64, ← dutyOf, dutyOf_governDuty _ _ _ hd hle]

/-- The state in which a period reads its sensors. -/
def sensed (dies : List DieSample) (s : State) : State := { s with sensors := dies, governed := s.clock / 8500 }

theorem boilGovernorPeriod_governs (dies : List DieSample) : Moves (.boilGovernorPeriod dies) (fun _ => dies.length = 13)
    (fun s t =>
    let dt := field (reg32 t offBoilStat) 31 25
    (∀ d x, dies[d]? = some x → dtempOf t d = if dieLimit d < x.tmax then max 1 (dtempOf s d - 1)
      else if x.tmax ≤ dieLimit d - 32 then min 64 (dtempOf s d + 1) else dtempOf s d) ∧
    dt ≤ 64 ∧ (field (reg32 s offBoilCfg) 31 31 = 0 → dt = 64) ∧
    (∀ d, d ≤ 10 → dutyOf t d = dutyOf t 0 ∧ dutyOf t d ≤ max 1 (min dt (dtempOf t d))) ∧
    ∀ d, d = 11 ∨ d = 12 → dutyOf t d = max 1 (min dt (dtempOf t d))) := by
  intro s h
  obtain ⟨hb, hd, hu⟩ := governBoil_sets dies (sensed dies s)
  have ht (d : Nat) : dtempOf (governBoil dies (sensed dies s)) d = dtempOf (governDtemp dies (sensed dies s)) d := by
    rw [dtempOf, hd, dtempOf]
  refine ⟨governBoil dies (sensed dies s), rfl, fun d x hx => ?_, ?_, fun hoff => ?_, fun d hd10 => ⟨?_, ?_⟩, fun d hd12 => ?_⟩
  · rw [ht, dtempOf_governDtemp dies _ d x h hx]
    rfl
  · rw [hb]
    exact boilDuty_le _ _
  · rw [hb]
    exact boilDuty_off dies (sensed dies s) hoff
  · rw [hu d (by omega), hu 0 (by omega), nextDuty, nextDuty, if_pos hd10, if_pos (by omega)]
  · rw [hu d (by omega), hb, ht]
    exact nextDuty_le _ _ _
  · rw [hu d (by omega), hb, ht, nextDuty, if_neg (by omega)]

/-! ## Trips (15 R330) -/

/-- TRIP of the Last stands through what its trip brings about. -/
theorem trip_tripLast (s : State) : field (reg64 (tripLast s) (offDieTel 0)) 20 20 = 1 := by
  rw [tripLast, reg64, fatalError_word _ _ _ (by decide), fatalError_word _ _ _ (by decide), ← reg64,
    field_setReg64Field_same _ _ _ _ _ (by decide) (by omega) (by omega)]
  rfl

theorem isViral_setReg64Field (s : State) (d v : Nat) : isViral (setReg64Field s (offDieTel d) 20 20 v) = isViral s := by
  rw [isViral, reg32_setReg64Field_ne _ _ _ _ _ _ (by unfold offDieTel offViral; omega) (offDieTel_aligned d), isViral]

theorem getGroup_setReg64Field (s : State) (off hi lo v core k : Nat) :
    getGroup (setReg64Field s off hi lo v) core k = getGroup s core k := rfl

theorem lastTrip_trips (temp : Int) : Moves (.lastTrip temp)
    (fun s => 2000 ≤ temp ∧ isViral s = false ∧ field (reg64 s (offDieTel 0)) 20 20 = 0)
    (fun s t => isViral t = true ∧ field (reg32 t offViral) 27 24 = 6 ∧ field (reg64 t (offDieTel 0)) 20 20 = 1 ∧
      ∀ core k g, getGroup s core k = some g →
        ctxState (enterViral 6 (setReg64Field s (offDieTel 0) 20 20 1)) g.ctx = 1 → g.ctx ∈ t.killing) := by
  intro s ⟨ht, hv, hz⟩
  obtain ⟨h1, h2⟩ := field_viral_fatalError 6 (setReg64Field s (offDieTel 0) 20 20 1) ((isViral_setReg64Field s 0 1).trans hv)
  refine ⟨tripLast s, ?_, h1, h2, trip_tripLast s, fun core k g hg => mem_killing_fatalError 6 _ core k g ?_⟩
  · change execLastTrip temp s = _
    have hl : ¬ temp < tripLimit 0 := by simpa [tripLimit] using ht
    simp only [execLastTrip, tripDie, if_neg hl, beq_self_eq_true, if_true, hz]
    rfl
  · rw [getGroup_setReg64Field, hg]

theorem lastTrip_cool (temp : Int) : Moves (.lastTrip temp) (fun _ => temp < 2000) (fun s t => t = s) :=
  fun _ h => ⟨_, rfl, if_pos h⟩

theorem weltTrip_cuts (w : Nat) (temp : Int) : Moves (.weltTrip w temp)
    (fun s => w < 10 ∧ 2000 ≤ temp ∧ mapFind s.tripped w = none) (fun _ t =>
      mapFind t.tripped w = some none ∧ field (reg64 t (offDieTel (w + 1))) 20 20 = 1) := by
  intro s ⟨hw, ht, hn⟩
  refine ⟨setReg64Field { s with tripped := mapSet s.tripped w none } (offDieTel (w + 1)) 20 20 1, ?_, ?_, ?_⟩
  · change execWeltTrip w temp s = _
    have hl : ¬ temp < tripLimit (w + 1) := by
      rw [tripLimit, if_pos (by omega)]
      omega
    simp only [execWeltTrip, if_neg (Nat.not_le.mpr hw), tripDie, if_neg hl, beq_false_of_ne (Nat.succ_ne_zero w),
      Bool.false_eq_true, if_false, if_pos (show w + 1 ≤ 10 by omega), Nat.add_sub_cancel, tripWelt, hn, Option.isSome_none]
  · rw [setReg64Field, setReg64_tripped, mapFind_mapSet_same]
  · rw [field_setReg64Field_same _ _ _ _ _ (offDieTel_aligned _) (by omega) (by omega)]
    rfl

/-- A part that has been cool for ten seconds. -/
theorem coolFor_of (s : State) (c : Nat) (h : c + 10 * second ≤ s.clock) : coolFor s (some (some c)) = true :=
  decide_eq_true h

/-- Every accumulator tile waits for a welt that is powered again to rejoin it. -/
theorem staleWelt_stale (w : Nat) (s : State) : ∀ e ∈ (staleWelt w s).cores, ∀ x ∈ e.2.acc, w ∈ x.2.stale := by
  intro e he x hx
  obtain ⟨c, -, rfl⟩ := List.mem_map.mp he
  obtain ⟨y, -, rfl⟩ := List.mem_map.mp hx
  simp

theorem weltRepower_powers (w c : Nat) : Moves (.weltRepower w)
    (fun s => mapFind s.tripped w = some (some c) ∧ c + 10 * second ≤ s.clock) (fun s t =>
    mapFind t.tripped w = none ∧ field (reg64 t (offDieTel (w + 1))) 20 20 = 0 ∧ t.mem = s.mem ∧
    ∀ e ∈ t.cores, ∀ x ∈ e.2.acc, w ∈ x.2.stale) := by
  intro s ⟨hc, hs⟩
  refine ⟨setReg64Field (staleWelt w { s with tripped := mapErase s.tripped w }) (offDieTel (w + 1)) 20 20 0, ?_, ?_, ?_, ?_, ?_⟩
  · change execWeltRepower w s = _
    rw [execWeltRepower, hc, if_pos (coolFor_of s c hs)]
  · rw [setReg64Field, setReg64_tripped]
    exact mapFind_mapErase_same _ _
  · rw [field_setReg64Field_same _ _ _ _ _ (offDieTel_aligned _) (by omega) (by omega)]
    rfl
  · rw [setReg64Field, setReg64_mem]
    rfl
  · rw [setReg64Field, setReg64_cores]
    exact staleWelt_stale w _

/-- The state in which a layer has its power again, before the scans of its cores. -/
def layerPowered (layer : Nat) (s : State) : State :=
  setReg64Field { s with layersLost := mapErase s.layersLost layer } (offDieTel (11 + layer)) 20 20 0

/-- The scan of a physical core that starts writes no word of telemetry. -/
theorem startScan_word (p : Nat) (s : State) (o : Nat) (hp : p < 136) (ho : 0x2100 ≤ o) :
    reg32 (startScan p s) o = reg32 s o := by
  have health (u : State) : reg32 (setCoreState p 4 u) o = reg32 u o :=
    reg32_setRegField_ne _ _ _ _ _ _ (by unfold offCoreHealth; omega)
  have count (u : State) : reg32 (countSpares u) o = reg32 u o :=
    reg32_setRegField_ne _ _ _ _ _ _ (by unfold offLcmapStat; omega)
  have begun (u : State) : reg32 (beginScan p false u) o = reg32 u o := health { u with scans := _ }
  have pooled (u : State) : reg32 { u with spares := u.spares.erase p } o = reg32 u o := rfl
  rw [startScan, begun, count, pooled]

theorem lt_of_scanDue (s : State) (p : Nat) (h : scanDue s p = true) : p < 136 := by
  simp only [scanDue, Bool.and_eq_true, decide_eq_true_eq] at h
  tauto

/-- What stands while scans start: memory, the quarantine, the layers' records and telemetry. -/
structure ScansOnly (s t : State) : Prop where
  mem : t.mem = s.mem
  quarantine : t.quarantine = s.quarantine
  layersLost : t.layersLost = s.layersLost
  words : ∀ o, 0x2100 ≤ o → reg32 t o = reg32 s o

theorem startScan_scansOnly (p : Nat) (s : State) (h : p < 136) : ScansOnly s (startScan p s) := by
  obtain ⟨w, hw⟩ := startScan_other p s
  exact ⟨by rw [hw], by rw [hw], by rw [hw], fun o ho => startScan_word p s o h ho⟩

/-- The scans of a layer's cores that are due start. -/
theorem startScans_scansOnly (l : List Nat) (s : State) :
    ScansOnly s (l.foldl (fun s k => if coreState s k == 5 && scanDue s k then startScan k s else s) s) := by
  refine List.foldlRecOn (motive := ScansOnly s) l _ ⟨rfl, rfl, rfl, fun _ _ => rfl⟩ (fun b hb k _ => ?_)
  split
  · rename_i hk
    have ht := startScan_scansOnly k b (lt_of_scanDue b k ((Bool.and_eq_true _ _).mp hk).2)
    exact ⟨ht.mem.trans hb.mem, ht.quarantine.trans hb.quarantine, ht.layersLost.trans hb.layersLost,
      fun o ho => (ht.words o ho).trans (hb.words o ho)⟩
  · exact hb

theorem layerRepower_powers (layer c : Nat) : Moves (.layerRepower layer)
    (fun s => mapFind s.layersLost layer = some (some c) ∧ c + 10 * second ≤ s.clock)
    (fun s t => layerLost t layer = false ∧ field (reg64 t (offDieTel (11 + layer))) 20 20 = 0 ∧ t.mem = s.mem ∧
      t.quarantine = s.quarantine) := by
  intro s ⟨hc, hs⟩
  have ho : 0x2100 ≤ offDieTel (11 + layer) := by
    unfold offDieTel
    omega
  have hk := startScans_scansOnly (layerCores layer) (layerPowered layer s)
  refine ⟨(layerCores layer).foldl (fun s k => if coreState s k == 5 && scanDue s k then startScan k s else s)
    (layerPowered layer s), ?_, ?_, ?_, ?_, ?_⟩
  · change execLayerRepower layer s = _
    rw [execLayerRepower, hc, if_pos (coolFor_of s c hs), layerPowered]
  · rw [layerLost, hk.layersLost, layerPowered, setReg64Field, setReg64_layersLost, mapFind_mapErase_same, Option.isSome_none]
  · rw [reg64, hk.words _ ho, hk.words _ (Nat.le_add_right_of_le ho), ← reg64, layerPowered,
      field_setReg64Field_same _ _ _ _ _ (offDieTel_aligned _) (by omega) (by omega)]
    rfl
  · rw [hk.mem, layerPowered, setReg64Field, setReg64_mem]
  · rw [hk.quarantine, layerPowered, setReg64Field, setReg64_quarantine]

/-- Settles O60: each clause is what the step's own lemma above says. -/
theorem powerSteps : Obligations.PowerSteps :=
  ⟨powerLoss_loses, powerLoss_stays, powerOn_resets, conventionalReset_resets, railTelemetryUpdate_measures,
    currentLimit_slows, currentLimit_stays, boilGovernorPeriod_governs, lastTrip_trips, lastTrip_cool, weltTrip_cuts,
    weltRepower_powers, layerRepower_powers, connectorMeasure_measures⟩

end Sys2Proof.Machine
end

section
/-! SUPPORT. A step of the machine: what runs at the head of the slot, and which cursors stay in it (02 R47, 13 R300,
log 1). -/

namespace Sys2Proof.Machine

/-- Pruning changes no gang, so the cursors it keeps are live in the state it leaves. -/
theorem prune_issueLive (s : State) : (prune s).issueLive := fun _ hc => (List.mem_filter.mp hc).2

theorem issueLive_of_empty {s : State} (h : s.issueQ = []) : s.issueLive := fun c hc => by simp [h] at hc

theorem settle_issueLive {o : Host.Outcome State Fault Refusal} {t : State} (h : settle o = .next t) : t.issueLive := by
  cases o with
  | next s =>
    cases h
    exact prune_issueLive s
  | fault f => cases h
  | refused r => cases h

/-- A step ends with the slot pruned; a step from outside that is dropped comes to an empty slot. -/
theorem step_issueLive {s t : State} (h : step s = .next t) : t.issueLive := by
  unfold step at h
  split at h
  next =>
    split at h
    · exact settle_issueLive h
    · cases h
      exact prune_issueLive _
  next hq =>
    split at h
    · split at h
      · exact settle_issueLive h
      · cases h
        exact issueLive_of_empty hq
    · exact settle_issueLive h

/-- Settles O8: the slot is live after every step, whatever it was before. -/
theorem issueSlotKept : Obligations.IssueSlotKept := fun _ _ _ h => step_issueLive h

/-- The split that issues is the one at the head of the slot. -/
theorem issueQ_of_issuer {s : State} {c : Cursor} {g : Gang} {sp : Split} (h : issuer s = some (c, g, sp)) :
    s.issueQ = c :: s.issueQ.tail := by
  unfold issuer at h
  split at h
  · cases h
  · rename_i hq
    split at h
    · cases h
    · split at h
      · cases h
      · cases h
        rw [hq, List.tail_cons]

/-- While a split is about to issue, a step runs it. -/
theorem step_of_issuer {s : State} {c : Cursor} {g : Gang} {sp : Split} (h : issuer s = some (c, g, sp)) :
    step s = settle (runHead c g sp s) := by
  unfold step
  rw [issueQ_of_issuer h]
  simp only [h]

theorem runHead_of_instr {s t : State} {c c' : Cursor} {g : Gang} {sp : Split} {i : Instr}
    (h : fetch c g.ctx sp s = (.instr c' i, t)) : runHead c g sp s = exec i { t with issueQ := c' :: t.issueQ.tail } := by
  simp only [runHead, h]

/-- Settles O5: the step runs the head, and the head runs what it fetches. -/
theorem stepRunsFetched : Obligations.StepRunsFetched := fun _ _ _ _ _ _ _ hi hf => by
  rw [step_of_issuer hi, runHead_of_instr hf]

end Sys2Proof.Machine
end

section
/-! SUPPORT. The gangs of a core: lists and maps as the issue stage and the residency of gangs use them, and what a change of
gangs leaves alone. -/

namespace Sys2Proof.Machine

/-! ## Lists -/

theorem sortBy_insertByFirst_perm {α : Type} (f : α → Nat) (x : α) (l : List α) :
    (sortBy.insertByFirst f x l).Perm (x :: l) := by
  induction l with
  | nil => exact .refl _
  | cons y l ih =>
    unfold sortBy.insertByFirst
    split
    · exact (ih.cons y).trans (.swap x y l)
    · exact .refl _

theorem sortBy_perm {α : Type} (f : α → Nat) (l : List α) : (sortBy f l).Perm l := by
  induction l with
  | nil => exact .refl _
  | cons x l ih => exact (sortBy_insertByFirst_perm f x _).trans (ih.cons x)

@[simp] theorem length_sortBy {α : Type} (f : α → Nat) (l : List α) : (sortBy f l).length = l.length :=
  (sortBy_perm f l).length_eq

theorem dropFirst_append {α : Type} (p : α → Bool) (pre : List α) (x : α) (post : List α) (h : ∀ y ∈ pre, p y = false)
    (hx : p x = true) : dropFirst p (pre ++ x :: post) = pre ++ post := by
  induction pre with
  | nil => simp [dropFirst, hx]
  | cons y pre ih => simp [dropFirst, h y (by simp), ih (fun z hz => h z (by simp [hz]))]

theorem landFirst_append (clock : Nat) (pre : List SpawnRec) (r : SpawnRec) (post : List SpawnRec)
    (h : ∀ q ∈ pre, q.landed ≠ none) (hr : r.landed = none) :
    landFirst clock (pre ++ r :: post) = pre ++ { r with landed := some clock } :: post := by
  induction pre with
  | nil => simp [landFirst, hr]
  | cons q pre ih => simp [landFirst, h q (by simp), ih (fun z hz => h z (by simp [hz]))]

/-- A list that holds one value alone begins with it. -/
theorem eq_cons_of_forall_eq {α : Type} {l : List α} {x : α} (hx : x ∈ l) (h : ∀ y ∈ l, y = x) : ∃ rest, l = x :: rest := by
  cases l with
  | nil => simp at hx
  | cons y l => exact ⟨l, by rw [h y (by simp)]⟩

theorem mem_mapErase {α : Type} (m : SMap α) (n : Nat) (e : Nat × α) : e ∈ mapErase m n ↔ e ∈ m ∧ e.1 ≠ n := by
  induction m with
  | nil => simp [mapErase]
  | cons c m ih =>
    obtain ⟨k, v⟩ := c
    simp only [mapErase]
    split
    · rename_i hk
      have hk : k = n := by simpa using hk
      rw [ih, List.mem_cons]
      refine ⟨fun ⟨h, hn⟩ => ⟨.inr h, hn⟩, fun ⟨h, hn⟩ => ⟨h.resolve_left (fun he => hn (by rw [he, hk])), hn⟩⟩
    · rename_i hk
      have hk : k ≠ n := by simpa using hk
      rw [List.mem_cons, List.mem_cons, ih]
      refine ⟨fun h => ?_, fun ⟨h, hn⟩ => h.imp_right (fun h => ⟨h, hn⟩)⟩
      rcases h with rfl | ⟨h, hn⟩
      · exact ⟨.inl rfl, hk⟩
      · exact ⟨.inr h, hn⟩

theorem mapFind_eq_none {α : Type} {m : SMap α} {n : Nat} (h : ∀ e ∈ m, e.1 ≠ n) : mapFind m n = none := by
  cases hf : mapFind m n with
  | none => rfl
  | some v => exact absurd rfl (h _ (mapFind_mem _ _ _ hf))

theorem mem_gangsOfGroup (c : Core) (gslot k : Nat) : k ∈ gangsOfGroup c gslot ↔ ∃ g, (k, g) ∈ c.gangs ∧ g.gslot = gslot := by
  simp only [gangsOfGroup, List.mem_filterMap, Prod.exists]
  refine ⟨fun ⟨j, g, hm, hj⟩ => ?_, fun ⟨g, hm, hg⟩ => ⟨k, g, hm, by simp [hg]⟩⟩
  split at hj
  next hg =>
    cases hj
    exact ⟨g, hm, by simpa using hg⟩
  next => cases hj

/-! ## One gang -/

theorem onlyGang_modGang {s : State} {core slot : Nat} {g : Gang} (f : Gang → Gang) (h : getGang s core slot = some g) :
    OnlyGang core slot s (modGang s core slot f) (f g) where
  device := rfl
  queue := rfl
  others n hn := getCore_modGang_ne _ _ _ _ _ hn
  sameCore := by rw [getCore_modGang_same]; rfl
  otherGangs k hk := getGang_modGang_ne _ _ _ _ _ _ (fun e => hk (by simpa using e))
  gang := by rw [getGang_modGang_same, h, Option.map_some]

theorem OnlyGang.trans {core slot : Nat} {a b c : State} {g g' : Gang} (h : OnlyGang core slot a b g)
    (k : OnlyGang core slot b c g') : OnlyGang core slot a c g' where
  device := k.device.trans h.device
  queue := k.queue.trans h.queue
  others n hn := (k.others n hn).trans (h.others n hn)
  sameCore := k.sameCore.trans h.sameCore
  otherGangs j hj := (k.otherGangs j hj).trans (h.otherGangs j hj)
  gang := k.gang

theorem onlyGang_setResidency {s : State} {core slot : Nat} {g : Gang} (r : Residency) (h : getGang s core slot = some g) :
    OnlyGang core slot s (setResidency core slot r s) { g with residency := r, since := s.cycles } := onlyGang_modGang _ h

theorem onlyCore_modCore (s : State) (core : Nat) (f : Core → Core) : OnlyCore core s (modCore s core f) (f (getCore s core)) where
  device := rfl
  queue := rfl
  others _ hn := getCore_modCore_ne _ _ _ _ hn
  core := getCore_modCore_same _ _ _

/-! ## All gangs of a core -/

theorem getGang_mapGangs_same (core slot : Nat) (f : Nat → Gang → Gang) (s : State) :
    getGang (mapGangs core f s) core slot = (getGang s core slot).map (f slot) := by
  rw [getGang, mapGangs, getCore_modCore_same]
  exact mapFind_map f _ _

/-- Two states agree but in the gangs of one core and the slot being issued. -/
structure SameButGangs (core : Nat) (s t : State) : Prop where
  device : t.apart = s.apart
  others : ∀ n, n ≠ core → getCore t n = getCore s n
  sameCore : (getCore t core).apart = (getCore s core).apart

theorem SameButGangs.trans {core : Nat} {a b c : State} (h : SameButGangs core a b) (k : SameButGangs core b c) :
    SameButGangs core a c where
  device := k.device.trans h.device
  others n hn := (k.others n hn).trans (h.others n hn)
  sameCore := k.sameCore.trans h.sameCore

theorem mapGangs_sameButGangs (core : Nat) (f : Nat → Gang → Gang) (s : State) : SameButGangs core s (mapGangs core f s) where
  device := rfl
  others _ hn := getCore_modCore_ne _ _ _ _ hn
  sameCore := by rw [mapGangs, getCore_modCore_same]; rfl

end Sys2Proof.Machine
end

section
/-! SUPPORT. One cycle of issue, the scoreboards, lifts and recalls (02 R44, R47, 14 R311, 16 R337). -/

namespace Sys2Proof.Machine

/-! ## The slot of a cycle (02 R46, R47) -/

theorem fillSlot_length_le (s : State) (core : Nat) (pipe : Option Pipe) (l taken : List Candidate) (h : taken.length ≤ 4) :
    (fillSlot s core pipe taken l).length ≤ 4 := by
  induction l generalizing taken with
  | nil => exact h
  | cons x l ih =>
    unfold fillSlot
    split
    · rename_i hf
      refine ih _ ?_
      simp only [Bool.and_eq_true, decide_eq_true_eq] at hf
      simp only [List.length_append, List.length_singleton]
      omega
    · exact ih _ h

theorem buildSlot_length_le (s : State) (core : Nat) : (buildSlot s core).length ≤ 4 := by
  unfold buildSlot
  split
  · exact Nat.zero_le _
  · exact fillSlot_length_le _ _ _ _ _ (by simp)

/-! What the cycle does to a gang leaves the clock of its last rebuild, by which a mismatch is judged (14 R311). -/

theorem growAges_rebuilt (g : Gang) : (growAges g).rebuilt = g.rebuilt := by
  unfold growAges
  split <;> rfl

theorem rotateHead_rebuilt (g : Gang) : (rotateHead g).rebuilt = g.rebuilt := by
  unfold rotateHead
  split <;> rfl

theorem settleWaits_rebuilt (s : State) (core slot : Nat) (g : Gang) : (settleWaits s core slot g).rebuilt = g.rebuilt := by
  unfold settleWaits
  simp only
  split
  · exact rotateHead_rebuilt _
  · rfl

theorem stopSplits_rebuilt (s : State) (core slot : Nat) (g : Gang) : (stopSplits s core slot g).rebuilt = g.rebuilt := by
  unfold stopSplits
  split <;> rfl

/-- The gangs of a core have kept the clocks of their last rebuild. -/
def RebuiltKept (core : Nat) (s t : State) : Prop :=
  ∀ k g, getGang s core k = some g → ∃ g', getGang t core k = some g' ∧ g'.rebuilt = g.rebuilt

/-- A state in which a core has built its slot of a cycle from another: its gangs and its round-robin pointer have moved on. -/
structure SlotBuilt (core : Nat) (s u : State) : Prop where
  size : u.issueQ.length ≤ 4
  ofCore : ∀ c ∈ u.issueQ, c.core = core
  device : u.apart = s.apart
  others : ∀ n, n ≠ core → getCore u n = getCore s n
  rr : (getCore u core).rr = ((getCore s core).rr + 1) % 48
  scratch : (getCore u core).scratch = (getCore s core).scratch
  rebuilt : RebuiltKept core s u

/-- A core whose round-robin pointer has moved (02 R47). -/
def roundMoved (c : Core) : Core := { c with rr := (c.rr + 1) % 48 }

/-- The state of a core whose waits have begun and ended and whose pending splits have stopped. -/
def waitsSettled (core : Nat) (s : State) : State :=
  let s := mapGangs core (fun _ g => growAges g) s
  let s := mapGangs core (fun k g => settleWaits s core k g) s
  mapGangs core (fun k g => stopSplits s core k g) s

theorem waitsSettled_sameButGangs (core : Nat) (s : State) : SameButGangs core s (waitsSettled core s) :=
  ((mapGangs_sameButGangs core _ s).trans (mapGangs_sameButGangs core _ _)).trans (mapGangs_sameButGangs core _ _)

theorem mapGangs_rebuiltKept {core : Nat} {s m : State} {f : Nat → Gang → Gang} (hf : ∀ k g, (f k g).rebuilt = g.rebuilt)
    (h : RebuiltKept core s m) : RebuiltKept core s (mapGangs core f m) := by
  intro k g hg
  obtain ⟨g', hg', he⟩ := h k g hg
  exact ⟨f k g', by rw [getGang_mapGangs_same, hg', Option.map_some], (hf k g').trans he⟩

theorem waitsSettled_rebuiltKept (core : Nat) (s : State) : RebuiltKept core s (waitsSettled core s) :=
  mapGangs_rebuiltKept (fun _ _ => stopSplits_rebuilt _ _ _ _) (mapGangs_rebuiltKept (fun _ _ => settleWaits_rebuilt _ _ _ _)
    (mapGangs_rebuiltKept (fun _ _ => growAges_rebuilt _) (fun _ g hg => ⟨g, hg, rfl⟩)))

/-- A core takes a slot: four splits at most, and its round-robin pointer moves. -/
theorem slotBuilt_of {core : Nat} {s m : State} {q : List Cursor} (hs : SameButGangs core s m)
    (hr : RebuiltKept core s m) (hl : q.length ≤ 4) (hq : ∀ c ∈ q, c.core = core) :
    SlotBuilt core s { modCore m core roundMoved with issueQ := q } := by
  have hrr : (getCore m core).rr = (getCore s core).rr := by
    have h := congrArg Core.rr hs.sameCore
    exact h
  have hsc : (getCore m core).scratch = (getCore s core).scratch := by
    have h := congrArg Core.scratch hs.sameCore
    exact h
  have hm := getCore_modCore_same m core roundMoved
  refine ⟨hl, hq, hs.device, fun n hn => (getCore_modCore_ne m core n roundMoved hn).trans (hs.others n hn), ?_,
    (congrArg Core.scratch hm).trans hsc, fun k g hg => ?_⟩
  · exact (congrArg Core.rr hm).trans (congrArg (fun n => (n + 1) % 48) hrr)
  · obtain ⟨g', hg', he⟩ := hr k g hg
    exact ⟨g', (congrArg (fun c => mapFind (Core.gangs c) k) hm).trans hg', he⟩

theorem slotOf_length_le (s : State) (core : Nat) (p : Candidate → Bool) (cursor : Candidate → Cursor) :
    ((sortBy Candidate.rank ((buildSlot s core).filter p)).map cursor).length ≤ 4 := by
  rw [List.length_map, length_sortBy]
  exact (List.length_filter_le _ _).trans (buildSlot_length_le _ _)

/-- The issue stage builds a slot, and then squashes the gangs whose scoreboards differ. -/
theorem issueStage_builds (core : Nat) (bad : List Nat) (s : State) :
    ∃ u, issueStage core bad s = bad.foldl (fun s k => mismatch core k s) u ∧ SlotBuilt core s u :=
  ⟨_, rfl, slotBuilt_of ((waitsSettled_sameButGangs core s).trans (mapGangs_sameButGangs core _ _))
    (mapGangs_rebuiltKept (fun _ _ => rfl) (waitsSettled_rebuiltKept core s)) (slotOf_length_le _ _ _ _)
    (List.forall_mem_map.mpr fun _ _ => rfl)⟩

theorem execIssueCycle_eq (core : Nat) (bad : List Nat) (s : State)
    (h : lcoreValid s core = true ∨ (getCore s core).gangs ≠ []) : exec (.issueCycle core bad) s = .next (issueStage core bad s) := by
  change execIssueCycle core bad s = _
  rw [execIssueCycle, if_pos (by simpa using h)]

theorem issueCycle_fills (core : Nat) : Moves (.issueCycle core [])
    (fun s => lcoreValid s core = true ∨ (getCore s core).gangs ≠ []) (fun s t =>
    t.issueQ.length ≤ 4 ∧ (∀ c ∈ t.issueQ, c.core = core) ∧ (getCore t core).rr = ((getCore s core).rr + 1) % 48 ∧
    t.apart = s.apart ∧ (∀ n, n ≠ core → getCore t n = getCore s n) ∧ (getCore t core).scratch = (getCore s core).scratch) := by
  intro s h
  obtain ⟨u, hu, hb⟩ := issueStage_builds core [] s
  exact ⟨u, (execIssueCycle_eq core [] s h).trans (congrArg _ hu), hb.size, hb.ofCore, hb.rr, hb.device,
    hb.others, hb.scratch⟩

/-! ## Scoreboards (14 R311) -/

theorem reg32_of_apart {s u : State} (h : u.apart = s.apart) (o : Nat) : reg32 u o = reg32 s o := by
  have hd : u.dcb = s.dcb := by
    have hd := congrArg State.dcb h
    exact hd
  rw [reg32, hd, reg32]

theorem physCore_of_apart {s u : State} (h : u.apart = s.apart) (n : Nat) : physCore u n = physCore s n := by
  rw [physCore, reg32_of_apart h, physCore]

theorem reg32_modGang (s : State) (core slot : Nat) (f : Gang → Gang) (o : Nat) :
    reg32 (modGang s core slot f) o = reg32 s o := by
  rw [reg32, modGang_dcb, reg32]

theorem physCore_lt (s : State) (n : Nat) : physCore s n < 256 := field_lt _ _ _

theorem offCoreHealth_not_record (p : Nat) (h : p < 256) : offCoreHealth p / 4 ∉ recordWords := by
  intro hm
  simp only [recordWords, List.mem_cons, List.not_mem_nil, or_false, offCoreHealth] at hm
  omega

/-- What a mismatch leaves recorded before its gang is squashed: `CORE_HEALTH` counts it, and an event tells of it. -/
def mismatchRecorded (core slot : Nat) (g : Gang) (s : State) : State :=
  let p := physCore s core
  let s := setRegField s (offCoreHealth p) 31 24 (saturate (field (reg32 s (offCoreHealth p)) 31 24 + 1) 255)
  containEvent 5 p 0xF slot g.ctx (getGroup s core g.gslot) s

/-- A gang that has not been rebuilt yet is squashed at a mismatch, whatever the clock. -/
theorem mismatch_eq {core slot : Nat} {s : State} {g : Gang} (h : getGang s core slot = some g) (hr : g.rebuilt = none) :
    mismatch core slot s = modGang (mismatchRecorded core slot g s) core slot (fun g => { g with squashed := true }) := by
  unfold mismatch
  simp only [h, hr]
  rfl

theorem mismatchRecorded_recorded (core slot : Nat) (g : Gang) (s : State) :
    Recorded (setRegField s (offCoreHealth (physCore s core)) 31 24
      (saturate (field (reg32 s (offCoreHealth (physCore s core))) 31 24 + 1) 255)) (mismatchRecorded core slot g s) :=
  containEvent_recorded ..

theorem getGang_mismatchRecorded (core slot : Nat) (g : Gang) (s : State) :
    getGang (mismatchRecorded core slot g s) core slot = getGang s core slot :=
  ((mismatchRecorded_recorded core slot g s).keeps (fun t => getGang t core slot)).trans
    (by rw [getGang, setRegField, getCore_setReg32, getGang])

theorem field_mismatchRecorded (core slot : Nat) (g : Gang) (s : State) :
    field (reg32 (mismatchRecorded core slot g s) (offCoreHealth (physCore s core))) 31 24 =
      min (field (reg32 s (offCoreHealth (physCore s core))) 31 24 + 1) 255 := by
  rw [(mismatchRecorded_recorded core slot g s).words _ (offCoreHealth_not_record _ (physCore_lt s core)),
    field_setRegField_same _ _ _ _ _ (by omega) (by omega)]
  exact Nat.mod_eq_of_lt (Nat.lt_of_le_of_lt (Nat.min_le_right _ _) (by omega))

theorem issueCycle_squashes (core slot : Nat) (g : Gang) : Moves (.issueCycle core [slot])
    (fun s => getGang s core slot = some g ∧ g.rebuilt = none) (fun s t =>
    (∃ g', getGang t core slot = some g' ∧ g'.squashed = true) ∧
    let off := offCoreHealth (physCore s core)
    field (reg32 t off) 31 24 = min (field (reg32 s off) 31 24 + 1) 255) := by
  intro s ⟨hg, hr⟩
  obtain ⟨u, hu, hb⟩ := issueStage_builds core [slot] s
  obtain ⟨g', hg', hr'⟩ := hb.rebuilt slot g hg
  have hne : (getCore s core).gangs ≠ [] := fun he => by simp [getGang, he, mapFind] at hg
  have ht : issueStage core [slot] s =
      modGang (mismatchRecorded core slot g' u) core slot (fun g => { g with squashed := true }) := by
    rw [hu, List.foldl_cons, List.foldl_nil, mismatch_eq hg' (hr'.trans hr)]
  refine ⟨_, execIssueCycle_eq core [slot] s (.inr hne), ?_, ?_⟩
  · exact ⟨{ g' with squashed := true }, by
      rw [ht, getGang_modGang_same, getGang_mismatchRecorded, hg', Option.map_some], rfl⟩
  · have hf := field_mismatchRecorded core slot g' u
    rw [physCore_of_apart hb.device, reg32_of_apart hb.device] at hf
    simp only
    rw [ht, reg32_modGang, hf]

/-! ## Operations in flight (14 R311, 16 R337) -/

theorem scoreboardRebuild_issues (core slot : Nat) (g : Gang) : Moves (.scoreboardRebuild core slot)
    (fun s => getGang s core slot = some g ∧ g.squashed = true ∧ ∀ o ∈ g.ops, o.kind.waits = true)
    (fun s t => OnlyGang core slot s t { g with squashed := false, rebuilt := some s.cycles }) := by
  intro s ⟨hg, hs, ho⟩
  refine ⟨_, ?_, onlyGang_modGang (fun g => { g with squashed := false, rebuilt := some s.cycles }) hg⟩
  change execScoreboardRebuild core slot s = _
  have hd : (g.squashed && g.ops.all (fun o => o.kind.waits)) = true := by simpa [hs] using ho
  simp only [execScoreboardRebuild, hg, hd, if_true]

theorem longLatencyComplete_completes (core slot : Nat) (g : Gang) (pre : List Op) (o : Op) (post : List Op) :
    Moves (.longLatencyComplete core slot)
    (fun s => getGang s core slot = some g ∧ g.ops = pre ++ o :: post ∧ (o.kind.isLane || o.made g) = true ∧
      ∀ p ∈ pre, (p.kind.isLane || p.made g) = false)
    (fun s t => OnlyGang core slot s t { g with ops := pre ++ post }) := by
  intro s ⟨hg, ho, hx, hp⟩
  refine ⟨_, rfl, ?_⟩
  have h := onlyGang_modGang (fun g => { g with ops := dropFirst (fun o => o.kind.isLane || o.made g) g.ops }) hg
  simpa only [ho, dropFirst_append _ pre o post hp hx] using h

/-! ## Lifts and recalls (02 R44) -/

theorem gangLiftComplete_lifts (core slot : Nat) (g : Gang) : Moves (.gangLiftComplete core slot)
    (fun s => getGang s core slot = some g ∧ g.residency = .lifting)
    (fun s t => OnlyGang core slot s t { g with residency := .lifted, since := s.cycles }) := by
  intro s ⟨hg, hr⟩
  refine ⟨_, ?_, onlyGang_setResidency .lifted hg⟩
  change execGangLiftComplete core slot s = _
  simp only [execGangLiftComplete, hg, hr, beq_self_eq_true, if_true]

theorem gangRecallComplete_recalls (core slot : Nat) (g : Gang) : Moves (.gangRecallComplete core slot)
    (fun s => getGang s core slot = some g ∧ g.residency = .recalling)
    (fun s t => ∃ u, OnlyGang core slot s u { g with residency := .present, since := s.cycles, due := [] } ∧
      t = g.due.foldl (fun s h => takeTrap core slot h.lane
        { cause := h.cause, tinfo := h.tinfo, tmask := h.tmask, unfinished := h.tmask } s) u) := by
  intro s ⟨hg, hr⟩
  have hp := onlyGang_setResidency .present hg
  refine ⟨_, ?_, _, hp.trans (onlyGang_modGang (fun g => { g with due := [] }) hp.gang), rfl⟩
  change execGangRecallComplete core slot s = _
  simp only [execGangRecallComplete, hg, hr, beq_self_eq_true, if_true, takeDue, hp.gang]

/-- A gang that fits now fits beside no reserved bytes, whatever leaves. -/
theorem fitsSoon_of_imageFits {c : Core} {g : Gang} (h : imageFits c g = true) : fitsSoon c 0 g = true := by
  unfold imageFits at h
  unfold fitsSoon
  split at h
  all_goals
    rename_i hi
    simp only [decide_eq_true_eq] at h
    simp only [hi, if_true, if_false, decide_eq_true_eq]
    omega

/-- The first gang that wants room and fits comes. -/
theorem liftFor_of_fits {s : State} {core k : Nat} {g : Gang} {rest : List (Nat × Gang)}
    (h : imageFits (getCore s core) g = true) :
    liftFor s core 0 ((k, g) :: rest) = some (k, g, if g.residency = .waitingRoom then .present else .recalling) := by
  simp only [liftFor, h, fitsSoon_of_imageFits h, Bool.and_self, if_true, beq_iff_eq]

/-- A gang that alone wants room is the first of those that do. -/
theorem sorted_want {s : State} {core slot : Nat} {g : Gang} (hg : getGang s core slot = some g)
    (hw : wantsRoom s core slot g = true) (hb : moveBudget s core g = true)
    (ha : ∀ e ∈ (getCore s core).gangs, e ≠ (slot, g) → wantsRoom s core e.1 e.2 = false) : ∃ rest,
    sortBy (fun e => e.2.since) ((getCore s core).gangs.filter (fun e => wantsRoom s core e.1 e.2 && moveBudget s core e.2)) =
      (slot, g) :: rest := by
  refine eq_cons_of_forall_eq ?_ (fun e he => ?_)
  · simp only [mem_sortBy, List.mem_filter, hw, hb, Bool.and_self, and_true]
    exact mapFind_mem _ _ _ hg
  · simp only [mem_sortBy, List.mem_filter, Bool.and_eq_true] at he
    obtain ⟨hm, hw', -⟩ := he
    by_contra hne
    simp [ha e hm hne] at hw'

theorem chargeMove_other (core : Nat) (g : Gang) (rate : Nat) (s : State) : ∃ l, chargeMove core g rate s = { s with spent := l } := by
  unfold chargeMove
  split <;> exact ⟨_, rfl⟩

/-- The decision for a gang that alone wants room and fits: it comes, and a recall is charged. -/
theorem liftDecision_eq {s : State} {core slot : Nat} {g : Gang} (hg : getGang s core slot = some g)
    (hw : wantsRoom s core slot g = true) (hb : moveBudget s core g = true) (hf : imageFits (getCore s core) g = true)
    (ha : ∀ e ∈ (getCore s core).gangs, e ≠ (slot, g) → wantsRoom s core e.1 e.2 = false) : ∃ l, liftDecision core s =
      setResidency core slot (if g.residency = .waitingRoom then .present else .recalling) { s with spent := l } := by
  obtain ⟨rest, hr⟩ := sorted_want hg hw hb ha
  obtain ⟨l, hl⟩ := chargeMove_other core g 656 s
  simp only [liftDecision, hr, liftFor_of_fits hf]
  by_cases h : g.residency = .waitingRoom
  · exact ⟨s.spent, by simp only [h, if_true]⟩
  · exact ⟨l, by simp only [h, if_false, hl]⟩

theorem liftRecallDecision_recalls (core slot : Nat) (g : Gang) : Moves (.liftRecallDecision core)
    (fun s => getGang s core slot = some g ∧ wantsRoom s core slot g = true ∧ moveBudget s core g = true ∧
      imageFits (getCore s core) g = true ∧ ∀ e ∈ (getCore s core).gangs, e ≠ (slot, g) → wantsRoom s core e.1 e.2 = false)
    (fun s t => getGang t core slot = some { g with
        residency := if g.residency = .waitingRoom then .present else .recalling, since := s.cycles } ∧
      (∀ k, k ≠ slot → getGang t core k = getGang s core k) ∧ (∀ n, n ≠ core → getCore t n = getCore s n) ∧ t.mem = s.mem) := by
  intro s ⟨hg, hw, hb, hf, ha⟩
  obtain ⟨l, hl⟩ := liftDecision_eq hg hw hb hf ha
  have ho := onlyGang_setResidency (s := { s with spent := l })
    (if g.residency = .waitingRoom then .present else .recalling) hg
  exact ⟨setResidency core slot (if g.residency = .waitingRoom then .present else .recalling) { s with spent := l },
    congrArg _ hl, ho.gang, ho.otherGangs, ho.others, rfl⟩

end Sys2Proof.Machine
end

section
/-! SUPPORT. The end of gangs and groups (02 R53, 08 R176), and the gangs and records of `spawn` (04 R81, R83, R84). -/

namespace Sys2Proof.Machine

/-! ## The end of a gang (02 R53) -/

/-- The state without a gang that retires, before its group is looked at. -/
def gangGone (core slot : Nat) (g : Gang) (s : State) : State :=
  modCore (modGroup (dropGangWaiters core slot s) core g.gslot (leaveRendezvous slot)) core
    (fun c => { c with gangs := mapErase c.gangs slot })

theorem getCore_gangGone_same (core slot : Nat) (g : Gang) (s : State) : getCore (gangGone core slot g s) core =
    { getCore s core with
      gangs := mapErase (getCore s core).gangs slot,
      groups := mapModify (getCore s core).groups g.gslot (leaveRendezvous slot) } := by
  rw [gangGone, getCore_modCore_same, getCore_modGroup_same]
  rfl

theorem getCore_gangGone_ne (core slot : Nat) (g : Gang) (s : State) (n : Nat) (h : n ≠ core) :
    getCore (gangGone core slot g s) n = getCore s n := by
  rw [gangGone, getCore_modCore_ne _ _ _ _ h, getCore_modGroup_ne _ _ _ _ _ h]
  rfl

theorem getGang_gangGone_same (core slot : Nat) (g : Gang) (s : State) : getGang (gangGone core slot g s) core slot = none := by
  rw [getGang, getCore_gangGone_same]
  exact mapFind_mapErase_same _ _

theorem getGang_gangGone_ne (core slot : Nat) (g : Gang) (s : State) (k : Nat) (h : k ≠ slot) :
    getGang (gangGone core slot g s) core k = getGang s core k := by
  rw [getGang, getCore_gangGone_same]
  exact mapFind_mapErase_ne _ _ _ h

theorem getGroup_gangGone (core slot : Nat) (g : Gang) (s : State) :
    getGroup (gangGone core slot g s) core g.gslot = (getGroup s core g.gslot).map (leaveRendezvous slot) := by
  rw [getGroup, getCore_gangGone_same]
  exact mapFind_mapModify_same _ _ _

/-- A gang without lanes and commands whose engines reported no fault retires. -/
theorem execGangRetire_eq {core slot : Nat} {s : State} {g : Gang} (hg : getGang s core slot = some g)
    (hs : gangSpent s core slot g = true) (hf : ∀ f ∈ (getCore s core).faults, f.slot ≠ slot) :
    exec (.gangRetire core slot) s = .next (retireGroup core g.gslot (gangGone core slot g s)) := by
  change execGangRetire core slot s = _
  have hn : (getCore s core).faults.any (fun f => f.slot == slot) = false := by simpa using hf
  simp only [execGangRetire, hg, hs, hn, Bool.not_true, Bool.false_eq_true, if_false]
  rfl

/-- A group that has a gang does not retire. -/
theorem retireGroup_of_gang {core gslot k : Nat} {s : State} {g : Gang} (hg : getGang s core k = some g)
    (hk : g.gslot = gslot) : retireGroup core gslot s = s := by
  have hm : k ∈ gangsOfGroup (getCore s core) gslot := (mem_gangsOfGroup _ _ _).mpr ⟨g, mapFind_mem _ _ _ hg, hk⟩
  have hn : (gangsOfGroup (getCore s core) gslot).isEmpty = false := by simpa using List.ne_nil_of_mem hm
  unfold retireGroup
  split
  · rfl
  · simp only [groupSpent, hn, Bool.false_and, Bool.not_false, Bool.true_or, if_true]

theorem gangRetire_leaves (core slot : Nat) (g : Gang) (k : Nat) (g' : Gang) : Moves (.gangRetire core slot)
    (fun s => getGang s core slot = some g ∧ gangSpent s core slot g = true ∧ k ≠ slot ∧ getGang s core k = some g' ∧
      g'.gslot = g.gslot ∧ ∀ f ∈ (getCore s core).faults, f.slot ≠ slot)
    (fun s t => getGang t core slot = none ∧ (∀ n, n ≠ slot → getGang t core n = getGang s core n) ∧
      (getCore t core).groups = mapModify (getCore s core).groups g.gslot (leaveRendezvous slot) ∧
      (∀ n, n ≠ core → getCore t n = getCore s n) ∧ t.mem = s.mem) := by
  intro s ⟨hg, hs, hk, hg', he, hf⟩
  have hgone := getGang_gangGone_ne core slot g s
  refine ⟨gangGone core slot g s, ?_, getGang_gangGone_same _ _ _ _, hgone, ?_, getCore_gangGone_ne _ _ _ _, rfl⟩
  · rw [execGangRetire_eq hg hs hf, retireGroup_of_gang ((hgone k hk).trans hg') he]
  · rw [getCore_gangGone_same]

/-! ## The end of a group (02 R53, 08 R176) -/

/-- A core whose engines follow another, set free. -/
def Core.unfollow (core : Nat) (c : Core) : Core := if c.slaved == some core then { c with slaved := none } else c

/-- Engines that follow a core are free again, and nothing else of theirs changes. -/
theorem getCore_freeFollowers (core : Nat) (s : State) (n : Nat) :
    ∃ l, getCore (freeFollowers core s) n = { getCore s n with slaved := l } := by
  have hm : mapFind (freeFollowers core s).cores n = (mapFind s.cores n).map (Core.unfollow core) :=
    mapFind_map (fun _ => Core.unfollow core) s.cores n
  rw [getCore, getCore, mapGet, mapGet, hm]
  cases mapFind s.cores n with
  | none => exact ⟨_, rfl⟩
  | some c =>
    simp only [Option.map_some, Option.getD_some, Core.unfollow]
    split <;> exact ⟨_, rfl⟩

theorem getCore_dropGroup {core gslot : Nat} {s : State} {g : Group} (h : getGroup s core gslot = some g) :
    ∃ l, getCore (dropGroup core gslot s) core = { (getCore s core).dropGroup gslot g with slaved := l } := by
  unfold dropGroup
  simp only [h]
  split
  · obtain ⟨l, hl⟩ := getCore_freeFollowers core
      (setCore { s with pages := dropWaiters (Waiter.ofCore core _ _) s.pages } core ((getCore s core).dropGroup gslot g)) core
    exact ⟨l, by rw [hl, getCore_setCore_same]⟩
  · exact ⟨_, getCore_setCore_same _ _ _⟩

/-- The state with the report of a group for the Vent (12 R277). -/
def reported (g : Group) (s : State) : State := { s with completions := s.completions ++ [(g.queue, g.lslot, g.stage)] }

theorem getCore_reported (g : Group) (s : State) (n : Nat) : getCore (reported g s) n = getCore s n := rfl

/-- A group that is spent and not held reports and is freed while there is room for its report. -/
theorem retireGroup_finishes {core gslot : Nat} {s : State} {g : Group} (hg : getGroup s core gslot = some g)
    (hs : groupSpent s core gslot g = true) (hc : s.completions.length < 4096) (hh : g.held = false) :
    retireGroup core gslot s = dropGroup core gslot (reported g s) := by
  have hn : ¬ 4096 ≤ s.completions.length := by omega
  simp [retireGroup, finishGroup, reported, hg, hs, hn, hh]

/-- The group of the last gang is spent once the gang is gone, when no record and no engine holds it. -/
theorem groupSpent_gangGone {core slot : Nat} {s : State} {g : Gang} {grp : Group} (hs : grp.spilled = [])
    (hq : queuedOf (getCore s core) g.gslot = 0) (hc : ∀ q ∈ (getCore s core).copyq, q.gslot ≠ g.gslot)
    (hr : ∀ r ∈ (getCore s core).copyrun, r.gslot ≠ g.gslot) (hn : ∀ o ∈ (getCore s core).near, o.gslot ≠ g.gslot)
    (hl : ∀ e ∈ (getCore s core).gangs, e.2.gslot = g.gslot → e.1 = slot) :
    groupSpent (gangGone core slot g s) core g.gslot (leaveRendezvous slot grp) = true := by
  have he : gangsOfGroup (getCore (gangGone core slot g s) core) g.gslot = [] := by
    refine List.eq_nil_iff_forall_not_mem.mpr (fun k hk => ?_)
    obtain ⟨g', hm, hg'⟩ := (mem_gangsOfGroup _ _ _).mp hk
    rw [getCore_gangGone_same] at hm
    obtain ⟨hm, hne⟩ := (mem_mapErase _ _ _).mp hm
    exact hne (hl _ hm hg')
  have hq' : queuedOf (getCore (gangGone core slot g s) core) g.gslot = 0 := by
    rw [getCore_gangGone_same]
    exact hq
  simp only [groupSpent, he, hq']
  simpa [getCore_gangGone_same, leaveRendezvous, hs] using ⟨⟨hc, hr⟩, hn⟩

theorem gangRetire_ends_group (core slot : Nat) (g : Gang) (grp : Group) : Moves (.gangRetire core slot)
    (fun s => getGang s core slot = some g ∧ gangSpent s core slot g = true ∧ getGroup s core g.gslot = some grp ∧
      grp.held = false ∧ grp.spilled = [] ∧ queuedOf (getCore s core) g.gslot = 0 ∧ s.completions.length < 4096 ∧
      (∀ f ∈ (getCore s core).faults, f.slot ≠ slot) ∧ (∀ q ∈ (getCore s core).copyq, q.gslot ≠ g.gslot) ∧
      (∀ r ∈ (getCore s core).copyrun, r.gslot ≠ g.gslot) ∧ (∀ o ∈ (getCore s core).near, o.gslot ≠ g.gslot) ∧
      ∀ e ∈ (getCore s core).gangs, e.2.gslot = g.gslot → e.1 = slot)
    (fun s t => getGang t core slot = none ∧ getGroup t core g.gslot = none ∧
      t.completions = s.completions ++ [(grp.queue, grp.lslot, grp.stage)] ∧ t.mem = s.mem ∧
      (∀ a, grp.sbase ≤ a → a < grp.sbase + grp.ssize → memRead (getCore t core).scratch a = 0) ∧
      ∀ a, a < grp.sbase ∨ grp.sbase + grp.ssize ≤ a →
        memRead (getCore t core).scratch a = memRead (getCore s core).scratch a) := by
  intro s ⟨hg, hs, hgrp, hh, hsp, hq, hc, hf, hcq, hcr, hn, hl⟩
  have hgone : getGroup (gangGone core slot g s) core g.gslot = some (leaveRendezvous slot grp) := by
    rw [getGroup_gangGone, hgrp, Option.map_some]
  have ht := retireGroup_finishes hgone (groupSpent_gangGone hsp hq hcq hcr hn hl) hc hh
  generalize hu : reported (leaveRendezvous slot grp) (gangGone core slot g s) = u at ht
  have huc : getCore u core = getCore (gangGone core slot g s) core := by rw [← hu, getCore_reported]
  obtain ⟨l, hd⟩ := getCore_dropGroup (s := u) (by rw [getGroup, huc]; exact hgone)
  obtain ⟨p, c, ho⟩ := dropGroup_other core g.gslot u
  have hscratch (a : Nat) : memRead (getCore (dropGroup core g.gslot u) core).scratch a =
      if grp.sbase ≤ a ∧ a < grp.sbase + grp.ssize then 0 else memRead (getCore s core).scratch a := by
    rw [hd, huc, getCore_gangGone_same]
    exact memRead_zeroRange _ _ _ _
  refine ⟨dropGroup core g.gslot u, ?_, ?_, ?_, by rw [ho, ← hu]; rfl, by rw [ho, ← hu]; rfl, fun a h1 h2 => ?_, fun a h => ?_⟩
  · rw [execGangRetire_eq hg hs hf, ht]
  · rw [getGang, hd, huc, getCore_gangGone_same]
    exact mapFind_eq_none fun e he => ((mem_mapErase _ _ _).mp (List.mem_filter.mp he).1).2
  · rw [getGroup, hd]
    exact mapFind_mapErase_same _ _
  · rw [hscratch, if_pos ⟨h1, h2⟩]
  · rw [hscratch, if_neg (by omega)]

/-- An engine fault that a gang has not been given when it retires goes by the hardware rule (13 R285, log 80). -/
theorem gangRetire_faults (core slot : Nat) (g : Gang) : Moves (.gangRetire core slot)
    (fun s => getGang s core slot = some g ∧ gangSpent s core slot g = true ∧ ∃ f ∈ (getCore s core).faults, f.slot = slot)
    (fun s t => t = if ((getGroup s core g.gslot).map (·.held)).getD false then failTask core g.gslot 1 0x08 s
      else killContext g.ctx s) := by
  intro s ⟨hg, hs, hf⟩
  refine ⟨_, ?_, rfl⟩
  change execGangRetire core slot s = _
  have hn : (getCore s core).faults.any (fun f => f.slot == slot) = true := by simpa using hf
  simp only [execGangRetire, hg, hs, hn, Bool.not_true, Bool.false_eq_true, if_false, if_true]
  rfl

/-! ## Gangs formed from records (04 R83, R84) -/

/-- The payload of a record in the registers of a lane, in order from register 0. -/
def putPayload (lane : Nat) (l : List (Word × Nat)) (g : Gang) : Gang := l.foldl (fun g w => setVreg g w.2 lane w.1) g

theorem vreg_putPayload_outside (lane : Nat) (l : List (Word × Nat)) (g : Gang) (m h : Nat) (hl : lane < 64) (hh : h < 64)
    (ho : h ≠ lane ∨ m ∉ l.map Prod.snd) : vreg (putPayload lane l g) m h = vreg g m h := by
  refine List.foldlRecOn (motive := fun g' => vreg g' m h = vreg g m h) l _ rfl (fun b hb w hw => ?_)
  rw [vreg_setVreg_ne _ _ _ _ _ _ hl hh, hb]
  exact ho.symm.imp_left (fun hm e => hm (e ▸ List.mem_map_of_mem hw))

theorem vreg_putPayload_inside (lane : Nat) (l : List (Word × Nat)) (hn : (l.map Prod.snd).Nodup) (g : Gang) (w : Word × Nat)
    (hw : w ∈ l) (hl : lane < 64) : vreg (putPayload lane l g) w.2 lane = w.1 := by
  induction l generalizing g with
  | nil => simp at hw
  | cons x l ih =>
    simp only [List.map_cons, List.nodup_cons] at hn
    rcases List.mem_cons.mp hw with rfl | hw
    · exact (vreg_putPayload_outside lane l _ _ _ hl hl (.inr hn.1)).trans (vreg_setVreg_same _ _ _ _)
    · exact ih hn.2 _ hw

/-- The payloads of records, each in its lane. -/
def putRecords (l : List (Nat × SpawnRec)) (g : Gang) : Gang :=
  l.foldl (fun g e => putPayload e.1 (e.2.payload.zip (List.range e.2.payload.length)) g) g

theorem vreg_putRecords_outside (l : List (Nat × SpawnRec)) (hl : ∀ e ∈ l, e.1 < 64) (g : Gang) (m h : Nat) (hh : h < 64)
    (ho : h ∉ l.map Prod.fst) : vreg (putRecords l g) m h = vreg g m h := by
  refine List.foldlRecOn (motive := fun g' => vreg g' m h = vreg g m h) l _ rfl (fun b hb e he => ?_)
  rw [vreg_putPayload_outside _ _ _ _ _ (hl e he) hh (.inl fun x => ho (x ▸ List.mem_map_of_mem he)), hb]

theorem vreg_putRecords_inside (l : List (Nat × SpawnRec)) (hl : ∀ e ∈ l, e.1 < 64) (hn : (l.map Prod.fst).Nodup) (g : Gang)
    (e : Nat × SpawnRec) (he : e ∈ l) (i : Nat) (hi : i < e.2.payload.length) :
    vreg (putRecords l g) i e.1 = e.2.payload.getD i 0 := by
  induction l generalizing g with
  | nil => simp at he
  | cons x l ih =>
    simp only [List.map_cons, List.nodup_cons] at hn
    simp only [List.mem_cons, forall_eq_or_imp] at hl
    rcases List.mem_cons.mp he with rfl | he
    · refine (vreg_putRecords_outside l hl.2 _ _ _ hl.1 hn.1).trans ?_
      refine vreg_putPayload_inside e.1 _ ?_ g (e.2.payload.getD i 0, i) ?_ hl.1
      · rw [List.map_snd_zip (by simp)]
        exact List.nodup_range
      · exact List.mem_iff_getElem.mpr ⟨i, by simpa using hi, by simp [hi]⟩
    · exact ih hl.2 hn.2 _ he

theorem putPayload_other (lane : Nat) (l : List (Word × Nat)) (g : Gang) : ∃ v, putPayload lane l g = { g with v := v } :=
  List.foldlRecOn (motive := fun g' : Gang => ∃ v, g' = { g with v := v }) l _ ⟨g.v, rfl⟩
    (by rintro _ ⟨v, rfl⟩ w -; exact ⟨_, rfl⟩)

theorem putRecords_other (l : List (Nat × SpawnRec)) (g : Gang) : ∃ v, putRecords l g = { g with v := v } := by
  refine List.foldlRecOn (motive := fun g' : Gang => ∃ v, g' = { g with v := v }) l _ ⟨g.v, rfl⟩ (fun b ⟨v, hb⟩ e _ => ?_)
  obtain ⟨w, hw⟩ := putPayload_other e.1 (e.2.payload.zip (List.range e.2.payload.length)) b
  exact ⟨w, by rw [hw, hb]⟩

/-- The records of a core's queue are landed ones of one bucket, none of them stale. -/
structure OneBucket (c : Core) (gslot : Nat) (entry : BitVec 52) : Prop where
  slot : ∀ r ∈ c.spawnq, r.gslot = gslot
  entry : ∀ r ∈ c.spawnq, r.entry = entry
  landed : ∀ r ∈ c.spawnq, r.landed ≠ none
  current : ∀ r ∈ c.spawnq, r.ggen = mapGet 0 c.ggen gslot

section
variable {c : Core} {gslot : Nat} {entry : BitVec 52}

/-- The Geyser discards none of them. -/
theorem OneBucket.filter_current (h : OneBucket c gslot entry) :
    c.spawnq.filter (fun r => r.ggen == mapGet 0 c.ggen r.gslot) = c.spawnq :=
  List.filter_eq_self.mpr fun r hr => by rw [h.slot r hr, h.current r hr, beq_self_eq_true]

theorem OneBucket.bucketOf_eq (h : OneBucket c gslot entry) : bucketOf c gslot entry = c.spawnq :=
  List.filter_eq_self.mpr fun r hr => by
    simp only [h.slot r hr, h.entry r hr, h.current r hr, beq_self_eq_true, Bool.and_self]

theorem OneBucket.landedOf_perm (h : OneBucket c gslot entry) : (landedOf c (gslot, entry)).Perm c.spawnq := by
  have hl : c.spawnq.filter (fun r => r.landed.isSome) = c.spawnq :=
    List.filter_eq_self.mpr fun r hr => Option.isSome_iff_ne_none.mpr (h.landed r hr)
  rw [landedOf, h.bucketOf_eq, hl]
  exact sortBy_perm _ _

theorem OneBucket.bucketsOf_eq (h : OneBucket c gslot entry) (hne : c.spawnq ≠ []) : bucketsOf c = [(gslot, entry)] := by
  obtain ⟨r, l, hq⟩ := List.exists_cons_of_ne_nil hne
  have hr : r ∈ c.spawnq := by simp [hq]
  rw [bucketsOf, hq, List.foldl_cons]
  refine List.foldlRecOn (motive := (· = [(gslot, entry)])) l _ ?_ (fun m hm x hx => ?_)
  · simp [h.slot r hr, h.entry r hr, h.current r hr]
  · have hx : x ∈ c.spawnq := by simp [hq, hx]
    simp [hm, h.slot x hx, h.entry x hx]

end

section
variable {s : State} {core gslot : Nat} {grp : Group} {entry : BitVec 52}

/-- A bucket of as many landed records as its group is wide gives them all. -/
theorem bucketGives_full (h : OneBucket (getCore s core) gslot entry) (hg : getGroup s core gslot = some grp)
    (hn : (getCore s core).spawnq.length = grp.width) (hp : mapFind s.preempts grp.ctx = none) :
    bucketGives s core true (gslot, entry) = landedOf (getCore s core) (gslot, entry) := by
  have hg : mapFind (getCore s core).groups gslot = some grp := hg
  have hl := h.landedOf_perm.length_eq.trans hn
  simp only [bucketGives, groupWidth, hg, hp, Option.map_some, Option.getD_some, Option.isSome_none, Bool.false_eq_true,
    if_false, if_true, hl, Nat.le_refl]
  exact List.take_of_length_le (Nat.le_of_eq hl)

theorem chooseBucket_full (h : OneBucket (getCore s core) gslot entry) (hg : getGroup s core gslot = some grp)
    (hn : (getCore s core).spawnq.length = grp.width) (hp : mapFind s.preempts grp.ctx = none)
    (hne : (getCore s core).spawnq ≠ []) :
    chooseBucket s core true = some ((gslot, entry), landedOf (getCore s core) (gslot, entry)) := by
  have hl : (landedOf (getCore s core) (gslot, entry)).isEmpty = false :=
    List.isEmpty_eq_false_iff.mpr fun he => hne (List.perm_nil.mp (he ▸ h.landedOf_perm).symm)
  simp only [chooseBucket, h.bucketsOf_eq hne, List.map_cons, List.map_nil, bucketGives_full h hg hn hp]
  rw [List.filter_cons_of_pos (by simp [hl])]
  rfl

/-- The state from which the Geyser chooses: stale records are gone (04 R78). -/
def staleDropped (core : Nat) (s : State) : State :=
  modCore s core (fun c => { c with spawnq := c.spawnq.filter (fun r => r.ggen == mapGet 0 c.ggen r.gslot) })

theorem geyser_of_chosen {b : Nat × BitVec 52} {recs : List SpawnRec}
    (h : chooseBucket (staleDropped core s) core true = some (b, recs)) :
    geyser core s = formGang core b recs (staleDropped core s) := by
  unfold staleDropped at h ⊢
  simp only [geyser, h]

theorem getCore_staleDropped (h : OneBucket (getCore s core) gslot entry) :
    getCore (staleDropped core s) core = getCore s core := by
  rw [staleDropped, getCore_modCore_same, h.filter_current]

/-- A full bucket that is alone in the queue forms a gang of all its records. -/
theorem geyser_full (h : OneBucket (getCore s core) gslot entry) (hg : getGroup s core gslot = some grp)
    (hn : (getCore s core).spawnq.length = grp.width) (hp : mapFind s.preempts grp.ctx = none)
    (hne : (getCore s core).spawnq ≠ []) : geyser core s =
      formGang core (gslot, entry) (landedOf (getCore s core) (gslot, entry)) (staleDropped core s) := by
  have hc := getCore_staleDropped h
  rw [← hc] at h hn hne ⊢
  exact geyser_of_chosen (chooseBucket_full h (by rw [getGroup, hc]; exact hg) hn hp hne)

end

/-- A gang formed from records is new: it stands at its records' entry, with one split of a lane for each. -/
theorem spawnedGang_eq (c : Core) (slot gslot : Nat) (grp : Group) (recs : List SpawnRec) : ∃ v j,
    spawnedGang c slot gslot grp recs =
    { ctx := grp.ctx, gslot := gslot, id := 128 + slot, role := 3, width := grp.width, regs := grp.generalRegs, v := v,
      base := chooseBase c grp.width, quantum := grp.quantum, deadline := grp.pdl, join := j,
      splits := [{ mask := firstLanes recs.length, pc := ((recs.head?).map (·.entry)).getD 0 }] } := by
  obtain ⟨v, hv⟩ := putRecords_other ((List.range recs.length).zip recs) _
  exact ⟨v, _, hv⟩

/-- Each of its lanes has the payload of the lane's record. -/
theorem vreg_spawnedGang (c : Core) (slot gslot : Nat) (grp : Group) (recs : List SpawnRec) (h : Nat) (hh : h < recs.length)
    (h64 : recs.length ≤ 64) (i : Nat) (hi : i < recs[h].payload.length) :
    vreg (spawnedGang c slot gslot grp recs) i h = recs[h].payload.getD i 0 := by
  refine vreg_putRecords_inside ((List.range recs.length).zip recs) (fun e he => ?_) ?_ _ (h, recs[h]) ?_ i hi
  · have := List.mem_range.mp (List.of_mem_zip (a := e.1) (b := e.2) he).1
    omega
  · rw [List.map_fst_zip (by simp)]
    exact List.nodup_range
  · exact List.mem_iff_getElem.mpr ⟨h, by simpa using hh, by simp⟩

/-- The gang as it comes to its core: present where its image fits (04 R84). -/
def formedGang (c : Core) (slot gslot : Nat) (grp : Group) (recs : List SpawnRec) (cycles : Nat) : Gang :=
  let g := spawnedGang c slot gslot grp recs
  { g with residency := if imageFits c g then .present else .waitingRoom, since := cycles }

theorem formGang_eq {s : State} {core slot : Nat} {b : Nat × BitVec 52} {grp : Group} (recs : List SpawnRec)
    (hg : getGroup s core b.1 = some grp) (hs : freeSlotOf (getCore s core) = some slot) : formGang core b recs s =
      setCore s core { getCore s core with
        spawnq := (getCore s core).spawnq.filter (fun r => !recs.contains r),
        gangs := mapSet (getCore s core).gangs slot (formedGang (getCore s core) slot b.1 grp recs s.cycles) } := by
  have hg : mapFind (getCore s core).groups b.1 = some grp := hg
  simp only [formGang, hg, hs]
  rfl

/-- A gang is one formed from the records of a bucket for a group, in a slot of a core (04 R84, R85). -/
def FormedFrom (c : Core) (slot gslot : Nat) (grp : Group) (entry : BitVec 52) (g : Gang) : Prop :=
  g.id = 128 + slot ∧ g.ctx = grp.ctx ∧ g.gslot = gslot ∧ g.width = grp.width ∧ g.regs = grp.generalRegs ∧
    (∃ sp, g.splits = [sp] ∧ sp.mask = firstLanes grp.width ∧ sp.pc = entry ∧ sp.slot = 0) ∧
    (g.residency = if imageFits c g then .present else .waitingRoom) ∧
    ∀ h, h < grp.width → ∃ r ∈ c.spawnq, ∀ i, i < r.payload.length → vreg g i h = r.payload.getD i 0

theorem formedGang_formedFrom {c : Core} {slot gslot : Nat} {grp : Group} {entry : BitVec 52} {recs : List SpawnRec}
    (cycles : Nat) (hpos : 0 < grp.width) (h64 : grp.width ≤ 64) (hn : recs.length = grp.width)
    (he : ∀ r ∈ recs, r.entry = entry) (hm : ∀ r ∈ recs, r ∈ c.spawnq) :
    FormedFrom c slot gslot grp entry (formedGang c slot gslot grp recs cycles) := by
  have hv := vreg_spawnedGang c slot gslot grp recs
  obtain ⟨v, j, hj⟩ := spawnedGang_eq c slot gslot grp recs
  obtain ⟨r, l, rfl⟩ := List.exists_cons_of_length_pos (hn ▸ hpos)
  have hs : (formedGang c slot gslot grp (r :: l) cycles).splits = [{ mask := firstLanes grp.width, pc := entry }] := by
    rw [← hn, ← he r (by simp)]
    exact congrArg Gang.splits hj
  refine ⟨congrArg Gang.id hj, congrArg Gang.ctx hj, congrArg Gang.gslot hj, congrArg Gang.width hj, congrArg Gang.regs hj,
    ⟨_, hs, rfl, rfl, rfl⟩, rfl, fun h hh => ⟨(r :: l)[h], hm _ (List.getElem_mem _), fun i hi => ?_⟩⟩
  exact hv h (hn ▸ hh) (hn ▸ h64) i hi

theorem geyserForm_forms (core slot gslot : Nat) (grp : Group) (entry : BitVec 52) : Moves (.geyserForm core)
    (fun s => let c := getCore s core
      0 < grp.width ∧ grp.width ≤ 64 ∧ c.spawnq.length = grp.width ∧ getGroup s core gslot = some grp ∧
      freeSlotOf c = some slot ∧ mapFind s.preempts grp.ctx = none ∧ ∀ r ∈ c.spawnq, r.gslot = gslot ∧ r.entry = entry ∧
        r.landed ≠ none ∧ r.ggen = mapGet 0 c.ggen gslot)
    (fun s t => (getCore t core).spawnq = [] ∧ ∃ g, getGang t core slot = some g ∧ g.id = 128 + slot ∧ g.ctx = grp.ctx ∧
      g.gslot = gslot ∧ g.width = grp.width ∧ g.regs = grp.generalRegs ∧
      (∃ sp, g.splits = [sp] ∧ sp.mask = firstLanes grp.width ∧ sp.pc = entry ∧ sp.slot = 0) ∧
      (g.residency = if imageFits (getCore s core) g then .present else .waitingRoom) ∧
      ∀ h, h < grp.width → ∃ r ∈ (getCore s core).spawnq, ∀ i, i < r.payload.length → vreg g i h = r.payload.getD i 0) := by
  intro s ⟨hpos, h64, hn, hg, hs, hp, hr⟩
  simp only [imp_and, forall_and] at hr
  obtain ⟨hslot, hentry, hlanded, hcurrent⟩ := hr
  have hb : OneBucket (getCore s core) gslot entry := ⟨hslot, hentry, hlanded, hcurrent⟩
  have hne : (getCore s core).spawnq ≠ [] := List.ne_nil_of_length_pos (hn ▸ hpos)
  have hc := getCore_staleDropped hb
  have hperm := hb.landedOf_perm
  have hf := formGang_eq (s := staleDropped core s) (b := (gslot, entry)) (landedOf (getCore s core) (gslot, entry))
    (by rw [getGroup, hc]; exact hg) (hc ▸ hs)
  rw [hc] at hf
  refine ⟨geyser core s, ?_, ?_, formedGang (getCore s core) slot gslot grp (landedOf (getCore s core) (gslot, entry)) s.cycles,
    ?_, formedGang_formedFrom _ hpos h64 (hperm.length_eq.trans hn) (fun r h => hentry r (hperm.mem_iff.mp h))
      (fun r h => hperm.mem_iff.mp h)⟩
  · change execGeyserForm core s = _
    rw [execGeyserForm, if_neg (by simpa using hne)]
  · rw [geyser_full hb hg hn hp hne, hf, getCore_setCore_same, List.filter_eq_nil_iff]
    intro r h
    simpa using hperm.mem_iff.mpr h
  · rw [geyser_full hb hg hn hp hne, hf, getGang, getCore_setCore_same]
    exact mapFind_mapSet_same _ _ _

/-! ## Records of the spill area (04 R81) -/

/-- A core that has taken a batch of records of a group into its queue; they are on their way. -/
def batchQueued (k gen : Nat) (recs : List SpawnRec) (c : Core) : Core :=
  { c with spawnq := c.spawnq ++ recs.map (fun r => { r with gslot := k, ggen := gen, landed := none }) }

/-- A group without the records of a batch. -/
def batchTaken (n : Nat) (g : Group) : Group := { g with spilled := g.spilled.drop n, spillHead := g.spillHead + n }

theorem refillBatchBegin_takes (core k : Nat) (g : Group) (recs : List SpawnRec) (u : State) : Moves (.refillBatchBegin core)
    (fun s => let n := min (batchSize g) g.spilled.length
      (getCore s core).groups.find? (fun e => refillReady s core e.1 e.2) = some (k, g) ∧
      readSpill core g n g.spillHead (chargeBudget 3 core (levelOf s g) n s) = (some recs, u))
    (fun _ t => let n := min (batchSize g) g.spilled.length
      (getCore t core).spawnq = (getCore u core).spawnq ++ recs.map (fun r =>
        { r with gslot := k, ggen := mapGet 0 (getCore u core).ggen k, landed := none }) ∧
      t.mem = u.mem ∧ (getGroup t core k = (getGroup u core k).map (fun g =>
        { g with spilled := g.spilled.drop n, spillHead := g.spillHead + n }))) := by
  intro s ⟨hf, hr⟩
  have hq := getCore_modCore_same u core (batchQueued k (mapGet 0 (getCore u core).ggen k) recs)
  refine ⟨modGroup (modCore u core (batchQueued k (mapGet 0 (getCore u core).ggen k) recs)) core k
    (batchTaken (min (batchSize g) g.spilled.length)), ?_, ?_, rfl, ?_⟩
  · change execRefillBatchBegin core s = _
    simp only [execRefillBatchBegin, hf, beginRefill, hr]
    rfl
  · rw [getCore_modGroup_same, hq]
    rfl
  · rw [getGroup_modGroup_same, getGroup, hq]
    rfl

theorem spillRecordLand_lands (core : Nat) (pre : List SpawnRec) (r : SpawnRec) (post : List SpawnRec) :
    Moves (.spillRecordLand core)
    (fun s => (getCore s core).spawnq = pre ++ r :: post ∧ r.landed = none ∧ ∀ q ∈ pre, q.landed ≠ none)
    (fun s t => OnlyCore core s t { getCore s core with spawnq := pre ++ { r with landed := some s.cycles } :: post }) := by
  intro s ⟨hq, hr, hp⟩
  have ho := onlyCore_modCore s core (fun c => { c with spawnq := landFirst s.cycles c.spawnq })
  rw [hq, landFirst_append _ _ _ _ hp hr] at ho
  refine ⟨_, ?_, ho⟩
  change execSpillRecordLand core s = _
  rw [execSpillRecordLand, if_neg (by simp [hq])]

/-- Settles O52: each clause is what the step's own lemma above says. -/
theorem issueAndResidency : Obligations.IssueAndResidency :=
  ⟨issueCycle_fills, issueCycle_squashes, scoreboardRebuild_issues, longLatencyComplete_completes,
    liftRecallDecision_recalls, gangLiftComplete_lifts, gangRecallComplete_recalls, gangRetire_leaves,
    gangRetire_ends_group, gangRetire_faults, geyserForm_forms, refillBatchBegin_takes, spillRecordLand_lands⟩

end Sys2Proof.Machine
end

section
/-! SUPPORT. The collectives (03 R65 to R67, 19 R460, 20 R497, R502, R514): ranks, masks and counts of lanes, and the tree by
which `redx` combines the acting lanes. -/

namespace Sys2Proof.Machine

/-! ## The instructions -/

/-- An instruction whose meaning is `compute` of a value that reads no state computes that value. -/
theorem computes_of_compute {i : Instr} {op : Nat} {f : Form} (u val : Ctx → Nat → Nat)
    (hf : fieldsOf i = some (fieldsOfForm op f))
    (hb : i.WellFormed → illegalForm op f = none) (he : ∀ s, exec i s = issueForm op f (compute u) s)
    (hv : ∀ x h, u x h = val x h) : Computes i (fun x _ h => val x h) := by
  obtain rfl : u = val := funext fun x => funext fun h => hv x h
  exact computes_of i _ _ (fun x _ h => u x h) hf hb he (fun _ _ => rfl)

/-- `vote` computes the value of the whole split (20 R514). -/
theorem vote_computes (f : Form) : Computes (.vote f) (fun x _ _ => voteVal x) :=
  computes_of_compute (op := 0x43) (f := f) _ (fun x _ => voteVal x) rfl (legal_of_form rfl rfl) (fun _ => rfl) (fun _ _ => rfl)

/-- `shfl` computes a of the lane of the rank it reads, or its own where there is no such rank (20 R502). -/
theorem shfl_computes (f : Form) : Computes (.shfl f) (fun x _ h =>
    if 0 ≤ shflSource x h ∧ shflSource x h < laneCount x.sp.mask then x.a (x.ranks.getD (shflSource x h).toNat h)
    else x.a h) :=
  computes_of_compute (op := 0x44) (f := f) _ _ rfl (legal_of_form rfl rfl) (fun _ => rfl)
    (fun x h => by simp only [Bool.and_eq_true, decide_eq_true_eq])

/-- `match` computes by the classes of equal a (19 R460). -/
theorem matchOp_computes (f : Form) : Computes (.matchOp f) (fun x _ h =>
    if x.mn = 0 then x.rankMask (matchClass x h)
    else if x.mn = 1 then x.rank (lowestLane (maskOf (matchClass x h)))
    else if x.mn = 2 then (x.lanes.filter (fun k => lowestLane (maskOf (matchClass x k)) == k)).length
    else ((matchClass x h).filter (fun k => k < h)).length) := by
  refine computes_of_compute (op := 0x45) (f := f) _ _ rfl (legal_of_form rfl rfl) (fun _ => rfl) (fun x h => ?_)
  generalize x.mn = n
  rcases n with _ | _ | _ | n <;> rfl

/-- `redx` computes the reduction over the acting lanes, 0 where no lane acts (20 R497). -/
theorem redx_computes (f : Form) : Computes (.redx f) (fun x _ _ => if x.act = 0 then 0 else redxVal x) :=
  computes_of_compute (op := 0x46) (f := f) (fun x _ => if x.act == 0 then 0 else redxVal x)
    (fun x _ => if x.act = 0 then 0 else redxVal x) rfl (legal_of_form rfl rfl) (fun _ => rfl)
    (fun x _ => by simp only [beq_iff_eq])

/-- Settles O20: each instruction is `compute` of its value. -/
theorem collectives : Obligations.Collectives :=
  ⟨vote_computes, shfl_computes, matchOp_computes, redx_computes⟩

/-! ## Ranks and counts of lanes (03 R65) -/

theorem popNat_eq_countP (n x : Nat) : popNat n x = (List.range n).countP (fun i => x.testBit i) := by
  induction n generalizing x with
  | zero => rfl
  | succ n ih =>
    rw [popNat, ih, List.range_succ_eq_map, List.countP_cons, List.countP_map, Nat.add_comm]
    congr 1
    · exact List.countP_congr fun i _ => by simp [Nat.testBit_succ]
    · rw [Nat.testBit_zero]
      rcases Nat.mod_two_eq_zero_or_one x with h | h <;> simp [h]

theorem laneCount_eq_countP (m : Mask) : laneCount m = (List.range 64).countP (fun h => laneIn m h) :=
  popNat_eq_countP 64 m.toNat

theorem laneCount_eq_length (m : Mask) : laneCount m = (lanesOf m).length := by
  rw [laneCount_eq_countP, lanesOf, List.countP_eq_length_filter]

theorem laneCount_pos {m : Mask} {h : Nat} (hm : laneIn m h = true) : 0 < laneCount m := by
  rw [laneCount_eq_length]
  exact List.length_pos_of_mem ((mem_lanesOf m h).mpr ⟨laneIn_lt m h hm, hm⟩)

theorem lanesOf_ne_nil {m : Mask} (hm : m ≠ 0) : lanesOf m ≠ [] := fun he => hm (BitVec.eq_of_getLsbD_eq fun i hi => by
  have hn : i ∉ lanesOf m := he ▸ List.not_mem_nil
  rw [mem_lanesOf, laneIn] at hn
  simpa [hi] using hn)

theorem laneIn_firstLanes (n h : Nat) (hh : h < 64) : laneIn (firstLanes n) h = decide (h < n) := by
  rw [laneIn, firstLanes, BitVec.getLsbD_ofNat, Nat.testBit_two_pow_sub_one, decide_eq_true hh, Bool.true_and]

/-- Of the numbers below h + n, those below h are counted. -/
theorem countP_range_lt (p : Nat → Bool) (h n : Nat) :
    (List.range (h + n)).countP (fun i => p i && decide (i < h)) = (List.range h).countP p := by
  have low : (List.range h).countP (fun i => p i && decide (i < h)) = (List.range h).countP p :=
    List.countP_congr fun i hi => by simp [List.mem_range.mp hi]
  have high : ((List.range n).map (h + ·)).countP (fun i => p i && decide (i < h)) = 0 :=
    List.countP_eq_zero.mpr fun i hi => by
      obtain ⟨j, -, rfl⟩ := List.mem_map.mp hi
      simp
  rw [List.range_add, List.countP_append, low, high, Nat.add_zero]

/-- The rank of a lane is the number of lanes of the mask below it. -/
theorem rankIn_eq_countP (m : Mask) (h : Nat) (hh : h ≤ 64) : rankIn m h = (List.range h).countP (fun i => laneIn m i) := by
  rw [rankIn, laneCount_eq_countP, ← countP_range_lt _ h (64 - h), Nat.add_sub_cancel' hh]
  exact List.countP_congr fun i hi => by rw [laneIn_and, laneIn_firstLanes _ _ (List.mem_range.mp hi)]

theorem rankIn_lt (m : Mask) {h : Nat} (hh : h < 64) : rankIn m h < 64 := by
  rw [rankIn_eq_countP m h hh.le]
  exact (List.countP_le_length.trans_eq List.length_range).trans_lt hh

/-- A mask over ranks has the bit of the rank of each of its lanes. -/
theorem testBit_rankMask (x : Ctx) (l : List Nat) (hl : ∀ h ∈ l, h < 64) (r : Nat) :
    (x.rankMask l).testBit r = true ↔ ∃ h ∈ l, x.rank h = r := by
  rw [Ctx.rankMask, BitVec.testBit_toNat]
  by_cases hr : r < 64
  · have := laneIn_maskOf (l.map x.rank) r hr
    rw [laneIn] at this
    rw [this, decide_eq_true_iff, List.mem_map]
  · refine ⟨fun h => absurd (BitVec.lt_of_getLsbD h) hr, fun ⟨h, hm, he⟩ => ?_⟩
    exact absurd (he ▸ rankIn_lt x.sp.mask (hl h hm)) hr

/-! ## `vote` (20 R514) -/

/-- The lanes that `vote` counts: those that act with their predicate true. -/
def votesOf (x : Ctx) (k : Nat) : List Nat := x.lanes.filter (laneIn (preg x.gang k))

section
variable {x : Ctx} {k : Nat}

theorem mem_votesOf (h : Nat) : h ∈ votesOf x k ↔ h < 64 ∧ laneIn x.act h = true ∧ laneIn (preg x.gang k) h = true := by
  rw [votesOf, List.mem_filter, Ctx.lanes, mem_lanesOf, and_assoc]

theorem lt_of_mem_votesOf (h : Nat) (hm : h ∈ votesOf x k) : h < 64 := ((mem_votesOf h).mp hm).1

theorem length_votesOf : (votesOf x k).length = laneCount (x.act &&& preg x.gang k) := by
  rw [laneCount_eq_length, votesOf, Ctx.lanes, lanesOf, lanesOf, List.filter_filter]
  simp only [laneIn_and, Bool.and_comm]

/-- They come in rising order. -/
theorem votesOf_sorted : (votesOf x k).Pairwise (· < ·) :=
  (List.pairwise_lt_range.filter _).filter _

variable (hk : (namedReg x.f.e.a.toNat).map (·.2) = some k)
include hk

/-- `vote` in terms of the lanes it counts. -/
theorem voteVal_eq : voteVal x = match x.mn with
    | 0 => x.rankMask (votesOf x k)
    | 1 => if x.f.e.kd.toNat == 2 then
        (if (if x.immN == 0 then x.lanes.length else x.immN) ≤ (votesOf x k).length then 1 else 0)
      else (votesOf x k).length
    | 2 => match votesOf x k with
      | h :: _ => x.rank h
      | [] => 0xFFFFFFFF
    | _ => if (votesOf x k).length == 0 || (votesOf x k).length == x.lanes.length then 0xFFFFFFFF else 0 := by
  obtain ⟨⟨file, n⟩, hn, rfl⟩ := Option.map_eq_some_iff.mp hk
  simp only [voteVal, hn, votesOf]
  rfl

theorem voteVal_mask (h0 : x.mn = 0) (r : Nat) : (voteVal x).testBit r = true ↔
    ∃ h, h < 64 ∧ (laneIn x.act h = true ∧ laneIn (preg x.gang k) h = true) ∧ rankIn x.sp.mask h = r := by
  rw [voteVal_eq hk, h0]
  refine (testBit_rankMask x _ lt_of_mem_votesOf r).trans (exists_congr fun h => ?_)
  rw [mem_votesOf, and_assoc, Ctx.rank]

theorem voteVal_count (h1 : x.mn = 1) (hd : x.f.e.kd ≠ 2#2) : voteVal x = laneCount (x.act &&& preg x.gang k) := by
  have hd : x.f.e.kd.toNat ≠ 2 := fun h => hd (BitVec.eq_of_toNat_eq h)
  rw [voteVal_eq hk, h1]
  simp only [hd, beq_iff_eq, if_false, length_votesOf]

theorem voteVal_none (h2 : x.mn = 2) (hn : ∀ h, h < 64 → ¬ (laneIn x.act h = true ∧ laneIn (preg x.gang k) h = true)) :
    voteVal x = 0xFFFFFFFF := by
  have he : votesOf x k = [] := List.eq_nil_iff_forall_not_mem.mpr fun h hm => by
    obtain ⟨hh, ho⟩ := (mem_votesOf h).mp hm
    exact hn h hh ho
  rw [voteVal_eq hk, h2, he]
  rfl

theorem voteVal_first (h2 : x.mn = 2) (h : Nat) (hh : h < 64) (ho : laneIn x.act h = true ∧ laneIn (preg x.gang k) h = true)
    (hl : ∀ i, i < h → ¬ (laneIn x.act i = true ∧ laneIn (preg x.gang k) i = true)) : voteVal x = rankIn x.sp.mask h := by
  have hm : h ∈ votesOf x k := (mem_votesOf h).mpr ⟨hh, ho⟩
  have hs := votesOf_sorted (x := x) (k := k)
  rw [voteVal_eq hk, h2]
  cases hv : votesOf x k with
  | nil => simp [hv] at hm
  | cons j l =>
    rw [hv] at hm hs
    have hj : ¬ j < h := fun hj => hl j hj ((mem_votesOf j).mp (hv ▸ List.mem_cons_self)).2
    rcases List.mem_cons.mp hm with rfl | hm
    · rfl
    · exact absurd ((List.pairwise_cons.mp hs).1 h hm) hj

end

/-! ## `match` and `shfl` (19 R460, 20 R502) -/

theorem mem_matchClass (x : Ctx) (h k : Nat) : k ∈ matchClass x h ↔ k < 64 ∧ laneIn x.act k = true ∧ x.a k = x.a h := by
  rw [matchClass, List.mem_filter, Ctx.lanes, mem_lanesOf, and_assoc, beq_iff_eq]

/-- A 32-bit number read as a signed one. -/
theorem intOf_signed_word (k : Nat) (hk : k < 2 ^ 32) :
    intOf 32 true (b64 k) = if k < 2 ^ 31 then (k : Int) else (k : Int) - 2 ^ 32 := by
  simp only [intOf, b64, BitVec.toNat_ofNat, Bool.true_and, decide_eq_true_eq]
  split <;> split <;> omega

/-- A remainder is in range, and differs by a multiple. -/
theorem modInt_spec (a : Int) (w : Nat) (hw : 0 < w) :
    0 ≤ (modInt a w : Int) ∧ (modInt a w : Int) < w ∧ (w : Int) ∣ a - modInt a w := by
  have h0 := Int.emod_nonneg a (b := (w : Int)) (by omega)
  rw [modInt, Int.toNat_of_nonneg h0]
  exact ⟨h0, Int.emod_lt_of_pos a (by omega), Int.dvd_self_sub_emod⟩

/-- The rank that `shfl` reads, by its mode. -/
theorem shflSource_spec (x : Ctx) (h : Nat) (hm : laneIn x.sp.mask h = true) :
    let w := laneCount x.sp.mask
    let r := rankIn x.sp.mask h
    let k : Nat := x.b h % 2 ^ 32
    let ks : Int := if k < 2 ^ 31 then k else (k : Int) - 2 ^ 32
    (x.mn = 0 → shflSource x h = k) ∧
    (x.mn = 1 → x.md = 1 → shflSource x h = r + ks) ∧
    (x.mn = 1 → x.md ≠ 1 → 0 ≤ shflSource x h ∧ shflSource x h < w ∧ (w : Int) ∣ r + ks - shflSource x h) ∧
    (x.mn = 2 → ∃ n : Nat, shflSource x h = n ∧ ∀ i, n.testBit i = (r.testBit i ^^ k.testBit i)) ∧
    (x.mn = 3 → shflSource x h = ks - r) := by
  intro w r k ks
  have hs : intOf 32 true (b64 k) = ks := intOf_signed_word k (Nat.mod_lt _ (by decide))
  have he : shflSource x h = match x.mn with
      | 0 => (k : Int)
      | 1 => if x.md == 1 then (r : Int) + ks else modInt ((r : Int) + ks) w
      | 2 => (r ^^^ k : Nat)
      | _ => ks - r := by
    rw [← hs]
    rfl
  rw [he]
  refine ⟨fun h0 => by simp only [h0], fun h1 hd => by simp only [h1, hd, beq_self_eq_true, if_true], fun h1 hd => ?_,
    fun h2 => ⟨r ^^^ k, by simp only [h2], fun i => Nat.testBit_xor ..⟩, fun h3 => by simp only [h3]⟩
  simp only [h1, beq_iff_eq, hd, if_false]
  exact modInt_spec _ _ (laneCount_pos hm)

/-! ## The tree of `redx` (03 R67, 20 R497) -/

/-- The values at the positions of a level of the tree, some of them empty, each made of some lanes by a relation: the lanes of
all of them, in order. -/
inductive Level (R : List Nat → Nat → Prop) : List Nat → List (Option Nat) → Prop
  | nil : Level R [] []
  | skip {lanes l} : Level R lanes l → Level R lanes (none :: l)
  | value {here lanes v l} : R here v → Level R lanes l → Level R (here ++ lanes) (some v :: l)

section
variable {R : List Nat → Nat → Prop} {f : Nat → Nat → Nat}

/-- The next level up is made of the same lanes. -/
theorem Level.up (hf : ∀ a b v w, R a v → R b w → R (a ++ b) (f v w)) {lanes : List Nat} {l : List (Option Nat)}
    (h : Level R lanes l) : Level R lanes (treeLevel f l) := by
  fun_induction treeLevel f l generalizing lanes with
  | case1 x y rest ih =>
    cases h with | value hx h => cases h with | value hy h =>
    rw [← List.append_assoc]
    exact .value (hf _ _ _ _ hx hy) (ih h)
  | case2 x rest ih =>
    cases h with | value hx h => cases h with | skip h =>
    exact .value hx (ih h)
  | case3 y rest ih =>
    cases h with | skip h =>
    cases h with
    | skip h => exact .skip (ih h)
    | value hy h => exact .value hy (ih h)
  | case4 x => exact h
  | case5 => exact h

theorem length_treeLevel (l : List (Option Nat)) : (treeLevel f l).length = (l.length + 1) / 2 := by
  fun_induction treeLevel f l with
  | case1 _ _ _ ih | case2 _ _ ih | case3 _ _ ih =>
    simp only [List.length_cons, ih]
    omega
  | case4 | case5 => simp

/-- The tree, of enough levels, ends in a value made of all the lanes. -/
theorem treeReduce_of_level (hf : ∀ a b v w, R a v → R b w → R (a ++ b) (f v w)) (n : Nat) (lanes : List Nat)
    (l : List (Option Nat)) (h : Level R lanes l) (hl : l.length ≤ 2 ^ n) (hne : lanes ≠ []) :
    ∃ v, treeReduce f n l = some v ∧ R lanes v := by
  induction n generalizing l with
  | zero =>
    cases h with
    | nil => exact absurd rfl hne
    | skip h =>
      obtain rfl := List.length_eq_zero_iff.mp (Nat.le_zero.mp (Nat.le_of_succ_le_succ hl))
      cases h
      exact absurd rfl hne
    | value hv h =>
      obtain rfl := List.length_eq_zero_iff.mp (Nat.le_zero.mp (Nat.le_of_succ_le_succ hl))
      cases h
      exact ⟨_, rfl, by rwa [List.append_nil]⟩
  | succ n ih => exact ih _ (h.up hf) (by rw [length_treeLevel]; omega)

end

theorem le_two_pow_clog2 (n : Nat) : n ≤ 2 ^ clog2 n := by
  unfold clog2
  split
  · assumption
  · have := Nat.lt_log2_self (n := n - 1)
    omega

/-- The leaves of the tree are a level of the acting lanes. -/
theorem level_leaves {R : List Nat → Nat → Prop} (act : Mask) (leaf : Nat → Nat)
    (hr : ∀ h, R [h] (leaf h)) (l : List Nat) :
    Level R (l.filter (laneIn act)) (l.map (fun h => if laneIn act h then some (leaf h) else none)) := by
  induction l with
  | nil => exact .nil
  | cons h l ih =>
    by_cases ha : laneIn act h = true
    · simp only [List.map_cons, ha, if_true, List.filter_cons_of_pos]
      exact .value (hr h) ih
    · simp only [List.map_cons, if_neg ha]
      rw [List.filter_cons_of_neg ha]
      exact .skip ih

/-- The acting lanes of a split, in rank order. -/
theorem filter_ranks (x : Ctx) (hs : x.act &&& ~~~x.sp.mask = 0) : x.ranks.filter (laneIn x.act) = lanesOf x.act := by
  rw [Ctx.ranks, lanesOf, List.filter_filter, lanesOf]
  refine List.filter_congr fun h hh => ?_
  have hb := congrArg (laneIn · h) hs
  simp only [laneIn_and, laneIn_not _ _ (List.mem_range.mp hh)] at hb
  have h0 : laneIn 0 h = false := by simp [laneIn]
  rw [h0] at hb
  cases ha : laneIn x.act h
  · rfl
  · simpa [ha] using hb

/-- What a lane contributes to `redx`: its a, as it reads under the type for a sum, a minimum or a maximum. -/
def redxLeaf (x : Ctx) (h : Nat) : Nat :=
  (if 3 ≤ x.mn then b64 (x.a h) else if isFlt x.t then fminVal x.t (b64 (x.a h)) (b64 (x.a h))
    else iminVal x.t (b64 (x.a h)) (b64 (x.a h))).toNat

/-- The leaves of the tree of `redx`, by rank. -/
def redxLeaves (x : Ctx) : List (Option Nat) := x.ranks.map (fun h => if laneIn x.act h then some (redxLeaf x h) else none)

/-- The tree of `redx` by an operation. -/
def redxTree (x : Ctx) (f : BitVec 64 → BitVec 64 → BitVec 64) : Nat :=
  (treeReduce (fun v w => (f (b64 v) (b64 w)).toNat) (clog2 (redxLeaves x).length) (redxLeaves x)).getD 0

/-- `redx` in terms of its tree. -/
theorem redxVal_eq (x : Ctx) : redxVal x = match x.mn with
    | 0 => if isFlt x.t then redxTree x (faddVal x.t x.rm)
      else (writeInt x.t x.f.e.sat ((x.lanes.map x.a).foldl (fun n v => n + readInt x.t (b64 v)) 0)).toNat
    | 1 => redxTree x (if isFlt x.t then fminVal x.t else iminVal x.t)
    | 2 => redxTree x (if isFlt x.t then fmaxVal x.t else imaxVal x.t)
    | 3 => redxTree x (andVal x.t)
    | 4 => redxTree x (orVal x.t)
    | _ => redxTree x (xorVal x.t) := rfl

/-- What holds of each lane's own contribution, and of two that combine, holds of the reduction over the acting lanes. -/
theorem redxTree_of {x : Ctx} {R : List Nat → Nat → Prop} {f : BitVec 64 → BitVec 64 → BitVec 64} (ha : x.act ≠ 0)
    (hs : x.act &&& ~~~x.sp.mask = 0) (hleaf : ∀ h, R [h] (redxLeaf x h))
    (hf : ∀ a b v w, R a v → R b w → R (a ++ b) (f (b64 v) (b64 w)).toNat) : R (lanesOf x.act) (redxTree x f) := by
  have hl := level_leaves x.act (redxLeaf x) hleaf x.ranks
  rw [filter_ranks x hs] at hl
  obtain ⟨v, hv, hr⟩ := treeReduce_of_level hf _ _ _ hl (le_two_pow_clog2 _) (lanesOf_ne_nil ha)
  rw [redxTree, redxLeaves, hv]
  exact hr

/-! ### Integers under a type (05 R93) -/

theorem typeWidth_le (t : Nat) : typeWidth t ≤ 64 := by
  unfold typeWidth
  split <;> decide

theorem typeWidth_le_of_ne (t : Nat) (h : typeWidth t ≠ 64) : typeWidth t ≤ 32 := by
  unfold typeWidth at h ⊢
  split at h <;> simp_all

theorem toNat_ofInt_mod (i : Int) (n : Nat) (hn : n ≤ 64) : (BitVec.ofInt 64 i).toNat % 2 ^ n = (i % 2 ^ n).toNat := by
  have hd : (2 ^ n : Int) ∣ 2 ^ 64 := pow_dvd_pow 2 hn
  have h0 : 0 ≤ i % 2 ^ 64 := Int.emod_nonneg i (by decide)
  rw [BitVec.toNat_ofInt, Nat.cast_pow, Nat.cast_ofNat, ← Int.emod_emod_of_dvd i hd, Int.toNat_emod h0 (by positivity)]
  norm_cast

/-- An integer read from a pattern has its low bits. -/
theorem intOf_emod (n : Nat) (signed : Bool) (v : BitVec 64) : intOf n signed v % 2 ^ n = (v.toNat % 2 ^ n : Nat) := by
  unfold intOf
  dsimp only
  split
  · rw [Int.sub_emod_right]
    exact_mod_cast congrArg Nat.cast (Nat.mod_mod _ _)
  · exact_mod_cast congrArg Nat.cast (Nat.mod_mod _ _)

/-- What is read is decided by the low bits. -/
theorem intOf_congr {n : Nat} (signed : Bool) {v w : BitVec 64} (h : v.toNat % 2 ^ n = w.toNat % 2 ^ n) :
    intOf n signed v = intOf n signed w := by
  unfold intOf
  rw [h]

/-- A value of a type, extended, reads as itself. -/
theorem readInt_extended (t : Nat) (v : BitVec 64) : readInt t (BitVec.ofInt 64 (readInt t v)) = readInt t v := by
  refine intOf_congr _ ?_
  rw [toNat_ofInt_mod _ _ (typeWidth_le t), readInt, intOf_emod, Int.toNat_natCast]

theorem readInt_wrapInt_readInt (t : Nat) (v : BitVec 64) : readInt t (wrapInt t (readInt t v)) = readInt t v := by
  rw [wrapInt, readInt_extended, readInt_extended]

/-- A wrapped value has the low bits of the exact one. -/
theorem toNat_wrapInt_mod (t : Nat) (m : Int) : (wrapInt t m).toNat % 2 ^ typeWidth t = (m % 2 ^ typeWidth t).toNat := by
  rw [wrapInt, toNat_ofInt_mod _ _ (typeWidth_le t), readInt, intOf_emod, Int.toNat_natCast,
    toNat_ofInt_mod _ _ (typeWidth_le t)]

/-! ### The reductions -/

theorem b64_toNat (v : BitVec 64) : b64 v.toNat = v := by
  rw [b64, BitVec.ofNat_toNat, BitVec.setWidth_eq]

/-- A value that is the least, or the greatest, of what some lanes read, as a register holds it. -/
def Extreme (le : Int → Int → Prop) (x : Ctx) (lanes : List Nat) (v : Nat) : Prop :=
  ∃ m ∈ lanes.map x.aInt, (∀ n ∈ lanes.map x.aInt, le m n) ∧ readInt x.t (b64 v) = m ∧ v = (wrapInt x.t m).toNat

section
variable {x : Ctx} {le : Int → Int → Prop}

theorem extreme_leaf (hle : ∀ n, le n n) (h3 : x.mn < 3) (hi : isFlt x.t = false) (h : Nat) :
    Extreme le x [h] (redxLeaf x h) := by
  have hv : redxLeaf x h = (wrapInt x.t (x.aInt h)).toNat := by
    rw [redxLeaf, if_neg (Nat.not_le.mpr h3), hi, if_neg (by decide), iminVal, min_self]
    rfl
  refine ⟨x.aInt h, by simp, by simpa using hle _, ?_, hv⟩
  rw [hv, b64_toNat]
  exact readInt_wrapInt_readInt _ _

/-- Of two extremes, the one that an operation selects is the extreme of both. -/
theorem extreme_append (op : Int → Int → Int) (trans : ∀ a b c, le a b → le b c → le a c)
    (selects : ∀ m n, op m n = m ∧ le m n ∨ op m n = n ∧ le n m) {a b : List Nat} {v w : Nat} (hv : Extreme le x a v)
    (hw : Extreme le x b w) :
    Extreme le x (a ++ b) (wrapInt x.t (op (readInt x.t (b64 v)) (readInt x.t (b64 w)))).toNat := by
  obtain ⟨m, hm, hma, rfl, hv⟩ := hv
  obtain ⟨n, hn, hnb, rfl, hw⟩ := hw
  rw [Extreme, List.map_append]
  simp only [List.mem_append, b64_toNat]
  rcases selects (readInt x.t (b64 v)) (readInt x.t (b64 w)) with ⟨he, hl⟩ | ⟨he, hl⟩
  · exact ⟨_, .inl hm, fun k hk => hk.elim (hma k) (fun hk => trans _ _ _ hl (hnb k hk)),
      by rw [he, readInt_wrapInt_readInt], by rw [he]⟩
  · exact ⟨_, .inr hn, fun k hk => hk.elim (fun hk => trans _ _ _ hl (hma k hk)) (hnb k),
      by rw [he, readInt_wrapInt_readInt], by rw [he]⟩

theorem Extreme.low_bits {lanes : List Nat} {v : Nat} (h : Extreme le x lanes v) :
    ∃ m ∈ lanes.map x.aInt, (∀ n ∈ lanes.map x.aInt, le m n) ∧ v % 2 ^ typeWidth x.t = (m % 2 ^ typeWidth x.t).toNat := by
  obtain ⟨m, hm, hl, -, hv⟩ := h
  exact ⟨m, hm, hl, by rw [hv, toNat_wrapInt_mod]⟩

end

/-- A bit of the result of a bit type, below its width. -/
theorem getLsbD_bitRes (t : Nat) (v : BitVec 64) (i : Nat) (hi : i < typeWidth t) : (bitRes t v).getLsbD i = v.getLsbD i := by
  unfold bitRes
  split
  · rfl
  · rename_i h
    have := typeWidth_le_of_ne t (by simpa using h)
    have hm : (0xFFFFFFFF : BitVec 64).getLsbD i = true := by
      rw [show (0xFFFFFFFF : BitVec 64) = BitVec.ofNat 64 (2 ^ 32 - 1) from rfl, BitVec.getLsbD_ofNat,
        Nat.testBit_two_pow_sub_one]
      simp
      omega
    rw [BitVec.getLsbD_and, hm, Bool.and_true]

theorem getLsbD_b64 (v i : Nat) (hi : i < 64) : (b64 v).getLsbD i = v.testBit i := by
  rw [b64, BitVec.getLsbD_ofNat, decide_eq_true hi, Bool.true_and]

section
variable {x : Ctx} (ha : x.act ≠ 0) (hs : x.act &&& ~~~x.sp.mask = 0)

theorem testBit_redxLeaf (h3 : 3 ≤ x.mn) (h i : Nat) (hi : i < typeWidth x.t) :
    (redxLeaf x h).testBit i = (x.a h).testBit i := by
  rw [redxLeaf, if_pos h3, BitVec.testBit_toNat, getLsbD_b64 _ _ (hi.trans_le (typeWidth_le _))]

theorem redxVal_sum (h0 : x.mn = 0) (hi : isFlt x.t = false) :
    redxVal x = x.intResult ((lanesOf x.act).map x.aInt).sum := by
  have hsum : (x.lanes.map x.a).foldl (fun n v => n + readInt x.t (b64 v)) 0 = ((lanesOf x.act).map x.aInt).sum := by
    rw [List.foldl_map, List.sum_eq_foldl, List.foldl_map]
    rfl
  rw [redxVal_eq, h0]
  simp only [hi, Bool.false_eq_true, if_false, hsum, Ctx.intResult]

include ha hs

theorem redxVal_min (h1 : x.mn = 1) (hi : isFlt x.t = false) : Extreme (· ≤ ·) x (lanesOf x.act) (redxVal x) := by
  rw [redxVal_eq, h1]
  simp only [hi, Bool.false_eq_true, if_false]
  exact redxTree_of ha hs (extreme_leaf (fun _ => le_rfl) (by omega) hi)
    (fun _ _ _ _ hv hw => extreme_append (le := (· ≤ ·)) min (fun _ _ _ => le_trans)
      (fun m n => (min_cases m n).imp_right (And.imp_right le_of_lt)) hv hw)

theorem redxVal_max (h2 : x.mn = 2) (hi : isFlt x.t = false) : Extreme (· ≥ ·) x (lanesOf x.act) (redxVal x) := by
  rw [redxVal_eq, h2]
  simp only [hi, Bool.false_eq_true, if_false]
  exact redxTree_of ha hs (extreme_leaf (fun _ => le_rfl) (by omega) hi)
    (fun _ _ _ _ hv hw => extreme_append (le := (· ≥ ·)) max (fun _ _ _ => ge_trans)
      (fun m n => (max_cases m n).imp_right (And.imp_right le_of_lt)) hv hw)

theorem testBit_redxVal_and (h3 : x.mn = 3) (i : Nat) (hi : i < typeWidth x.t) :
    (redxVal x).testBit i = true ↔ ∀ h ∈ lanesOf x.act, (x.a h).testBit i = true := by
  have h64 := hi.trans_le (typeWidth_le x.t)
  rw [redxVal_eq, h3]
  refine redxTree_of (R := fun lanes v => v.testBit i = true ↔ ∀ h ∈ lanes, (x.a h).testBit i = true) ha hs
    (fun h => ?_) (fun a b v w hv hw => ?_)
  · rw [testBit_redxLeaf h3.ge h i hi, List.forall_mem_singleton]
  · rw [List.forall_mem_append, ← hv, ← hw, BitVec.testBit_toNat, andVal, getLsbD_bitRes _ _ _ hi, BitVec.getLsbD_and,
      getLsbD_b64 _ _ h64, getLsbD_b64 _ _ h64, Bool.and_eq_true]

theorem testBit_redxVal_or (h4 : x.mn = 4) (i : Nat) (hi : i < typeWidth x.t) :
    (redxVal x).testBit i = true ↔ ∃ h ∈ lanesOf x.act, (x.a h).testBit i = true := by
  have h64 := hi.trans_le (typeWidth_le x.t)
  rw [redxVal_eq, h4]
  refine redxTree_of (R := fun lanes v => v.testBit i = true ↔ ∃ h ∈ lanes, (x.a h).testBit i = true) ha hs
    (fun h => ?_) (fun a b v w hv hw => ?_)
  · rw [testBit_redxLeaf (h4 ▸ by decide) h i hi]
    simp
  · simp only [List.mem_append, or_and_right, exists_or]
    rw [← hv, ← hw, BitVec.testBit_toNat, orVal, getLsbD_bitRes _ _ _ hi, BitVec.getLsbD_or,
      getLsbD_b64 _ _ h64, getLsbD_b64 _ _ h64, Bool.or_eq_true]

end

/-- Settles O36: the masks, classes, ranks and reductions as the lemmas above give them. -/
theorem collectiveValues : Obligations.CollectiveValues := fun x =>
  ⟨fun _ hk => ⟨fun h0 _ => voteVal_mask hk h0, voteVal_count hk, fun h2 => ⟨voteVal_none hk h2, voteVal_first hk h2⟩⟩,
    mem_matchClass x, fun h _ hm => shflSource_spec x h hm, fun ha hs =>
    ⟨redxVal_sum, fun h1 hi => (redxVal_min ha hs h1 hi).low_bits, fun h2 hi => (redxVal_max ha hs h2 hi).low_bits,
      testBit_redxVal_and ha hs, testBit_redxVal_or ha hs⟩⟩

end Sys2Proof.Machine
end

section
/-! SUPPORT. `regang` (03 R70 to R72, 20 R498): the first arrival at a rendezvous, and the move of lanes that completes it. -/

namespace Sys2Proof.Machine

/-! ## The first arrival (03 R71) -/

/-- An element that alone meets a test is the one found. -/
theorem find?_of_unique {α : Type} {p : α → Bool} {l : List α} {a : α} (ha : a ∈ l) (hp : p a = true)
    (hu : ∀ b ∈ l, p b = true → b = a) : l.find? p = some a := by
  cases hf : l.find? p with
  | none => exact absurd hp (List.find?_eq_none.mp hf a ha)
  | some b => rw [hu b (List.mem_of_find?_eq_some hf) (List.find?_some hf)]

/-- Splits that share a lane are one (03 R55). -/
theorem Gang.divided.eq_of_lane {g : Gang} (hd : g.divided) {a b : Split} (ha : a ∈ g.splits) (hb : b ∈ g.splits) {h : Nat}
    (hla : laneIn a.mask h = true) (hlb : laneIn b.mask h = true) : a = b := by
  by_contra hne
  have hs : Std.Symm (fun x y : Split => x.mask &&& y.mask = 0) := ⟨fun x y hxy => by rwa [BitVec.and_comm]⟩
  have h0 := hd.1.forall ha hb hne
  have hl := laneIn_and a.mask b.mask h
  rw [h0, hla, hlb] at hl
  simp [laneIn] at hl

/-- The lowest lane of a mask that is not empty is one of its lanes. -/
theorem laneIn_lowestLane {m : Mask} (hm : m ≠ 0) : laneIn m (lowestLane m) = true := by
  have go (n x : Nat) (hx : x % 2 ^ n ≠ 0) : x.testBit (ctzNat n x) = true := by
    induction n generalizing x with
    | zero => simp [Nat.mod_one] at hx
    | succ n ih =>
      unfold ctzNat
      split
      · rename_i h
        simpa using h
      · rename_i h
        have h : x % 2 = 0 := by have := Nat.mod_two_eq_zero_or_one x; simp at h; omega
        rw [Nat.add_comm, Nat.testBit_succ]
        refine ih _ fun h0 => hx ?_
        rw [Nat.pow_succ, Nat.mul_comm, Nat.mod_mul, h, h0]
  have h64 : m.toNat % 2 ^ 64 ≠ 0 := by
    rw [Nat.mod_eq_of_lt m.isLt]
    exact fun h => hm (BitVec.eq_of_toNat_eq h)
  exact go 64 m.toNat h64

theorem splits_rotateFrom_perm (lane : Nat) (g : Gang) : (rotateFrom lane g).splits.Perm g.splits := by
  unfold rotateFrom
  split
  · unfold rotateHead
    split
    · rename_i sp rest h
      rw [h]
      exact List.perm_append_singleton sp rest
    · exact .refl _
  · exact .refl _

/-- A function of splits that keeps their masks. -/
theorem mem_modSplit {lane : Nat} {f : Split → Split} {g : Gang} {b : Split} (hf : ∀ sp, (f sp).mask = sp.mask)
    (hb : b ∈ (modSplit lane f g).splits) : ∃ a ∈ g.splits, b.mask = a.mask ∧ (laneIn a.mask lane = true → b = f a) := by
  obtain ⟨a, ha, rfl⟩ := List.mem_map.mp hb
  refine ⟨a, ha, ?_, fun hl => if_pos hl⟩
  split
  · exact hf a
  · rfl

/-- The rendezvous that the first arrival at a `regang` makes (03 R70, R71). -/
def newRendezvous (x : Ctx) (s : State) : Rendezvous :=
  { parts := regangSet s x.cur.core (x.group s) x.cur.slot x.gang x.mn, pc := x.sp.pc, slot := x.sp.slot, mode := x.mn,
    live := BitVec.ofNat 256 (x.a x.lane0), arrived := [], timer := s.clock, word := x.cur.word,
    nextPc := if x.cur.last then x.cur.next else x.sp.pc, nextSlot := if x.cur.last then 0 else x.sp.slot + 1 }

/-- A `regang` that no rendezvous of its gang precedes, with every lane acting, joins one that it makes. -/
theorem regangOp_first {x : Ctx} {s : State} (ha : x.act ≠ 0) (hall : x.act = x.sp.mask) (hw : x.sp.wait = none)
    (hid : 128 ≤ x.gang.id → x.mn = 0 ∨ x.mn = 4) (hr : ∀ r ∈ (x.group s).rendezvous, x.cur.slot ∉ r.parts)
    (hm : mixedMembers s x.cur.core (x.group s) (newRendezvous x s).parts = false) :
    regangOp x s = joinRendezvous x (newRendezvous x s) s := by
  have hk : (x.group s).rendezvous.find? (fun r => r.parts.contains x.cur.slot) = none :=
    List.find?_eq_none.mpr fun r h => by simpa using hr r h
  have hi : (decide (128 ≤ x.gang.id) && decide (1 ≤ x.mn) && decide (x.mn ≤ 3)) = false := by
    by_cases h : 128 ≤ x.gang.id
    · rcases hid h with h | h <;> simp [h]
    · simp [h]
  have hm : mixedMembers s x.cur.core (x.group s) (regangSet s x.cur.core (x.group s) x.cur.slot x.gang x.mn) = false := hm
  have ha' : (x.act == 0) = false := beq_false_of_ne ha
  have hall' : (x.act == x.sp.mask) = true := beq_iff_eq.mpr hall
  simp only [regangOp, hw, hk, hi, hm, ha', hall', Option.map_none, Option.getD_none, Bool.false_eq_true, if_false, if_true]
  rfl

/-- A rendezvous with the acting lanes arrived. -/
def arrival (x : Ctx) (r : Rendezvous) : Rendezvous :=
  { r with arrived := mapSet r.arrived x.cur.slot (mapGet 0 r.arrived x.cur.slot ||| x.act) }

/-- A group at a rendezvous of which the acting lanes arrive. -/
def arrivedAt (x : Ctx) (r : Rendezvous) (g : Group) : Group :=
  { g with rendezvous := if g.rendezvous.any (fun y => y.parts == r.parts)
      then g.rendezvous.map (fun y => if y.parts == r.parts then arrival x r else y) else g.rendezvous ++ [arrival x r] }

/-- The wait of a split that does not wait yet, of a `regang` that has acted. -/
def regangWait (s : State) : Wait := { kind := .regang, obj := 0, since := s.clock, acted := true }

/-- A gang whose acting split waits at a `regang`. -/
def regangWaits (x : Ctx) (s : State) (g : Gang) : Gang :=
  let g := modSplit x.lane0 (fun sp => { sp with wait := some (regangWait s) }) g
  if movesHead .regang 0 then rotateFrom x.lane0 g else g

theorem joinRendezvous_eq {x : Ctx} (r : Rendezvous) (s : State) (hw : x.sp.wait = none) : joinRendezvous x r s =
    modGang (modGroup s x.cur.core x.gang.gslot (arrivedAt x r)) x.cur.core x.cur.slot (regangWaits x s) := by
  simp only [joinRendezvous, waitAt, hw, Bool.true_and]
  rfl

/-- The rendezvous is among those of the group, with the split's lanes arrived. -/
theorem mem_arrivedAt (x : Ctx) (r : Rendezvous) (g : Group) : arrival x r ∈ (arrivedAt x r g).rendezvous := by
  unfold arrivedAt
  split
  · rename_i h
    obtain ⟨y, hy, hp⟩ := List.any_eq_true.mp h
    exact List.mem_map.mpr ⟨y, hy, if_pos hp⟩
  · simp

/-- Where the issuing split stands once it waits. -/
theorem splitOf_regangWaits {x : Ctx} {s : State} (ha : x.act ≠ 0) (hall : x.act = x.sp.mask) (hd : x.gang.divided)
    (hsp : splitOf x.gang x.cur.lane = some x.sp) : splitOf (regangWaits x s (x.issued s)) x.cur.lane =
      some { x.sp with fresh := false, clause := x.cur.clause, wait := some (regangWait s) } := by
  have hmem : x.sp ∈ x.gang.splits := List.mem_of_find?_eq_some hsp
  have hcur : laneIn x.sp.mask x.cur.lane = true := List.find?_some (p := fun sp : Split => laneIn sp.mask x.cur.lane) hsp
  have h0 : laneIn x.sp.mask x.lane0 = true := hall ▸ laneIn_lowestLane ha
  have hperm : (regangWaits x s (x.issued s)).splits.Perm
      (modSplit x.lane0 (fun sp => { sp with wait := some (regangWait s) }) (x.issued s)).splits := by
    unfold regangWaits
    dsimp only
    split
    · exact splits_rotateFrom_perm _ _
    · exact .refl _
  have himg (sp : Split) (hm : sp ∈ x.gang.splits) (hl : laneIn sp.mask x.cur.lane = true) :
      { sp with fresh := false, clause := x.cur.clause } ∈ (x.issued s).splits :=
    List.mem_map.mpr ⟨sp, hm, if_pos hl⟩
  refine find?_of_unique (hperm.mem_iff.mpr (List.mem_map.mpr ⟨_, himg _ hmem hcur, if_pos h0⟩)) hcur (fun b hb hl => ?_)
  obtain ⟨c, hc, hcm, hcf⟩ := mem_modSplit (f := fun sp => { sp with wait := some (regangWait s) }) (fun _ => rfl) (hperm.mem_iff.mp hb)
  obtain ⟨d, hdm, hdc, hdf⟩ := mem_modSplit (f := fun sp => { sp with fresh := false, clause := x.cur.clause }) (g := x.gang)
    (fun _ => rfl) hc
  obtain rfl : d = x.sp := hd.eq_of_lane hdm hmem (by rw [← hdc, ← hcm]; exact hl) hcur
  rw [hcf (by rw [hdc]; exact h0), hdf hcur]

theorem splitOf_of_issuer {s : State} {c : Cursor} {g : Gang} {sp : Split} (h : issuer s = some (c, g, sp)) :
    splitOf g c.lane = some sp := by
  unfold issuer at h
  split at h
  · cases h
  · split at h
    · cases h
    · split at h
      · cases h
      · rename_i hsp
        cases h
        exact hsp

theorem regang_arrives (f : Form) : Ends (.regang f) (fun x s => x.act ≠ 0 ∧ x.act = x.sp.mask ∧ x.sp.wait = none ∧
      (128 ≤ x.gang.id → x.mn = 0 ∨ x.mn = 4) ∧ (∀ r ∈ (x.group s).rendezvous, x.cur.slot ∉ r.parts) ∧
      (getGroup s x.cur.core x.gang.gslot).isSome ∧ x.gang.divided ∧
      mixedMembers (taken x.cur s) x.cur.core (x.group s)
        (regangSet (taken x.cur s) x.cur.core (x.group s) x.cur.slot x.gang x.mn) = false)
    (fun x s t =>
      (∃ sp', (getGang t x.cur.core x.cur.slot).bind (fun g => splitOf g x.cur.lane) = some sp' ∧ sp'.pc = x.sp.pc ∧
        sp'.slot = x.sp.slot ∧ sp'.wait = some { kind := .regang, obj := 0, since := s.clock, acted := true }) ∧
      (∀ a, physByte t a = physByte s a) ∧
      ∃ r ∈ (x.group t).rendezvous, r.parts = regangSet (taken x.cur s) x.cur.core (x.group s) x.cur.slot x.gang x.mn ∧
        r.pc = x.sp.pc ∧ r.slot = x.sp.slot ∧ r.mode = x.mn ∧ r.live = BitVec.ofNat 256 (x.a x.lane0) ∧
        r.timer = s.clock ∧ mapGet 0 r.arrived x.cur.slot = x.act) := by
  refine ends_of (.regang f) (fieldsOfForm 0x48 f) (illegalForm 0x48 f) regangOp _ _ rfl (legal_of_form rfl rfl) (fun _ => rfl)
    (fun x s hi _ ⟨ha, hall, hw, hid, hr, hg, hd, hm⟩ => ?_)
  have hn : (newRendezvous x (taken x.cur s)).parts =
      regangSet (taken x.cur s) x.cur.core (x.group s) x.cur.slot x.gang x.mn := by rw [newRendezvous, group_taken]
  rw [regangOp_first ha hall hw hid (by rwa [group_taken]) (by rwa [group_taken, hn]), joinRendezvous_eq _ _ hw]
  have hgang := getGang_taken s x.cur x.gang x.sp hi
  obtain ⟨grp, hgrp⟩ := Option.isSome_iff_exists.mp hg
  have hgrp' : getGroup (taken x.cur s) x.cur.core x.gang.gslot = some grp := by
    rw [taken, getGroup_modGang]
    exact hgrp
  refine ⟨⟨{ x.sp with fresh := false, clause := x.cur.clause, wait := some (regangWait s) }, ?_, rfl, rfl, rfl⟩,
    fun a => rfl, arrival x (newRendezvous x (taken x.cur s)), ?_, hn, rfl, rfl, rfl, rfl, rfl, ?_⟩
  · rw [getGang_modGang_same, getGang_modGroup, hgang]
    exact splitOf_regangWaits (s := s) ha hall hd (splitOf_of_issuer hi)
  · rw [Ctx.group, getGroup_modGang, getGroup_modGroup_same, hgrp']
    exact mem_arrivedAt _ _ _
  · rw [arrival, mapGet_mapSet_same]
    exact BitVec.zero_or

/-! ## The move of the lanes (03 R72) -/

theorem sortBy_of_rising {α : Type} (f : α → Nat) (l : List α) (h : l.Pairwise (fun a b => f a ≤ f b)) : sortBy f l = l := by
  induction l with
  | nil => rfl
  | cons x l ih =>
    obtain ⟨hx, hl⟩ := List.pairwise_cons.mp h
    rw [sortBy, ih hl]
    cases l with
    | nil => rfl
    | cons y l => exact if_neg (Nat.not_lt.mpr (hx y List.mem_cons_self))

theorem getElem?_chunksOf {α : Type} (w k : Nat) (l : List α) (i : Nat) (hi : i < k) :
    (chunksOf w k l)[i]? = some ((l.drop (w * i)).take w) := by
  induction k generalizing l i with
  | zero => omega
  | succ k ih =>
    cases i with
    | zero => simp [chunksOf]
    | succ i => rw [chunksOf, List.getElem?_cons_succ, ih _ _ (by omega), List.drop_drop, Nat.mul_succ, Nat.add_comm]

theorem length_chunksOf {α : Type} (w k : Nat) (l : List α) : (chunksOf w k l).length = k := by
  induction k generalizing l with
  | zero => rfl
  | succ k ih => rw [chunksOf, List.length_cons, ih]

/-- Gangs changed one after another, in different slots, are each changed once. -/
theorem getGang_foldl_modGang {α : Type} (core : Nat) (key : α → Nat) (f : α → Gang → Gang) (l : List α)
    (hl : (l.map key).Nodup) (s : State) (e : α) (he : e ∈ l) :
    getGang (l.foldl (fun s x => modGang s core (key x) (f x)) s) core (key e) = (getGang s core (key e)).map (f e) := by
  have kept (l : List α) (k : Nat) (hk : k ∉ l.map key) (s : State) :
      getGang (l.foldl (fun s x => modGang s core (key x) (f x)) s) core k = getGang s core k := by
    refine List.foldlRecOn (motive := fun t => getGang t core k = getGang s core k) l _ rfl (fun b hb a ha => ?_)
    have hne : k ≠ key a := fun h => hk (h ▸ List.mem_map_of_mem ha)
    rw [getGang_modGang_ne _ _ _ _ _ _ (fun h => hne (Prod.mk.inj h).2), hb]
  induction l generalizing s with
  | nil => simp at he
  | cons x l ih =>
    obtain ⟨hx, hl⟩ := List.nodup_cons.mp hl
    rcases List.mem_cons.mp he with rfl | he
    · rw [List.foldl_cons, kept l _ hx, getGang_modGang_same]
    · have hne : key e ≠ key x := fun h => hx (h ▸ List.mem_map_of_mem he)
      rw [List.foldl_cons, ih hl _ he, getGang_modGang_ne _ _ _ _ _ _ (fun h => hne (Prod.mk.inj h).2)]

/-! ### One lane -/

/-- What a lane carries to a gang is as another gang has it: its vector registers, its predicates and its join. -/
structure LaneKept (g g' : Gang) (k : Nat) : Prop where
  regs : ∀ m, vreg g' m k = vreg g m k
  preds : ∀ p, laneIn (preg g' p) k = laneIn (preg g p) k
  join : mapFind g'.join k = mapFind g.join k

/-- A lane of a gang holds nothing. -/
structure LaneBlank (g : Gang) (n : Nat) : Prop where
  regs : ∀ m, vreg g m n = 0
  preds : ∀ p, p ≠ 7 → laneIn (preg g p) n = false
  join : mapFind g.join n = none

/-- A lane of a gang holds what a lane of another gang held, of its registers those of a live set. -/
structure LaneMoved (live : BitVec 256) (old : Gang) (h : Nat) (g : Gang) (n : Nat) : Prop where
  regs : ∀ m, m < 256 → live.getLsbD m = true → vreg g m n = vreg old m h
  preds : ∀ p, p < 8 → laneIn (preg g p) n = laneIn (preg old p) h
  join : mapFind g.join n = mapFind old.join h

theorem LaneKept.refl (g : Gang) (k : Nat) : LaneKept g g k := ⟨fun _ => rfl, fun _ => rfl, rfl⟩

theorem LaneKept.trans {a b c : Gang} {k : Nat} (h : LaneKept a b k) (h' : LaneKept b c k) : LaneKept a c k :=
  ⟨fun m => (h'.regs m).trans (h.regs m), fun p => (h'.preds p).trans (h.preds p), h'.join.trans h.join⟩

theorem LaneKept.blank {g g' : Gang} {k : Nat} (hk : LaneKept g g' k) (h : LaneBlank g k) : LaneBlank g' k :=
  ⟨fun m => (hk.regs m).trans (h.regs m), fun p hp => (hk.preds p).trans (h.preds p hp), hk.join.trans h.join⟩

theorem LaneKept.moved {live : BitVec 256} {old g g' : Gang} {h k : Nat} (hk : LaneKept g g' k)
    (hm : LaneMoved live old h g k) : LaneMoved live old h g' k :=
  ⟨fun m h1 h2 => (hk.regs m).trans (hm.regs m h1 h2), fun p hp => (hk.preds p).trans (hm.preds p hp),
    hk.join.trans hm.join⟩

/-! Registers. -/

/-- The registers of a lane that move, at their new keys. -/
def movedRegs (live : BitVec 256) (old : Gang) (h n : Nat) : List (Nat × Word) :=
  (old.v.filter (fun e => e.1 % 64 == h && live.getLsbD (e.1 / 64))).map (fun e => (e.1 / 64 * 64 + n, e.2))

theorem moveVregs_eq (live : BitVec 256) (old : Gang) (h n : Nat) (v : SMap Word) :
    moveVregs live old h n v = (movedRegs live old h n).foldl (fun v e => mapSet v e.1 e.2) v := by
  rw [moveVregs, movedRegs, List.foldl_map]

theorem mapFind_foldl_mapSet_ne {α : Type} (l : List (Nat × α)) (k : Nat) (hk : ∀ e ∈ l, e.1 ≠ k) (m : SMap α) :
    mapFind (l.foldl (fun m e => mapSet m e.1 e.2) m) k = mapFind m k :=
  List.foldlRecOn (motive := fun m' => mapFind m' k = mapFind m k) l _ rfl
    (fun _ hb a ha => (mapFind_mapSet_ne _ _ _ _ (hk a ha).symm).trans hb)

theorem le_of_risingFrom {α : Type} {m : SMap α} {i : Nat} (h : risingFrom i m = true) (e : Nat × α) (he : e ∈ m) : i ≤ e.1 := by
  induction m generalizing i with
  | nil => simp at he
  | cons x m ih =>
    obtain ⟨k, v⟩ := x
    simp only [risingFrom, Bool.and_eq_true, decide_eq_true_eq] at h
    rcases List.mem_cons.mp he with rfl | he
    · exact h.1
    · exact (Nat.le_succ_of_le h.1).trans (ih h.2 he)

theorem keys_nodup_of_risingFrom {α : Type} {m : SMap α} {i : Nat} (h : risingFrom i m = true) : (m.map Prod.fst).Nodup := by
  induction m generalizing i with
  | nil => exact List.nodup_nil
  | cons x m ih =>
    obtain ⟨k, v⟩ := x
    simp only [risingFrom, Bool.and_eq_true, decide_eq_true_eq] at h
    refine List.nodup_cons.mpr ⟨fun hm => ?_, ih h.2⟩
    obtain ⟨e, he, hk⟩ := List.mem_map.mp hm
    have := le_of_risingFrom h.2 e he
    simp only at hk
    omega

theorem mapFind_of_mem {α : Type} {m : SMap α} (hn : (m.map Prod.fst).Nodup) {k : Nat} {v : α} (h : (k, v) ∈ m) :
    mapFind m k = some v := by
  induction m with
  | nil => simp at h
  | cons x m ih =>
    obtain ⟨j, w⟩ := x
    obtain ⟨hj, hn⟩ := List.nodup_cons.mp hn
    rcases List.mem_cons.mp h with he | h
    · cases he
      simp [mapFind]
    · have hne : j ≠ k := fun e => hj (List.mem_map.mpr ⟨_, h, e.symm⟩)
      simp [mapFind, hne, ih hn h]

theorem mem_movedRegs {live : BitVec 256} {old : Gang} {h n k : Nat} {v : Word} : (k, v) ∈ movedRegs live old h n ↔
    ∃ j, (j, v) ∈ old.v ∧ j % 64 = h ∧ live.getLsbD (j / 64) = true ∧ k = j / 64 * 64 + n := by
  simp only [movedRegs, List.mem_map, List.mem_filter, Bool.and_eq_true, beq_iff_eq, Prod.exists, Prod.mk.injEq]
  constructor
  · rintro ⟨j, w, ⟨hm, hh, hl⟩, rfl, rfl⟩
    exact ⟨j, hm, hh, hl, rfl⟩
  · rintro ⟨j, hm, hh, hl, rfl⟩
    exact ⟨j, v, ⟨hm, hh, hl⟩, rfl, rfl⟩

theorem movedRegs_keys_nodup {live : BitVec 256} {old : Gang} {h n : Nat} (hr : risingFrom 0 old.v = true) :
    ((movedRegs live old h n).map Prod.fst).Nodup := by
  have hf := keys_nodup_of_risingFrom (risingFrom_filter (fun e => e.1 % 64 == h && live.getLsbD (e.1 / 64)) _ _ hr)
  rw [movedRegs, List.map_map]
  refine List.Nodup.map_on (fun a ha b hb hab => ?_) (hf.of_map)
  simp only [List.mem_filter, Bool.and_eq_true, beq_iff_eq] at ha hb
  have hk : a.1 = b.1 := by
    have : a.1 / 64 * 64 + n = b.1 / 64 * 64 + n := hab
    omega
  have h1 := mapFind_of_mem (keys_nodup_of_risingFrom hr) (k := a.1) (v := a.2) ha.1
  have h2 := mapFind_of_mem (keys_nodup_of_risingFrom hr) (k := b.1) (v := b.2) hb.1
  rw [hk, h2] at h1
  exact Prod.ext hk (Option.some.inj h1).symm

/-- The registers of other lanes stand. -/
theorem mapFind_moveVregs_ne (live : BitVec 256) (old : Gang) (h n : Nat) (v : SMap Word) (m k : Nat) (hn : n < 64) (hk : k < 64)
    (hne : k ≠ n) : mapFind (moveVregs live old h n v) (64 * m + k) = mapFind v (64 * m + k) := by
  rw [moveVregs_eq]
  refine mapFind_foldl_mapSet_ne _ _ (fun e he => ?_) v
  obtain ⟨j, -, -, -, hj⟩ := mem_movedRegs.mp (show (e.1, e.2) ∈ _ from he)
  omega

/-- The registers of the live set move, where the lane had none. -/
theorem mapGet_moveVregs (live : BitVec 256) (old : Gang) (h n : Nat) (v : SMap Word) (m : Nat)
    (hh : h < 64) (hr : risingFrom 0 old.v = true)
    (hl : live.getLsbD m = true) (hv : mapGet 0 v (64 * m + n) = 0) :
    mapGet 0 (moveVregs live old h n v) (64 * m + n) = mapGet 0 old.v (64 * m + h) := by
  rw [moveVregs_eq]
  cases hf : mapFind old.v (64 * m + h) with
  | some w =>
    have hm : (64 * m + n, w) ∈ movedRegs live old h n :=
      mem_movedRegs.mpr ⟨64 * m + h, mapFind_mem _ _ _ hf, by omega, by rwa [show (64 * m + h) / 64 = m by omega], by omega⟩
    rw [mapGet, mapGet, hf, mapFind_foldl_mapSet Prod.snd _ (movedRegs_keys_nodup hr) v _ hm]
  | none =>
    rw [mapGet, mapFind_foldl_mapSet_ne, ← mapGet, hv, mapGet, hf]
    · rfl
    · intro e he hk
      obtain ⟨j, hj, hjh, -, hjk⟩ := mem_movedRegs.mp (show (e.1, e.2) ∈ _ from he)
      obtain rfl : j = 64 * m + h := by omega
      rw [mapFind_of_mem (keys_nodup_of_risingFrom hr) hj] at hf
      cases hf

/-! Predicates. -/

/-- A gang in which a lane takes the lane predicates of a lane of another gang. -/
def movePreds (old : Gang) (h n : Nat) (l : List Nat) (g : Gang) : Gang :=
  l.foldl (fun g p => if laneIn (preg old p) h then setPreg g p (laneBit n) (laneBit n) else g) g

theorem movePreds_other (old : Gang) (h n : Nat) (l : List Nat) (g : Gang) : ∃ p, movePreds old h n l g = { g with p := p } := by
  refine List.foldlRecOn (motive := fun g' : Gang => ∃ p, g' = { g with p := p }) l _ ⟨g.p, rfl⟩ (fun b ⟨p, hb⟩ k _ => ?_)
  split
  · obtain ⟨p', hp⟩ := setPreg_other b k (laneBit n) (laneBit n)
    exact ⟨p', by rw [hp, hb]; rfl⟩
  · exact ⟨p, hb⟩

/-- A lane predicate after it is set in one lane. -/
theorem laneIn_preg_setLane (g : Gang) (q n p k : Nat) (hk : k < 64) :
    laneIn (preg (setPreg g q (laneBit n) (laneBit n)) p) k = true ↔ (p = q ∧ p ≠ 7 ∧ k = n) ∨ laneIn (preg g p) k = true := by
  by_cases hq : p = q
  · subst hq
    rw [laneIn_preg_setPreg _ _ _ _ _ hk, laneIn_laneBit _ _ hk]
    by_cases h7 : p = 7 <;> by_cases hn : k = n <;> simp [h7, hn]
  · rw [preg_setPreg_ne _ _ _ _ _ hq]
    simp [hq]

theorem laneIn_preg_movePreds (old : Gang) (h n : Nat) (l : List Nat) (g : Gang) (p k : Nat) (hk : k < 64) :
    laneIn (preg (movePreds old h n l g) p) k = true ↔
      (p ∈ l ∧ p ≠ 7 ∧ k = n ∧ laneIn (preg old p) h = true) ∨ laneIn (preg g p) k = true := by
  induction l generalizing g with
  | nil => simp [movePreds]
  | cons q l ih =>
    rw [movePreds, List.foldl_cons, ← movePreds, ih, List.mem_cons]
    split
    next ho =>
      rw [laneIn_preg_setLane _ _ _ _ _ hk]
      have : p = q → laneIn (preg old p) h = true := fun e => e ▸ ho
      tauto
    next ho =>
      have : p = q → ¬ laneIn (preg old p) h = true := fun e => e ▸ ho
      tauto

/-! A lane as a whole. -/

/-- A gang whose lane has taken the vector registers of another's. -/
def withRegs (live : BitVec 256) (old : Gang) (h n : Nat) (g : Gang) : Gang := { g with v := moveVregs live old h n g.v }

/-- The pending marks of a gang whose lane has taken those of another's (09 R212). -/
def movePend (old : Gang) (h n : Nat) (pend : SMap Mask) : SMap Mask :=
  (old.pend.filter (fun e => laneIn e.2 h)).foldl (fun p e => mapPut 0 p e.1 (mapGet 0 p e.1 ||| laneBit n)) pend

theorem moveLane_eq (live : BitVec 256) (old : Gang) (h n : Nat) (g : Gang) : moveLane live old h n g =
    let g := movePreds old h n (List.range 7) (withRegs live old h n g)
    let g := { g with pend := movePend old h n g.pend }
    match mapFind old.join h with
    | some j => { g with join := mapSet g.join n j }
    | none => g := rfl

/-- What the move of a lane does to a gang, part by part. -/
theorem moveLane_parts (live : BitVec 256) (old : Gang) (h n : Nat) (g : Gang) : ∃ pend,
    moveLane live old h n g = { g with
      v := moveVregs live old h n g.v, p := (movePreds old h n (List.range 7) (withRegs live old h n g)).p, pend := pend,
      join := ((mapFind old.join h).map (mapSet g.join n)).getD g.join } := by
  obtain ⟨p, hp⟩ := movePreds_other old h n (List.range 7) (withRegs live old h n g)
  rw [moveLane_eq, hp]
  cases mapFind old.join h <;> exact ⟨_, rfl⟩

theorem moveLane_kept (live : BitVec 256) (old : Gang) (h n : Nat) (g : Gang) (k : Nat) (hn : n < 64) (hk : k < 64) (hne : k ≠ n) :
    LaneKept g (moveLane live old h n g) k := by
  obtain ⟨pend, he⟩ := moveLane_parts live old h n g
  rw [he]
  refine ⟨fun m => ?_, fun p => ?_, ?_⟩
  · simp only [vreg, mapGet, mapFind_moveVregs_ne live old h n g.v m k hn hk hne]
  · refine Bool.eq_iff_iff.mpr ((laneIn_preg_movePreds old h n (List.range 7) (withRegs live old h n g) p k hk).trans ?_)
    exact or_iff_right fun hx => hne hx.2.2.1
  · cases hj : mapFind old.join h with
    | none => rfl
    | some j => exact mapFind_mapSet_ne _ _ _ _ hne

theorem laneIn_preg_seven (g : Gang) (k : Nat) (hk : k < 64) : laneIn (preg g 7) k = true := by
  simp only [preg, laneIn, beq_self_eq_true, if_true, BitVec.getLsbD_allOnes, decide_eq_true hk]

theorem moveLane_moved (live : BitVec 256) (old : Gang) (h n : Nat) (g : Gang) (hn : n < 64) (hh : h < 64)
    (hr : risingFrom 0 old.v = true) (hb : LaneBlank g n) : LaneMoved live old h (moveLane live old h n g) n := by
  obtain ⟨pend, he⟩ := moveLane_parts live old h n g
  refine ⟨fun m _ hl => ?_, fun p hp => ?_, ?_⟩
  · rw [he]
    exact mapGet_moveVregs live old h n g.v m hh hr hl (hb.regs m)
  · by_cases h7 : p = 7
    · rw [h7, laneIn_preg_seven _ _ hn, laneIn_preg_seven _ _ hh]
    · rw [he]
      refine Bool.eq_iff_iff.mpr ((laneIn_preg_movePreds old h n (List.range 7) (withRegs live old h n g) p n hn).trans ?_)
      have hz : ¬ laneIn (preg (withRegs live old h n g) p) n = true := by
        rw [show preg (withRegs live old h n g) p = preg g p from rfl, hb.preds p h7]
        decide
      have hp : p ∈ List.range 7 := List.mem_range.mpr (by omega)
      simp only [hp, hz, h7, Bool.false_eq_true, or_false, true_and, ne_eq, not_false_eq_true]
  · rw [he]
    cases hj : mapFind old.join h with
    | none => exact hb.join
    | some j => exact mapFind_mapSet_same _ _ _

/-! ### A gang -/

/-- A gang to which a lane moves, where its old gang takes part. -/
def takeLane (live : BitVec 256) (olds : SMap Gang) (g : Gang) (e : Mover × Nat) : Gang :=
  match mapFind olds e.1.slot with
  | some old => moveLane live old e.1.lane e.2 g
  | none => g

/-- Lanes that move one after another to a gang, each to its place. -/
def takeLanes (live : BitVec 256) (olds : SMap Gang) (l : List (Mover × Nat)) (g : Gang) : Gang :=
  l.foldl (takeLane live olds) g

/-- A gang whose lanes have left. -/
def emptied (g : Gang) : Gang := { g with v := [], p := [], pend := [], join := [], splits := [] }

/-- A participant in terms of the lanes that move to it. -/
theorem rebuildGang_eq (r : Rendezvous) (olds : SMap Gang) (movers : List Mover) (g : Gang) : rebuildGang r olds movers g =
    let g := takeLanes r.live olds (movers.zip (List.range movers.length)) (emptied g)
    if movers.isEmpty then g
    else { g with splits := [{ mask := firstLanes movers.length, pc := r.nextPc, slot := r.nextSlot,
                               fresh := r.nextSlot == 0 }] } := rfl

theorem takeLanes_other (live : BitVec 256) (olds : SMap Gang) (l : List (Mover × Nat)) (g : Gang) : ∃ v p pend join,
    takeLanes live olds l g = { g with v := v, p := p, pend := pend, join := join } := by
  refine List.foldlRecOn (motive := fun g' : Gang => ∃ v p pend join, g' = { g with v := v, p := p, pend := pend, join := join })
    l _ ⟨_, _, _, _, rfl⟩ ?_
  rintro _ ⟨v, p, pend, join, rfl⟩ e -
  unfold takeLane
  split
  · rename_i old _
    obtain ⟨pend', h⟩ := moveLane_parts live old e.1.lane e.2 { g with v := v, p := p, pend := pend, join := join }
    exact ⟨_, _, _, _, h⟩
  · exact ⟨_, _, _, _, rfl⟩

theorem takeLane_kept (live : BitVec 256) (olds : SMap Gang) (g : Gang) (e : Mover × Nat) (k : Nat) (he : e.2 < 64) (hk : k < 64)
    (hne : k ≠ e.2) : LaneKept g (takeLane live olds g e) k := by
  unfold takeLane
  split
  · exact moveLane_kept _ _ _ _ _ _ he hk hne
  · exact .refl g k

theorem takeLanes_kept (live : BitVec 256) (olds : SMap Gang) (l : List (Mover × Nat)) (g : Gang) (k : Nat) (hk : k < 64)
    (hl : ∀ e ∈ l, e.2 < 64 ∧ k ≠ e.2) : LaneKept g (takeLanes live olds l g) k :=
  List.foldlRecOn (motive := fun g' => LaneKept g g' k) l _ (.refl g k)
    (fun _ hb e he => hb.trans (takeLane_kept _ _ _ _ _ (hl e he).1 hk (hl e he).2))

/-- Each lane that moves holds in its place what it held. -/
theorem takeLanes_moved (live : BitVec 256) (olds : SMap Gang) (l : List (Mover × Nat)) (hn : (l.map Prod.snd).Nodup)
    (hl : ∀ e ∈ l, e.2 < 64) (g : Gang) (hb : ∀ e ∈ l, LaneBlank g e.2) (e : Mover × Nat) (he : e ∈ l) (hh : e.1.lane < 64)
    (old : Gang) (ho : mapFind olds e.1.slot = some old) (hr : risingFrom 0 old.v = true) :
    LaneMoved live old e.1.lane (takeLanes live olds l g) e.2 := by
  induction l generalizing g with
  | nil => simp at he
  | cons x l ih =>
    obtain ⟨hx, hn⟩ := List.nodup_cons.mp hn
    obtain ⟨hx64, hl'⟩ := List.forall_mem_cons.mp hl
    obtain ⟨hxb, hb'⟩ := List.forall_mem_cons.mp hb
    have hne (y : Mover × Nat) (hy : y ∈ l) : x.2 ≠ y.2 := fun h => hx (h ▸ List.mem_map_of_mem hy)
    rcases List.mem_cons.mp he with rfl | he
    · have hm := moveLane_moved live old e.1.lane e.2 g hx64 hh hr hxb
      rw [takeLanes, List.foldl_cons, takeLane, ho]
      exact (takeLanes_kept live olds l _ e.2 hx64 (fun y hy => ⟨hl' y hy, hne y hy⟩)).moved hm
    · exact ih hn hl' _ (fun y hy => (takeLane_kept live olds g x y.2 hx64 (hl' y hy) (hne y hy).symm).blank (hb' y hy)) he

theorem emptied_blank (g : Gang) (n : Nat) : LaneBlank (emptied g) n := by
  refine ⟨fun _ => rfl, fun p hp => ?_, rfl⟩
  rw [preg, if_neg (by simpa using hp)]
  simp [emptied, mapGet, mapFind, laneIn]

/-- What a participant is after the move: its shared registers stand, each lane that came to it holds what it held, and its
lanes are one split after the instruction. -/
structure Rebuilt (r : Rendezvous) (olds : SMap Gang) (movers : List Mover) (g g' : Gang) : Prop where
  scalars : g'.s = g.s
  flags : g'.q = g.q
  lanes : ∀ (n : Nat) m old, movers[n]? = some m → m.lane < 64 → mapFind olds m.slot = some old → risingFrom 0 old.v = true →
    LaneMoved r.live old m.lane g' n
  live : liveLanes g' = firstLanes movers.length
  splits : ∀ sp ∈ g'.splits, sp.pc = r.nextPc ∧ sp.slot = r.nextSlot

theorem rebuildGang_rebuilt (r : Rendezvous) (olds : SMap Gang) (movers : List Mover) (g : Gang) (h64 : movers.length ≤ 64) :
    Rebuilt r olds movers g (rebuildGang r olds movers g) := by
  obtain ⟨v, p, pend, join, ht⟩ := takeLanes_other r.live olds (movers.zip (List.range movers.length)) (emptied g)
  have hm : ∀ (n : Nat) m old, movers[n]? = some m → m.lane < 64 → mapFind olds m.slot = some old → risingFrom 0 old.v = true →
      LaneMoved r.live old m.lane (takeLanes r.live olds (movers.zip (List.range movers.length)) (emptied g)) n := by
    intro n m old hn hh ho hr
    have hlen := (List.getElem?_eq_some_iff.mp hn).1
    refine takeLanes_moved r.live olds _ ?_ (fun e he => ?_) _ (fun e _ => emptied_blank g e.2) (m, n) ?_ hh old ho hr
    · rw [List.map_snd_zip (by simp)]
      exact List.nodup_range
    · have := List.mem_range.mp (List.of_mem_zip (a := e.1) (b := e.2) he).2
      omega
    · exact List.mem_of_getElem? (i := n) (List.getElem?_zip_eq_some.mpr ⟨hn, List.getElem?_range hlen⟩)
  rw [rebuildGang_eq]
  dsimp only
  split
  · rename_i he
    obtain rfl := List.isEmpty_iff.mp he
    exact ⟨rfl, rfl, fun n m old hn => by simp at hn, rfl, fun sp hsp => by simp [takeLanes, emptied] at hsp⟩
  · rename_i he
    refine ⟨by rw [ht]; rfl, by rw [ht]; rfl, fun n m old hn hh ho hr => ?_, ?_, fun sp hsp => ?_⟩
    · obtain ⟨h1, h2, h3⟩ := hm n m old hn hh ho hr
      exact ⟨h1, h2, h3⟩
    · simp [liveLanes]
    · rw [List.mem_singleton.mp hsp]
      exact ⟨rfl, rfl⟩

/-! ### The participants (03 R72) -/

/-- The live lanes of some gangs, in order, each with its gang. -/
def lanesIn (gangs : List (Nat × Gang)) : List ((Nat × Gang) × Nat) :=
  gangs.flatMap (fun e => (lanesOf (liveLanes e.2)).map (fun h => (e, h)))

/-- The same as places to move from. -/
def moversOf (gangs : List (Nat × Gang)) : List Mover := (lanesIn gangs).map (fun l => { slot := l.1.1, lane := l.2 })

theorem mem_lanesIn {gangs : List (Nat × Gang)} {l : (Nat × Gang) × Nat} (hl : l ∈ lanesIn gangs) : l.1 ∈ gangs ∧ l.2 < 64 := by
  obtain ⟨e, he, hm⟩ := List.mem_flatMap.mp hl
  obtain ⟨h, hh, rfl⟩ := List.mem_map.mp hm
  exact ⟨he, ((mem_lanesOf _ _).mp hh).1⟩

section
variable {s : State} {core gslot w : Nat} {r : Rendezvous} {gangs : List (Nat × Gang)} (hp : gangs.map (·.1) = r.parts)
  (hne : gangs ≠ []) (hg : ∀ e ∈ gangs, getGang s core e.1 = some e.2 ∧ e.2.width = w)
  (hid : (gangs.map (·.2.id)).Pairwise (· < ·))
include hp hne hg hid

/-- The migration in terms of its gangs: each takes its piece of their lanes. -/
theorem migrateLanes_eq : migrateLanes core gslot r s =
    modGroup ((gangs.zip (chunksOf w gangs.length (moversOf gangs))).foldl
        (fun s e => modGang s core e.1.1 (rebuildGang r gangs e.2)) s) core gslot
      (fun g => { g with rendezvous := g.rendezvous.filter (fun x => x.parts != r.parts) }) := by
  have hparts : r.parts.filterMap (fun k => (getGang s core k).map (fun g => (k, g))) = gangs := by
    rw [← hp, List.filterMap_map, ← List.filterMap_some (l := gangs), List.filterMap_filterMap]
    refine List.filterMap_congr fun e he => ?_
    simp [(hg e he).1]
  have hsort : sortBy (fun e => e.2.id) gangs = gangs :=
    sortBy_of_rising _ _ ((List.pairwise_map.mp hid).imp Nat.le_of_lt)
  have hm : gangs.flatMap (fun e => (lanesOf (liveLanes e.2)).map (fun h => ({ slot := e.1, lane := h } : Mover))) = moversOf gangs := by
    rw [moversOf, lanesIn, List.map_flatMap]
    simp only [List.map_map]
    rfl
  obtain ⟨e, rest, rfl⟩ := List.exists_cons_of_ne_nil hne
  unfold migrateLanes
  simp only [hparts, hsort]
  rw [← (hg e List.mem_cons_self).2]
  exact congrArg (fun l => modGroup (((e :: rest).zip (chunksOf e.2.width (e :: rest).length l)).foldl
        (fun s e => modGang s core e.1.1 (rebuildGang r _ e.2)) s) core gslot
      (fun g => { g with rendezvous := g.rendezvous.filter (fun x => x.parts != r.parts) })) hm

/-- Each gang after the migration. -/
theorem getGang_migrateLanes (hnd : r.parts.Nodup) (i k : Nat) (g : Gang) (hi : gangs[i]? = some (k, g)) :
    getGang (migrateLanes core gslot r s) core k =
      some (rebuildGang r gangs (((moversOf gangs).drop (w * i)).take w) g) := by
  have hlt := (List.getElem?_eq_some_iff.mp hi).1
  have hkeys : ((gangs.zip (chunksOf w gangs.length (moversOf gangs))).map (fun e => e.1.1)).Nodup := by
    have hz : (gangs.zip (chunksOf w gangs.length (moversOf gangs))).map Prod.fst = gangs :=
      List.map_fst_zip (by rw [length_chunksOf])
    have hk := (congrArg (List.map (·.1)) hz).trans hp
    rw [List.map_map] at hk
    exact (congrArg List.Nodup hk).mpr hnd
  have hmem : ((k, g), ((moversOf gangs).drop (w * i)).take w) ∈ gangs.zip (chunksOf w gangs.length (moversOf gangs)) :=
    List.mem_of_getElem? (i := i) (List.getElem?_zip_eq_some.mpr ⟨hi, getElem?_chunksOf _ _ _ _ hlt⟩)
  rw [migrateLanes_eq hp hne hg hid, getGang_modGroup]
  refine (getGang_foldl_modGang core (fun e => e.1.1) (fun e => rebuildGang r gangs e.2) _ hkeys s _ hmem).trans ?_
  rw [(hg (k, g) (List.mem_of_getElem? hi)).1]
  rfl

end

theorem migrateLanes_moves (s : State) (core gslot : Nat) (r : Rendezvous) (gangs : List (Nat × Gang)) (w : Nat) (_ : 0 < w)
    (h64 : w ≤ 64) (hp : gangs.map (·.1) = r.parts) (hnd : r.parts.Nodup) (hne : gangs ≠ [])
    (hg : ∀ e ∈ gangs, getGang s core e.1 = some e.2 ∧ e.2.width = w ∧ risingFrom 0 e.2.v = true)
    (hid : (gangs.map (·.2.id)).Pairwise (· < ·)) :
    let lanes := gangs.flatMap (fun e => (lanesOf (liveLanes e.2)).map (fun h => (e.2, h)))
    let t := migrateLanes core gslot r s
    ∀ i k (g : Gang), gangs[i]? = some (k, g) →
      ∃ g', getGang t core k = some g' ∧ g'.s = g.s ∧ g'.q = g.q ∧
        (∀ n old h, n < w → lanes[w * i + n]? = some (old, h) →
          (∀ m, m < 256 → r.live.getLsbD m = true → vreg g' m n = vreg old m h) ∧
          (∀ p, p < 8 → laneIn (preg g' p) n = laneIn (preg old p) h) ∧ mapFind g'.join n = mapFind old.join h) ∧
        liveLanes g' = firstLanes (min w (lanes.length - w * i)) ∧
        ∀ sp ∈ g'.splits, sp.pc = r.nextPc ∧ sp.slot = r.nextSlot := by
  intro lanes t i k g hi
  have hlanes : lanes = (lanesIn gangs).map (fun l => (l.1.2, l.2)) := by
    rw [lanesIn, List.map_flatMap]
    simp only [List.map_map]
    rfl
  have hlen : (((moversOf gangs).drop (w * i)).take w).length = min w (lanes.length - w * i) := by
    rw [List.length_take, List.length_drop, moversOf, hlanes, List.length_map, List.length_map]
  have hr := rebuildGang_rebuilt r gangs (((moversOf gangs).drop (w * i)).take w) g (by omega)
  refine ⟨_, getGang_migrateLanes hp hne (fun e he => ⟨(hg e he).1, (hg e he).2.1⟩) hid hnd i k g hi, hr.scalars, hr.flags,
    fun n old h hn ho => ?_, by rw [hr.live, hlen], hr.splits⟩
  rw [hlanes, List.getElem?_map, Option.map_eq_some_iff] at ho
  obtain ⟨⟨e, h'⟩, hl, heq⟩ := ho
  cases heq
  obtain ⟨he, hh⟩ := mem_lanesIn (List.mem_of_getElem? hl)
  have hmover : (((moversOf gangs).drop (w * i)).take w)[n]? = some { slot := e.1, lane := h' } := by
    rw [List.getElem?_take_of_lt hn, List.getElem?_drop, moversOf, List.getElem?_map, hl]
    rfl
  have hfind : mapFind gangs e.1 = some e.2 := mapFind_of_mem (hp ▸ hnd) he
  obtain ⟨h1, h2, h3⟩ := hr.lanes n _ e.2 hmover hh hfind (hg e he).2.2
  exact ⟨h1, h2, h3⟩

/-- Settles O37: the first arrival makes the rendezvous and waits, and the migration compacts the lanes. -/
theorem regang : Obligations.Regang := ⟨regang_arrives, migrateLanes_moves⟩

end Sys2Proof.Machine
end

section
/-! SUPPORT. Barriers, rendezvous, the watchdog and task copies: what each step of 03 R71 to R74, 09 R210, R213, 13 R281, R287,
R288 and 14 R306 to R310 does. -/

namespace Sys2Proof.Machine

/-! ## Traps that fall due by themselves (03 R74) -/

/-- A gang on the file takes a trap at once; one that is lifted, when it is recalled. -/
def stallTrap (core slot : Nat) (g : Gang) (h : HeldTrap) (u : State) : State :=
  if g.residency = .present ∨ g.residency = .waitingRoom then
    takeTrap core slot h.lane { cause := h.cause, tinfo := h.tinfo, tmask := h.tmask } u
  else modGang u core slot (fun g => { g with due := g.due ++ [h] })

theorem trapWhenPresent_eq {core slot : Nat} {u : State} {g : Gang} (hg : getGang u core slot = some g) (lane cause : Nat)
    (tinfo : BitVec 64) (tmask : Mask) : trapWhenPresent core slot lane { cause := cause, tinfo := tinfo, tmask := tmask } u =
      stallTrap core slot g { cause := cause, lane := lane, tinfo := tinfo, tmask := tmask } u := by
  simp only [trapWhenPresent, hg, stallTrap, Bool.or_eq_true, beq_iff_eq]

/-! ## Barriers (09 R210, R213) -/

theorem Wait.reached_eq (bar gen : Nat) (w : Wait) : w.reached bar gen =
    if w.kind = .barrier ∧ w.acted = true ∧ w.obj % 32 = bar ∧ w.obj / 32 ≠ gen then { w with ended := true } else w := by
  simp only [Wait.reached, Bool.and_eq_true, beq_iff_eq, bne_iff_ne, and_assoc]

theorem barrierCompletionArrive_ends (core slot bar : Nat) (g : Gang) (grp : Group) :
    Moves (.barrierCompletionArrive core slot bar)
    (fun s => getGang s core slot = some g ∧ getGroup s core g.gslot = some grp)
    (fun s t => let ends (w : Wait) : Wait :=
        if w.kind = .barrier ∧ w.acted = true ∧ w.obj % 32 = bar ∧ w.obj / 32 ≠ (grp.barrier bar).gen.toNat
        then { w with ended := true } else w
      OnlyGang core slot s t { g with splits := g.splits.map (fun (sp : Split) =>
        { sp with wait := sp.wait.map ends, resume := sp.resume.map (fun r => { r with wait := r.wait.map ends }) }) }) := by
  intro s ⟨hg, hgrp⟩
  have ho := onlyGang_modGang (fun g => { g with splits := g.splits.map (fun sp =>
    sp.onWaits (Wait.reached bar (grp.barrier bar).gen.toNat)) }) hg
  simp only [Split.onWaits, funext (Wait.reached_eq bar _)] at ho
  refine ⟨_, ?_, ho⟩
  change execBarrierCompletionArrive core slot bar s = _
  simp only [execBarrierCompletionArrive, hg, hgrp, Split.onWaits, funext (Wait.reached_eq bar _)]

theorem getGang_modBarrier (core gslot bar : Nat) (f : Barrier → Barrier) (s : State) (n k : Nat) :
    getGang (modBarrier core gslot bar f s) n k = getGang s n k :=
  List.foldlRecOn (motive := fun t => getGang t n k = getGang s n k) _ _ rfl
    (fun _ hb _ _ => (getGang_modGroup ..).trans hb)

/-- A waiting split that may take the trap is one of the barrier's waiters. -/
theorem barrierWaiters_of {s : State} {core gslot bar c k : Nat} {grp : Group} {g : Gang} {sp : Split}
    (hb : (c, k, grp, g) ∈ barrierGangs s core gslot bar)
    (hw : waitingSplit g (waitsBarrier bar (grp.barrier bar).gen.toNat) = some sp) : barrierWaiters s core gslot bar = true := by
  have hs := List.find?_some hw
  simp only [Bool.and_eq_true] at hs
  exact List.any_eq_true.mpr ⟨_, hb, List.any_eq_true.mpr ⟨sp, List.mem_of_find?_eq_some hw, hs.2⟩⟩

/-- A timer that has run out stalls the barrier. -/
theorem barrierStallTimeout_expired {s : State} {core gslot bar t0 : Nat} {grp : Group} (hg : getGroup s core gslot = some grp)
    (ht : (grp.barrier bar).timer = some t0) (hc : t0 + 850 * grp.bst ≤ s.clock) :
    exec (.barrierStallTimeout core gslot bar) s = .next (barrierStall core gslot bar s) := by
  change execBarrierStallTimeout core gslot bar s = _
  simp only [execBarrierStallTimeout, hg, ht, if_pos hc]

theorem barrierStallTimeout_traps (core gslot bar : Nat) (grp : Group) (t0 k : Nat) (g : Gang) (sp : Split) :
    Moves (.barrierStallTimeout core gslot bar)
    (fun s => getGroup s core gslot = some grp ∧ (grp.barrier bar).timer = some t0 ∧ t0 + 850 * grp.bst ≤ s.clock ∧
      barrierGangs s core gslot bar = [(core, k, grp, g)] ∧ getGang s core k = some g ∧
      waitingSplit g (waitsBarrier bar (grp.barrier bar).gen.toNat) = some sp)
    (fun s t => t = stallTrap core k g
      { cause := 7, lane := lowestLane sp.mask, tinfo := b64 (stallInfo s core gslot bar), tmask := missingAt grp g bar }
      (modBarrier core gslot bar (fun b => { b with timer := some s.clock }) s)) := by
  intro s ⟨hgrp, ht, hc, hb, hg, hw⟩
  refine ⟨_, (barrierStallTimeout_expired hgrp ht hc).trans (congrArg _ ?_), rfl⟩
  have hwait := barrierWaiters_of (hb ▸ List.mem_singleton_self _) hw
  rw [← trapWhenPresent_eq ((getGang_modBarrier ..).trans hg)]
  simp only [barrierStall, hwait, Bool.not_true, Bool.false_eq_true, if_false, hb, List.filterMap_cons, hw, Option.map_some,
    List.filterMap_nil, List.foldl_cons, List.foldl_nil]

theorem barrierStallTimeout_stops (core gslot bar : Nat) (grp : Group) (t0 : Nat) : Moves (.barrierStallTimeout core gslot bar)
    (fun s => getGroup s core gslot = some grp ∧ (grp.barrier bar).timer = some t0 ∧ t0 + 850 * grp.bst ≤ s.clock ∧
      barrierWaiters s core gslot bar = false)
    (fun s t => t = modBarrier core gslot bar (fun b => { b with timer := none }) s) := by
  intro s ⟨hgrp, ht, hc, hw⟩
  refine ⟨_, (barrierStallTimeout_expired hgrp ht hc).trans (congrArg _ ?_), rfl⟩
  simp only [barrierStall, hw, Bool.not_false, if_true]

theorem barrierStallTimeout_runs (core gslot bar : Nat) (grp : Group) (t0 : Nat) : Moves (.barrierStallTimeout core gslot bar)
    (fun s => getGroup s core gslot = some grp ∧ (grp.barrier bar).timer = some t0 ∧ s.clock < t0 + 850 * grp.bst)
    (fun s t => t = s) := by
  intro s ⟨hgrp, ht, hc⟩
  refine ⟨s, ?_, rfl⟩
  change execBarrierStallTimeout core gslot bar s = _
  simp only [execBarrierStallTimeout, hgrp, ht, if_neg (Nat.not_le.mpr hc)]

theorem barrierStallTimeout_starts (core gslot bar : Nat) (grp : Group) : Moves (.barrierStallTimeout core gslot bar)
    (fun s => getGroup s core gslot = some grp ∧ (grp.barrier bar).timer = none)
    (fun s t => t = if (grp.barrier bar).begun ∧ barrierWaiters s core gslot bar = true
      then modBarrier core gslot bar (fun b => { b with timer := some s.clock }) s else s) := by
  intro s ⟨hgrp, ht⟩
  refine ⟨_, ?_, rfl⟩
  change execBarrierStallTimeout core gslot bar s = _
  simp only [execBarrierStallTimeout, hgrp, ht, Bool.and_eq_true]

/-! ## Rendezvous (03 R71 to R73) -/

theorem regangComplete_completes (core gslot : Nat) (grp : Group) (r : Rendezvous) : Moves (.regangComplete core gslot)
    (fun s => getGroup s core gslot = some grp ∧ grp.rendezvous = [r] ∧ rendezvousDone s core r = true ∧
      writesDrained s core r = true ∧ rendezvousStopped s core r = false ∧
      (regangPresent (getCore s core) r = true ∨ regangFits (getCore s core) r = false))
    (fun s t => t = if mixedMembers s core grp r.parts then trapRendezvous core gslot r s
      else migrateLanes core gslot r s) := by
  intro s ⟨hg, hr, hd, hw, hs, hp⟩
  have hp : (regangPresent (getCore s core) r || !regangFits (getCore s core) r) = true := by simpa using hp
  refine ⟨_, ?_, rfl⟩
  change execRegangComplete core gslot s = _
  simp only [execRegangComplete, hg, hr, List.find?_singleton, hd, hw, hs, hp, Bool.not_false, Bool.and_self, if_true]

/-- Functions that agree on a group change it alike. -/
theorem modGroup_congr {s : State} {core gslot : Nat} {grp : Group} {f f' : Group → Group} (hg : getGroup s core gslot = some grp)
    (h : f grp = f' grp) : modGroup s core gslot f = modGroup s core gslot f' := by
  have hg : mapFind (getCore s core).groups gslot = some grp := hg
  simp only [modGroup, modCore, mapModify, hg, h]

/-- A gang whose lanes are awaited is the gang of its slot. -/
theorem getGang_of_awaited {s : State} {core k : Nat} {r : Rendezvous} {g : Gang} {mask : Mask}
    (h : (k, g, mask) ∈ awaitedGangs s core r) : getGang s core k = some g := by
  obtain ⟨e, -, he⟩ := List.mem_filterMap.mp h
  obtain ⟨g', hg, he⟩ := Option.map_eq_some_iff.mp he
  cases he
  exact hg

theorem regangTimeout_traps (core gslot : Nat) (grp : Group) (r : Rendezvous) (k : Nat) (g : Gang) (mask : Mask) (sp : Split) :
    Moves (.regangTimeout core gslot)
    (fun s => getGroup s core gslot = some grp ∧ grp.rendezvous = [r] ∧ r.timer + 850 * grp.bst ≤ s.clock ∧
      rendezvousDone s core r = false ∧ awaitedGangs s core r = [(k, g, mask)] ∧ mask ≠ 0 ∧
      waitingSplit g (fun w => w.kind == .regang && w.acted) = some sp)
    (fun s t => t = stallTrap core k g
      { cause := 7, lane := lowestLane sp.mask, tmask := mask,
        tinfo := b64 (0x1F + laneCount mask % 2 ^ 13 * 2 ^ 16 + g.id % 64 * 2 ^ 32) }
      (modGroup s core gslot (fun x => { x with rendezvous := [{ r with timer := s.clock }] }))) := by
  intro s ⟨hgrp, hr, hc, hd, ha, hm, hw⟩
  have hg : getGang s core k = some g := getGang_of_awaited (r := r) (mask := mask) (by simp [ha])
  refine ⟨_, ?_, rfl⟩
  change execRegangTimeout core gslot s = _
  rw [← trapWhenPresent_eq ((getGang_modGroup ..).trans hg), ← modGroup_congr (f := fun x => { x with
    rendezvous := x.rendezvous.map (fun y => if y.parts == r.parts then { y with timer := s.clock } else y) }) hgrp (by simp [hr])]
  simp only [execRegangTimeout, hgrp, hr, List.find?_singleton, hc, hd, decide_true, Bool.not_false, Bool.and_self, if_true,
    regangStall, ha, List.filter_cons, List.filter_nil, bne_iff_ne, ne_eq, hm, not_false_eq_true, sortBy, sortBy.insertByFirst,
    List.head?_cons, Option.map_some, Option.getD_some, List.foldl_cons, List.foldl_nil, Nat.zero_add, hw]

/-! ## The watchdog (13 R287, R288) -/

theorem watchdogExpiry_traps (core slot n : Nat) (g : Gang) (sp : Split) (w : Wait) (k : Nat) : Moves (.watchdogExpiry core slot n)
    (fun s => let limit := field (reg32 s offWdogCfg) 23 0
      getGang s core slot = some g ∧ g.splits[n]? = some sp ∧ sp.wait = some w ∧ watchKind w.kind = some k ∧
      sp.trapPend = false ∧ g.owes sp = false ∧ sp.stop = none ∧ limit ≠ 0 ∧ w.since + 850 * limit ≤ s.clock ∧
      waitStands s core g w = false ∧
      waitOver s core slot g (peekSplit s core slot g sp).ctx w = false)
    (fun s t => t = stallTrap core slot g { cause := 9, lane := lowestLane sp.mask, tinfo := b64 k, tmask := sp.mask } s) := by
  intro s ⟨hg, hsp, hw, hk, hp, ho, hs, hl, hc, hst, hov⟩
  have hdue : watchdogDue s core g w = true := by
    simp only [watchdogDue, hst, hc, decide_true, Bool.not_false, Bool.and_true, bne_iff_ne]
    exact hl
  refine ⟨_, ?_, rfl⟩
  change execWatchdogExpiry core slot n s = _
  rw [← trapWhenPresent_eq hg]
  simp only [execWatchdogExpiry, hg, hsp, hw, watchdog, hk, hp, ho, hs, hdue, hov, Option.isSome_none, Bool.not_true,
    Bool.or_self, Bool.false_eq_true, if_false]

/-! ## Engine faults (07 R162) -/

theorem engineFaultDelivery_traps (core slot : Nat) (g : Gang) (pre : List EngineFault) (f : EngineFault)
    (post : List EngineFault) (sp : Split) : Moves (.engineFaultDelivery core slot)
    (fun s => getGang s core slot = some g ∧ (getCore s core).faults = pre ++ f :: post ∧ f.slot = slot ∧
      (∀ x ∈ pre, x.slot ≠ slot) ∧ g.splits ≠ [] ∧ boundarySplit g = some sp)
    (fun s t => t = takeTrap core slot (lowestLane sp.mask) { cause := 8, tinfo := f.tinfo, tmask := sp.mask }
      (modCore s core (fun c => { c with faults := pre ++ post }))) := by
  intro s ⟨hg, hf, hs, hpre, hne, hb⟩
  have hfind : (getCore s core).faults.find? (fun f => f.slot == slot) = some f := by
    rw [hf, List.find?_append, List.find?_eq_none.mpr (fun x hx => by simpa using hpre x hx), Option.none_or,
      List.find?_cons_of_pos (by simpa using hs)]
  have hdrop : dropFirst (fun x : EngineFault => x.slot == slot) (getCore s core).faults = pre ++ post := by
    rw [hf, dropFirst_append _ _ _ _ (fun x hx => by simpa using hpre x hx) (by simpa using hs)]
  refine ⟨_, ?_, rfl⟩
  change execEngineFaultDelivery core slot s = _
  simp only [execEngineFaultDelivery, hg, hfind, deliverFault, List.isEmpty_iff, hne, if_false, hb, modCore, hdrop]

/-! ## Task copies (14 R306, R307, R310) -/

/-- The groups of every core stand. -/
def GroupsKept (s t : State) : Prop := ∀ c k, getGroup t c k = getGroup s c k

theorem GroupsKept.trans {a b c : State} (h : GroupsKept a b) (k : GroupsKept b c) : GroupsKept a c :=
  fun n m => (k n m).trans (h n m)

theorem groupsKept_of_cores {s t : State} (h : t.cores = s.cores) : GroupsKept s t := fun c k => by
  rw [getGroup, getCore, h, ← getCore, ← getGroup]

theorem groupsKept_foldl {α : Type} (f : State → α → State) (l : List α) (hf : ∀ s x, GroupsKept s (f s x)) (s : State) :
    GroupsKept s (l.foldl f s) :=
  List.foldlRecOn (motive := GroupsKept s) l f (fun _ _ => rfl) (fun b hb x _ => hb.trans (hf b x))

/-- A change of a core that keeps its groups. -/
theorem modCore_groupsKept (s : State) (n : Nat) (f : Core → Core) (hf : ∀ c, (f c).groups = c.groups) :
    GroupsKept s (modCore s n f) := fun c k => by
  by_cases h : c = n
  · rw [h, getGroup, getCore_modCore_same, hf, getGroup]
  · rw [getGroup, getCore_modCore_ne _ _ _ _ h, getGroup]

theorem dropLines_groupsKept (core pa n : Nat) (s : State) : GroupsKept s (dropLines core pa n s) :=
  modCore_groupsKept s core _ (fun _ => rfl)

theorem mxWrite_cores (n fuel o : Nat) (bs : List Byte) (s : State) : (mxWrite n fuel o bs s).cores = s.cores := by
  induction fuel generalizing o bs s with
  | zero => rfl
  | succ fuel ih =>
    unfold mxWrite
    dsimp only
    split
    · rfl
    · exact ih _ _ _

theorem physWrite_cores (pa : Nat) (bs : List Byte) (s : State) : (physWrite pa bs s).cores = s.cores := by
  unfold physWrite
  split
  · split
    · exact mxWrite_cores _ _ _ _ _
    · rfl
  · rfl

theorem fillL2_cores (line reads : Nat) (s : State) : (fillL2 line reads s).cores = s.cores := by
  have hw : (freeWay line s).cores = s.cores := by
    unfold freeWay
    dsimp only
    split
    · rfl
    · split <;> rfl
  unfold fillL2
  dsimp only
  split <;> exact hw

theorem writeL2_cores (pa n : Nat) (cacheable : Bool) (s : State) : (writeL2 pa n cacheable s).cores = s.cores := by
  refine List.foldlRecOn (motive := fun t : State => t.cores = s.cores) _ _ rfl (fun b hb k _ => ?_)
  dsimp only
  split
  · exact (fillL2_cores _ _ _).trans hb
  · exact hb

theorem commitBytes_groupsKept (core pa : Nat) (bs : List Byte) (s : State) : GroupsKept s (commitBytes core pa bs s) := by
  unfold commitBytes
  split
  · exact fun _ _ => rfl
  · exact (groupsKept_of_cores ((writeL2_cores _ _ _ _).trans (physWrite_cores _ _ _))).trans (dropLines_groupsKept _ _ _ _)

theorem overwrite_groupsKept (core gslot pa : Nat) (bs : List Byte) (s : State) :
    GroupsKept s (overwrite core gslot pa bs s) := by
  refine groupsKept_of_cores ?_
  unfold overwrite
  split
  · rfl
  · dsimp only
    split
    · rfl
    · split <;> rfl

/-- A group whose version has been discarded (08 R183). -/
def versionless (g : Group) : Group := { g with version := [], aliasWrites := [], sign := 0 }

theorem getGroup_discardVersion (a b c k : Nat) (s : State) : getGroup (discardVersion a b s) c k =
    if (c, k) = (a, b) then (getGroup s c k).map versionless else getGroup s c k := by
  split
  next h =>
    cases h
    exact getGroup_modGroup_same _ _ _ _
  next h => exact getGroup_modGroup_ne _ _ _ _ _ _ h

/-- A commit takes the version of its own group, and changes no other group. -/
theorem commitVersion_groupsKept (a b : Nat) (s : State) : GroupsKept (discardVersion a b s) (commitVersion a b s) := by
  unfold commitVersion
  split
  next h =>
    intro c k
    rw [getGroup_discardVersion]
    split
    next he => cases he; rw [h, Option.map_none]
    next => rfl
  next =>
    exact (groupsKept_foldl _ _ (fun u e => (overwrite_groupsKept _ _ _ _ u).trans (commitBytes_groupsKept _ _ _ _)) _).trans
      (groupsKept_foldl _ _ (fun u w => commitBytes_groupsKept _ _ _ u) _)

/-- A group past a commit point. -/
def pastCommit (g : Group) : Group := { g with atCommit := 0, commits := g.commits + 1 }

theorem getGroup_endCommit (a b c k : Nat) (s : State) : getGroup (endCommit a b s) c k =
    if (c, k) = (a, b) then (getGroup s c k).map pastCommit else getGroup s c k := by
  rw [endCommit, modCore_groupsKept]
  · split
    next h =>
      cases h
      exact getGroup_modGroup_same _ _ _ _
    next h => exact getGroup_modGroup_ne _ _ _ _ _ _ h
  · exact fun _ => rfl

/-- Two copies that go on past their commit point, in either order, leave no version and have counted the commit. -/
theorem getGroup_commitPair {a b : Nat × Nat} (hne : a ≠ b) (s : State) (e : Nat × Nat) (he : e = a ∨ e = b) :
    getGroup (commitPair a b 1 s) e.1 e.2 = (getGroup s e.1 e.2).map (fun g => pastCommit (versionless g)) := by
  have hlines (l : List Nat) (u : State) : GroupsKept u (l.foldl (fun s l => dropLines b.1 (l * 128) 128 s) u) :=
    groupsKept_foldl _ _ (fun u l => dropLines_groupsKept _ _ _ u) u
  change getGroup (endCommit b.1 b.2 (endCommit a.1 a.2 ((((getGroup s a.1 a.2).map versionLines).getD []).foldl
    (fun s l => dropLines b.1 (l * 128) 128 s) (discardVersion b.1 b.2 (commitVersion a.1 a.2 s))))) e.1 e.2 = _
  rw [getGroup_endCommit, getGroup_endCommit, hlines, getGroup_discardVersion, commitVersion_groupsKept, getGroup_discardVersion]
  rcases he with rfl | rfl
  · simp only [Prod.mk.eta, hne, if_true, if_false, Option.map_map]
    rfl
  · simp only [Prod.mk.eta, hne.symm, if_true, if_false, Option.map_map]
    rfl

theorem comparePair_equal {core gslot c k c' k' : Nat} {g g' : Group} {s : State}
    (ht : taskCopies core gslot s = [(c, k, g), (c', k', g')]) (h1 : g.atCommit = 1) (h2 : g'.atCommit = 1)
    (hs : g.sign = g'.sign) : comparePair core gslot s =
      if g.copy == 0 then commitPair (c, k) (c', k') 1 s else commitPair (c', k') (c, k) 1 s := by
  simp only [comparePair, ht, h1, h2, hs, beq_self_eq_true, Bool.and_self, if_true]
  rfl

theorem shadowCompare_commits (core gslot c k : Nat) (g : Group) (c' k' : Nat) (g' : Group) : Moves (.shadowCompare core gslot)
    (fun s => taskCopies core gslot s = [(c, k, g), (c', k', g')] ∧ (c, k) ≠ (c', k') ∧ getGroup s c k = some g ∧
      getGroup s c' k' = some g' ∧ g.atCommit = 1 ∧ g'.atCommit = 1 ∧ g.sign = g'.sign)
    (fun _ t => ∃ a b, getGroup t c k = some a ∧ getGroup t c' k' = some b ∧ a.atCommit = 0 ∧ b.atCommit = 0 ∧
      a.commits = g.commits + 1 ∧ b.commits = g'.commits + 1 ∧ a.version = [] ∧ b.version = []) := by
  intro s ⟨ht, hne, hg, hg', h1, h2, hs⟩
  have hboth : ∀ e, e = (c, k) ∨ e = (c', k') → getGroup (comparePair core gslot s) e.1 e.2 =
      (getGroup s e.1 e.2).map (fun g => pastCommit (versionless g)) := by
    intro e he
    rw [comparePair_equal ht h1 h2 hs]
    split
    · exact getGroup_commitPair hne s e he
    · exact getGroup_commitPair hne.symm s e he.symm
  refine ⟨comparePair core gslot s, rfl, pastCommit (versionless g), pastCommit (versionless g'), ?_, ?_, rfl, rfl, rfl, rfl, rfl, rfl⟩
  · exact (hboth (c, k) (.inl rfl)).trans (by rw [hg, Option.map_some])
  · exact (hboth (c', k') (.inr rfl)).trans (by rw [hg', Option.map_some])

theorem shadowCompare_fails (core gslot c k : Nat) (g : Group) (c' k' : Nat) (g' : Group) : Moves (.shadowCompare core gslot)
    (fun s => taskCopies core gslot s = [(c, k, g), (c', k', g')] ∧ g.atCommit ≠ 0 ∧ g'.atCommit ≠ 0 ∧ g.sign ≠ g'.sign)
    (fun s t => t = failTask core gslot 2 0 s) := by
  intro s ⟨ht, h1, h2, hs⟩
  refine ⟨_, ?_, rfl⟩
  change execShadowCompare core gslot s = _
  simp only [execShadowCompare, comparePair, ht, beq_false_of_ne h1, beq_false_of_ne h2, beq_false_of_ne hs, Bool.or_self,
    Bool.and_false, Bool.false_eq_true, if_false]

/-- A group that is dropped is gone. -/
theorem getGroup_dropGroup (core gslot : Nat) (s : State) : getGroup (dropGroup core gslot s) core gslot = none := by
  cases hg : getGroup s core gslot with
  | none =>
    rw [dropGroup, hg]
    exact hg
  | some g =>
    obtain ⟨l, hl⟩ := getCore_dropGroup hg
    rw [getGroup, hl]
    exact mapFind_mapErase_same _ _

/-- The fate of a launch whose only copy of a task has failed: another try, or the end of its retries (14 R307). -/
def failedLaunch (core : Nat) (g : Group) (l : Launch) : Launch :=
  if g.retries < g.retryLimit then
    { l with again := l.again ++ [{ stage := g.stage, index := g.index, retries := g.retries + 1, failedOn := [core] }],
             retries := max l.retries (g.retries + 1) }
  else { l with doom := 6 }

/-- A launch of a group changed by a function. -/
theorem launches_modLaunch (g : Group) (f : Launch → Launch) (s : State) : (modLaunch g.queue g.lslot f s).launches =
    s.launches.map (fun l => if l.queue = g.queue ∧ l.slot = g.lslot then f l else l) := by
  simp only [modLaunch, Bool.and_eq_true, beq_iff_eq]

theorem getGroup_modLaunch (g : Group) (f : Launch → Launch) (s : State) (core gslot : Nat) :
    getGroup (modLaunch g.queue g.lslot f s) core gslot = getGroup s core gslot := rfl

/-- The state once the only copy of a task has been discarded, with its event (14 R307). -/
def discarded (core gslot reason : Nat) (g : Group) (s : State) : State :=
  dropGroup core gslot (containEvent 3 (physCore s core) 0xF reason g.ctx (some g) s)

theorem launches_dropGroup (core gslot : Nat) (s : State) : (dropGroup core gslot s).launches = s.launches := by
  obtain ⟨p, c, h⟩ := dropGroup_other core gslot s
  rw [h]

theorem launches_of_recorded {s t : State} (h : Recorded s t) : t.launches = s.launches := h.keeps State.launches

theorem getGroup_of_recorded {s t : State} (h : Recorded s t) (core gslot : Nat) : getGroup t core gslot = getGroup s core gslot :=
  h.keeps (fun u => getGroup u core gslot)

theorem launches_discarded (core gslot reason : Nat) (g : Group) (s : State) :
    (discarded core gslot reason g s).launches = s.launches := by
  rw [discarded, launches_dropGroup]
  exact launches_of_recorded (containEvent_recorded ..)

theorem discardCopies_nil (info : Nat) (s : State) : discardCopies info [] s = s := rfl

/-- The two callees are generalized first: a bare `rfl` would unfold them before the recursion, too deep for the kernel. -/
theorem discardCopies_cons (info c k : Nat) (g : Group) (rest : List (Nat × Nat × Group)) (s : State) :
    discardCopies info ((c, k, g) :: rest) s =
      discardCopies info rest (dropGroup c k (containEvent 3 (physCore s c) 0xF info g.ctx (some g) s)) := by
  delta discardCopies discardCopies._f
  generalize dropGroup = drop
  generalize containEvent = event
  rfl

/-- The failure of a held task's only copy, which may still be placed again. -/
theorem failTask_alone {core gslot reason : Nat} {g : Group} {s : State} (hg : getGroup s core gslot = some g)
    (ht : g.task = .retryable) (hn : g.twin = none) (hb : bindsNow s core gslot = false) : failTask core gslot reason 0 s =
      if g.retries < g.retryLimit then modLaunch g.queue g.lslot (failedLaunch core g) (discarded core gslot reason g s)
      else modLaunch g.queue g.lslot (failedLaunch core g)
        (containEvent 4 (physCore (discarded core gslot reason g s) core) 0xF reason g.ctx (some g)
          (discarded core gslot reason g s)) := by
  have hc : taskCopies core gslot s = [(core, gslot, g)] := by simp only [taskCopies, hg, hn]
  have hf : (g.task == .bound || bindsNow s core gslot) = false := by rw [ht, hb]; rfl
  simp only [failTask, hg, hf, Bool.false_eq_true, if_false, hc, inCoreOrder, inCopyOrder, discardCopies_cons, discardCopies_nil,
    Nat.mul_zero, Nat.add_zero, List.map_cons, List.map_nil, discarded]
  split
  next h => rw [show failedLaunch core g = _ from funext fun l => if_pos h]
  next h => rw [show failedLaunch core g = _ from funext fun l => if_neg h]

theorem taskDiscardRetry_discards (core gslot reason : Nat) (g : Group) : Moves (.taskDiscardRetry core gslot reason)
    (fun s => getGroup s core gslot = some g ∧ g.held = true ∧ g.task = .retryable ∧ g.twin = none ∧
      bindsNow s core gslot = false ∧ (reason = 2 ∨ reason = 3))
    (fun s t => getGroup t core gslot = none ∧ t.launches = s.launches.map (fun l =>
      if l.queue = g.queue ∧ l.slot = g.lslot then failedLaunch core g l else l)) := by
  intro s ⟨hg, hh, ht, hn, hb, hr⟩
  have hgone : getGroup (discarded core gslot reason g s) core gslot = none := getGroup_dropGroup _ _ _
  have hl := launches_discarded core gslot reason g s
  refine ⟨failTask core gslot reason 0 s, ?_, ?_⟩
  · change execTaskDiscardRetry core gslot reason s = _
    have h0 : (!g.held || reason == 0 || decide (3 < reason)) = false := by rcases hr with rfl | rfl <;> simp [hh]
    have h1 : (reason == 1) = false := by rcases hr with rfl | rfl <;> rfl
    simp only [execTaskDiscardRetry, hg, h0, h1, Bool.false_eq_true, if_false]
  · rw [failTask_alone hg ht hn hb]
    split
    · exact ⟨(getGroup_modLaunch ..).trans hgone, by rw [launches_modLaunch, hl]⟩
    · have he := containEvent_recorded 4 (physCore (discarded core gslot reason g s) core) 0xF reason g.ctx (some g)
        (discarded core gslot reason g s)
      exact ⟨(getGroup_modLaunch ..).trans ((getGroup_of_recorded he core gslot).trans hgone), by
        rw [launches_modLaunch, launches_of_recorded he, hl]⟩

/-- Settles O53: each clause is what the step's own lemma above says. -/
theorem waitsAndTasks : Obligations.WaitsAndTasks :=
  ⟨barrierCompletionArrive_ends, barrierStallTimeout_traps, barrierStallTimeout_stops, barrierStallTimeout_runs,
    barrierStallTimeout_starts, regangComplete_completes, regangTimeout_traps, watchdogExpiry_traps,
    engineFaultDelivery_traps, shadowCompare_commits, shadowCompare_fails, taskDiscardRetry_discards⟩

end Sys2Proof.Machine
end

section
/-! SUPPORT. Scratchpad: its bytes as numbers, what a change of it leaves alone, the end of an issue, and the lanes of an
instruction that trap (08 R175, R177, 13 R283, R544). -/

namespace Sys2Proof.Machine

/-! ## Bytes -/

@[simp] theorem length_natToBytes (n v : Nat) : (natToBytes n v).length = n := by
  induction n generalizing v with
  | zero => rfl
  | succ n ih => simp [natToBytes, ih]

theorem bytesToNat_natToBytes (n v : Nat) : bytesToNat (natToBytes n v) = v % 256 ^ n := by
  induction n generalizing v with
  | zero => simp [natToBytes, bytesToNat, Nat.mod_one]
  | succ n ih =>
    rw [natToBytes, bytesToNat, ih, BitVec.toNat_ofNat, Nat.pow_succ' (m := 256), Nat.mod_mul]

theorem bytesToNat_lt (bs : List Byte) : bytesToNat bs < 256 ^ bs.length := by
  induction bs with
  | nil => exact Nat.one_pos
  | cons b bs ih =>
    have hb := b.isLt
    simp only [bytesToNat, List.length_cons, Nat.pow_succ']
    omega

@[simp] theorem length_memReadBytes (m : Memory) (a n : Nat) : (memReadBytes m a n).length = n := by
  induction n generalizing a with
  | zero => rfl
  | succ n ih => simp [memReadBytes, ih]

theorem memReadBytes_memWriteBytes (bs : List Byte) (m : Memory) (a : Nat) :
    memReadBytes (memWriteBytes m a bs) a bs.length = bs := by
  induction bs generalizing m a with
  | nil => rfl
  | cons b bs ih =>
    rw [List.length_cons, memReadBytes, memWriteBytes, ih, memRead_memWriteBytes_outside _ _ _ _ (by omega),
      memRead_memWrite_same]

theorem scratchRead_lt (s : State) (core : Nat) (g : Group) (off n : Nat) : scratchRead s core g off n < 256 ^ n := by
  have h := bytesToNat_lt (memReadBytes (getCore s core).scratch (g.sbase + off) n)
  rwa [length_memReadBytes] at h

/-- A number written to scratchpad is read back. -/
theorem scratchRead_scratchWrite (core : Nat) (g : Group) (off n v : Nat) (s : State) :
    scratchRead (scratchWrite core g off (natToBytes n v) s) core g off n = v % 256 ^ n := by
  have h := memReadBytes_memWriteBytes (natToBytes n v) (getCore s core).scratch (g.sbase + off)
  rw [length_natToBytes] at h
  rw [scratchRead, scratchWrite, getCore_modCore_same, h, bytesToNat_natToBytes]

/-! ## The end of an issue -/

/-- An instruction of more than one word ends as its meaning does, run in the context of its issue: its fields are those of
the form, and meet no reason to be illegal. -/
theorem ends_of_form {i : Instr} {op : Nat} {f : Form} {body : Ctx → State → State} {P : Ctx → State → Prop}
    {R : Ctx → State → State → Prop} (e : encOf i = .form op f) (back : ofForm op f = some i)
    (hf : fieldsOf i = some (fieldsOfForm op f)) (he : ∀ s, exec i s = issueForm op f body s)
    (h : ∀ x s, issuer s = some (x.cur, x.gang, x.sp) → x = mkCtx x.cur x.gang x.sp (fieldsOfForm op f) →
      illegalForm op f = none → P x s → R x s (body x (taken x.cur s))) : Ends i P R :=
  fun s f' c g sp hi hp => ends_of i (fieldsOfForm op f) (illegalForm op f) body P R hf (legal_of_form e back) he
    (fun x s hs hx hp => h x s hs hx (legal_of_form e back hi.legal) hp) s f' c g sp hi hp

/-- The gang of an issue, once its split has been taken. -/
theorem getGang_issued {x : Ctx} {s : State} (h : issuer s = some (x.cur, x.gang, x.sp)) :
    getGang (taken x.cur s) x.cur.core x.cur.slot = some (x.issued s) := getGang_taken s x.cur x.gang x.sp h

@[simp] theorem scratch_onGang (x : Ctx) (F : Gang → Gang) (s : State) (n : Nat) :
    (getCore (onGang x F s) n).scratch = (getCore s n).scratch := by
  by_cases h : n = x.cur.core
  · rw [h, onGang, getCore_modGang_same]
  · rw [onGang, getCore_modGang_ne _ _ _ _ _ h]

@[simp] theorem scratchRead_taken (c : Cursor) (s : State) (core : Nat) (g : Group) (off n : Nat) :
    scratchRead (taken c s) core g off n = scratchRead s core g off n := by
  rw [scratchRead, scratch_taken, scratchRead]

/-! ## States that differ in a core's scratchpad -/

/-- Two states agree but in one core's scratchpad and the free values used. -/
structure SameButScratch (core : Nat) (s t : State) : Prop where
  device : t.apart = { s.apart with free := t.free }
  queue : t.issueQ = s.issueQ
  others : ∀ n, n ≠ core → getCore t n = getCore s n
  core : getCore t core = { getCore s core with scratch := (getCore t core).scratch }

theorem SameButScratch.refl (core : Nat) (s : State) : SameButScratch core s s := ⟨rfl, rfl, fun _ _ => rfl, rfl⟩

theorem SameButScratch.trans {core : Nat} {a b c : State} (h : SameButScratch core a b) (k : SameButScratch core b c) :
    SameButScratch core a c where
  device := by rw [k.device, h.device]
  queue := k.queue.trans h.queue
  others n hn := (k.others n hn).trans (h.others n hn)
  core := by rw [k.core, h.core]

theorem SameButScratch.withFree {core : Nat} {s t : State} (h : SameButScratch core s t) (f : Nat) :
    SameButScratch core s { t with free := f } where
  device := congrArg (fun u => { u with free := f }) h.device
  queue := h.queue
  others := h.others
  core := h.core

theorem scratchWrite_sameButScratch (core : Nat) (g : Group) (off : Nat) (bs : List Byte) (s : State) :
    SameButScratch core s (scratchWrite core g off bs s) where
  device := rfl
  queue := rfl
  others n hn := getCore_modCore_ne _ _ _ _ hn
  core := by rw [scratchWrite, getCore_modCore_same]

theorem SameButScratch.group {x : Ctx} {s t : State} (h : SameButScratch x.cur.core s t) : x.group t = x.group s := by
  rw [Ctx.group, getGroup, h.core, Ctx.group, getGroup]

theorem SameButScratch.gang {core : Nat} {s t : State} (h : SameButScratch core s t) (k : Nat) :
    getGang t core k = getGang s core k := by
  rw [getGang, h.core, getGang]

/-- A state with a core's scratchpad, and the count of free values, as another state has them. -/
def scratchFrom (core : Nat) (s u : State) : State :=
  { modCore s core (fun k => { k with scratch := (getCore u core).scratch }) with free := u.free }

theorem getCore_scratchFrom (core : Nat) (s u : State) :
    getCore (scratchFrom core s u) core = { getCore s core with scratch := (getCore u core).scratch } :=
  getCore_modCore_same s core (fun k => { k with scratch := (getCore u core).scratch })

/-- With no free value used, only the scratchpad is taken over. -/
theorem scratchFrom_of_free {core : Nat} {s u : State} (h : u.free = s.free) :
    scratchFrom core s u = modCore s core (fun k => { k with scratch := (getCore u core).scratch }) := by
  rw [scratchFrom, h]
  rfl

/-- What a change of the issuing core's scratchpad leaves of the state before the issue. -/
theorem SameButScratch.leaves {x : Ctx} {s u : State} (h : SameButScratch x.cur.core (taken x.cur s) u) :
    Leaves x s (scratchFrom x.cur.core s u) u where
  device := h.device
  queue := h.queue
  otherCores n hn := by
    rw [h.others n hn, taken, getCore_modGang_ne _ _ _ _ _ hn]
    rfl
  sameCore := by
    rw [getCore_scratchFrom, h.core, taken, getCore_modGang_same]
    rfl
  otherGangs k hk := by
    have hne : (x.cur.core, k) ≠ (x.cur.core, x.cur.slot) := fun e => hk (Prod.mk.inj e).2
    rw [h.gang, taken, getGang_modGang_ne _ _ _ _ _ _ hne]
    rfl

theorem Leaves.onGang {x : Ctx} {s want u : State} (h : Leaves x s want u) (F : Gang → Gang) :
    Leaves x s want (onGang x F u) where
  device := h.device
  queue := h.queue
  otherCores n hn := (getCore_modGang_ne _ _ _ _ _ hn).trans (h.otherCores n hn)
  sameCore := by
    rw [Machine.onGang, getCore_modGang_same]
    exact h.sameCore
  otherGangs k hk := by
    have hne : (x.cur.core, k) ≠ (x.cur.core, x.cur.slot) := fun e => hk (Prod.mk.inj e).2
    rw [Machine.onGang, getGang_modGang_ne _ _ _ _ _ _ hne]
    exact h.otherGangs k hk

theorem SameButScratch.past {x : Ctx} {s u : State} (h : SameButScratch x.cur.core (taken x.cur s) u)
    (hi : issuer s = some (x.cur, x.gang, x.sp)) : past x s (complete x u) x.gang.ops := by
  rw [Machine.past, complete, Machine.onGang, getGang_modGang_same, h.gang, getGang_issued hi]
  rfl

/-! ## The lanes that trap (08 R177, 13 R283, R544) -/

theorem scratchTrap_eq (g : Group) (n lane off : Nat) : scratchTrap g n n lane off =
    (scratchFault g n off).map (fun p => { lane := lane, cause := p.1, tinfo := p.2 }) := by
  simp only [scratchTrap, scratchFault, bne_iff_ne, ne_eq]
  split
  · rfl
  · split <;> rfl

/-- A trap at scratchpad is not one after which the program goes on. -/
theorem goesOn_of_scratchFault {g : Group} {n off cause info : Nat} (h : scratchFault g n off = some (cause, info)) :
    goesOn cause = false := by
  unfold scratchFault at h
  split at h
  · cases h; rfl
  · split at h
    · cases h; rfl
    · cases h

/-- The traps of some lanes. -/
def laneFaults (fault : Nat → Option (Nat × Nat)) (l : List Nat) : List LaneTrap :=
  l.filterMap (fun h => (fault h).map (fun p => { lane := h, cause := p.1, tinfo := p.2 }))

theorem laneFaults_lanes (fault : Nat → Option (Nat × Nat)) (l : List Nat) :
    (laneFaults fault l).map (·.lane) = l.filter (fun h => (fault h).isSome) := by
  induction l with
  | nil => rfl
  | cons h l ih => cases hf : fault h <;> simpa [laneFaults, hf] using ih

theorem laneFaults_eq_nil {fault : Nat → Option (Nat × Nat)} {l : List Nat} (h : ∀ k ∈ l, fault k = none) :
    laneFaults fault l = [] := List.filterMap_eq_nil_iff.mpr fun k hk => by rw [h k hk, Option.map_none]

theorem mem_lanes {x : Ctx} {h : Nat} : h ∈ x.lanes ↔ laneIn x.act h = true :=
  ⟨fun hh => ((mem_lanesOf _ _).mp hh).2, fun hh => (mem_lanesOf _ _).mpr ⟨laneIn_lt _ _ hh, hh⟩⟩

theorem lanesOf_sorted (m : Mask) : (lanesOf m).Pairwise (· < ·) :=
  List.pairwise_lt_range.sublist List.filter_sublist

theorem laneIn_trapLanes (fault : Nat → Option (Nat × Nat)) (m : Mask) (k : Nat) :
    laneIn (trapLanes (laneFaults fault (lanesOf m))) k = true ↔ laneIn m k = true ∧ fault k ≠ none := by
  by_cases hk : k < 64
  · rw [trapLanes, laneIn_maskOf _ _ hk, laneFaults_lanes, decide_eq_true_iff, List.mem_filter, mem_lanesOf,
      Option.isSome_iff_ne_none]
    simp [hk]
  · exact ⟨fun h => absurd (laneIn_lt _ _ h) hk, fun h => absurd (laneIn_lt _ _ h.1) hk⟩

/-- The first of the traps is that of the lowest of the lanes that trap. -/
theorem firstFault_of_laneFaults {x : Ctx} {fault : Nat → Option (Nat × Nat)} {t : LaneTrap} {rest : List LaneTrap}
    (h : laneFaults fault x.lanes = t :: rest) :
    firstFault x fault t.cause t.tinfo (trapLanes (t :: rest)) ∧ fault t.lane = some (t.cause, t.tinfo) := by
  have hlane (k : Nat) : laneIn (trapLanes (laneFaults fault x.lanes)) k = true ↔ laneIn x.act k = true ∧ fault k ≠ none :=
    laneIn_trapLanes fault x.act k
  obtain ⟨k, hk, hf⟩ := List.mem_filterMap.mp (h ▸ List.mem_cons_self : t ∈ laneFaults fault x.lanes)
  obtain ⟨p, hp, rfl⟩ := Option.map_eq_some_iff.mp hf
  have hact : laneIn x.act k = true := mem_lanes.mp hk
  have hsort : ((laneFaults fault x.lanes).map (·.lane)).Pairwise (· < ·) := by
    rw [laneFaults_lanes]
    exact (lanesOf_sorted x.act).sublist List.filter_sublist
  rw [← h]
  refine ⟨⟨hlane, k, (hlane k).mpr ⟨hact, by simp [hp]⟩, hp, fun j hj => ?_⟩, hp⟩
  by_contra hn
  obtain ⟨hja, hjf⟩ := (hlane j).mp (by simpa only [Bool.not_eq_false] using hn)
  have hmem : j ∈ (laneFaults fault x.lanes).map (·.lane) := by
    rw [laneFaults_lanes]
    exact List.mem_filter.mpr ⟨mem_lanes.mpr hja, Option.isSome_iff_ne_none.mpr hjf⟩
  rw [h, List.map_cons] at hsort hmem
  rcases List.mem_cons.mp hmem with he | he
  · exact absurd hj (by rw [he]; exact Nat.lt_irrefl _)
  · exact absurd ((List.pairwise_cons.mp hsort).1 j he) (Nat.lt_asymm hj)

theorem trapsAfter_raise {x : Ctx} {cause : Nat} (h : goesOn cause = false) (ti : BitVec 64) (a b : Mask) (u : State) :
    trapsAfter x (x.trapOf cause ti a b) u (raise x cause ti a b u) := by
  simp only [trapsAfter, raise, raiseAt, h]
  rfl

end Sys2Proof.Machine
end

section
/-! SUPPORT. The stores of an instruction's lanes to scratchpad: `jinit`, `jwait` and `sts` (04 R87, R89, 08 R175, R177,
09 R206, 19 R452, R453, 20 R507). -/

namespace Sys2Proof.Machine

/-! ## Stores of several lanes -/

/-- Writes of several lanes to a memory, one after another. -/
def writeLanes (addr : Nat → Nat) (bytes : Nat → List Byte) (l : List Nat) (m : Memory) : Memory :=
  l.foldl (fun m h => memWriteBytes m (addr h) (bytes h)) m

section
variable {n : Nat} {addr : Nat → Nat} {bytes : Nat → List Byte} (hb : ∀ h, (bytes h).length = n)
include hb

theorem memRead_writeLanes_outside (l : List Nat) (m : Memory) (a : Nat) (ha : ∀ h ∈ l, a < addr h ∨ addr h + n ≤ a) :
    memRead (writeLanes addr bytes l m) a = memRead m a := by
  refine List.foldlRecOn (motive := fun w => memRead w a = memRead m a) l _ rfl fun w hw h hh => ?_
  rw [memRead_memWriteBytes_outside _ _ _ _ (by rw [hb]; exact ha h hh), hw]

/-- Of lanes in rising order, the last that writes a byte gives it. -/
theorem memRead_writeLanes_inside (l : List Nat) (hl : l.Pairwise (· < ·)) (m : Memory) (h k : Nat) (hh : h ∈ l) (hk : k < n)
    (ha : ∀ j ∈ l, h < j → addr h + k < addr j ∨ addr j + n ≤ addr h + k) :
    memRead (writeLanes addr bytes l m) (addr h + k) = (bytes h).getD k 0 := by
  induction l generalizing m with
  | nil => cases hh
  | cons j l ih =>
    obtain ⟨hj, hl⟩ := List.pairwise_cons.mp hl
    rcases List.mem_cons.mp hh with rfl | hh
    · refine (memRead_writeLanes_outside hb l _ _ fun i hi => ha i (List.mem_cons_of_mem _ hi) (hj i hi)).trans ?_
      exact memRead_memWriteBytes_inside _ _ _ _ (by rw [hb]; exact hk)
    · exact ih hl _ hh fun i hi => ha i (List.mem_cons_of_mem _ hi)

theorem stored_writeLanes {x : Ctx} {l : List Nat} (hl : l.Pairwise (· < ·)) (hx : ∀ h, h ∈ l ↔ laneIn x.act h = true)
    (m : Memory) : stored x n addr bytes (memRead m) (memRead (writeLanes addr bytes l m)) :=
  ⟨fun a ha => memRead_writeLanes_outside hb l m a fun h hh => ha h ((hx h).mp hh),
    fun h k hh hk ha => memRead_writeLanes_inside hb l hl m h k ((hx h).mpr hh) hk fun j hj hlt => ha j hlt ((hx j).mp hj)⟩

/-- One write stands for those of all lanes where every lane would write the same bytes to the same address. -/
theorem stored_memWriteBytes {x : Ctx} {k : Nat} (hk : laneIn x.act k = true) (hx : ∀ h, addr h = addr k ∧ bytes h = bytes k)
    (m : Memory) : stored x n addr bytes (memRead m) (memRead (memWriteBytes m (addr k) (bytes k))) := by
  refine ⟨fun a ha => memRead_memWriteBytes_outside _ _ _ _ (by rw [hb]; exact ha k hk), fun h i _ hi _ => ?_⟩
  rw [(hx h).1, (hx h).2]
  exact memRead_memWriteBytes_inside _ _ _ _ (by rw [hb]; exact hi)

end

theorem stored_of_no_lanes {x : Ctx} (n : Nat) (addr : Nat → Nat) (bytes : Nat → List Byte) (old : Nat → Byte)
    (h : ∀ k, laneIn x.act k = false) : stored x n addr bytes old old :=
  ⟨fun _ _ => rfl, fun k _ hk => by rw [h k] at hk; cases hk⟩

/-! ## A lane's store to scratchpad -/

/-- The trap of a lane's access of `n` bytes to scratchpad. -/
def Ctx.offsetFault (x : Ctx) (n : Nat) (s : State) (h : Nat) : Option (Nat × Nat) :=
  scratchFault (x.group s) n (x.scratchAddr h true)

/-- A lane's store of `n` bytes of c, `os` the phase barriers with operations pending (09 R206). -/
def storeLane (x : Ctx) (n : Nat) (os : List Nat) (g : Group) (h : Nat) (s : State) : State :=
  spoilPhases x.cur.core g (x.scratchAddr h true) n os
    (scratchWrite x.cur.core g (x.scratchAddr h true) (natToBytes n (x.c h)) s)

/-- The stores of some lanes, one after another. -/
def storeLanes (x : Ctx) (n : Nat) (os : List Nat) (g : Group) (l : List Nat) (s : State) : State :=
  l.foldl (fun s h => storeLane x n os g h s) s

/-- The access of a lane of `jinit` or `sts`. -/
def scratchStore (x : Ctx) (n : Nat) (os : List Nat) : LaneStep := fun lane (e, s) =>
  match scratchTrap (x.group s) n n lane (x.scratchAddr lane true) with
  | some t => (e.trap lane t.cause t.tinfo, s)
  | none => (e, storeLane x n os (x.group s) lane s)

theorem jinitOp_eq (x : Ctx) : jinitOp x = laneAccess x false (scratchStore x 4 []) := rfl

theorem stsOp_eq (x : Ctx) (s : State) : stsOp x s =
    let os := pendingPhases s x.cur.core x.gang.gslot
    if x.uniform x.f.e.kc.toNat then onceAccess x false (scratchStore x (typeWidth x.t / 8) os) s
    else laneAccess x false (scratchStore x (typeWidth x.t / 8) os) s := rfl

theorem scratchStore_eq (x : Ctx) (n : Nat) (os : List Nat) (h : Nat) (e : LaneEnd) (s : State) :
    scratchStore x n os h (e, s) = match x.offsetFault n s h with
      | some p => (e.trap h p.1 p.2, s)
      | none => (e, storeLane x n os (x.group s) h s) := by
  rw [scratchStore, scratchTrap_eq, Ctx.offsetFault]
  cases scratchFault (x.group s) n (x.scratchAddr h true) <;> rfl

section
variable (x : Ctx) (n : Nat) (os : List Nat) (g : Group)

theorem spoilPhases_sameButScratch (core off : Nat) (s : State) :
    SameButScratch core s (spoilPhases core g off n os s) := by
  induction os generalizing s with
  | nil => exact .refl _ _
  | cons o os ih =>
    rw [spoilPhases]
    split
    · exact ((scratchWrite_sameButScratch core g o _ s).withFree _).trans (ih _)
    · exact ih s

/-- What spoils phase barriers leaves every byte outside them as it was. -/
theorem spoilPhases_outside (core off a : Nat) (s : State) (ha : ∀ o ∈ os, a < g.sbase + o ∨ g.sbase + o + 16 ≤ a) :
    memRead (getCore (spoilPhases core g off n os s) core).scratch a = memRead (getCore s core).scratch a := by
  induction os generalizing s with
  | nil => rfl
  | cons o os ih =>
    obtain ⟨ho, hos⟩ := List.forall_mem_cons.mp ha
    rw [spoilPhases]
    split
    · rw [ih _ hos]
      exact scratchWrite_outside core g o _ s core a (.inr (by simpa using ho))
    · exact ih s hos

theorem storeLane_sameButScratch (h : Nat) (s : State) : SameButScratch x.cur.core s (storeLane x n os g h s) :=
  (scratchWrite_sameButScratch ..).trans (spoilPhases_sameButScratch ..)

theorem storeLanes_sameButScratch (l : List Nat) (s : State) : SameButScratch x.cur.core s (storeLanes x n os g l s) :=
  List.foldlRecOn (motive := SameButScratch x.cur.core s) l _ (.refl _ _)
    fun _ hu _ _ => hu.trans (storeLane_sameButScratch ..)

/-- Stores change no byte but those they store and those of the phase barriers with operations pending. -/
theorem storeLanes_outside (l : List Nat) (s : State) (a : Nat)
    (ha : ∀ h ∈ l, a < g.sbase + x.scratchAddr h true ∨ g.sbase + x.scratchAddr h true + n ≤ a)
    (ho : ∀ o ∈ os, a < g.sbase + o ∨ g.sbase + o + 16 ≤ a) :
    memRead (getCore (storeLanes x n os g l s) x.cur.core).scratch a = memRead (getCore s x.cur.core).scratch a := by
  refine List.foldlRecOn (motive := fun u => memRead (getCore u x.cur.core).scratch a = memRead (getCore s x.cur.core).scratch a)
    l _ rfl fun u hu h hh => ?_
  rw [storeLane, spoilPhases_outside _ _ _ _ _ _ _ ho,
    scratchWrite_outside _ _ _ _ _ _ _ (.inr (by rw [length_natToBytes]; exact ha h hh)), hu]

/-- Stores apart from the phase barriers with operations pending write their own bytes alone. -/
theorem storeLanes_apart (l : List Nat) (s : State)
    (ha : ∀ h ∈ l, ∀ o ∈ os, o + 16 ≤ x.scratchAddr h true ∨ x.scratchAddr h true + n ≤ o) :
    (storeLanes x n os g l s).free = s.free ∧ (getCore (storeLanes x n os g l s) x.cur.core).scratch =
      writeLanes (fun h => g.sbase + x.scratchAddr h true) (fun h => natToBytes n (x.c h)) l (getCore s x.cur.core).scratch := by
  induction l generalizing s with
  | nil => exact ⟨rfl, rfl⟩
  | cons h l ih =>
    obtain ⟨hh, hl⟩ := List.forall_mem_cons.mp ha
    have he : storeLane x n os g h s = scratchWrite x.cur.core g (x.scratchAddr h true) (natToBytes n (x.c h)) s :=
      spoilPhases_apart _ _ _ _ _ _ hh
    obtain ⟨hf, hs⟩ := ih (storeLane x n os g h s) hl
    rw [he, scratchWrite, getCore_modCore_same] at hs
    rw [he] at hf
    rw [storeLanes, List.foldl_cons, he]
    exact ⟨hf, hs⟩

/-- The accesses of some lanes: the lanes whose check fails trap, and the others store. -/
theorem overLanes_scratchStore (l : List Nat) (e : LaneEnd) (s : State) : overLanes (scratchStore x n os) l (e, s) =
    ({ e with traps := e.traps ++ laneFaults (x.offsetFault n s) l },
      storeLanes x n os (x.group s) (l.filter (fun h => (x.offsetFault n s h).isNone)) s) := by
  induction l generalizing e s with
  | nil => simp [overLanes, laneFaults, storeLanes]
  | cons h l ih =>
    rw [overLanes, scratchStore_eq]
    cases hf : x.offsetFault n s h with
    | some p =>
      rw [List.filter_cons_of_neg (by simp [hf])]
      simp [ih, laneFaults, hf, LaneEnd.trap]
    | none =>
      have hg : x.group (storeLane x n os (x.group s) h s) = x.group s := (storeLane_sameButScratch ..).group
      have hfault : x.offsetFault n (storeLane x n os (x.group s) h s) = x.offsetFault n s := by
        funext k
        rw [Ctx.offsetFault, hg, Ctx.offsetFault]
      rw [List.filter_cons_of_pos (by simp [hf])]
      simp only [ih, hg, hfault, laneFaults, List.filterMap_cons, hf, Option.map_none]
      rfl

/-- An access that takes no page and no wait ends with its traps, or completes. -/
theorem endAccess_traps (l : List LaneTrap) (s : State) : endAccess x { traps := l } false false s = endLanes x l s := by
  cases l with
  | nil => rfl
  | cons t l =>
    have hz : (0 ||| 0 ||| trapLanes (t :: l) : Mask) = trapLanes (t :: l) := by simp
    exact congrArg (fun m => raiseLanes x (t :: l) m s) hz

/-- `jinit` and `sts` in each lane: the lanes whose check fails trap after the others have stored. -/
theorem laneAccess_scratchStore (s : State) : laneAccess x false (scratchStore x n os) s =
    endLanes x (laneFaults (x.offsetFault n s) x.lanes)
      (storeLanes x n os (x.group s) (x.lanes.filter (fun h => (x.offsetFault n s h).isNone)) s) := by
  rw [laneAccess]
  split
  · rename_i h
    have hl : x.lanes = [] := by rw [Ctx.lanes, beq_iff_eq.mp h]; decide
    rw [hl]
    rfl
  · rw [overLanes_scratchStore]
    exact endAccess_traps x _ _

/-- `sts` once per issue: its one check fails for every acting lane, or it stores once. -/
theorem onceAccess_scratchStore (s : State) (ha : x.act ≠ 0) : onceAccess x false (scratchStore x n os) s =
    match x.offsetFault n s x.lane0 with
    | some p => raiseOnce x p.1 p.2 s
    | none => complete x (storeLane x n os (x.group s) x.lane0 s) := by
  rw [onceAccess, if_neg (by simpa using ha), scratchStore_eq]
  cases x.offsetFault n s x.lane0 <;> rfl

end

/-! ## Phase barriers with operations pending (09 R206) -/

theorem mem_mapModify {α : Type} {m : SMap α} {n : Nat} {f : α → α} {e : Nat × α} (h : e ∈ mapModify m n f) :
    e ∈ m ∨ ∃ v, (n, v) ∈ m ∧ e = (n, f v) := by
  unfold mapModify at h
  split at h
  · exact .inl h
  · rename_i v hv
    exact (mem_mapSet _ _ _ _ h).symm.imp id fun he => ⟨v, mapFind_mem _ _ _ hv, he⟩

/-- The phase barriers that the splits of a gang wait at. -/
def phaseWaits (gslot : Nat) (g : Gang) : List Nat :=
  if g.gslot != gslot then [] else g.splits.filterMap (fun sp =>
    sp.wait.bind (fun w => if w.kind == .phase then some w.obj else none))

/-- The phase barriers that the copies of a group credit. -/
def creditedPhases (s : State) (core gslot : Nat) : List Nat :=
  ((heldRequests s core gslot).filter (fun r => field r 243 243 == 1)).map (fun r => field r 242 224)

theorem mem_pendingPhases (s : State) (core gslot o : Nat) : o ∈ pendingPhases s core gslot ↔
    (o ∈ creditedPhases s core gslot ∨ ∃ e ∈ (getCore s core).gangs, o ∈ phaseWaits gslot e.2) ∧
      (o % 16 == 0 && o + 16 ≤ ((getGroup s core gslot).getD { ctx := 0 }).ssize) = true := by
  refine List.mem_filter.trans (and_congr_left' (List.mem_append.trans (or_congr Iff.rfl ?_)))
  exact List.mem_flatMap

theorem creditedPhases_taken (c : Cursor) (s : State) (gslot : Nat) :
    creditedPhases (taken c s) c.core gslot = creditedPhases s c.core gslot := by
  have hq : (getCore (taken c s) c.core).copyq = (getCore s c.core).copyq := by
    rw [taken, getCore_modGang_same]
    rfl
  have hr : (getCore (taken c s) c.core).copyrun = (getCore s c.core).copyrun := by
    rw [taken, getCore_modGang_same]
    rfl
  have hg : getGroup (taken c s) c.core gslot = getGroup s c.core gslot := getGroup_modGang ..
  simp only [creditedPhases, heldRequests, hq, hr, hg, scratchRead_taken]

/-- Taking the head of the slot makes no phase barrier pending. -/
theorem pendingPhases_taken {c : Cursor} {s : State} {gslot o : Nat} (h : o ∈ pendingPhases (taken c s) c.core gslot) :
    o ∈ pendingPhases s c.core gslot := by
  obtain ⟨hw, hr⟩ := (mem_pendingPhases ..).mp h
  rw [taken, getGroup_modGang] at hr
  refine (mem_pendingPhases ..).mpr ⟨?_, hr⟩
  rw [creditedPhases_taken] at hw
  refine hw.imp id fun ⟨e, he, ho⟩ => ?_
  rw [taken, getCore_modGang_same] at he
  rcases mem_mapModify he with he | ⟨v, hv, rfl⟩
  · exact ⟨e, he, ho⟩
  · refine ⟨_, hv, ?_⟩
    have hwait (sp : Split) : (if laneIn sp.mask c.lane then { sp with fresh := false, clause := c.clause } else sp).wait =
        sp.wait := by split <;> rfl
    simp only [phaseWaits, modSplit, List.filterMap_map] at ho ⊢
    simpa only [Function.comp_def, hwait] using ho

/-! ## Stores once per issue (20 R505, R507) -/

theorem illegalReason_of_form {op : Nat} {f : Form} (h : illegalForm op f = none) :
    illegalReason (fieldsOfForm op f) = none := by
  cases f with
  | ext e => exact h
  | extLit e l => exact h
  | baseLit w l =>
    rw [illegalForm] at h
    split at h
    · cases h
    · split at h
      · cases h
      · exact h

/-- Operand a of legal fields is one that the row allows. -/
theorem opndOk_a_of_legal {f : Fields} (h : illegalReason f = none) :
    opndOk (row f.op f.e).a f.e.ka.toNat f.e.a.toNat = true := by
  simp only [illegalReason] at h
  by_contra hn
  simp only [Bool.eq_false_of_not_eq_true hn, Bool.and_false, Bool.false_and, Bool.not_false, if_true] at h
  repeat' split at h
  all_goals cases h

theorem opndOk_r_named (n field : Nat) : opndOk (.r n) 2 field = false := by
  rw [opndOk]
  rcases namedReg field with _ | ⟨file, k⟩ <;> rfl

/-- The base of a legal `sts` is no named register. -/
theorem sts_base {f : Form} (h : illegalForm 0x60 f = none) : (fieldsOfForm 0x60 f).e.ka.toNat ≠ 2 := by
  have ho := opndOk_a_of_legal (illegalReason_of_form h)
  have hop : (fieldsOfForm 0x60 f).op = 0x60 := by cases f <;> rfl
  intro h2
  rw [hop, h2] at ho
  exact Bool.false_ne_true ((opndOk_r_named 1 _).symm.trans ho)

/-- An operand that is no vector and no named register is the same in every lane. -/
theorem readOpnd_lane (g : Gang) (imm : BitVec 64) (field n h k : Nat) {kind : Nat} (h0 : kind ≠ 0) (h2 : kind ≠ 2) :
    readOpnd g imm kind field n h = readOpnd g imm kind field n k := by
  rcases kind with _ | _ | _ | kind
  · exact absurd rfl h0
  · rfl
  · exact absurd rfl h2
  · rfl

/-- Where an access is made once per issue, its address and the bytes stored are the same in every lane. -/
theorem uniform_lane {x : Ctx} (hu : x.uniform x.f.e.kc.toNat = true) (h2 : x.f.e.ka.toNat ≠ 2) (h k : Nat) :
    x.scratchAddr h true = x.scratchAddr k true ∧ x.c h = x.c k := by
  simp only [Ctx.uniform, Bool.and_eq_true, beq_iff_eq, bne_iff_ne] at hu
  obtain ⟨⟨hc, ha⟩, hb⟩ := hu
  have hidx (j : Nat) : x.index j = 0 := by rw [Ctx.index, hb]; rfl
  have hbase : x.a h = x.a k := readOpnd_lane _ _ _ _ _ _ ha h2
  exact ⟨by rw [Ctx.scratchAddr, Ctx.scratchAddr, hidx, hidx, hbase],
    readOpnd_lane _ _ _ _ _ _ (by rw [hc]; decide) (by rw [hc]; decide)⟩

/-! ## The outcomes of a store (04 R87, 13 R283, R544, 20 R507) -/

/-- The acting lanes' offsets are aligned and within the group's range. -/
def offsetsInRange (n : Nat) (x : Ctx) (s : State) : Prop :=
  ∀ h, laneIn x.act h = true → x.scratchAddr h true % n = 0 ∧ x.scratchAddr h true + n ≤ (x.group s).ssize

/-- The stores of a lane meet no phase barrier of a list. -/
def apartFrom (os : List Nat) (n : Nat) (x : Ctx) (h : Nat) : Prop :=
  ∀ o ∈ os, o + 16 ≤ x.scratchAddr h true ∨ x.scratchAddr h true + n ≤ o

/-- Some lanes' stores of `n` bytes make the scratchpad of the core, from one state to another. -/
def storesBytes (n : Nat) (x : Ctx) (lanes : Mask) (s t : State) : Prop :=
  stored { x with act := lanes } n (fun h => (x.group s).sbase + x.scratchAddr h true) (fun h => natToBytes n (x.c h))
    (memRead (getCore s x.cur.core).scratch) (memRead (getCore t x.cur.core).scratch)

/-- The instruction is past, and has changed scratchpad alone, by its lanes' stores. -/
def storesAt (n : Nat) (x : Ctx) (s t : State) : Prop :=
  Leaves x s (modCore s x.cur.core (fun k => { k with scratch := (getCore t x.cur.core).scratch })) t ∧
    past x s t x.gang.ops ∧ storesBytes n x x.act s t

/-- The instruction traps for the lanes whose access faults, once the others have stored. -/
def othersStore (n : Nat) (x : Ctx) (s t : State) : Prop :=
  ∃ cause info m u, firstFault x (x.offsetFault n s) cause info m ∧ trapsAfter x (x.trapOf cause (b64 info) m m) u t ∧
    Leaves x s (modCore s x.cur.core (fun k => { k with scratch := (getCore u x.cur.core).scratch })) u ∧
    getGang u x.cur.core x.cur.slot = some (x.issued s) ∧ storesBytes n x (x.act &&& ~~~m) s u

/-- The instruction is past, and of scratchpad and free values alone something has changed: no byte outside the lanes' own
and outside the phase barriers with operations pending. -/
def storesWithin (n : Nat) (x : Ctx) (s t : State) : Prop :=
  Leaves x s (scratchFrom x.cur.core s t) t ∧ past x s t x.gang.ops ∧
    ∀ a, (∀ h, laneIn x.act h = true →
        a < (x.group s).sbase + x.scratchAddr h true ∨ (x.group s).sbase + x.scratchAddr h true + n ≤ a) →
      (∀ o ∈ pendingPhases s x.cur.core x.gang.gslot, a < (x.group s).sbase + o ∨ (x.group s).sbase + o + 16 ≤ a) →
      memRead (getCore t x.cur.core).scratch a = memRead (getCore s x.cur.core).scratch a

theorem offsetFault_of_inRange {n : Nat} {x : Ctx} {s : State} (hr : offsetsInRange n x s) {h : Nat}
    (hh : laneIn x.act h = true) : x.offsetFault n s h = none := by
  obtain ⟨ha, hs⟩ := hr h hh
  rw [Ctx.offsetFault, scratchFault, if_neg (by simpa using ha), if_neg (Nat.not_lt.mpr hs)]

@[simp] theorem offsetFault_taken (n : Nat) (x : Ctx) (s : State) : x.offsetFault n (taken x.cur s) = x.offsetFault n s := by
  funext h
  rw [Ctx.offsetFault, group_taken, Ctx.offsetFault]

theorem onceAccess_of_idle {x : Ctx} (h : x.act = 0) (long : Bool) (f : LaneStep) (s : State) :
    onceAccess x long f s = laneAccess x long f s := by
  rw [onceAccess, laneAccess, if_pos (by simp [h]), if_pos (by simp [h])]

section
variable {n : Nat} {os : List Nat} {x : Ctx} {s : State}

theorem storeLanes_leaves {l : List Nat} (ha : ∀ h ∈ l, apartFrom os n x h) :
    let u := storeLanes x n os (x.group s) l (taken x.cur s)
    Leaves x s (modCore s x.cur.core (fun k => { k with scratch := (getCore u x.cur.core).scratch })) u := by
  intro u
  have hf : u.free = s.free := (storeLanes_apart x n os (x.group s) l (taken x.cur s) ha).1
  rw [← scratchFrom_of_free hf]
  exact (storeLanes_sameButScratch ..).leaves

theorem storeLanes_storesBytes {lanes : Mask} {l : List Nat} (hl : l.Pairwise (· < ·))
    (hm : ∀ h, h ∈ l ↔ laneIn lanes h = true) (ha : ∀ h ∈ l, apartFrom os n x h) :
    storesBytes n x lanes s (storeLanes x n os (x.group s) l (taken x.cur s)) := by
  rw [storesBytes, (storeLanes_apart x n os (x.group s) l (taken x.cur s) ha).2, scratch_taken]
  exact stored_writeLanes (fun _ => length_natToBytes _ _) hl hm _

theorem storesAt_complete {u : State} (hi : issuer s = some (x.cur, x.gang, x.sp))
    (hu : SameButScratch x.cur.core (taken x.cur s) u)
    (hl : Leaves x s (modCore s x.cur.core (fun k => { k with scratch := (getCore u x.cur.core).scratch })) u)
    (hb : storesBytes n x x.act s u) : storesAt n x s (complete x u) := by
  refine ⟨?_, hu.past hi, ?_⟩
  · rw [complete, scratch_onGang]
    exact hl.onGang _
  · rwa [storesBytes, complete, scratch_onGang]

theorem laneAccess_storesAt (hi : issuer s = some (x.cur, x.gang, x.sp)) (hr : offsetsInRange n x s)
    (ha : ∀ h, laneIn x.act h = true → apartFrom os n x h) :
    storesAt n x s (laneAccess x false (scratchStore x n os) (taken x.cur s)) := by
  have hf (h : Nat) (hh : h ∈ x.lanes) := offsetFault_of_inRange hr (mem_lanes.mp hh)
  have ha' (h : Nat) (hh : h ∈ x.lanes) := ha h (mem_lanes.mp hh)
  rw [laneAccess_scratchStore, offsetFault_taken, group_taken, laneFaults_eq_nil hf,
    List.filter_eq_self.mpr fun h hh => by rw [hf h hh]; rfl]
  exact storesAt_complete hi (storeLanes_sameButScratch ..) (storeLanes_leaves ha')
    (storeLanes_storesBytes (lanesOf_sorted _) (fun _ => mem_lanes) ha')

theorem onceAccess_storesAt (hi : issuer s = some (x.cur, x.gang, x.sp)) (hr : offsetsInRange n x s)
    (hx : ∀ h k, x.scratchAddr h true = x.scratchAddr k true ∧ x.c h = x.c k)
    (ha : ∀ h, laneIn x.act h = true → apartFrom os n x h) :
    storesAt n x s (onceAccess x false (scratchStore x n os) (taken x.cur s)) := by
  by_cases h0 : x.act = 0
  · rw [onceAccess_of_idle h0]
    exact laneAccess_storesAt hi hr ha
  have hl : laneIn x.act x.lane0 = true := laneIn_lowestLane h0
  have ha' : ∀ h ∈ [x.lane0], apartFrom os n x h := by simpa using ha _ hl
  rw [onceAccess_scratchStore _ _ _ _ h0, offsetFault_taken, offsetFault_of_inRange hr hl, group_taken]
  refine storesAt_complete (u := storeLanes x n os (x.group s) [x.lane0] (taken x.cur s)) hi (storeLanes_sameButScratch ..)
    (storeLanes_leaves ha') ?_
  rw [storesBytes, (storeLanes_apart x n os (x.group s) _ (taken x.cur s) ha').2, scratch_taken]
  exact stored_memWriteBytes (x := { x with act := x.act }) (fun _ => length_natToBytes _ _) hl
    (fun h => by rw [(hx h x.lane0).1, (hx h x.lane0).2]; exact ⟨rfl, rfl⟩) _

theorem storeLanes_storesWithin {l : List Nat} (hi : issuer s = some (x.cur, x.gang, x.sp))
    (hl : ∀ h ∈ l, laneIn x.act h = true) (ho : ∀ o ∈ os, o ∈ pendingPhases s x.cur.core x.gang.gslot) :
    storesWithin n x s (complete x (storeLanes x n os (x.group s) l (taken x.cur s))) := by
  have hu := storeLanes_sameButScratch x n os (x.group s) l (taken x.cur s)
  refine ⟨?_, hu.past hi, fun a ha hp => ?_⟩
  · rw [scratchFrom, complete, scratch_onGang]
    exact hu.leaves.onGang _
  · rw [complete, scratch_onGang, storeLanes_outside _ _ _ _ _ _ _ (fun h hh => ha h (hl h hh)) (fun o hh => hp o (ho o hh)),
      scratch_taken]

theorem laneAccess_storesWithin (hi : issuer s = some (x.cur, x.gang, x.sp)) (hr : offsetsInRange n x s)
    (ho : ∀ o ∈ os, o ∈ pendingPhases s x.cur.core x.gang.gslot) :
    storesWithin n x s (laneAccess x false (scratchStore x n os) (taken x.cur s)) := by
  have hf (h : Nat) (hh : h ∈ x.lanes) := offsetFault_of_inRange hr (mem_lanes.mp hh)
  rw [laneAccess_scratchStore, offsetFault_taken, group_taken, laneFaults_eq_nil hf]
  exact storeLanes_storesWithin hi (fun h hh => mem_lanes.mp (List.mem_filter.mp hh).1) ho

theorem onceAccess_storesWithin (hi : issuer s = some (x.cur, x.gang, x.sp)) (hr : offsetsInRange n x s)
    (ho : ∀ o ∈ os, o ∈ pendingPhases s x.cur.core x.gang.gslot) :
    storesWithin n x s (onceAccess x false (scratchStore x n os) (taken x.cur s)) := by
  by_cases h0 : x.act = 0
  · rw [onceAccess_of_idle h0]
    exact laneAccess_storesWithin hi hr ho
  have hl : laneIn x.act x.lane0 = true := laneIn_lowestLane h0
  rw [onceAccess_scratchStore _ _ _ _ h0, offsetFault_taken, offsetFault_of_inRange hr hl, group_taken]
  exact storeLanes_storesWithin (l := [x.lane0]) hi (by simpa using hl) ho

/-- The traps of the lanes whose access faults are not none. -/
theorem laneFaults_of_fault (hex : ∃ h, laneIn x.act h = true ∧ x.offsetFault n s h ≠ none) :
    ∃ t rest, laneFaults (x.offsetFault n s) x.lanes = t :: rest := by
  obtain ⟨h, hh, hf⟩ := hex
  refine List.exists_cons_of_ne_nil fun he => hf ?_
  simpa using List.filterMap_eq_nil_iff.mp he h (mem_lanes.mpr hh)

theorem laneAccess_othersStore (hi : issuer s = some (x.cur, x.gang, x.sp))
    (hex : ∃ h, laneIn x.act h = true ∧ x.offsetFault n s h ≠ none)
    (ha : ∀ h, laneIn x.act h = true → x.offsetFault n s h = none → apartFrom os n x h) :
    othersStore n x s (laneAccess x false (scratchStore x n os) (taken x.cur s)) := by
  obtain ⟨t, rest, ht⟩ := laneFaults_of_fault hex
  obtain ⟨hfirst, hcause⟩ := firstFault_of_laneFaults ht
  have hm (h : Nat) : h ∈ x.lanes.filter (fun h => (x.offsetFault n s h).isNone) ↔
      laneIn x.act h = true ∧ x.offsetFault n s h = none := by
    rw [List.mem_filter, mem_lanes, Option.isNone_iff_eq_none]
  have ha' (h : Nat) (hh : h ∈ x.lanes.filter (fun h => (x.offsetFault n s h).isNone)) :=
    ha h ((hm h).mp hh).1 ((hm h).mp hh).2
  rw [laneAccess_scratchStore, offsetFault_taken, group_taken, ht]
  refine ⟨_, _, _, _, hfirst, trapsAfter_raise (goesOn_of_scratchFault hcause) _ _ _ _, storeLanes_leaves ha', ?_,
    storeLanes_storesBytes ((lanesOf_sorted _).sublist List.filter_sublist) (fun h => ?_) ha'⟩
  · rw [(storeLanes_sameButScratch ..).gang, getGang_issued hi]
  · by_cases hh : h < 64
    · rw [hm, laneIn_and, laneIn_not _ _ hh, Bool.and_eq_true, Bool.not_eq_true', ← Bool.not_eq_true, hfirst.1]
      tauto
    · rw [hm]
      exact ⟨fun hn => absurd (laneIn_lt _ _ hn.1) hh, fun hn => absurd (laneIn_lt _ _ hn) hh⟩

theorem onceAccess_othersStore (hi : issuer s = some (x.cur, x.gang, x.sp))
    (hex : ∃ h, laneIn x.act h = true ∧ x.offsetFault n s h ≠ none)
    (hx : ∀ h k, x.scratchAddr h true = x.scratchAddr k true ∧ x.c h = x.c k) :
    othersStore n x s (onceAccess x false (scratchStore x n os) (taken x.cur s)) := by
  obtain ⟨t, rest, ht⟩ := laneFaults_of_fault hex
  obtain ⟨hfirst, hcause⟩ := firstFault_of_laneFaults ht
  have hall (h : Nat) : x.offsetFault n s h = some (t.cause, t.tinfo) := by
    rw [← hcause, Ctx.offsetFault, Ctx.offsetFault, (hx h t.lane).1]
  have h0 : x.act ≠ 0 := fun h0 => by
    obtain ⟨h, hh, -⟩ := hex
    rw [h0] at hh
    simp [laneIn] at hh
  have hm : trapLanes (t :: rest) = x.act := BitVec.eq_of_getLsbD_eq fun h _ => by
    have hk := hfirst.1 h
    rw [hall] at hk
    exact Bool.eq_iff_iff.mpr (hk.trans (and_iff_left (by simp)))
  rw [hm] at hfirst
  rw [onceAccess_scratchStore _ _ _ _ h0, offsetFault_taken, hall]
  refine ⟨_, _, _, _, hfirst, trapsAfter_raise (goesOn_of_scratchFault hcause) _ _ _ _, ?_, getGang_issued hi, ?_⟩
  · exact storeLanes_leaves (n := n) (os := []) (l := []) (by simp)
  · rw [storesBytes, scratch_taken]
    exact stored_of_no_lanes _ _ _ _ fun h => by simp [laneIn]

end

/-! ## `jinit` and `sts` -/

section
variable (f : Form)

theorem jinit_ends {P : Ctx → State → Prop} {R : Ctx → State → State → Prop}
    (h : ∀ x s, issuer s = some (x.cur, x.gang, x.sp) → P x s →
      R x s (laneAccess x false (scratchStore x 4 []) (taken x.cur s))) : Ends (.jinit f) P R :=
  ends_of_form (op := 0x4A) (f := f) (body := jinitOp) rfl rfl rfl (fun _ => rfl) fun x s hi _ _ hp => by
    rw [jinitOp_eq]
    exact h x s hi hp

/-- An `sts` is made once per issue, its address and value the same in every lane, or in each lane. -/
theorem sts_ends {P : Ctx → State → Prop} {R : Ctx → State → State → Prop}
    (honce : ∀ x s, issuer s = some (x.cur, x.gang, x.sp) → P x s →
      (∀ h k, x.scratchAddr h true = x.scratchAddr k true ∧ x.c h = x.c k) →
      R x s (onceAccess x false (scratchStore x (typeWidth x.t / 8) (pendingPhases (taken x.cur s) x.cur.core x.gang.gslot))
        (taken x.cur s)))
    (hlanes : ∀ x s, issuer s = some (x.cur, x.gang, x.sp) → P x s →
      R x s (laneAccess x false (scratchStore x (typeWidth x.t / 8) (pendingPhases (taken x.cur s) x.cur.core x.gang.gslot))
        (taken x.cur s))) : Ends (.sts f) P R := by
  refine ends_of_form (op := 0x60) (f := f) (body := stsOp) rfl rfl rfl (fun _ => rfl) fun x s hi hx hlegal hp => ?_
  rw [stsOp_eq]
  dsimp only
  split
  · rename_i hu
    have h2 : x.f.e.ka.toNat ≠ 2 := by rw [hx]; exact sts_base hlegal
    exact honce x s hi hp (uniform_lane hu h2)
  · exact hlanes x s hi hp

theorem jinit_stores : Ends (.jinit f) (offsetsInRange 4) (storesAt 4) :=
  jinit_ends f fun _ _ hi hr => laneAccess_storesAt hi hr fun _ _ _ ho => nomatch ho

theorem jinit_traps : Ends (.jinit f) (fun x s => ∃ h, laneIn x.act h = true ∧ x.offsetFault 4 s h ≠ none)
    (othersStore 4) :=
  jinit_ends f fun _ _ hi hex => laneAccess_othersStore hi hex fun _ _ _ _ ho => nomatch ho

theorem sts_stores : Ends (.sts f) (fun x s => offsetsInRange (typeWidth x.t / 8) x s ∧
      ∀ h, laneIn x.act h = true → apartFrom (pendingPhases s x.cur.core x.gang.gslot) (typeWidth x.t / 8) x h)
    (fun x s t => storesAt (typeWidth x.t / 8) x s t) :=
  sts_ends f
    (fun _ _ hi ⟨hr, ha⟩ hx => onceAccess_storesAt hi hr hx fun h hh o ho => ha h hh o (pendingPhases_taken ho))
    (fun _ _ hi ⟨hr, ha⟩ => laneAccess_storesAt hi hr fun h hh o ho => ha h hh o (pendingPhases_taken ho))

theorem sts_stores_within : Ends (.sts f) (fun x s => offsetsInRange (typeWidth x.t / 8) x s)
    (fun x s t => storesWithin (typeWidth x.t / 8) x s t) :=
  sts_ends f (fun _ _ hi hr _ => onceAccess_storesWithin hi hr fun _ ho => pendingPhases_taken ho)
    (fun _ _ hi hr => laneAccess_storesWithin hi hr fun _ ho => pendingPhases_taken ho)

theorem sts_traps : Ends (.sts f) (fun x s =>
      (∃ h, laneIn x.act h = true ∧ x.offsetFault (typeWidth x.t / 8) s h ≠ none) ∧
      ∀ h, laneIn x.act h = true → x.offsetFault (typeWidth x.t / 8) s h = none →
        apartFrom (pendingPhases s x.cur.core x.gang.gslot) (typeWidth x.t / 8) x h)
    (fun x s t => othersStore (typeWidth x.t / 8) x s t) :=
  sts_ends f (fun _ _ hi ⟨hex, _⟩ hx => onceAccess_othersStore hi hex hx)
    (fun _ _ hi ⟨hex, ha⟩ => laneAccess_othersStore hi hex fun h hh hf o ho => ha h hh hf o (pendingPhases_taken ho))

/-! ## `jwait` (04 R89, 19 R453) -/

/-- Every join counter of the acting lanes reads 0. -/
theorem joinsDone_iff (x : Ctx) (s : State) : joinsDone x (taken x.cur s) = true ↔ ∀ h, laneIn x.act h = true →
    scratchRead s x.cur.core (x.group s) (x.scratchAddr h true) 4 = 0 := by
  simp only [joinsDone, List.all_eq_true, mem_lanes, group_taken, scratchRead_taken, beq_iff_eq]

theorem jwait_faults (x : Ctx) (s : State) :
    x.lanes.filterMap (fun h => scratchTrap (x.group s) 4 4 h (x.scratchAddr h true)) =
      laneFaults (x.offsetFault 4 s) x.lanes := by
  simp only [scratchTrap_eq, laneFaults, Ctx.offsetFault]

theorem jwaitOp_faults {x : Ctx} {s : State} {t : LaneTrap} {rest : List LaneTrap}
    (h : laneFaults (x.offsetFault 4 s) x.lanes = t :: rest) : jwaitOp x s = raiseLanes x (t :: rest) x.act s := by
  simp only [jwaitOp, jwait_faults, h]

theorem jwaitOp_inRange {x : Ctx} {s : State} (hr : offsetsInRange 4 x s) : jwaitOp x (taken x.cur s) =
    if joinsDone x (taken x.cur s) then complete x (taken x.cur s) else waitAt x .join 0 false (taken x.cur s) := by
  have h := laneFaults_eq_nil fun h hh => offsetFault_of_inRange hr (mem_lanes.mp hh)
  simp only [jwaitOp, jwait_faults, offsetFault_taken, h]

theorem jwait_goes_on : Ends (.jwait f) (fun x s => offsetsInRange 4 x s ∧ ∀ h, laneIn x.act h = true →
      scratchRead s x.cur.core (x.group s) (x.scratchAddr h true) 4 = 0)
    (fun x s t => becomes x s t (advanceSplit x.cur (x.issued s))) := by
  refine ends_of_form (op := 0x4B) (f := f) (body := jwaitOp) rfl rfl rfl (fun _ => rfl) fun x s hi _ _ ⟨hr, hz⟩ => ?_
  rw [jwaitOp_inRange hr, if_pos ((joinsDone_iff x s).mpr hz)]
  exact becomes_onGang x s _ hi

theorem jwait_traps : Ends (.jwait f) (fun x s => ∃ h, laneIn x.act h = true ∧ x.offsetFault 4 s h ≠ none) (fun x s t =>
    ∃ cause info m, firstFault x (x.offsetFault 4 s) cause info m ∧ traps x (x.trapOf cause (b64 info) m x.act) s t) := by
  refine ends_of_form (op := 0x4B) (f := f) (body := jwaitOp) rfl rfl rfl (fun _ => rfl) fun x s hi _ _ hex => ?_
  obtain ⟨t, rest, ht⟩ := laneFaults_of_fault hex
  rw [jwaitOp_faults (by rw [offsetFault_taken, ht])]
  exact ⟨_, _, _, (firstFault_of_laneFaults ht).1, traps_raise ..⟩

/-- A gang whose issuing split waits; the head of the rotation may move with it (03 R61). -/
def waitingGang (x : Ctx) (wait : Wait) (moves : Bool) (g : Gang) : Gang :=
  let g := modSplit x.cur.lane (fun sp => { sp with wait := some wait }) g
  if moves then rotateFrom x.cur.lane g else g

theorem waitingGang_other (x : Ctx) (wait : Wait) (moves : Bool) (g : Gang) :
    ∃ l, l.Perm (modSplit x.cur.lane (fun sp => { sp with wait := some wait }) g).splits ∧
      waitingGang x wait moves g = { g with splits := l } := by
  cases moves
  · exact ⟨_, .refl _, rfl⟩
  · have hother (g' : Gang) : ∃ l, rotateFrom x.cur.lane g' = { g' with splits := l } := by
      unfold rotateFrom rotateHead
      split
      · split <;> exact ⟨_, rfl⟩
      · exact ⟨_, rfl⟩
    have hp := splits_rotateFrom_perm x.cur.lane (modSplit x.cur.lane (fun sp => { sp with wait := some wait }) g)
    obtain ⟨l, hl⟩ := hother (modSplit x.cur.lane (fun sp => { sp with wait := some wait }) g)
    rw [hl] at hp
    exact ⟨l, hp, hl⟩

theorem waitAt_eq (x : Ctx) (kind : WaitKind) (obj : Nat) (acted : Bool) (s : State) : ∃ moves,
    waitAt x kind obj acted s =
      onGang x (waitingGang x { kind := kind, obj := obj, since := x.since kind s, acted := acted } moves) s := by
  cases hw : x.sp.wait with
  | none =>
    refine ⟨true && movesHead kind obj, ?_⟩
    rw [waitAt, Ctx.since, hw]
    rfl
  | some w =>
    refine ⟨w.kind != kind && movesHead kind obj, ?_⟩
    rw [waitAt, Ctx.since, hw]
    simp only [beq_iff_eq]
    rfl

/-- The wait that an instruction begins or keeps (02 R51). -/
theorem waitAt_waits {x : Ctx} {s : State} (hi : issuer s = some (x.cur, x.gang, x.sp)) (kind : WaitKind) (obj : Nat)
    (acted : Bool) : waitsAt x kind obj acted s (waitAt x kind obj acted (taken x.cur s)) := by
  obtain ⟨moves, he⟩ := waitAt_eq x kind obj acted (taken x.cur s)
  obtain ⟨hsame, hgang⟩ := becomes_onGang x s
    (waitingGang x { kind := kind, obj := obj, since := x.since kind s, acted := acted } moves) hi
  obtain ⟨l, hl, hg⟩ := waitingGang_other x { kind := kind, obj := obj, since := x.since kind s, acted := acted } moves
    (x.issued s)
  rw [hg] at hgang
  rw [he]
  exact ⟨hsame, _, hgang, rfl, sameRegs_refl _, fun _ => hl.mem_iff⟩

theorem jwait_waits : Ends (.jwait f) (fun x s => offsetsInRange 4 x s ∧ ∃ h, laneIn x.act h = true ∧
      scratchRead s x.cur.core (x.group s) (x.scratchAddr h true) 4 ≠ 0)
    (fun x s t => waitsAt x .join 0 false s t) := by
  refine ends_of_form (op := 0x4B) (f := f) (body := jwaitOp) rfl rfl rfl (fun _ => rfl) fun x s hi _ _ ⟨hr, h, hh, hz⟩ => ?_
  rw [jwaitOp_inRange hr, if_neg fun hd => hz ((joinsDone_iff x s).mp hd h hh)]
  exact waitAt_waits hi .join 0 false

end

/-- Settles O39: each clause is what its instruction's own lemma above says. -/
theorem scratchpadStores : Obligations.ScratchpadStores :=
  ⟨jinit_stores, sts_stores, sts_stores_within, jwait_goes_on, jwait_waits, jinit_traps, sts_traps, jwait_traps⟩

end Sys2Proof.Machine
end

section
/-! SUPPORT. `spawn`: the request of a lane, and the issue (04 R75 to R81, 20 R503, R504). -/

namespace Sys2Proof.Machine

/-! ## Join counters (04 R87, R88) -/

/-- A join counter after an amount is added, modulo 2^32. -/
theorem scratchRead_joinAdd (core : Nat) (g : Group) (off n : Nat) (s : State) :
    scratchRead (joinAdd core g off n s) core g off 4 = (scratchRead s core g off 4 + n) % 2 ^ 32 := by
  rw [joinAdd, scratchRead_scratchWrite, show 256 ^ 4 = 2 ^ 32 by decide, Nat.mod_mod]

theorem joinAdd_sameButScratch (core : Nat) (g : Group) (off n : Nat) (s : State) :
    SameButScratch core s (joinAdd core g off n s) := scratchWrite_sameButScratch ..

/-! ## The request of a lane (04 R77, R80) -/

/-- The record of a lane's request. -/
def requestOf (x : Ctx) (entry : BitVec 52) (h : Nat) (s : State) : SpawnRec :=
  let k := getCore s x.cur.core
  { payload := (List.range x.mn).map (fun i => vreg x.gang (x.f.e.a.toNat + i) h), npay := x.mn,
    jaddr := if x.md = 1 then x.b h else 0, join := decide (x.md = 1), gslot := x.gang.gslot,
    ggen := mapGet 0 k.ggen x.gang.gslot, seq := k.seq % 65536, entry := entry, landed := some s.cycles }

/-- The state with a record accepted into the queue, before its join is counted. -/
def queued (core : Nat) (r : SpawnRec) (s : State) : State :=
  modCore (modCore s core (fun k => { k with spawnq := k.spawnq ++ [r] })) core (fun k => { k with seq := k.seq + 1 })

/-- The state with a lane's request accepted into the queue. -/
def accepted (x : Ctx) (entry : BitVec 52) (h : Nat) (s : State) : State :=
  let u := queued x.cur.core (requestOf x entry h s) s
  if x.md = 1 then joinAdd x.cur.core (x.group s) (x.b h) 1 u else u

section
variable (x : Ctx) (entry : BitVec 52) (h : Nat) (s : State)

/-- A request whose join counter is full is refused. -/
theorem spawnLane_full (hm : x.md = 1) (hc : scratchRead s x.cur.core (x.group s) (x.b h) 4 = 2 ^ 32 - 1) :
    spawnLane x entry h s = (false, s) := by
  have hc' : (scratchRead s x.cur.core (x.group s) (x.b h) 4 == 0xFFFFFFFF) = true := beq_iff_eq.mpr hc
  simp only [spawnLane, hm, beq_self_eq_true, if_true, hc', Bool.and_self]

/-- A request that may go to the queue is accepted as far as the slot demand allows. -/
theorem spawnLane_queue (hc : x.md = 1 → scratchRead s x.cur.core (x.group s) (x.b h) 4 ≠ 2 ^ 32 - 1)
    (hs : (x.group s).spilled = []) (hq : queuedOf (getCore s x.cur.core) x.gang.gslot < (x.group s).quota)
    (hl : (getCore s x.cur.core).spawnq.length < 2048) :
    spawnLane x entry h s =
      if slotDemand (getCore s x.cur.core) + queueRise (getCore s x.cur.core) (x.group s) x.gang.gslot entry ≤
        48 - launchedGangs (getCore s x.cur.core) then (true, accepted x entry h s) else (false, s) := by
  by_cases hm : x.md = 1
  · have hc' : (scratchRead s x.cur.core (x.group s) (x.b h) 4 == 0xFFFFFFFF) = false := beq_false_of_ne (hc hm)
    simp only [spawnLane, accepted, queued, requestOf, hm, beq_self_eq_true, if_true, decide_true, hc', hs, hq, hl,
      List.isEmpty_nil, Bool.and_self, Bool.and_false, Bool.false_eq_true, if_false]
  · have hm' : (x.md == 1) = false := beq_false_of_ne hm
    simp only [spawnLane, accepted, queued, requestOf, hm', hm, if_false, decide_false, hs, hq, hl, decide_true,
      List.isEmpty_nil, Bool.and_self, Bool.false_and, Bool.false_eq_true, if_true]

theorem getCore_queued (core : Nat) (r : SpawnRec) : getCore (queued core r s) core =
    { getCore s core with spawnq := (getCore s core).spawnq ++ [r], seq := (getCore s core).seq + 1 } := by
  rw [queued, getCore_modCore_same, getCore_modCore_same]

/-- What acceptance into the queue changes of the core: the queue, the acceptance count, and a byte of scratchpad only
where the lane has a join address. -/
theorem getCore_accepted : getCore (accepted x entry h s) x.cur.core =
    { getCore s x.cur.core with
      spawnq := (getCore s x.cur.core).spawnq ++ [requestOf x entry h s], seq := (getCore s x.cur.core).seq + 1,
      scratch := (getCore (accepted x entry h s) x.cur.core).scratch } := by
  have hq := getCore_queued s x.cur.core (requestOf x entry h s)
  rw [accepted]
  split
  · rw [(joinAdd_sameButScratch ..).core, hq]
  · rw [hq]

theorem mem_accepted : (accepted x entry h s).mem = s.mem := by
  rw [accepted]
  split <;> rfl

theorem scratch_accepted (hm : x.md ≠ 1) :
    (getCore (accepted x entry h s) x.cur.core).scratch = (getCore s x.cur.core).scratch := by
  rw [accepted, if_neg hm, getCore_queued]

/-- The join counter of an accepted request gains one: it does not hold all ones, so that nothing wraps. -/
theorem scratchRead_accepted (hm : x.md = 1) (hc : scratchRead s x.cur.core (x.group s) (x.b h) 4 ≠ 2 ^ 32 - 1) :
    scratchRead (accepted x entry h s) x.cur.core (x.group s) (x.b h) 4 =
      scratchRead s x.cur.core (x.group s) (x.b h) 4 + 1 := by
  have hq : scratchRead (queued x.cur.core (requestOf x entry h s) s) x.cur.core (x.group s) (x.b h) 4 =
      scratchRead s x.cur.core (x.group s) (x.b h) 4 := by rw [scratchRead, getCore_queued, scratchRead]
  have hlt : scratchRead s x.cur.core (x.group s) (x.b h) 4 < 2 ^ 32 := scratchRead_lt ..
  rw [accepted, if_pos hm, scratchRead_joinAdd, hq, Nat.mod_eq_of_lt (by omega)]

end

/-! ## The issue of `spawn` -/

/-- A `spawn` that is legal in its group, acts, and meets no trap asks for every acting lane in rank order. -/
theorem spawnOp_asks {x : Ctx} {s : State} (hq : (x.group s).quota ≠ 0)
    (hr : (x.group s).roles = true → (x.group s).counts.getD 3 0 ≠ 0) (ha : x.act ≠ 0)
    (hj : x.md = 1 → ∀ h, laneIn x.act h = true → x.b h % 4 = 0 ∧ x.b h + 4 ≤ (x.group s).ssize) :
    spawnOp x s =
      let entry := if x.f.e.kc = 1#2 then BitVec.ofNat 52 (x.c 0) else x.codeTarget
      let r := spawnLanes x (entry &&& ~~~3#52) (lanesOf x.act) 0 s
      complete x (onGang x (fun g => setPreg g x.f.e.d.toNat x.act r.1) r.2) := by
  have hlegal : spawnIllegal (x.group s) = false := by
    simpa [spawnIllegal, hq] using hr
  have htraps : (if x.md == 1 then x.lanes.filterMap (fun h => scratchTrap (x.group s) 4 4 h (x.b h)) else []) = [] := by
    split
    · rename_i hm
      refine List.filterMap_eq_nil_iff.mpr fun h hh => ?_
      obtain ⟨h4, hs⟩ := hj (beq_iff_eq.mp hm) h (mem_lanes.mp hh)
      rw [scratchTrap, if_neg (by simpa using h4), if_neg (Nat.not_lt.mpr hs)]
    · rfl
  have hkind : (x.f.e.kc.toNat == 1) = decide (x.f.e.kc = 1#2) := by
    rw [Bool.eq_iff_iff, beq_iff_eq, decide_eq_true_iff]
    exact BitVec.toNat_inj (y := 1#2)
  have hasks : x.act &&& ~~~(trapLanes []) = x.act := BitVec.and_allOnes
  have ha' : (x.act == 0) = false := beq_false_of_ne ha
  simp only [spawnOp, hlegal, ha', htraps, hasks, hkind, decide_eq_true_eq, Bool.false_eq_true, if_false]
  rfl

theorem spawn_asks (f : Form) : Ends (.spawn f)
    (fun x s => (x.group s).quota ≠ 0 ∧ ((x.group s).roles = true → (x.group s).counts.getD 3 0 ≠ 0) ∧ x.act ≠ 0 ∧
      (x.md = 1 → ∀ h, laneIn x.act h = true → x.b h % 4 = 0 ∧ x.b h + 4 ≤ (x.group s).ssize))
    (fun x s t =>
      let entry := if x.f.e.kc = 1#2 then BitVec.ofNat 52 (x.c 0) else x.codeTarget
      let r := spawnLanes x (entry &&& ~~~3#52) (lanesOf x.act) 0 (taken x.cur s)
      t = complete x (onGang x (fun g => setPreg g x.f.e.d.toNat x.act r.1) r.2)) :=
  ends_of_form (op := 0x49) (f := f) (body := spawnOp) rfl rfl rfl (fun _ => rfl) fun x s _ _ _ ⟨hq, hr, ha, hj⟩ =>
    spawnOp_asks (by rwa [group_taken]) (by rwa [group_taken]) ha (by rwa [group_taken])

/-- Settles O38: the issue asks lane by lane, and each request is refused or accepted as the lemmas above say. -/
theorem spawnRequests : Obligations.SpawnRequests := by
  refine ⟨spawn_asks, fun x entry h s => ⟨spawnLane_full x entry h s, fun hc hs hq hl => ?_⟩⟩
  have hlane := spawnLane_queue x entry h s hc hs hq hl
  have hcore := getCore_accepted x entry h s
  exact ⟨fun hn => by rw [hlane, if_neg hn], fun hf => ⟨accepted x entry h s, by rw [hlane, if_pos hf],
    congrArg Core.seq hcore, congrArg Core.spawnq hcore, scratch_accepted x entry h s,
    fun hm => scratchRead_accepted x entry h s hm (hc hm), mem_accepted x entry h s, (congrArg Core.gangs hcore :),
    (congrArg Core.groups hcore :)⟩⟩

end Sys2Proof.Machine
end

section
/-! SUPPORT. `exit`: the join counters, the barriers of the group, and where the lanes of the gang stand (03 R59, 04 R88,
18 R408). -/

namespace Sys2Proof.Machine

/-! ## What the barriers of a group change (09 R210) -/

/-- Two states agree in memory and scratchpads, and in every gang but for its pending marks. -/
structure SameButBarriers (s t : State) : Prop where
  mem : t.mem = s.mem
  scratch : ∀ n, (getCore t n).scratch = (getCore s n).scratch
  gang : ∀ c k g, getGang s c k = some g → ∃ pend, getGang t c k = some { g with pend := pend }

theorem SameButBarriers.refl (s : State) : SameButBarriers s s := ⟨rfl, fun _ => rfl, fun _ _ g hg => ⟨g.pend, hg⟩⟩

theorem SameButBarriers.trans {a b c : State} (h : SameButBarriers a b) (k : SameButBarriers b c) : SameButBarriers a c where
  mem := k.mem.trans h.mem
  scratch n := (k.scratch n).trans (h.scratch n)
  gang n m g hg := by
    obtain ⟨p, hp⟩ := h.gang n m g hg
    obtain ⟨q, hq⟩ := k.gang n m _ hp
    exact ⟨q, hq⟩

theorem sameButBarriers_foldl {α : Type} (f : State → α → State) (l : List α) (hf : ∀ s x, SameButBarriers s (f s x))
    (s : State) : SameButBarriers s (l.foldl f s) :=
  List.foldlRecOn (motive := SameButBarriers s) l f (.refl s) fun _ hb x _ => hb.trans (hf _ x)

theorem modGroup_sameButBarriers (s : State) (n k : Nat) (f : Group → Group) : SameButBarriers s (modGroup s n k f) where
  mem := rfl
  scratch m := by
    by_cases h : m = n
    · rw [h, getCore_modGroup_same]
    · rw [getCore_modGroup_ne _ _ _ _ _ h]
  gang c m g hg := ⟨g.pend, by rw [getGang_modGroup, hg]⟩

/-- A change of the pending marks of a gang. -/
theorem modGang_sameButBarriers (s : State) (n k : Nat) (f : Gang → SMap Mask) :
    SameButBarriers s (modGang s n k (fun g => { g with pend := f g })) where
  mem := rfl
  scratch m := by
    by_cases h : m = n
    · rw [h, getCore_modGang_same]
    · rw [getCore_modGang_ne _ _ _ _ _ h]
  gang c m g hg := by
    by_cases h : (c, m) = (n, k)
    · obtain ⟨rfl, rfl⟩ := Prod.mk.inj h
      exact ⟨f g, by rw [getGang_modGang_same, hg]; rfl⟩
    · exact ⟨g.pend, by rw [getGang_modGang_ne _ _ _ _ _ _ h, hg]⟩

theorem clearPending_sameButBarriers (core gslot bar : Nat) (s : State) :
    SameButBarriers s (clearPending core gslot bar s) where
  mem := rfl
  scratch m := by
    by_cases h : m = core
    · rw [h, clearPending, getCore_modCore_same]
    · rw [clearPending, getCore_modCore_ne _ _ _ _ h]
  gang c m g hg := by
    by_cases h : c = core
    · subst h
      have hmap := mapFind_map (fun _ g => if g.gslot == gslot then { g with pend := mapErase g.pend bar } else g)
        (getCore s c).gangs m
      have hg : mapFind (getCore s c).gangs m = some g := hg
      rw [hg, Option.map_some] at hmap
      refine ⟨if g.gslot == gslot then mapErase g.pend bar else g.pend, ?_⟩
      rw [getGang, clearPending, getCore_modCore_same]
      refine hmap.trans (congrArg some ?_)
      split <;> rfl
    · exact ⟨g.pend, by rw [getGang, clearPending, getCore_modCore_ne _ _ _ _ h]; exact hg⟩

theorem settleBarriers_sameButBarriers (core gslot : Nat) (s : State) : SameButBarriers s (settleBarriers core gslot s) := by
  refine sameButBarriers_foldl _ _ (fun s bar => ?_) s
  rw [settleBarrier]
  split
  · exact (sameButBarriers_foldl _ _ (fun _ _ => modGroup_sameButBarriers ..) _).trans
      (sameButBarriers_foldl _ _ (fun _ _ => clearPending_sameButBarriers ..) _)
  · exact .refl s

theorem exitBarriers_sameButBarriers (core slot : Nat) (lanes : Mask) (s : State) :
    SameButBarriers s (exitBarriers core slot lanes s) := by
  rw [exitBarriers]
  split
  · exact .refl s
  · exact (modGroup_sameButBarriers ..).trans (modGang_sameButBarriers ..)

/-! ## The join counters (04 R77, R88) -/

theorem joinExit_none {core : Nat} {grp : Group} {g : Gang} {h : Nat} (hj : mapFind g.join h = none) (s : State) :
    joinExit core grp g h s = s := by
  rw [joinExit, hj]

theorem joinExit_counted {core : Nat} {grp : Group} {g : Gang} {h j : Nat} (hj : mapFind g.join h = some j) (h4 : j % 4 = 0)
    (hs : j + 4 ≤ grp.ssize) (s : State) : joinExit core grp g h s = joinAdd core grp j (2 ^ 32 - 1) s := by
  simp only [joinExit, hj, h4, hs, beq_self_eq_true, decide_true, Bool.and_self, if_true]

theorem joinExit_sameButScratch (core : Nat) (grp : Group) (g : Gang) (h : Nat) (s : State) :
    SameButScratch core s (joinExit core grp g h s) := by
  unfold joinExit
  split
  · split
    · exact joinAdd_sameButScratch ..
    · exact .refl ..
  · exact .refl ..

/-- The state with the joins of the acting lanes counted. -/
def joinsCounted (x : Ctx) (s : State) : State :=
  x.lanes.foldl (fun s h => joinExit x.cur.core (x.group s) x.gang h s) s

theorem joinsCounted_sameButScratch (x : Ctx) (s : State) : SameButScratch x.cur.core s (joinsCounted x s) :=
  List.foldlRecOn (motive := SameButScratch x.cur.core s) _ _ (.refl ..) fun _ hu _ _ => hu.trans (joinExit_sameButScratch ..)

theorem joinsCounted_of_none {x : Ctx} (h : ∀ k, laneIn x.act k = true → mapFind x.gang.join k = none) (s : State) :
    joinsCounted x s = s :=
  List.foldlRecOn (motive := fun u => u = s) _ _ rfl fun _ hu k hk => by
    rw [joinExit_none (h k (mem_lanes.mp hk)), hu]

/-! ## Where the lanes of a gang stand (03 R55, R63) -/

/-- The records of a gang: their lanes, and where they stand. -/
def Gang.places (g : Gang) : List (Mask × BitVec 52 × Nat) := g.splits.map (fun sp => (sp.mask, sp.pc, sp.slot))

/-- A lane stands at an address and SLOT. -/
def standsIn (l : List (Mask × BitVec 52 × Nat)) (h : Nat) (p : BitVec 52 × Nat) : Prop :=
  ∃ m, (m, p) ∈ l ∧ laneIn m h = true

theorem mem_places {g : Gang} {m : Mask} {p : BitVec 52 × Nat} :
    (m, p) ∈ g.places ↔ ∃ sp ∈ g.splits, sp.mask = m ∧ (sp.pc, sp.slot) = p := by
  simp only [Gang.places, List.mem_map, Prod.mk_inj]

theorem standsIn_places {g : Gang} {h : Nat} {p : BitVec 52 × Nat} :
    standsIn g.places h p ↔ ∃ sp ∈ g.splits, laneIn sp.mask h = true ∧ (sp.pc, sp.slot) = p := by
  constructor
  · rintro ⟨m, hm, hl⟩
    obtain ⟨sp, hsp, rfl, he⟩ := mem_places.mp hm
    exact ⟨sp, hsp, hl, he⟩
  · rintro ⟨sp, hsp, hl, rfl⟩
    exact ⟨sp.mask, mem_places.mpr ⟨sp, hsp, rfl, rfl⟩, hl⟩

theorem splitOf_eq_none {g : Gang} {h : Nat} (hn : ∀ p, ¬ standsIn g.places h p) : splitOf g h = none :=
  List.find?_eq_none.mpr fun sp hsp hl => hn (sp.pc, sp.slot) (standsIn_places.mpr ⟨sp, hsp, hl, rfl⟩)

/-- A lane that stands in one place alone has a split there. -/
theorem splitOf_of_stands {g : Gang} {h : Nat} {p : BitVec 52 × Nat} (hp : ∀ q, standsIn g.places h q ↔ q = p) :
    ∃ sp, splitOf g h = some sp ∧ (sp.pc, sp.slot) = p := by
  obtain ⟨sp, hsp, hl, -⟩ := standsIn_places.mp ((hp p).mpr rfl)
  cases hf : splitOf g h with
  | none => exact absurd hl (List.find?_eq_none.mp hf sp hsp)
  | some sp' =>
    have hl' : laneIn sp'.mask h = true := List.find?_some (p := fun sp : Split => laneIn sp.mask h) hf
    exact ⟨sp', rfl, (hp _).mp (standsIn_places.mpr ⟨sp', List.mem_of_find?_eq_some hf, hl', rfl⟩)⟩

/-! ### Merging -/

theorem mem_keepFirst (q : Split → Bool) (x y : Split) (l : List Split) :
    y ∈ keepFirst q x l ↔ (y ∈ l ∧ q y = false) ∨ (y = x ∧ ∃ z ∈ l, q z = true) := by
  induction l with
  | nil => simp [keepFirst]
  | cons sp l ih =>
    rw [keepFirst]
    by_cases hq : q sp = true
    · rw [if_pos hq, List.mem_cons, List.mem_filter]
      constructor
      · rintro (rfl | ⟨hy, hn⟩)
        · exact .inr ⟨rfl, sp, List.mem_cons_self, hq⟩
        · exact .inl ⟨List.mem_cons_of_mem _ hy, by simpa using hn⟩
      · rintro (⟨hy, hn⟩ | ⟨rfl, -⟩)
        · rcases List.mem_cons.mp hy with rfl | hy
          · rw [hq] at hn
            cases hn
          · exact .inr ⟨hy, by simpa using hn⟩
        · exact .inl rfl
    · rw [if_neg hq, List.mem_cons, ih]
      simp only [List.mem_cons, exists_eq_or_imp, hq, Bool.false_eq_true, false_or]
      constructor
      · rintro (rfl | ⟨hy, hn⟩ | h)
        · exact .inl ⟨.inl rfl, by simpa using hq⟩
        · exact .inl ⟨.inr hy, hn⟩
        · exact .inr h
      · rintro (⟨rfl | hy, hn⟩ | h)
        · exact .inl rfl
        · exact .inr (.inl ⟨hy, hn⟩)
        · exact .inr (.inr h)

/-- Records that join one after another: the lanes of all, where the first stands. -/
theorem foldl_join (l : List Split) (x : Split) : (l.foldl Split.join x).pc = x.pc ∧ (l.foldl Split.join x).slot = x.slot ∧
    ∀ h, laneIn (l.foldl Split.join x).mask h = true ↔ ∃ y ∈ x :: l, laneIn y.mask h = true := by
  induction l generalizing x with
  | nil => simp
  | cons y l ih =>
    obtain ⟨hp, hs, hm⟩ := ih (x.join y)
    refine ⟨hp, hs, fun h => (hm h).trans ?_⟩
    have hj : laneIn (x.join y).mask h = (laneIn x.mask h || laneIn y.mask h) := laneIn_or _ _ _
    simp only [List.mem_cons, exists_eq_or_imp, hj, Bool.or_eq_true, or_assoc]

theorem Split.mergesAt_place {pc : BitVec 52} {sp : Split} (h : sp.mergesAt pc = true) : (sp.pc, sp.slot) = (pc, 0) := by
  simp only [Split.mergesAt, Split.atHeader, Bool.and_eq_true, beq_iff_eq] at h
  obtain ⟨hpc, ⟨⟨hslot, -⟩, -⟩, -⟩ := h
  rw [hpc, hslot]

/-- Records that merge stand where they stood. -/
theorem standsIn_mergedSplits (pc : BitVec 52) (g : Gang) (h : Nat) (p : BitVec 52 × Nat) :
    standsIn { g with splits := mergedSplits pc g.splits }.places h p ↔ standsIn g.places h p := by
  rw [standsIn_places, standsIn_places, mergedSplits]
  split
  · rename_i first second more hf
    have hmem (z : Split) : z ∈ first :: second :: more ↔ z ∈ g.splits ∧ z.mergesAt pc = true := by
      rw [← hf, List.mem_filter]
    obtain ⟨hjp, hjs, hjm⟩ := foldl_join (second :: more) first
    have hfirst := Split.mergesAt_place ((hmem first).mp List.mem_cons_self).2
    have hjoin : (((second :: more).foldl Split.join first).pc, ((second :: more).foldl Split.join first).slot) = (pc, 0) := by
      rw [hjp, hjs, hfirst]
    constructor
    · rintro ⟨y, hy, hl, rfl⟩
      rcases (mem_keepFirst ..).mp hy with ⟨hy, -⟩ | ⟨rfl, -⟩
      · exact ⟨y, hy, hl, rfl⟩
      · obtain ⟨z, hz, hzl⟩ := (hjm h).mp hl
        obtain ⟨hzg, hzm⟩ := (hmem z).mp hz
        exact ⟨z, hzg, hzl, (Split.mergesAt_place hzm).trans hjoin.symm⟩
    · rintro ⟨y, hy, hl, rfl⟩
      by_cases hq : y.mergesAt pc = true
      · exact ⟨_, (mem_keepFirst ..).mpr (.inr ⟨rfl, y, hy, hq⟩), (hjm h).mpr ⟨y, (hmem y).mpr ⟨hy, hq⟩, hl⟩,
          hjoin.trans (Split.mergesAt_place hq).symm⟩
      · exact ⟨y, (mem_keepFirst ..).mpr (.inl ⟨hy, by simpa using hq⟩), hl, rfl⟩
  · exact Iff.rfl

theorem standsIn_rotateHead (g : Gang) (h : Nat) (p : BitVec 52 × Nat) :
    standsIn (rotateHead g).places h p ↔ standsIn g.places h p := by
  rw [rotateHead]
  split
  · rename_i sp rest hs
    simp only [standsIn_places, hs, (List.perm_append_singleton sp rest).mem_iff]
  · exact Iff.rfl

theorem standsIn_mergeAt (pc : BitVec 52) (g : Gang) (h : Nat) (p : BitVec 52 × Nat) :
    standsIn (mergeAt pc g).places h p ↔ standsIn g.places h p := by
  rw [mergeAt]
  split
  · rw [standsIn_rotateHead, standsIn_mergedSplits]
  · exact standsIn_mergedSplits ..

/-! ### Moving past an instruction -/

theorem places_yieldAges (c : Cursor) (g : Gang) : (yieldAges c g).places = g.places := by
  rw [yieldAges]
  split
  · simp only [Gang.places, List.map_map, Function.comp_def]
  · rfl

/-- Where a record that a cursor moves past its instruction then stands (16 R335). -/
def Cursor.past (c : Cursor) (p : BitVec 52 × Nat) : BitVec 52 × Nat := if c.last then (c.next, 0) else (p.1, p.2 + 1)

/-- The records with that of a lane past its instruction. -/
def pastPlaces (c : Cursor) (l : List (Mask × BitVec 52 × Nat)) : List (Mask × BitVec 52 × Nat) :=
  l.map (fun e => if laneIn e.1 c.lane then (e.1, c.past e.2) else e)

theorem standsIn_advanceSplit (c : Cursor) (g : Gang) (h : Nat) (p : BitVec 52 × Nat) :
    standsIn (advanceSplit c g).places h p ↔ standsIn (pastPlaces c g.places) h p := by
  have hpast (f : Split → Split) (hf : ∀ sp, ((f sp).mask, (f sp).pc, (f sp).slot) = (sp.mask, c.past (sp.pc, sp.slot))) :
      (modSplit c.lane f (endReplay c.lane g)).places = pastPlaces c g.places := by
    simp only [pastPlaces, Gang.places, modSplit, endReplay, List.map_map]
    refine List.map_congr_left fun sp _ => ?_
    simp only [Function.comp_apply]
    split
    · exact hf sp
    · rfl
  rw [advanceSplit]
  split
  · rename_i hlast
    rw [standsIn_mergeAt, places_yieldAges, hpast _ fun sp => by rw [Cursor.past, if_pos hlast]]
  · rename_i hlast
    rw [hpast _ fun sp => by rw [Cursor.past, if_neg hlast]]

theorem standsIn_pastPlaces (c : Cursor) (l : List (Mask × BitVec 52 × Nat)) (h : Nat) (p : BitVec 52 × Nat) :
    standsIn (pastPlaces c l) h p ↔
      ∃ m q, (m, q) ∈ l ∧ laneIn m h = true ∧ (if laneIn m c.lane then c.past q else q) = p := by
  constructor
  · rintro ⟨m, hm, hl⟩
    obtain ⟨⟨m', q⟩, hq, he⟩ := List.mem_map.mp hm
    dsimp only at he
    split at he
    · rename_i hc
      obtain ⟨rfl, rfl⟩ := Prod.mk.inj he
      exact ⟨m', q, hq, hl, if_pos hc⟩
    · rename_i hc
      obtain ⟨rfl, rfl⟩ := Prod.mk.inj he
      exact ⟨m', q, hq, hl, if_neg hc⟩
  · rintro ⟨m, q, hq, hl, rfl⟩
    refine ⟨m, List.mem_map.mpr ⟨(m, q), hq, ?_⟩, hl⟩
    dsimp only
    split <;> rfl

/-- Lanes leave the records they are in; a record they leave empty is freed (03 R59). -/
theorem mem_places_dropLanes {a : Mask} {g : Gang} {m : Mask} {p : BitVec 52 × Nat} :
    (m, p) ∈ (dropLanes a g).places ↔ m ≠ 0 ∧ ∃ k, (k, p) ∈ g.places ∧ k &&& ~~~a = m := by
  simp only [mem_places, dropLanes, List.mem_filter, List.mem_map, bne_iff_ne]
  constructor
  · rintro ⟨_, ⟨⟨sp, hsp, rfl⟩, hz⟩, rfl, hp⟩
    exact ⟨hz, _, ⟨sp, hsp, rfl, hp⟩, rfl⟩
  · rintro ⟨hz, _, ⟨sp, hsp, rfl, hp⟩, rfl⟩
    exact ⟨_, ⟨⟨sp, hsp, rfl⟩, hz⟩, rfl, hp⟩

theorem laneIn_and_not {m a : Mask} {h : Nat} :
    laneIn (m &&& ~~~a) h = true ↔ laneIn m h = true ∧ laneIn a h = false := by
  by_cases hh : h < 64
  · rw [laneIn_and, laneIn_not _ _ hh, Bool.and_eq_true, Bool.not_eq_true']
  · exact ⟨fun hl => absurd (laneIn_lt _ _ hl) hh, fun hl => absurd (laneIn_lt _ _ hl.1) hh⟩

theorem ne_zero_of_laneIn {m : Mask} {h : Nat} (hl : laneIn m h = true) : m ≠ 0 := fun hz => by
  rw [hz] at hl
  simp [laneIn] at hl

theorem standsIn_dropLanes (a : Mask) (g : Gang) (h : Nat) (p : BitVec 52 × Nat) :
    standsIn (dropLanes a g).places h p ↔ laneIn a h = false ∧ standsIn g.places h p := by
  constructor
  · rintro ⟨m, hm, hl⟩
    obtain ⟨-, k, hk, rfl⟩ := mem_places_dropLanes.mp hm
    obtain ⟨hl, ha⟩ := laneIn_and_not.mp hl
    exact ⟨ha, k, hk, hl⟩
  · rintro ⟨ha, k, hk, hl⟩
    have hl' := laneIn_and_not.mpr ⟨hl, ha⟩
    exact ⟨_, mem_places_dropLanes.mpr ⟨ne_zero_of_laneIn hl', k, hk, rfl⟩, hl'⟩

/-! ## The gang that its acting lanes leave (03 R59, 18 R408) -/

theorem leaveGang_other (x : Ctx) (g : Gang) : ∃ l u, leaveGang x g =
    { g with splits := l, unfinished := u, join := g.join.filter (fun e => !laneIn x.act e.1) } := by
  rw [leaveGang]
  dsimp only
  split
  · obtain ⟨l, hl⟩ := yieldAges_other x.cur
      (dropLanes x.act { g with join := g.join.filter (fun e => !laneIn x.act e.1) })
    exact ⟨l, g.unfinished, hl⟩
  · obtain ⟨l, hl⟩ := advanceSplit_other { x.cur with lane := lowestLane (x.sp.mask &&& ~~~x.act) }
      (dropLanes x.act { g with join := g.join.filter (fun e => !laneIn x.act e.1) })
    exact ⟨l, _, hl⟩

section
variable {x : Ctx} {g : Gang} (hd : x.gang.divided) (hsp : x.sp ∈ x.gang.splits) (hg : g.places = x.gang.places)
include hd hsp hg

/-- The acting lanes stand nowhere; the split's other lanes stand past the instruction, and those of other splits where
they stood. -/
theorem standsIn_leaveGang (h : Nat) (p : BitVec 52 × Nat) : standsIn (leaveGang x g).places h p ↔
    laneIn x.act h = false ∧ ∃ sp ∈ x.gang.splits, laneIn sp.mask h = true ∧
      (if laneIn x.sp.mask h then x.cur.past (sp.pc, sp.slot) else (sp.pc, sp.slot)) = p := by
  have hplaces : ({ g with join := g.join.filter (fun e => !laneIn x.act e.1) } : Gang).places = x.gang.places := hg
  rw [leaveGang]
  dsimp only
  split
  · rename_i hz
    rw [places_yieldAges, standsIn_dropLanes, hplaces, standsIn_places]
    refine and_congr_right fun ha => ?_
    have hout : ¬ laneIn x.sp.mask h = true := fun hl => ne_zero_of_laneIn (laneIn_and_not.mpr ⟨hl, ha⟩) (beq_iff_eq.mp hz)
    simp only [if_neg hout]
  · rename_i hz
    obtain ⟨hr, hra⟩ := laneIn_and_not.mp (laneIn_lowestLane fun h0 => hz (beq_iff_eq.mpr h0))
    -- of the records that hold the lane, the issuing split's alone holds the lane that the cursor then names
    have hkey (sp : Split) (hm : sp ∈ x.gang.splits) (hl : laneIn sp.mask h = true) :
        laneIn (sp.mask &&& ~~~x.act) (lowestLane (x.sp.mask &&& ~~~x.act)) = true ↔ laneIn x.sp.mask h = true := by
      rw [laneIn_and_not]
      refine ⟨fun hc => ?_, fun hc => ?_⟩
      · rwa [← hd.eq_of_lane hm hsp hc.1 hr]
      · rw [hd.eq_of_lane hm hsp hl hc]
        exact ⟨hr, hra⟩
    rw [standsIn_advanceSplit, standsIn_pastPlaces]
    constructor
    · rintro ⟨m, q, hm, hl, rfl⟩
      obtain ⟨-, k, hk, rfl⟩ := mem_places_dropLanes.mp hm
      obtain ⟨sp, hsm, rfl, rfl⟩ := mem_places.mp (hplaces ▸ hk)
      obtain ⟨hl, ha⟩ := laneIn_and_not.mp hl
      exact ⟨ha, sp, hsm, hl, by simp only [hkey sp hsm hl]; rfl⟩
    · rintro ⟨ha, sp, hsm, hl, rfl⟩
      have hl' := laneIn_and_not.mpr ⟨hl, ha⟩
      have hk := mem_places.mpr ⟨sp, hsm, rfl, rfl⟩
      exact ⟨_, _, mem_places_dropLanes.mpr ⟨ne_zero_of_laneIn hl', _, hplaces ▸ hk, rfl⟩, hl',
        by simp only [hkey sp hsm hl]; rfl⟩

theorem splitOf_leaveGang_acting {h : Nat} (ha : laneIn x.act h = true) : splitOf (leaveGang x g) h = none :=
  splitOf_eq_none fun p hp => by
    have hn := ((standsIn_leaveGang hd hsp hg h p).mp hp).1
    rw [ha] at hn
    cases hn

/-- Where a lane that does not act goes on: its split's record stood somewhere, and moves if it is the issuing split's. -/
theorem splitOf_leaveGang {h : Nat} {sp : Split} (hm : sp ∈ x.gang.splits) (hl : laneIn sp.mask h = true)
    (ha : laneIn x.act h = false) : ∃ sp', splitOf (leaveGang x g) h = some sp' ∧ (sp'.pc, sp'.slot) =
      if laneIn x.sp.mask h then x.cur.past (sp.pc, sp.slot) else (sp.pc, sp.slot) := by
  refine splitOf_of_stands fun q => (standsIn_leaveGang hd hsp hg h q).trans ⟨?_, ?_⟩
  · rintro ⟨-, sp', hm', hl', rfl⟩
    rw [hd.eq_of_lane hm' hm hl' hl]
  · rintro rfl
    exact ⟨ha, sp, hm, hl, rfl⟩

end

/-! ## `exit` -/

/-- The state once the acting lanes have left: their joins are counted, then their arrivals taken back. -/
def lanesGone (x : Ctx) (s : State) : State :=
  onGang x (leaveGang x) (exitBarriers x.cur.core x.cur.slot x.act (joinsCounted x s))

theorem exitBody_eq {x : Ctx} (ha : x.act ≠ 0) (hh : x.sp.handler = false) (s : State) :
    exitBody x s = settleBarriers x.cur.core x.gang.gslot (lanesGone x s) := by
  have hhandler (u : State) : handlerExit x u = u := by
    rw [handlerExit]
    split
    · rfl
    · rw [hh]
      rfl
  have ha' : (x.act == 0) = false := beq_false_of_ne ha
  simp only [exitBody, ha', Bool.false_eq_true, if_false, hhandler]
  rfl

/-- Every scratchpad is as counting the joins leaves it. -/
theorem scratch_exit (x : Ctx) (s : State) (n : Nat) :
    (getCore (settleBarriers x.cur.core x.gang.gslot (lanesGone x s)) n).scratch = (getCore (joinsCounted x s) n).scratch := by
  rw [(settleBarriers_sameButBarriers ..).scratch, lanesGone, scratch_onGang, (exitBarriers_sameButBarriers ..).scratch]

theorem mem_exit (x : Ctx) (s : State) : (settleBarriers x.cur.core x.gang.gslot (lanesGone x s)).mem = s.mem := by
  have hj : (joinsCounted x s).mem = s.mem :=
    (congrArg State.mem (joinsCounted_sameButScratch x s).device :)
  exact (settleBarriers_sameButBarriers ..).mem.trans ((exitBarriers_sameButBarriers ..).mem.trans hj)

/-- The gang that the lanes have left, its pending marks aside. -/
theorem getGang_exit {x : Ctx} {s : State} (hi : issuer s = some (x.cur, x.gang, x.sp)) : ∃ p q,
    getGang (settleBarriers x.cur.core x.gang.gslot (lanesGone x (taken x.cur s))) x.cur.core x.cur.slot =
      some { leaveGang x { x.issued s with pend := p } with pend := q } := by
  have hj : getGang (joinsCounted x (taken x.cur s)) x.cur.core x.cur.slot = some (x.issued s) := by
    rw [(joinsCounted_sameButScratch ..).gang, getGang_issued hi]
  obtain ⟨p, hp⟩ := (exitBarriers_sameButBarriers x.cur.core x.cur.slot x.act _).gang _ _ _ hj
  have hl : getGang (lanesGone x (taken x.cur s)) x.cur.core x.cur.slot =
      some (leaveGang x { x.issued s with pend := p }) := by
    rw [lanesGone, onGang, getGang_modGang_same, hp, Option.map_some]
  obtain ⟨q, hq⟩ := (settleBarriers_sameButBarriers x.cur.core x.gang.gslot _).gang _ _ _ hl
  exact ⟨p, q, hq⟩

theorem places_issued (x : Ctx) (s : State) (p : SMap Mask) :
    ({ x.issued s with pend := p } : Gang).places = x.gang.places := by
  simp only [Ctx.issued, Gang.places, modSplit, List.map_map]
  refine List.map_congr_left fun sp _ => ?_
  simp only [Function.comp_apply]
  split <;> rfl

theorem scratchRead_joinsCounted {x : Ctx} {s : State} {h j : Nat} (hl : x.lanes = [h]) (hj : mapFind x.gang.join h = some j)
    (h4 : j % 4 = 0) (hs : j + 4 ≤ (x.group s).ssize) :
    scratchRead (joinsCounted x (taken x.cur s)) x.cur.core (x.group s) j 4 =
      (scratchRead s x.cur.core (x.group s) j 4 + 2 ^ 32 - 1) % 2 ^ 32 := by
  rw [joinsCounted, hl, List.foldl_cons, List.foldl_nil, group_taken, joinExit_counted hj h4 hs, scratchRead_joinAdd,
    scratchRead_taken, Nat.add_sub_assoc (by decide)]

/-- Settles O40: the counters change by `joinsCounted`, the gang by `leaveGang`, and the barriers change neither. -/
theorem exitLeaves : Obligations.ExitLeaves := fun f => by
  refine ends_of_form (op := 0x4C) (f := f) (body := exitBody) rfl rfl rfl (fun _ => rfl)
    fun x s hi hx _ ⟨ha, hh, hd⟩ => ?_
  have hsub (h : Nat) (hl : laneIn x.act h = true) : laneIn x.sp.mask h = true := by
    rw [hx] at hl
    simp only [mkCtx, laneIn_and, Bool.and_eq_true] at hl
    exact hl.1.1
  have hsp : splitOf x.gang x.cur.lane = some x.sp := splitOf_of_issuer hi
  have hmem : x.sp ∈ x.gang.splits := List.mem_of_find?_eq_some hsp
  obtain ⟨p, q, hgang⟩ := getGang_exit hi
  have hg := places_issued x s p
  obtain ⟨l, u, ho⟩ := leaveGang_other x { x.issued s with pend := p }
  rw [exitBody_eq ha hh]
  refine ⟨fun a => by rw [mem_exit, mem_taken], fun n hn => ?_, fun hj => ?_, fun h j hl hj h4 hs => ?_, _, hgang, ?_,
    fun h hl => ⟨?_, ?_⟩, fun h hl hna => ?_, fun h sp hl hs => ?_⟩
  · rw [scratch_exit, (joinsCounted_sameButScratch ..).others n hn, scratch_taken]
  · rw [scratch_exit, joinsCounted_of_none hj, scratch_taken]
  · rw [scratchRead, scratch_exit, ← scratchRead]
    exact scratchRead_joinsCounted hl hj h4 hs
  · rw [ho]
    exact sameRegs_refl x.gang
  · exact splitOf_leaveGang_acting hd hmem hg hl
  · rw [ho]
    exact (mapFind_filter (fun k => !laneIn x.act k) x.gang.join h).trans (if_neg (by simp [hl]))
  · obtain ⟨sp', hf, hp⟩ := splitOf_leaveGang hd hmem hg hmem hl hna
    rw [if_pos hl] at hp
    exact ⟨sp', hf, hp⟩
  · have hna : laneIn x.act h = false := by
      by_contra hn
      exact absurd (hsub h (by simpa using hn)) (by simp [hl])
    obtain ⟨sp', hf, hp⟩ := splitOf_leaveGang hd hmem hg (List.mem_of_find?_eq_some hs)
      (List.find?_some (p := fun sp : Split => laneIn sp.mask h) hs) hna
    rw [if_neg (by simp [hl])] at hp
    exact ⟨sp', hf, Prod.mk.inj hp⟩

end Sys2Proof.Machine
end

section
/-! SUPPORT. The residues of an integer (06 R121 to R135): the channels, mixed-radix conversion, base extension, the
candidates of a channel, and the judgement of an element with one channel at fault. -/

namespace Sys2Proof.Machine

/-! ## Channels (06 R121, R123) -/

theorem modulus_pos (j : Nat) : 0 < modulus j := by
  by_cases hj : j < 10
  · revert j
    decide
  · simp [modulus, moduli, List.getD_eq_getElem?_getD, Nat.le_of_not_lt hj]

/-- The ten moduli are pairwise coprime (06 R121). -/
theorem moduli_coprime : (List.range 10).Pairwise (Function.onFun Nat.Coprime modulus) := by
  unfold Function.onFun
  decide

theorem residueOf_cast (j : Nat) (v : Int) : (residueOf j v : Int) = v % modulus j :=
  Int.toNat_of_nonneg (Int.emod_nonneg _ (Int.natCast_ne_zero.mpr (modulus_pos j).ne'))

theorem residueOf_lt (j : Nat) (v : Int) : residueOf j v < modulus j :=
  have ⟨_, hlt, _⟩ := modInt_spec v (modulus j) (modulus_pos j)
  Int.ofNat_lt.mp hlt

theorem residueOf_eq_iff {j r : Nat} {v : Int} (hr : r < modulus j) :
    residueOf j v = r ↔ v ≡ r [ZMOD modulus j] := by
  rw [← Int.natCast_inj, residueOf_cast, Int.ModEq, Int.emod_eq_of_lt (a := (r : Int)) (by omega) (by omega)]

theorem residueOf_eq_residueOf_iff {j : Nat} {u v : Int} :
    residueOf j u = residueOf j v ↔ u ≡ v [ZMOD modulus j] := by
  rw [← Int.natCast_inj, residueOf_cast, residueOf_cast, Int.ModEq]

/-- Integers nearer to each other than the product of the channels in which they agree are equal (06 R133). -/
theorem eq_of_residues_eq {js : List Nat} (hjs : js.Sublist (List.range 10)) {u v : Int}
    (hn : (u - v).natAbs < (js.map modulus).prod) (h : ∀ k ∈ js, residueOf k u = residueOf k v) : u = v := by
  have hd : (u - v).natAbs ≡ 0 [MOD (js.map modulus).prod] :=
    (Nat.modEq_list_map_prod_iff (moduli_coprime.sublist hjs)).mpr fun k hk =>
      Nat.modEq_zero_iff_dvd.mpr (Int.natCast_dvd.mp (residueOf_eq_residueOf_iff.mp (h k hk)).symm.dvd)
  exact Int.sub_eq_zero.mp (Int.natAbs_eq_zero.mp (Nat.eq_zero_of_dvd_of_lt (Nat.modEq_zero_iff_dvd.mp hd) hn))

/-! ## Signed values of a residue class (06 R123) -/

/-- The representative of `x` modulo `p` in the signed range, of a number below `p`. -/
def centred (p x : Nat) : Int := if p ≤ 2 * x then (x : Int) - p else x

theorem centred_bounds {p x : Nat} (hx : x < p) : -(p : Int) ≤ 2 * centred p x ∧ 2 * centred p x < p := by
  unfold centred
  split <;> omega

theorem residueOf_centred {p x j r : Nat} (hp : modulus j ∣ p) (hr : r < modulus j) (hx : x ≡ r [MOD modulus j]) :
    residueOf j (centred p x) = r := by
  have hp' : (p : Int) ≡ 0 [ZMOD modulus j] := Int.modEq_zero_iff_dvd.mpr (Int.natCast_dvd_natCast.mpr hp)
  have hx' : (x : Int) ≡ r [ZMOD modulus j] := Int.natCast_modEq_iff.mpr hx
  rw [residueOf_eq_iff hr, centred]
  split
  · simpa using hx'.sub hp'
  · exact hx'

/-! ## Mixed-radix conversion (06 R130, R131) -/

/-- The table of 06 R130 holds inverses. -/
theorem inverseC_spec : ∀ i < 8, ∀ j < 10, i < j → modulus i * inverseC i j ≡ 1 [MOD modulus j] := by
  decide

theorem length_peel (i d : Nat) (xs : List Nat) : ∀ j, (peel i d j xs).length = xs.length := by
  induction xs with
  | nil => exact fun _ => rfl
  | cons x xs ih => exact fun j => congrArg (· + 1) (ih (j + 1))

theorem peel_getD (i d : Nat) (xs : List Nat) : ∀ j k, k < xs.length → (peel i d j xs).getD k 0 =
    (xs.getD k 0 + (modulus (j + k) - d % modulus (j + k))) * inverseC i (j + k) % modulus (j + k) := by
  induction xs with
  | nil => exact fun _ k hk => absurd hk (Nat.not_lt_zero k)
  | cons x xs ih =>
    intro j k hk
    cases k with
    | zero => rfl
    | succ k =>
      have hj : j + 1 + k = j + (k + 1) := by omega
      simpa [peel, hj] using ih (j + 1) k (Nat.lt_of_succ_lt_succ hk)

/-- `m - x % m` is the opposite of `x` modulo `m`. -/
theorem add_sub_mod_modEq_zero (x : Nat) {m : Nat} (hm : 0 < m) : x + (m - x % m) ≡ 0 [MOD m] := by
  have h := (Nat.mod_modEq x m).symm.add_right (m - x % m)
  rw [Nat.add_sub_cancel' (Nat.mod_lt x hm).le] at h
  exact h.trans (Nat.modEq_zero_iff_dvd.mpr dvd_rfl)

/-- What is left after a digit is peeled off, put back under the digit (06 R131). -/
theorem digit_add_peeled {i j d x : Nat} (hi : i < 8) (hj : j < 10) (hij : i < j) :
    d + modulus i * ((x + (modulus j - d % modulus j)) * inverseC i j % modulus j) ≡ x [MOD modulus j] := by
  calc d + modulus i * ((x + (modulus j - d % modulus j)) * inverseC i j % modulus j)
      ≡ d + modulus i * ((x + (modulus j - d % modulus j)) * inverseC i j) [MOD modulus j] :=
        ((Nat.mod_modEq _ _).mul_left _).add_left _
    _ = d + modulus i * inverseC i j * (x + (modulus j - d % modulus j)) := by ring
    _ ≡ d + 1 * (x + (modulus j - d % modulus j)) [MOD modulus j] :=
        ((inverseC_spec i hi j hj hij).mul_right _).add_left _
    _ = x + (d + (modulus j - d % modulus j)) := by ring
    _ ≡ x [MOD modulus j] := (add_sub_mod_modEq_zero d (modulus_pos j)).add_left x

/-- Every residue of the channels from `i` on is valid (06 R122). -/
def ValidFrom (i : Nat) (xs : List Nat) : Prop := ∀ k < xs.length, xs.getD k 0 < modulus (i + k)

theorem validFrom_peel (i d j : Nat) (xs : List Nat) : ValidFrom j (peel i d j xs) := fun k hk => by
  rw [peel_getD i d xs j k (length_peel i d xs j ▸ hk)]
  exact Nat.mod_lt _ (modulus_pos _)

theorem length_digitsFrom : ∀ fuel i xs, (digitsFrom fuel i xs).length = xs.length
  | 0, _, _ => rfl
  | _ + 1, _, [] => rfl
  | fuel + 1, i, x :: xs => by simp [digitsFrom, length_digitsFrom fuel, length_peel]

/-- The product of the moduli of `n` channels from `i` on: the place value above their digits (06 R131). -/
def placeValue (i n : Nat) : Nat := ((List.range' i n).map modulus).prod

@[simp] theorem placeValue_succ (i n : Nat) : placeValue i (n + 1) = modulus i * placeValue (i + 1) n := by
  simp [placeValue, List.range'_succ]

/-- The digits of the channels from `i` on have a value below the product of their moduli, with the residues they were
made from (06 R131). -/
theorem digitsFrom_spec : ∀ fuel i xs, fuel ≤ xs.length → i + fuel ≤ 8 → i + xs.length ≤ 10 → ValidFrom i xs →
    digitValue i ((digitsFrom fuel i xs).take fuel) < placeValue i fuel ∧
    ∀ k < fuel, digitValue i ((digitsFrom fuel i xs).take fuel) ≡ xs.getD k 0 [MOD modulus (i + k)] := by
  intro fuel
  induction fuel with
  | zero => exact fun i xs _ _ _ _ => ⟨Nat.one_pos, fun k hk => absurd hk (Nat.not_lt_zero k)⟩
  | succ fuel ih =>
    intro i xs hl h8 h10 hv
    cases xs with
    | nil => exact absurd hl (by simp)
    | cons x xs =>
      have hx : x < modulus i := hv 0 (Nat.succ_pos _)
      rw [List.length_cons] at hl h10
      obtain ⟨hlt, hres⟩ := ih (i + 1) (peel i x (i + 1) xs) (by rw [length_peel]; omega) (by omega)
        (by rw [length_peel]; omega) (validFrom_peel i x (i + 1) xs)
      simp only [digitsFrom, List.take_succ_cons, digitValue, placeValue_succ]
      refine ⟨?_, fun k hk => ?_⟩
      · calc _ < modulus i + modulus i * _ := Nat.add_lt_add_right hx _
          _ = modulus i * (_ + 1) := by ring
          _ ≤ _ := Nat.mul_le_mul_left _ hlt
      · cases k with
        | zero => exact (Nat.modEq_zero_iff_dvd.mpr (Nat.dvd_mul_right ..)).add_left x
        | succ k =>
          have hik : i + 1 + k = i + (k + 1) := by omega
          have h := hres k (by omega)
          rw [peel_getD i x xs (i + 1) k (by omega), hik] at h
          exact ((h.mul_left _).add_left x).trans (digit_add_peeled (by omega) (by omega) (by omega))

/-- X of 06 R131 is below M and has the eight working residues. -/
theorem crtX_spec {res : List Nat} (h8 : 8 ≤ res.length) (h10 : res.length ≤ 10) (hv : ValidFrom 0 res) :
    crtX res < bigM ∧ ∀ k < 8, crtX res ≡ res.getD k 0 [MOD modulus k] := by
  have hM : placeValue 0 8 = bigM := by decide
  have h := digitsFrom_spec 8 0 res h8 (by omega) (by omega) hv
  simp only [hM, Nat.zero_add] at h
  exact h

theorem crtValue_eq_centred (res : List Nat) : crtValue res = centred bigM (crtX res) := rfl

/-- The reconstructed value is representable, and has the working residues (06 R123). -/
theorem crtValue_spec {res : List Nat} (h8 : 8 ≤ res.length) (h10 : res.length ≤ 10) (hv : ValidFrom 0 res) :
    (-(bigM : Int) ≤ 2 * crtValue res ∧ 2 * crtValue res < bigM) ∧
    ∀ k < 8, residueOf k (crtValue res) = res.getD k 0 := by
  obtain ⟨hlt, hres⟩ := crtX_spec h8 h10 hv
  have hd : ∀ k < 8, modulus k ∣ bigM := by decide
  rw [crtValue_eq_centred]
  refine ⟨centred_bounds hlt, fun k hk => residueOf_centred (hd k hk) ?_ (hres k hk)⟩
  simpa using hv k (by omega)

/-! ## Elements that agree with an integer -/

/-- The product of the moduli outside any two channels is at least M (06, 'Ranges of the residue system'). -/
theorem bigM_le_prod_of_eight : ∀ j < 10, ∀ k < 10,
    bigM ≤ (((List.range 10).filter (fun c => c != j && c != k)).map modulus).prod := by
  decide

/-- Integers less than M apart that agree outside two channels are equal (06 R134). -/
theorem eq_of_agree_off_two {j k : Nat} (hj : j < 10) (hk : k < 10) {u v : Int}
    (hn : (u - v).natAbs < bigM) (h : ∀ c < 10, c ≠ j → c ≠ k → residueOf c u = residueOf c v) : u = v := by
  refine eq_of_residues_eq List.filter_sublist (hn.trans_le (bigM_le_prod_of_eight j hj k hk)) fun c hc => ?_
  simp only [List.mem_filter, List.mem_range, Bool.and_eq_true, bne_iff_ne] at hc
  obtain ⟨hc, hcj, hck⟩ := hc
  exact h c hc hcj hck

theorem certified_iff {v : Int} : certified v = true ↔ -(2 ^ 62) ≤ v ∧ v < 2 ^ 62 := by
  simp [certified]

/-- An integer of the certified range is less than M from every representable one. -/
theorem sub_certified_lt_bigM {u v : Int} (hu : -(bigM : Int) ≤ 2 * u ∧ 2 * u < bigM) (hv : certified v = true) :
    (u - v).natAbs < bigM := by
  rw [certified_iff] at hv
  simp only [bigM] at hu ⊢
  omega

theorem certified_representable {v : Int} (hv : certified v = true) : -(bigM : Int) ≤ 2 * v ∧ 2 * v < bigM := by
  rw [certified_iff] at hv
  simp only [bigM]
  omega

/-- The working residues of an integer of the certified range give it back (06 R123). -/
theorem crtValue_eq_of_agrees {res : List Nat} {v : Int} (h8 : 8 ≤ res.length) (h10 : res.length ≤ 10)
    (hv : ValidFrom 0 res) (hc : certified v = true) (h : ∀ k < 8, res.getD k 0 = residueOf k v) :
    crtValue res = v := by
  obtain ⟨hb, hres⟩ := crtValue_spec h8 h10 hv
  refine eq_of_agree_off_two (j := 8) (k := 9) (by decide) (by decide) (sub_certified_lt_bigM hb hc)
    fun c hc h8 h9 => ?_
  rw [hres c (by omega), h c (by omega)]

/-! ## Candidates (06 R133) -/

/-- The least step to a number with the residue `r` is found below `m` (06 R133). -/
theorem crtStep_spec {m r x p : Nat} (hr : r < m) (hpm : p.Coprime m) :
    let t := ((List.range m).find? (fun t => (x + p * t) % m == r)).getD 0
    t < m ∧ x + p * t ≡ r [MOD m] := by
  obtain ⟨q, hqm, hq⟩ := Nat.exists_mul_mod_eq_of_coprime (r + (m - x % m)) hpm (by omega)
  have hsol : (x + p * q) % m = r := by
    have h : x + p * q ≡ r [MOD m] := calc
      x + p * q ≡ x + (r + (m - x % m)) [MOD m] := Nat.ModEq.add_left x hq
      _ = r + (x + (m - x % m)) := by ring
      _ ≡ r [MOD m] := (add_sub_mod_modEq_zero x (by omega)).add_left r
    exact Eq.trans h (Nat.mod_eq_of_lt hr)
  cases hf : (List.range m).find? (fun t => (x + p * t) % m == r) with
  | none => exact absurd (List.find?_eq_none.mp hf q (List.mem_range.mpr hqm)) (by simpa using hsol)
  | some t =>
    have ht := List.find?_some hf
    exact ⟨List.mem_range.mp (List.mem_of_find?_eq_some hf), (beq_iff_eq.mp ht).trans (Nat.mod_eq_of_lt hr).symm⟩

/-- Solving one congruence at a time: the answer keeps the class modulo `p` and meets every congruence (06 R133). -/
theorem crtSolve_spec (l : List (Nat × Nat)) : ∀ x p, x < p →
    (∀ c ∈ l, c.2 < c.1 ∧ p.Coprime c.1) → l.Pairwise (fun a b => a.1.Coprime b.1) →
    crtSolve l x p < p * (l.map Prod.fst).prod ∧ crtSolve l x p ≡ x [MOD p] ∧
      ∀ c ∈ l, crtSolve l x p ≡ c.2 [MOD c.1] := by
  induction l with
  | nil => exact fun x p hx _ _ => ⟨by simp [crtSolve, hx], rfl, by simp⟩
  | cons c rest ih =>
    obtain ⟨m, r⟩ := c
    intro x p hx hc hp
    obtain ⟨hr, hpm⟩ : r < m ∧ p.Coprime m := hc (m, r) List.mem_cons_self
    obtain ⟨hm, hrest⟩ := List.pairwise_cons.mp hp
    obtain ⟨ht, hstep⟩ := crtStep_spec (x := x) hr hpm
    simp only [crtSolve]
    generalize ((List.range m).find? (fun t => (x + p * t) % m == r)).getD 0 = t at ht hstep
    have hlt : x + p * t < p * m := calc
      x + p * t < p + p * t := Nat.add_lt_add_right hx _
      _ = p * (t + 1) := by ring
      _ ≤ p * m := Nat.mul_le_mul_left p ht
    have hc' : ∀ c ∈ rest, c.2 < c.1 ∧ (p * m).Coprime c.1 := fun c hmem =>
      (hc c (List.mem_cons_of_mem _ hmem)).imp_right fun hco => hco.mul_left (hm c hmem)
    obtain ⟨hb, hpx, hres⟩ := ih (x + p * t) (p * m) hlt hc' hrest
    refine ⟨?_, (hpx.of_mul_right m).trans ?_, fun c hmem => ?_⟩
    · simpa [Nat.mul_assoc] using hb
    · exact (Nat.modEq_zero_iff_dvd.mpr (Nat.dvd_mul_right p t)).add_left x
    · rcases List.mem_cons.mp hmem with rfl | hmem
      · exact (hpx.of_mul_left p).trans hstep
      · exact hres c hmem

/-- The channels other than `j`. -/
def channelsBut (j : Nat) : List Nat := (List.range 10).filter (· != j)

@[simp] theorem mem_channelsBut {j k : Nat} : k ∈ channelsBut j ↔ k < 10 ∧ k ≠ j := by
  simp [channelsBut]

theorem channelsBut_sublist (j : Nat) : (channelsBut j).Sublist (List.range 10) := List.filter_sublist

/-- The product of the moduli of the other nine channels. -/
def prodBut (j : Nat) : Nat := ((channelsBut j).map modulus).prod

theorem modulus_dvd_prodBut {j k : Nat} (hk : k < 10) (hkj : k ≠ j) : modulus k ∣ prodBut j :=
  List.dvd_prod (List.mem_map_of_mem (mem_channelsBut.mpr ⟨hk, hkj⟩))

/-- The number below the product of the other nine moduli that has their residues (06 R133). -/
def solvedBut (res : List Nat) (j : Nat) : Nat :=
  crtSolve ((channelsBut j).map (fun k => (modulus k, res.getD k 0))) 0 1

/-- The residues of the other nine channels are valid. -/
def ValidBut (res : List Nat) (j : Nat) : Prop := ∀ k < 10, k ≠ j → res.getD k 0 < modulus k

theorem solvedBut_spec {res : List Nat} {j : Nat} (hv : ValidBut res j) :
    solvedBut res j < prodBut j ∧ ∀ k < 10, k ≠ j → solvedBut res j ≡ res.getD k 0 [MOD modulus k] := by
  have hl : ∀ c ∈ (channelsBut j).map (fun k => (modulus k, res.getD k 0)), c.2 < c.1 ∧ Nat.Coprime 1 c.1 :=
    List.forall_mem_map.mpr fun k hk =>
      ⟨hv k (mem_channelsBut.mp hk).1 (mem_channelsBut.mp hk).2, Nat.coprime_one_left _⟩
  obtain ⟨hlt, -, hres⟩ := crtSolve_spec _ 0 1 Nat.one_pos hl
    (List.pairwise_map.mpr (moduli_coprime.sublist (channelsBut_sublist j)))
  rw [List.map_map, Nat.one_mul] at hlt
  exact ⟨hlt, fun k hk hkj => hres _ (List.mem_map_of_mem (mem_channelsBut.mpr ⟨hk, hkj⟩))⟩

/-- What the candidate of a channel is (06 R133). -/
theorem candidate_eq {res : List Nat} {j : Nat} (hv : ValidBut res j) : candidate res j =
    if certified (centred (prodBut j) (solvedBut res j)) then some (centred (prodBut j) (solvedBut res j)) else none := by
  have hany : (channelsBut j).any (fun k => !residueValid k (res.getD k 0)) = false := by
    simpa [residueValid] using fun k hk hkj => hv k hk hkj
  have hp : (channelsBut j).foldl (fun a k => a * modulus k) 1 = prodBut j := by
    rw [prodBut, List.prod_eq_foldl, List.foldl_map]
  unfold candidate
  simp only [← channelsBut.eq_1, hany, hp]
  rfl

/-- A candidate of a channel is of the certified range and agrees with the other nine (06 R133). -/
theorem candidate_agrees {res : List Nat} {j : Nat} {u : Int} (hv : ValidBut res j) (h : candidate res j = some u) :
    certified u = true ∧ ∀ k < 10, k ≠ j → residueOf k u = res.getD k 0 := by
  rw [candidate_eq hv] at h
  obtain ⟨hc, rfl⟩ := Option.ite_some_none_eq_some.mp h
  obtain ⟨-, hres⟩ := solvedBut_spec hv
  exact ⟨hc, fun k hk hkj => residueOf_centred (modulus_dvd_prodBut hk hkj) (hv k hk hkj) (hres k hk hkj)⟩

theorem bigM_le_prodBut : ∀ j < 10, bigM ≤ prodBut j := by
  decide

/-- An integer of the certified range that agrees with nine channels is the candidate of the tenth (06 R133). -/
theorem candidate_eq_some {res : List Nat} {j : Nat} {v : Int} (hj : j < 10) (hc : certified v = true)
    (h : ∀ k < 10, k ≠ j → res.getD k 0 = residueOf k v) : candidate res j = some v := by
  have hv : ValidBut res j := fun k hk hkj => h k hk hkj ▸ residueOf_lt k v
  obtain ⟨hlt, hres⟩ := solvedBut_spec hv
  have hu : centred (prodBut j) (solvedBut res j) = v := by
    refine eq_of_residues_eq (channelsBut_sublist j) ?_ fun k hk => ?_
    · have hb := centred_bounds hlt
      have hr := certified_representable hc
      have hM := bigM_le_prodBut j hj
      change _ < prodBut j
      omega
    · obtain ⟨hk, hkj⟩ := mem_channelsBut.mp hk
      rw [residueOf_centred (modulus_dvd_prodBut hk hkj) (hv k hk hkj) (hres k hk hkj), h k hk hkj]
  rw [candidate_eq hv, hu, if_pos hc]

/-! ## Judgement (06 R134, R135) -/

/-- `res` has the residues of `v` in every channel but `j`, and another number there. -/
structure FaultAt (res : List Nat) (v : Int) (j : Nat) : Prop where
  /-- There are ten residues. -/
  length : res.length = 10
  /-- The other nine are right. -/
  agrees : ∀ k < 10, k ≠ j → res.getD k 0 = residueOf k v
  /-- That of the channel is wrong. -/
  differs : res.getD j 0 ≠ residueOf j v

theorem residues_getD {v : Int} {k : Nat} (hk : k < 10) : (residues v).getD k 0 = residueOf k v := by
  simp [residues, hk]

@[simp] theorem length_residues (v : Int) : (residues v).length = 10 := rfl

theorem validFrom_residues (v : Int) : ValidFrom 0 (residues v) := fun k hk => by
  rw [residues_getD hk, Nat.zero_add]
  exact residueOf_lt k v

theorem invalidChannels_eq_nil {res : List Nat} (h : ∀ k < 10, res.getD k 0 < modulus k) :
    invalidChannels res = [] := by
  simpa [invalidChannels, residueValid] using h

theorem judge_of_consistent {res : List Nat} (cert : Bool) (h : consistent res = true) :
    judge cert res = .clean (crtValue res) := if_pos h

/-- With one invalid channel, that channel is corrected by its candidate (06 R134). -/
theorem judge_of_invalid {res : List Nat} {v : Int} {j : Nat} (h : consistent res = false)
    (hi : invalidChannels res = [j]) (hv : candidate res j = some v) : judge true res = .fixed v j := by
  simp [judge, h, hi, hv]

/-- With no invalid channel, the one channel that has a candidate is corrected by it (06 R134). -/
theorem judge_of_valid {res : List Nat} {v : Int} {j : Nat} (h : consistent res = false) (hi : invalidChannels res = [])
    (hv : (List.range 10).filterMap (fun k => (candidate res k).map (fun u => (u, k))) = [(v, j)]) :
    judge true res = .fixed v j := by
  simp [judge, h, hi, hv]

theorem range_filter_beq : ∀ j < 10, (List.range 10).filter (· == j) = [j] := by
  decide

/-- The residues of an integer of the certified range are consistent, and give it back (06 R123, R131). -/
theorem judge_residues {v : Int} (hc : certified v = true) (cert : Bool) : judge cert (residues v) = .clean v := by
  have hv : crtValue (residues v) = v := crtValue_eq_of_agrees (by simp) (by simp)
    (validFrom_residues v) hc fun k hk => residues_getD (by omega)
  have hcons : consistent (residues v) = true := by
    have hi : invalidChannels (residues v) = [] :=
      invalidChannels_eq_nil fun k hk => by rw [residues_getD hk]; exact residueOf_lt k v
    simp only [consistent, hi, hv, residues_getD (show 8 < 10 by decide), residues_getD (show 9 < 10 by decide),
      List.isEmpty_nil, beq_self_eq_true, Bool.and_self]
  rw [judge_of_consistent cert hcons, hv]

theorem faultAt_set {v : Int} {j r : Nat} (hj : j < 10) (hr : r ≠ residueOf j v) :
    FaultAt ((residues v).set j r) v j := by
  refine ⟨by rw [List.length_set, length_residues], fun k hk hkj => ?_, ?_⟩
  · rw [← residues_getD hk]
    simp [List.getD_eq_getElem?_getD, List.getElem?_set_ne hkj.symm]
  · simpa [List.getD_eq_getElem?_getD, hj] using hr

section
variable {res : List Nat} {v : Int} {j : Nat} (hf : FaultAt res v j)
include hf

theorem FaultAt.valid (hr : res.getD j 0 < modulus j) : ∀ k < 10, res.getD k 0 < modulus k := fun k hk => by
  by_cases hkj : k = j
  · exact hkj ▸ hr
  · exact hf.agrees k hk hkj ▸ residueOf_lt k v

/-- Only the channel at fault can be invalid. -/
theorem FaultAt.invalidChannels_eq_singleton (hj : j < 10) (hr : ¬ res.getD j 0 < modulus j) :
    invalidChannels res = [j] := by
  rw [← range_filter_beq j hj]
  refine List.filter_congr fun k hk => ?_
  by_cases hkj : k = j
  · simpa [hkj, residueValid] using hr
  · have hv := hf.agrees k (List.mem_range.mp hk) hkj ▸ residueOf_lt k v
    simpa [residueValid, beq_eq_false_iff_ne.mpr hkj] using hv

/-- A fault in one channel is inconsistent: the value of a consistent element would agree with `v` in nine channels, so
be `v`, and agree with it in the tenth (06 R134). -/
theorem FaultAt.not_consistent (hj : j < 10) (hc : certified v = true) : consistent res = false := by
  refine Bool.eq_false_iff.mpr fun hcons => hf.differs ?_
  simp only [consistent, Bool.and_eq_true, List.isEmpty_iff, beq_iff_eq] at hcons
  obtain ⟨⟨hi, h8⟩, h9⟩ := hcons
  have hvalid : ValidFrom 0 res := fun k hk => by
    have hk := List.filter_eq_nil_iff.mp hi k (List.mem_range.mpr (hf.length ▸ hk))
    simpa [residueValid] using hk
  obtain ⟨hb, hwork⟩ := crtValue_spec (by simp [hf.length]) hf.length.le hvalid
  have hall : ∀ k < 10, residueOf k (crtValue res) = res.getD k 0 := fun k hk => by
    obtain hk | rfl | rfl : k < 8 ∨ k = 8 ∨ k = 9 := by omega
    · exact hwork k hk
    · exact h8.symm
    · exact h9.symm
  have hv : crtValue res = v := eq_of_agree_off_two hj hj (sub_certified_lt_bigM hb hc)
    fun k hk hkj _ => (hall k hk).trans (hf.agrees k hk hkj)
  rw [← hall j hj, hv]

/-- A candidate of another channel would agree with `v` in eight channels, so be `v`, and agree with it in the channel
at fault (06 R134). -/
theorem FaultAt.candidate_other {k : Nat} (hj : j < 10) (hk : k < 10) (hkj : k ≠ j) (hc : certified v = true)
    (hv : ValidBut res k) : candidate res k = none := by
  refine Option.eq_none_iff_forall_ne_some.mpr fun u hu => hf.differs ?_
  obtain ⟨hcu, hu⟩ := candidate_agrees hv hu
  have huv : u = v := eq_of_agree_off_two hj hk (sub_certified_lt_bigM (certified_representable hcu) hc)
    fun c hc' hcj hck => (hu c hc' hck).trans (hf.agrees c hc' hcj)
  rw [← hu j hj hkj.symm, huv]

/-- The one channel with a candidate is the one at fault (06 R134). -/
theorem FaultAt.candidates_eq (hj : j < 10) (hc : certified v = true) (hv : ∀ k < 10, res.getD k 0 < modulus k) :
    (List.range 10).filterMap (fun k => (candidate res k).map (fun u => (u, k))) = [(v, j)] := by
  have hcand : ∀ k ∈ List.range 10,
      (candidate res k).map (fun u => (u, k)) = (Option.guard (· == j) k).map (fun k => (v, k)) := fun k hk => by
    by_cases hkj : k = j
    · subst hkj
      simp [candidate_eq_some hj hc hf.agrees, Option.guard]
    · simp [hkj, Option.guard, hf.candidate_other hj (List.mem_range.mp hk) hkj hc fun c hc _ => hv c hc]
  rw [List.filterMap_congr hcand, ← List.map_filterMap, List.filterMap_eq_filter, range_filter_beq j hj]
  rfl

/-- A fault within one channel is corrected, and the value is exact (06 R135). -/
theorem FaultAt.judge_eq (hj : j < 10) (hc : certified v = true) : judge true res = .fixed v j := by
  have hincons := hf.not_consistent hj hc
  by_cases hr : res.getD j 0 < modulus j
  · have hv := hf.valid hr
    exact judge_of_valid hincons (invalidChannels_eq_nil hv) (hf.candidates_eq hj hc hv)
  · exact judge_of_invalid hincons (hf.invalidChannels_eq_singleton hj hr) (candidate_eq_some hj hc hf.agrees)

end

/-! ## Base extension (06 R132) -/

theorem extendDigits_lt {m : Nat} (hm : 0 < m) (t i d : Nat) (ds : List Nat) : extendDigits m t i (d :: ds) < m :=
  Nat.mod_lt _ hm

/-- Base extension adds the target, as the digit above the others (06 R131, R132). -/
theorem extendDigits_modEq (m t : Nat) (ds : List Nat) : ∀ i,
    extendDigits m t i ds ≡ digitValue i ds + placeValue i ds.length * t [MOD m] := by
  induction ds with
  | nil => intro i; simp [extendDigits, digitValue, placeValue, Nat.ModEq.refl]
  | cons d ds ih =>
    intro i
    calc extendDigits m t i (d :: ds)
        ≡ extendDigits m t (i + 1) ds * modulus i + d [MOD m] := Nat.mod_modEq _ _
      _ ≡ (digitValue (i + 1) ds + placeValue (i + 1) ds.length * t) * modulus i + d [MOD m] :=
          ((ih (i + 1)).mul_right _).add_right d
      _ = digitValue i (d :: ds) + placeValue i (d :: ds).length * t := by
          simp only [digitValue, List.length_cons, placeValue_succ]
          ring

/-- The target that base extension starts from (06 R132): 0, or -1 modulo `m` for a negative value. -/
def extendTarget (m x : Nat) : Nat := if bigM ≤ 2 * x then m - 1 else 0

/-- With its target, base extension gives the residue of the signed value (06 R132). -/
theorem add_target_modEq {m : Nat} (hm : 0 < m) (x : Nat) :
    ((x + bigM * extendTarget m x : Nat) : Int) ≡ centred bigM x [ZMOD m] := by
  unfold extendTarget centred
  split
  · refine (Int.modEq_iff_dvd.mpr ⟨-bigM, ?_⟩)
    push_cast [Nat.cast_sub hm]
    ring
  · simp [Int.ModEq.refl]

/-- The redundant residues that are regenerated are those of the reconstructed value (06 R132). -/
theorem extendDigits_digits {work : List Nat} (hl : work.length = 8) (j : Nat) :
    extendDigits (modulus j) (extendTarget (modulus j) (crtX work)) 0 ((digits work).take 8) =
      residueOf j (crtValue work) := by
  have hlen : ((digits work).take 8).length = 8 := by simp [digits, length_digitsFrom, hl]
  have hlt : extendDigits (modulus j) (extendTarget (modulus j) (crtX work)) 0 ((digits work).take 8) < modulus j := by
    obtain ⟨d, ds, hd⟩ := List.exists_cons_of_length_eq_add_one hlen
    exact hd ▸ extendDigits_lt (modulus_pos j) _ 0 d ds
  have hM : placeValue 0 8 = bigM := by decide
  have h := extendDigits_modEq (modulus j) (extendTarget (modulus j) (crtX work)) ((digits work).take 8) 0
  rw [hlen, hM] at h
  rw [crtValue_eq_centred]
  exact ((residueOf_eq_iff hlt).mpr
    ((add_target_modEq (modulus_pos j) (crtX work)).symm.trans (Int.natCast_modEq_iff.mpr h.symm))).symm

/-- Eight bytes, whatever they hold, extend with the redundant residues of their reconstructed value (06 R132). -/
theorem extendBytes_eq {work : List Nat} (hl : work.length = 8) :
    extendBytes work = work ++ [residueOf 8 (crtValue work), residueOf 9 (crtValue work)] := by
  have ht : work.take 8 = work := List.take_of_length_le hl.le
  simp only [extendBytes, ht, ← extendDigits_digits hl, extendTarget, crtX, List.map_cons, List.map_nil]
  rfl

/-- The working residues of an integer of the certified range are extended to its ten (06 R132). -/
theorem extendResidues_residues {v : Int} (hc : certified v = true) :
    extendResidues ((residues v).take 8) = some (residues v) := by
  have hl : ((residues v).take 8).length = 8 := by simp
  have hget : ∀ k < 8, ((residues v).take 8).getD k 0 = residueOf k v := fun k hk => by
    rw [← residues_getD (show k < 10 by omega), List.getD_eq_getElem?_getD, List.getElem?_take_of_lt hk,
      ← List.getD_eq_getElem?_getD]
  have hlt : ∀ k < 8, ((residues v).take 8).getD k 0 < modulus k := fun k hk => hget k hk ▸ residueOf_lt k v
  have hb : bytesValid ((residues v).take 8) = true :=
    List.all_eq_true.mpr fun k hk => decide_eq_true (hlt k (List.mem_range.mp hk))
  have hv : crtValue ((residues v).take 8) = v := crtValue_eq_of_agrees hl.ge (by omega)
    (fun k hk => (Nat.zero_add k).symm ▸ hlt k (hl ▸ hk)) hc hget
  rw [extendResidues, if_pos hb, extendBytes_eq hl, hv]
  rfl

/-- Settles O35: of the integers of the certified range, only `v` agrees with the residues in nine channels. -/
theorem oneChannelCorrected : Obligations.OneChannelCorrected := fun v hlo hhi => by
  have hc : certified v = true := certified_iff.mpr ⟨hlo, hhi⟩
  exact ⟨judge_residues hc true, fun j r hj hr => (faultAt_set hj hr).judge_eq hj hc, extendResidues_residues hc⟩

end Sys2Proof.Machine
end

section
/-! SUPPORT. The matrix instructions at issue: `mshape`, the commands that join the matrix queue, and `mstat` (07 R144 to R147,
R154, R158, R169, 19 R461 to R470). -/

namespace Sys2Proof.Machine

/-! ## The issuing core with its split taken -/

/-- A well-formed instruction of more than one word meets no reason to be illegal, also one whose opcode is that of several
instructions. -/
theorem legal_of_wellFormed {i : Instr} {op : Nat} {f : Form} (e : encOf i = .form op f) (h : i.WellFormed) :
    illegalForm op f = none := by
  have h : (if ofForm op f = some i then illegalForm op f else some .badVariant) = none := by
    simpa only [Instr.WellFormed, Instr.illegal, e] using h
  split at h
  · exact h
  · cases h

/-- An instruction of more than one word ends as its meaning does, run in the context of its issue. -/
theorem ends_of_encoded {i : Instr} {op : Nat} {f : Form} {body : Ctx → State → State} {P : Ctx → State → Prop}
    {R : Ctx → State → State → Prop} (e : encOf i = .form op f) (hf : fieldsOf i = some (fieldsOfForm op f))
    (he : ∀ s, exec i s = issueForm op f body s)
    (h : ∀ x s, issuer s = some (x.cur, x.gang, x.sp) → P x s → R x s (body x (taken x.cur s))) : Ends i P R :=
  ends_of i (fieldsOfForm op f) (illegalForm op f) body P R hf (legal_of_wellFormed e) he (fun x s hi _ hp => h x s hi hp)

/-- The take of a split changes of each core its gangs alone. -/
theorem apart_getCore_taken (c : Cursor) (s : State) (n : Nat) : (getCore (taken c s) n).apart = (getCore s n).apart := by
  by_cases h : n = c.core
  · rw [h, taken, getCore_modGang_same]
    rfl
  · rw [taken, getCore_modGang_ne _ _ _ _ _ h]
    rfl

@[simp] theorem mqueue_taken (c : Cursor) (s : State) (n : Nat) : (getCore (taken c s) n).mqueue = (getCore s n).mqueue :=
  (congrArg Core.mqueue (apart_getCore_taken c s n) :)

@[simp] theorem mrun_taken (c : Cursor) (s : State) (n : Nat) : (getCore (taken c s) n).mrun = (getCore s n).mrun :=
  (congrArg Core.mrun (apart_getCore_taken c s n) :)

@[simp] theorem slaved_taken (c : Cursor) (s : State) (n : Nat) : (getCore (taken c s) n).slaved = (getCore s n).slaved :=
  (congrArg Core.slaved (apart_getCore_taken c s n) :)

@[simp] theorem opSeq_taken (c : Cursor) (s : State) (n : Nat) : (getCore (taken c s) n).opSeq = (getCore s n).opSeq :=
  (congrArg Core.opSeq (apart_getCore_taken c s n) :)

@[simp] theorem accTile_taken (c : Cursor) (s : State) (n k : Nat) : accTile (taken c s) n k = accTile s n k :=
  (congrArg (fun d : Core => mapGet {} d.acc k) (apart_getCore_taken c s n) :)

@[simp] theorem getGang_modAcc (core n : Nat) (f : AccTile → AccTile) (s : State) (c k : Nat) :
    getGang (modAcc core n f s) c k = getGang s c k := by
  by_cases h : c = core
  · rw [h, getGang, modAcc, getCore_modCore_same, getGang]
  · rw [getGang, modAcc, getCore_modCore_ne _ _ _ _ h, getGang]

theorem leaves_taken (x : Ctx) (s : State) : Leaves x s s (taken x.cur s) where
  device := rfl
  queue := rfl
  otherCores _ hn := getCore_modGang_ne _ _ _ _ _ hn
  sameCore := apart_getCore_taken _ _ _
  otherGangs _ hk := getGang_modGang_ne _ _ _ _ _ _ (fun e => hk (Prod.mk.inj e).2)

/-- A change of the issuing core that does not look at its gangs. -/
theorem Leaves.modCore {x : Ctx} {s u : State} (h : Leaves x s s u) (f : Core → Core)
    (hf : ∀ (c : Core) l, f { c with gangs := l } = { f c with gangs := l }) :
    Leaves x s (modCore s x.cur.core f) (modCore u x.cur.core f) where
  device := h.device
  queue := h.queue
  otherCores n hn := (getCore_modCore_ne _ _ _ _ hn).trans (h.otherCores n hn)
  sameCore := by
    rw [getCore_modCore_same, getCore_modCore_same]
    exact (hf _ []).symm.trans ((congrArg f h.sameCore).trans (hf _ []))
  otherGangs k hk := by
    have hg : (f (getCore u x.cur.core)).gangs = (getCore u x.cur.core).gangs :=
      (congrArg Core.gangs (hf (getCore u x.cur.core) (getCore u x.cur.core).gangs) :)
    rw [getGang, getCore_modCore_same, hg]
    exact h.otherGangs k hk

/-! ## The gang past its instruction -/

/-- A long-latency operation begins in the gang that has issued. -/
theorem startOp_issued (x : Ctx) (k : OpKind) (s : State) :
    startOp x k (x.issued s) = { x.issued s with ops := x.withOp k } := by
  have h : (x.issued s).ops = x.gang.ops := rfl
  rw [startOp, Ctx.withOp, h]
  split <;> rfl

theorem past_startOp {x : Ctx} {s u : State} (hu : getGang u x.cur.core x.cur.slot = some (x.issued s)) (k : OpKind) :
    past x s (completeWith x (startOp x k) u) (x.withOp k) := by
  rw [past, completeWith, onGang, getGang_modGang_same, hu, Option.map_some, startOp_issued]

/-- A destination is made of registers alone. -/
theorem destAfter_of_regs {x : Ctx} {val : Nat → Nat} {g g' h h' : Gang} (hd : destAfter x val g g')
    (e : h = { h with v := g.v, s := g.s, p := g.p, q := g.q })
    (e' : h' = { h' with v := g'.v, s := g'.s, p := g'.p, q := g'.q }) : destAfter x val h h' := by
  rw [e, e']
  unfold destAfter at hd ⊢
  exact hd

/-- What a gang that has written destination d, and may have taken another shape, holds past the instruction. -/
theorem advanced_putD (x : Ctx) (val : Nat → Nat) (s : State) (shape : Option (BitVec 64)) :
    let g' := advanceSplit x.cur { x.putD val (x.issued s) with shape := shape }
    g'.apart = (endReplay x.cur.lane { x.gang with shape := shape }).apart ∧ g'.splits = splitsAfter x.cur x.gang ∧
      destAfter x val x.gang g' := by
  intro g'
  have hd : destAfter x val (x.issued s) (x.putD val (x.issued s)) := putD_dest x val _
  obtain ⟨v, r, p, q, ho⟩ := putD_other x val (x.issued s)
  obtain ⟨l, hl⟩ := advanceSplit_other x.cur { x.putD val (x.issued s) with shape := shape }
  refine ⟨?_, ?_, ?_⟩
  · have hu := endReplay_taken x.cur.lane x.cur.clause { x.gang with shape := shape }
      { (x.issued s).withRegs v r p q with shape := shape } rfl rfl rfl
    rw [show g' = _ from hl, ho, endReplay_apart _ { x.gang with shape := shape }, ← hu]
    rfl
  · rw [show g' = advanceSplit x.cur _ from rfl, ho]
    exact advanceSplit_congr _ _ _ rfl rfl
  · refine destAfter_of_regs hd rfl ?_
    rw [show g' = _ from hl]
    rfl

theorem wrote_putD {x : Ctx} {s u : State} (hu : getGang u x.cur.core x.cur.slot = some (x.issued s)) (val : Nat → Nat) :
    wrote x (completeWith x (x.putD val) u) x.gang.ops val := by
  obtain ⟨v, r, p, q, ho⟩ := putD_other x val (x.issued s)
  have hs : ({ x.putD val (x.issued s) with shape := x.gang.shape } : Gang) = x.putD val (x.issued s) := by
    rw [ho]
    rfl
  refine ⟨_, ?_, advanced_putD x val s x.gang.shape⟩
  rw [completeWith, onGang, getGang_modGang_same, hu, Option.map_some, hs]

/-! ## `mshape` (19 R468, 07 R146, R147) -/

/-- The shape that an issue asks for. -/
def Ctx.shapeRequest (x : Ctx) : BitVec 64 := BitVec.ofNat 64 (x.a x.lane0)

/-- A lane asks for a shape of the instruction's scope with its reserved bits 0. -/
def asksShape (x : Ctx) : Prop := x.act ≠ 0 ∧ field x.shapeRequest 63 40 = 0 ∧ field x.shapeRequest 18 16 = 0 ∧
  shapeScope x.shapeRequest ≠ 3 ∧ shapeScope x.shapeRequest = x.mn

theorem mshapeOp_legal {x : Ctx} (h : asksShape x) (s : State) : mshapeOp x s =
    if grants s x.cur.core x.gang.gslot x.mn then
      completeWith x (fun g => { x.putD (fun _ => grantWord x.shapeRequest) g with shape := some x.shapeRequest }) s
    else completeWith x (x.putD (fun _ => 0)) s := by
  obtain ⟨ha, hhigh, hlow, hthree, hscope⟩ := h
  have hmn : x.mn ≠ 3 := hscope ▸ hthree
  have hz : ¬ x.act = 0#64 := ha
  rw [Ctx.shapeRequest] at hhigh hlow hscope
  simp [mshapeOp, Ctx.shapeRequest, hz, hhigh, hlow, hscope, hmn]

section
variable {f : Form}

theorem mshape_grants : Ends (.mshape f)
    (fun x s => asksShape x ∧ grants (taken x.cur s) x.cur.core x.gang.gslot x.mn = true)
    (fun x s t => SameButGang x.cur.core x.cur.slot s t ∧ ∃ g', getGang t x.cur.core x.cur.slot = some g' ∧
      g'.apart = (endReplay x.cur.lane { x.gang with shape := some x.shapeRequest }).apart ∧
      g'.splits = splitsAfter x.cur x.gang ∧ destAfter x (fun _ => grantWord x.shapeRequest) x.gang g') :=
  ends_of_encoded (op := 0x79) (body := mshapeOp) rfl rfl (fun _ => rfl) fun x s hi ⟨hask, hg⟩ => by
    rw [mshapeOp_legal hask, if_pos hg]
    refine ⟨sameButGang_onGang _ _ _, _, ?_, advanced_putD x _ s _⟩
    rw [completeWith, onGang, getGang_modGang_same, getGang_issued hi, Option.map_some]

theorem mshape_refuses : Ends (.mshape f)
    (fun x s => asksShape x ∧ grants (taken x.cur s) x.cur.core x.gang.gslot x.mn = false)
    (fun x s t => Leaves x s s t ∧ wrote x t x.gang.ops (fun _ => 0)) :=
  ends_of_encoded (op := 0x79) (body := mshapeOp) rfl rfl (fun _ => rfl) fun x s hi ⟨hask, hg⟩ => by
    rw [mshapeOp_legal hask, hg, if_neg (by simp)]
    exact ⟨(leaves_taken x s).onGang _, wrote_putD (getGang_issued hi) _⟩

/-! ## Commands (07 R154, R158, 19 R461) -/

/-- The leader of a scope issues, for a lane, a command that names a tile, and the queue has room. -/
def mayQueue (n : Nat) (x : Ctx) (s : State) : Prop :=
  x.accName s = some n ∧ leads x (taken x.cur s) n = true ∧ x.act ≠ 0 ∧ (getCore s x.cur.core).mqueue.length < 32

/-- A command has joined the queue of the issuing core, and the gang is past its instruction. -/
def queuesCommand (kind : Ctx → MKind) (n : Nat) (x : Ctx) (s t : State) : Prop :=
  let k := getCore s x.cur.core
  Leaves x s (modCore s x.cur.core (fun c => { c with
    mqueue := k.mqueue ++ [{ kind := kind x, scope := x.mn, tile := n, slot := x.cur.slot, gslot := x.gang.gslot,
                             ctx := x.gang.ctx, id := k.opSeq }], opSeq := k.opSeq + 1 })) t ∧
  past x s t (x.withOp (.engine k.opSeq))

/-- An illegal instruction takes its trap, with every lane of its split named (log 11). -/
def isIllegal (x : Ctx) (s t : State) : Prop := traps x (x.trapOf 1 (x.cur.word.setWidth 64) x.sp.mask 0) s t

@[simp] theorem accName_taken (x : Ctx) (s : State) : x.accName (taken x.cur s) = x.accName s := by
  simp only [Ctx.accName, group_taken]

theorem matrixIssue_of_mayQueue {n : Nat} {x : Ctx} {s : State} (h : mayQueue n x s) (k : Nat → State → State) :
    matrixIssue x false k (taken x.cur s) = k n (taken x.cur s) := by
  obtain ⟨hn, hl, ha, -⟩ := h
  have hz : ¬ x.act = 0#64 := ha
  simp [matrixIssue, hn, hl, hz]

theorem matrixIssue_unnamed {x : Ctx} {s : State} (h : x.accName s = none) (bad : Bool) (k : Nat → State → State) :
    matrixIssue x bad k (taken x.cur s) = raiseIllegal x (taken x.cur s) := by
  simp [matrixIssue, h]

theorem queueMatrix_queues {x : Ctx} {s : State} (hi : issuer s = some (x.cur, x.gang, x.sp))
    (hroom : (getCore s x.cur.core).mqueue.length < 32) (kind : Ctx → MKind) (n : Nat) :
    queuesCommand kind n x s (queueMatrix x n (kind x) (taken x.cur s)) := by
  have hlt : ¬ 32 ≤ (getCore (taken x.cur s) x.cur.core).mqueue.length := by simpa using hroom
  rw [queueMatrix]
  dsimp only
  rw [if_neg hlt, mqueue_taken, opSeq_taken]
  refine ⟨((leaves_taken x s).modCore _ (fun _ _ => rfl)).onGang _, past_startOp ?_ _⟩
  rw [getGang, getCore_setCore_same]
  exact getGang_issued hi

/-- What queues a command once its checks pass queues it. -/
theorem command_queues {i : Instr} {op : Nat} {body : Ctx → State → State} {P : Ctx → State → Prop} {n : Nat}
    (kind : Ctx → MKind) (e : encOf i = .form op f) (hf : fieldsOf i = some (fieldsOfForm op f))
    (he : ∀ s, exec i s = issueForm op f body s) (hp : ∀ x s, P x s → mayQueue n x s)
    (hb : ∀ x s, P x s → body x (taken x.cur s) = queueMatrix x n (kind x) (taken x.cur s)) :
    Ends i P (queuesCommand kind n) :=
  ends_of_encoded e hf he fun x s hi h => by
    obtain ⟨-, -, -, hroom⟩ := hp x s h
    rw [hb x s h]
    exact queueMatrix_queues hi hroom kind n

/-- The address that a pair of scalar registers holds. -/
def Ctx.addressAt (x : Ctx) (r : Nat) : Nat := ((sreg x.gang r).toNat + 2 ^ 32 * (sreg x.gang (r + 1)).toNat) % 2 ^ 52

theorem pairAt_eq_addressAt (x : Ctx) (r : Nat) : x.pairAt r % 2 ^ 52 = x.addressAt r := by
  simp only [Ctx.pairAt, sregs, Ctx.addressAt, Nat.mul_zero, Nat.add_zero]

/-- An operand of `mma` as it stands at issue: the ring that a tile register begins, or an address and a stride. -/
def Ctx.operandAt (x : Ctx) (kind field len : Nat) : MOperand :=
  if kind = 2 then .ring (((namedReg field).map (·.2)).getD 0) (len + 1)
  else .addr (x.addressAt field) (sreg x.gang (field + 2)).toNat

theorem mmaOperand_eq_operandAt (x : Ctx) (kind field len : Nat) : x.mmaOperand kind field len = x.operandAt kind field len := by
  by_cases h : kind = 2
  · cases hn : namedReg field <;> simp [Ctx.mmaOperand, Ctx.operandAt, h, hn]
  · simp only [Ctx.mmaOperand, Ctx.operandAt, beq_iff_eq, if_neg h, pairAt_eq_addressAt, Ctx.strideAt]

theorem mzero_queues (n : Nat) : Ends (.mzero f) (mayQueue n) (queuesCommand (fun _ => .mzero) n) :=
  command_queues _ (op := 0x7A) (body := mzeroOp) rfl rfl (fun _ => rfl) (fun _ _ h => h)
    fun _ _ h => matrixIssue_of_mayQueue h _

theorem mma_queues (n : Nat) (r : BitVec 64) : Ends (.mma f)
    (fun x s => mayQueue n x s ∧ x.gang.shape = some r ∧ shapeScope r = x.mn)
    (queuesCommand (fun x => .mma (x.operandAt x.f.e.ka.toNat x.f.e.a.toNat (x.immN % 16))
      (x.operandAt x.f.e.kb.toNat x.f.e.b.toNat (x.immN / 16)) r x.f.e.sat (x.md == 1)) n) :=
  command_queues _ (op := 0x7B) (body := mmaOp) rfl rfl (fun _ => rfl) (fun _ _ h => h.1) fun x s ⟨h, hr, hs⟩ => by
    simp only [mmaOp, hr, hs, bne_self_eq_false, matrixIssue_of_mayQueue h, mmaOperand_eq_operandAt]

theorem mldcRp8_queues (n : Nat) : Ends (.mldcRp8 f) (mayQueue n) (queuesCommand (fun x =>
    .mldcRp8 (x.addressAt x.f.e.a.toNat) (sreg x.gang (x.f.e.a.toNat + 2)).toNat x.immN) n) :=
  command_queues _ (op := 0x7C) (body := mldcRp8Op) rfl rfl (fun _ => rfl) (fun _ _ h => h) fun x _ h => by
    rw [mldcRp8Op, matrixIssue_of_mayQueue h, pairAt_eq_addressAt, Ctx.strideAt]

theorem mldcImg_queues (n : Nat) : Ends (.mldcImg f) (mayQueue n)
    (queuesCommand (fun x => .mldcImg (x.addressAt x.f.e.a.toNat)) n) :=
  command_queues _ (op := 0x7C) (body := mldcImgOp) rfl rfl (fun _ => rfl) (fun _ _ h => h) fun x _ h => by
    rw [mldcImgOp, matrixIssue_of_mayQueue h, pairAt_eq_addressAt]

theorem msave_queues (n : Nat) : Ends (.msave f) (mayQueue n)
    (queuesCommand (fun x => .msave (x.addressAt x.f.e.a.toNat)) n) :=
  command_queues _ (op := 0x7E) (body := msaveOp) rfl rfl (fun _ => rfl) (fun _ _ h => h) fun x _ h => by
    rw [msaveOp, matrixIssue_of_mayQueue h, pairAt_eq_addressAt]

theorem mdrain_queues (n : Nat) : Ends (.mdrain f)
    (fun x s => mayQueue n x s ∧ x.a x.lane0 % 32 = 0 ∧ x.a x.lane0 + 32 ≤ (x.group s).ssize)
    (queuesCommand (fun x => .mdrain (x.a x.lane0)) n) :=
  command_queues _ (op := 0x7D) (body := mdrainOp) rfl rfl (fun _ => rfl) (fun _ _ h => h.1) fun x s ⟨h, halign, hfits⟩ => by
    have hfault : scratchFault (x.group s) 32 (x.a x.lane0) = none := by
      rw [scratchFault, if_neg (not_not_intro halign), if_neg (Nat.not_lt.mpr hfits)]
    rw [mdrainOp, matrixIssue_of_mayQueue h, onceAt, group_taken, scratchTrap_eq, hfault]
    rfl

theorem mma_without_shape : Ends (.mma f) (fun x _ => x.gang.shape = none) isIllegal :=
  ends_of_encoded (op := 0x7B) (body := mmaOp) rfl rfl (fun _ => rfl) fun x s _ h => by
    simp only [mmaOp, h]
    exact traps_raiseIllegal x s

/-- A tile at or above the group's count is illegal whatever the instruction. -/
theorem command_unnamed {i : Instr} {op : Nat} {body : Ctx → State → State} (e : encOf i = .form op f)
    (hf : fieldsOf i = some (fieldsOfForm op f)) (he : ∀ s, exec i s = issueForm op f body s)
    (hb : ∀ x s, x.accName s = none → body x (taken x.cur s) = raiseIllegal x (taken x.cur s)) :
    Ends i (fun x s => x.accName s = none) isIllegal :=
  ends_of_encoded e hf he fun x s _ h => by
    rw [hb x s h]
    exact traps_raiseIllegal x s

theorem mmaOp_unnamed (x : Ctx) (s : State) (h : x.accName s = none) :
    mmaOp x (taken x.cur s) = raiseIllegal x (taken x.cur s) := by
  cases hs : x.gang.shape with
  | none => simp only [mmaOp, hs]
  | some r => simp only [mmaOp, hs, matrixIssue_unnamed h]

theorem commands_unnamed (i : Instr) (hi : i ∈ [Instr.mzero f, .mma f, .mldcRp8 f, .mldcImg f, .mdrain f, .msave f]) :
    Ends i (fun x s => x.accName s = none) isIllegal := by
  simp only [List.mem_cons, List.not_mem_nil, or_false] at hi
  rcases hi with rfl | rfl | rfl | rfl | rfl | rfl
  · exact command_unnamed (op := 0x7A) (body := mzeroOp) rfl rfl (fun _ => rfl) fun _ _ h => matrixIssue_unnamed h _ _
  · exact command_unnamed (op := 0x7B) (body := mmaOp) rfl rfl (fun _ => rfl) mmaOp_unnamed
  · exact command_unnamed (op := 0x7C) (body := mldcRp8Op) rfl rfl (fun _ => rfl) fun _ _ h => matrixIssue_unnamed h _ _
  · exact command_unnamed (op := 0x7C) (body := mldcImgOp) rfl rfl (fun _ => rfl) fun _ _ h => matrixIssue_unnamed h _ _
  · exact command_unnamed (op := 0x7D) (body := mdrainOp) rfl rfl (fun _ => rfl) fun _ _ h => matrixIssue_unnamed h _ _
  · exact command_unnamed (op := 0x7E) (body := msaveOp) rfl rfl (fun _ => rfl) fun _ _ h => matrixIssue_unnamed h _ _

/-! ## `mstat` (19 R469, 07 R169) -/

theorem engineRuns_taken (c : Cursor) (s : State) (n : Nat) : engineRuns (taken c s) n = engineRuns s n := by
  simp only [engineRuns, mrun_taken, slaved_taken]

theorem engineWord_taken (c : Cursor) (s : State) (n : Nat) : engineWord (taken c s) n = engineWord s n := by
  simp only [engineWord, engineRuns_taken, slaved_taken, mqueue_taken]

theorem runningMma_taken (c : Cursor) (s : State) (n : Nat) : runningMma (taken c s) n = runningMma s n := by
  simp only [runningMma, engineRuns_taken]

theorem mstat_engine : Ends (.mstat f) (fun x _ => x.act ≠ 0 ∧ x.immN < 4) (fun x s t => Leaves x s s t ∧
    wrote x t x.gang.ops (fun _ => if x.immN = 0 then engineWord s x.cur.core
      else ((runningMma s x.cur.core).map (fun m => m.row)).getD 0)) :=
  ends_of_encoded (op := 0x7F) (body := mstatOp) rfl rfl (fun _ => rfl) fun x s hi ⟨ha, hsel⟩ => by
    have hz : ¬ x.act = 0#64 := ha
    have hop : mstatOp x (taken x.cur s) = completeWith x (x.putD (fun _ => if x.immN = 0 then engineWord s x.cur.core
        else ((runningMma s x.cur.core).map (fun m => m.row)).getD 0)) (taken x.cur s) := by
      simp [mstatOp, hsel, hz, engineWord_taken, runningMma_taken]
    rw [hop]
    exact ⟨(leaves_taken x s).onGang _, wrote_putD (getGang_issued hi) _⟩

/-- A tile with its status bits cleared. -/
def AccTile.cleared (t : AccTile) : AccTile := { t with sat := false, pois := false, ovf := false, unc := false, hlim := false }

theorem mstat_tile (n : Nat) : Ends (.mstat f)
    (fun x s => x.act ≠ 0 ∧ 4 ≤ x.immN ∧ (x.group s).acc[x.immN % 4]? = some n)
    (fun x s t => wrote x t x.gang.ops (fun _ => if 8 ≤ x.immN then (accTile s x.cur.core n).kacc
        else (accTile s x.cur.core n).status) ∧
      Leaves x s (if x.immN < 8 ∧ x.md = 1 then modAcc x.cur.core n AccTile.cleared s else s) t) :=
  ends_of_encoded (op := 0x7F) (body := mstatOp) rfl rfl (fun _ => rfl) fun x s hi ⟨ha, hsel, hn⟩ => by
    have h4 : ¬ x.immN < 4 := by omega
    have hop : mstatOp x (taken x.cur s) =
        if 8 ≤ x.immN then completeWith x (x.putD (fun _ => (accTile s x.cur.core n).kacc)) (taken x.cur s)
        else completeWith x (x.putD (fun _ => (accTile s x.cur.core n).status))
          (if x.md = 1 then modAcc x.cur.core n AccTile.cleared (taken x.cur s) else taken x.cur s) := by
      simp only [mstatOp, if_neg h4, group_taken, hn, beq_eq_false_iff_ne.mpr ha, Bool.false_eq_true, if_false, accTile_taken,
        beq_iff_eq]
      rfl
    rw [hop]
    by_cases h8 : 8 ≤ x.immN
    · simp only [if_pos h8, Nat.not_lt.mpr h8, false_and, if_false]
      exact ⟨wrote_putD (getGang_issued hi) _, (leaves_taken x s).onGang _⟩
    simp only [if_neg h8, Nat.lt_of_not_le h8, true_and]
    by_cases hm : x.md = 1
    · simp only [if_pos hm]
      exact ⟨wrote_putD ((getGang_modAcc _ _ _ _ _ _).trans (getGang_issued hi)) _,
        ((leaves_taken x s).modCore _ (fun _ _ => rfl)).onGang _⟩
    · simp only [if_neg hm]
      exact ⟨wrote_putD (getGang_issued hi) _, (leaves_taken x s).onGang _⟩

end

/-- Settles O51: each clause is what its instruction's own lemma above says. -/
theorem matrixInstructions : Obligations.MatrixInstructions :=
  ⟨fun _ => mshape_grants, fun _ => mshape_refuses, fun _ => mzero_queues, fun _ => mma_queues, fun _ => mldcRp8_queues,
    fun _ => mldcImg_queues, fun _ => mdrain_queues, fun _ => msave_queues, fun _ => mma_without_shape,
    fun _ => commands_unnamed, fun _ => mstat_engine, fun _ => mstat_tile⟩

end Sys2Proof.Machine
end

section
/-! SUPPORT. The engines of a core: what the operations that their steps share change and leave alone, and what a scratchpad
range holds as bytes (07 R154 to R159, 12 R272). -/

namespace Sys2Proof.Machine

/-! ## Lists, folds and bytes -/

/-- A fold none of whose steps changes what is observed. -/
theorem observe_foldl_other {σ α β : Type} {f : σ → α → σ} {obs : σ → β} {l : List α}
    (h : ∀ y ∈ l, ∀ s, obs (f s y) = obs s) (s : σ) : obs (l.foldl f s) = obs s :=
  List.foldlRecOn (motive := fun t => obs t = obs s) l f rfl (fun _ hb a ha => (h a ha _).trans hb)

/-- A fold one of whose steps changes what is observed. -/
theorem observe_foldl_once {σ α β : Type} {f : σ → α → σ} {obs : σ → β} {G : β → β} {l : List α} {x : α} (hn : l.Nodup)
    (hx : x ∈ l) (hother : ∀ y ∈ l, y ≠ x → ∀ s, obs (f s y) = obs s) (hself : ∀ s, obs (f s x) = G (obs s)) (s : σ) :
    obs (l.foldl f s) = G (obs s) := by
  induction l generalizing s with
  | nil => simp at hx
  | cons y l ih =>
    rw [List.nodup_cons] at hn
    have htail := fun z (hz : z ∈ l) => hother z (List.mem_cons_of_mem _ hz)
    rw [List.foldl_cons]
    by_cases hy : y = x
    · subst hy
      rw [observe_foldl_other (fun z hz => htail z hz (fun e => hn.1 (e ▸ hz))), hself]
    · rw [ih hn.2 ((List.mem_cons.mp hx).resolve_left (Ne.symm hy)) htail, hother y List.mem_cons_self hy]

theorem nodup_zip_range {α : Type} (l : List α) : (l.zip (List.range l.length)).Nodup :=
  List.Nodup.of_map Prod.snd (by
    rw [List.map_snd_zip (by simp)]
    exact List.nodup_range)

theorem mem_zip_range {α : Type} {l : List α} {x : α} {i : Nat} : (x, i) ∈ l.zip (List.range l.length) ↔ l[i]? = some x := by
  constructor
  · intro h
    obtain ⟨n, hn⟩ := List.mem_iff_getElem?.mp h
    obtain ⟨hx, hi⟩ := List.getElem?_zip_eq_some.mp hn
    obtain ⟨_, hi⟩ := List.getElem?_eq_some_iff.mp hi
    obtain rfl : n = i := by simpa using hi
    exact hx
  · intro h
    have hi := (List.getElem?_eq_some_iff.mp h).1
    exact List.mem_iff_getElem?.mpr ⟨i, List.getElem?_zip_eq_some.mpr ⟨h, by simp [hi]⟩⟩

theorem natToBytes_bytesToNat (bs : List Byte) : natToBytes bs.length (bytesToNat bs) = bs := by
  induction bs with
  | nil => rfl
  | cons b bs ih =>
    have hb := b.isLt
    rw [List.length_cons, bytesToNat, natToBytes]
    congr 1
    · exact BitVec.eq_of_toNat_eq (by rw [BitVec.toNat_ofNat]; omega)
    · rw [show (b.toNat + 256 * bytesToNat bs) / 256 = bytesToNat bs by omega, ih]

theorem memReadBytes_add (m : Memory) (a k n : Nat) :
    memReadBytes m a (k + n) = memReadBytes m a k ++ memReadBytes m (a + k) n := by
  induction k generalizing a with
  | zero => rw [Nat.zero_add]; rfl
  | succ k ih =>
    rw [Nat.add_right_comm, memReadBytes, ih, memReadBytes, List.cons_append, Nat.add_assoc a 1, Nat.add_comm 1]

theorem drop_take_memReadBytes (m : Memory) (a : Nat) {n k c : Nat} (h : k + c ≤ n) :
    ((memReadBytes m a n).drop k).take c = memReadBytes m (a + k) c := by
  obtain ⟨rest, rfl⟩ := Nat.exists_eq_add_of_le h
  rw [Nat.add_assoc, memReadBytes_add, List.drop_left' (length_memReadBytes _ _ _), memReadBytes_add,
    List.take_left' (length_memReadBytes _ _ _)]

/-- The bytes of a scratchpad range that was read as a number. -/
theorem natToBytes_scratchRead (s : State) (core : Nat) (g : Group) (off n : Nat) :
    natToBytes n (scratchRead s core g off n) = memReadBytes (getCore s core).scratch (g.sbase + off) n := by
  have h := natToBytes_bytesToNat (memReadBytes (getCore s core).scratch (g.sbase + off) n)
  rwa [length_memReadBytes] at h

/-- A map keeps its entries but the one that is changed. -/
theorem mem_mapModify_of_mem {α : Type} {m : SMap α} {n : Nat} (f : α → α) {e : Nat × α} (h : e ∈ m) :
    e ∈ mapModify m n f ∨ (e.1, f e.2) ∈ mapModify m n f := by
  have set (m : SMap α) (v : α) (hv : mapFind m n = some v) (h : e ∈ m) :
      e ∈ mapSet m n (f v) ∨ (e.1, f e.2) ∈ mapSet m n (f v) := by
    induction m with
    | nil => simp at h
    | cons c m ih =>
      obtain ⟨k, w⟩ := c
      rw [mapSet]
      split
      · exact .inl (List.mem_cons_of_mem _ h)
      · split
        next hk =>
          have hk : n = k := by simpa using hk
          subst hk
          have hw : w = v := by simpa [mapFind] using hv
          rcases List.mem_cons.mp h with rfl | h
          · exact .inr (by simp [hw])
          · exact .inl (List.mem_cons_of_mem _ h)
        next hk =>
          have hk : k ≠ n := fun e => hk (by simp [e])
          rcases List.mem_cons.mp h with rfl | h
          · exact .inl List.mem_cons_self
          · exact (ih (by simpa [mapFind, hk] using hv) h).imp (List.mem_cons_of_mem _) (List.mem_cons_of_mem _)
  unfold mapModify
  split
  · exact .inl h
  next v hv => exact set m v hv h

/-! ## Tiles, budgets and running commands -/

@[simp] theorem getCore_chargeBudget (a c l n : Nat) (s : State) (k : Nat) : getCore (chargeBudget a c l n s) k = getCore s k := rfl

theorem accTile_of_acc {s t : State} {core : Nat} (h : (getCore t core).acc = (getCore s core).acc) (n : Nat) :
    accTile t core n = accTile s core n := by
  rw [accTile, h, accTile]

theorem getCore_modAcc (core n : Nat) (f : AccTile → AccTile) (s : State) : getCore (modAcc core n f s) core =
    { getCore s core with acc := mapSet (getCore s core).acc n (f (accTile s core n)) } := getCore_modCore_same _ _ _

@[simp] theorem accTile_modAcc_same (core n : Nat) (f : AccTile → AccTile) (s : State) :
    accTile (modAcc core n f s) core n = f (accTile s core n) := by
  rw [accTile, getCore_modAcc]
  exact mapGet_mapSet_same _ _ _ _

@[simp] theorem accTile_modAcc_ne (core n : Nat) (f : AccTile → AccTile) (s : State) {k : Nat} (h : k ≠ n) :
    accTile (modAcc core n f s) core k = accTile s core k := by
  rw [accTile, getCore_modAcc]
  exact mapGet_mapSet_ne _ _ _ _ _ h

theorem getCore_modCmd (core : Nat) (m : MCommand) (f : MCommand → MCommand) (s : State) : getCore (modCmd core m f s) core =
    { getCore s core with mrun := (getCore s core).mrun.map (fun x => if x.id == m.id then f x else x) } :=
  getCore_modCore_same _ _ _

@[simp] theorem mem_modCmd (core : Nat) (m : MCommand) (f : MCommand → MCommand) (s : State) : (modCmd core m f s).mem = s.mem := rfl

/-- The numbers and rows of a core's running commands. -/
def cmdRows (core : Nat) (s : State) : List (Nat × Nat) := (getCore s core).mrun.map (fun x => (x.id, x.row))

theorem cmdRows_of_mrun {s t : State} {core : Nat} (h : (getCore t core).mrun = (getCore s core).mrun) :
    cmdRows core t = cmdRows core s := by
  rw [cmdRows, h, cmdRows]

/-- A command that goes on to a row. -/
theorem cmdRows_modCmd {core : Nat} {m : MCommand} {f : MCommand → MCommand} {row : Nat}
    (hid : ∀ x, x.id = m.id → (f x).id = m.id) (hrow : ∀ x, (f x).row = row) (s : State) :
    cmdRows core (modCmd core m f s) = (cmdRows core s).map (fun x => if x.1 = m.id then (m.id, row) else x) := by
  rw [cmdRows, getCore_modCmd, cmdRows, List.map_map, List.map_map]
  refine List.map_congr_left (fun x _ => ?_)
  by_cases hx : x.id = m.id
  · simp [hx, hid x hx, hrow]
  · simp [hx]

theorem cmdRows_modCmd_of_kept {core : Nat} {m : MCommand} {f : MCommand → MCommand} (hf : ∀ x, ((f x).id, (f x).row) = (x.id, x.row))
    (s : State) : cmdRows core (modCmd core m f s) = cmdRows core s := by
  rw [cmdRows, getCore_modCmd, cmdRows, List.map_map]
  refine List.map_congr_left (fun x _ => ?_)
  by_cases hx : x.id = m.id
  · simpa [hx] using hf x
  · simp [hx]

theorem cmdRows_passRow (core : Nat) (m : MCommand) (row : Nat) (s : State) : cmdRows core (passRow core m row s) =
    (cmdRows core s).map (fun x => if x.1 = m.id then (m.id, row) else x) := by
  refine cmdRows_modCmd ?_ ?_ s
  · exact fun _ h => h
  · exact fun _ => rfl

/-- One command of a kind runs on a core's engine: of core scope, and not stopped on a page. -/
def runsAlone (core : Nat) (s : State) (m : MCommand) (code : Nat) : Prop :=
  (getCore s core).mrun = [m] ∧ kindCode m.kind = code ∧ m.onPage = none ∧ m.scope = 0

theorem runningCmd_of_runsAlone {core code : Nat} {s : State} {m : MCommand} (h : runsAlone core s m code) (p : MKind → Bool)
    (hp : p m.kind = true) : runningCmd s core p = some m := by
  obtain ⟨hrun, -, hpage, -⟩ := h
  simp [runningCmd, hrun, hp, hpage]

theorem kindCode_of_runsAlone {core code : Nat} {s : State} {m : MCommand} (h : runsAlone core s m code) : kindCode m.kind = code := by
  obtain ⟨-, hcode, -, -⟩ := h
  exact hcode

theorem scope_of_runsAlone {core code : Nat} {s : State} {m : MCommand} (h : runsAlone core s m code) : m.scope = 0 := by
  obtain ⟨-, -, -, hs⟩ := h
  exact hs

/-- A command of core scope has its own core alone. -/
theorem cmdParts_of_group {core : Nat} {s : State} {m : MCommand} {g : Group} (hs : m.scope = 0)
    (hg : getGroup s core m.gslot = some g) : cmdParts s core m = [(core, m.gslot, g)] := by
  simp [cmdParts, scopeParts, hs, hg]

theorem getGroup_of_cmdParts {core : Nat} {s : State} {m : MCommand} {g : Group} (hs : m.scope = 0)
    (h : cmdParts s core m = [(core, m.gslot, g)]) : getGroup s core m.gslot = some g := by
  simp only [cmdParts, scopeParts, hs, beq_self_eq_true, if_true] at h
  split at h
  · cases h
  next g' hg' =>
    injection h with h
    cases h
    exact hg'

/-! ## Retirement (07 R156) -/

/-- A command has retired: it runs no longer, its operation is over in its gang, and memory is as it was. -/
def commandEnds (core : Nat) (m : MCommand) (s t : State) : Prop :=
  (getCore t core).mrun = (getCore s core).mrun.filter (fun x => x.id != m.id) ∧ t.mem = s.mem ∧
  ∀ g, getGang s core m.slot = some g →
    getGang t core m.slot = some { g with ops := g.ops.filter (fun o => o.kind != .engine m.id) }

/-- A command of core scope retires: of its core only the running commands and the gangs change. -/
theorem getCore_retireCmd {core : Nat} {m : MCommand} (hs : m.scope = 0) (s : State) :
    getCore (retireCmd core m s) core = { getCore s core with
      mrun := (getCore s core).mrun.filter (fun x => x.id != m.id),
      gangs := mapModify (getCore s core).gangs m.slot
        (fun g => { g with ops := g.ops.filter (fun o => o.kind != .engine m.id) }) } := by
  simp only [retireCmd, hs, bne_self_eq_false, Bool.false_and, Bool.false_eq_true, if_false, endOp]
  rw [getCore_modGang_same, getCore_modCore_same]

theorem mem_retireCmd {core : Nat} {m : MCommand} (hs : m.scope = 0) (s : State) : (retireCmd core m s).mem = s.mem := by
  simp only [retireCmd, hs, bne_self_eq_false, Bool.false_and, Bool.false_eq_true, if_false, endOp]
  rfl

theorem accTile_retireCmd {core : Nat} {m : MCommand} (hs : m.scope = 0) (s : State) (n : Nat) :
    accTile (retireCmd core m s) core n = accTile s core n :=
  accTile_of_acc (by rw [getCore_retireCmd hs]) n

theorem retireCmd_ends {core : Nat} {m : MCommand} (hs : m.scope = 0) {s u : State} (hm : u.mem = s.mem)
    (hrun : (getCore u core).mrun = (getCore s core).mrun) (hg : (getCore u core).gangs = (getCore s core).gangs) :
    commandEnds core m s (retireCmd core m u) := by
  refine ⟨?_, (mem_retireCmd hs u).trans hm, fun g h => ?_⟩
  · rw [getCore_retireCmd hs, hrun]
  · rw [getGang, getCore_retireCmd hs, hg]
    exact (mapFind_mapModify_same _ _ _).trans (congrArg (Option.map _) h)

end Sys2Proof.Machine
end

section
/-! SUPPORT. The copy engine: the acceptance of a request, and a chunk within scratchpad (09 R201, R202). -/

namespace Sys2Proof.Machine

/-- Every group of a core has a gang, so that none retires with the work of an engine. -/
def groupsLive (core : Nat) (s : State) : Prop := ∀ e ∈ (getCore s core).groups, gangsOfGroup (getCore s core) e.1 ≠ []

theorem endGroup_of_groupsLive {core : Nat} {s : State} (h : groupsLive core s) : endGroup core s = s := by
  have hn : (getCore s core).groups.find? (fun e => groupSpent s core e.1 e.2 && e.2.atCommit == 0) = none :=
    List.find?_eq_none.mpr fun e he => by simp [groupSpent, h e he]
  rw [endGroup, hn]

/-- A change of a gang that keeps its group leaves every group its gangs. -/
theorem gangsOfGroup_mapModify {c d : Core} {slot : Nat} {f : Gang → Gang} (hd : d.gangs = mapModify c.gangs slot f)
    (hf : ∀ g, (f g).gslot = g.gslot) {gslot : Nat} (h : gangsOfGroup c gslot ≠ []) : gangsOfGroup d gslot ≠ [] := by
  obtain ⟨k, hk⟩ := List.exists_mem_of_ne_nil _ h
  obtain ⟨g, hg, hs⟩ := (mem_gangsOfGroup _ _ _).mp hk
  refine List.ne_nil_of_mem ((mem_gangsOfGroup d gslot k).mpr ?_)
  rw [hd]
  rcases mem_mapModify_of_mem f hg with h | h
  · exact ⟨g, h, hs⟩
  · exact ⟨f g, h, (hf g).trans hs⟩

/-! ## Acceptance (09 R201) -/

theorem copyAccept_accepts (core : Nat) (q : CopySlot) (rest : List CopySlot) (g : Group) : Moves (.copyAccept core)
    (fun s => let r := copyOf q.request
      (getCore s core).copyq = q :: rest ∧ (∀ x ∈ rest, x.id ≠ q.id) ∧ q.count = 0 ∧ (getCore s core).copyrun = [] ∧
      getGroup s core q.gslot = some g ∧ hasBudget s 0 core (levelOf s g) = true ∧
      heldForSave s core q.ctx (rest.length + 1) = false ∧
      r.reason s core g = none ∧ r.stile = false ∧ r.dtile = false ∧ r.direct = false ∧ groupsLive core s)
    (fun s t => OnlyCore core s t { getCore s core with
      copyq := rest,
      copyrun := [{ request := q.request, slot := q.slot, gslot := q.gslot, ctx := q.ctx, id := q.id, index := q.index }] }) := by
  intro s ⟨hq, _, hcount, hrun, hg, hbudget, hsave, hreason, hst, hdt, hdirect, hlive⟩
  have hnext : nextCopy (getCore s core) = some q := by simp [nextCopy, hq, hrun]
  have hslot : advanceSlot q.id (q :: rest) = rest := by simp [advanceSlot, hcount]
  have haccept : copyAccept core s = modCore s core (fun c => { c with
      copyq := advanceSlot q.id c.copyq,
      copyrun := c.copyrun ++ [{ request := q.request, slot := q.slot, gslot := q.gslot, ctx := q.ctx, id := q.id,
                                 index := q.index }] }) := by
    simp [copyAccept, hnext, hg, hbudget, hq, hsave, slotRequest, hcount, hreason, hst, hdt, hdirect]
  have honly := onlyCore_modCore s core (fun c => { c with
      copyq := advanceSlot q.id c.copyq,
      copyrun := c.copyrun ++ [{ request := q.request, slot := q.slot, gslot := q.gslot, ctx := q.ctx, id := q.id,
                                 index := q.index }] })
  refine ⟨copyAccept core s, congrArg Host.Outcome.next (endGroup_of_groupsLive ?_), ?_⟩
  · rw [haccept, groupsLive, honly.core]
    exact hlive
  · rw [haccept]
    rwa [hq, hrun, hslot] at honly

/-! ## A chunk (09 R202) -/

/-- A request for one row of at most 512 bytes within scratchpad, as it stands and without a phase barrier. -/
structure Copy.PlainRow (r : Copy) : Prop where
  ssp : r.ssp = true
  dsp : r.dsp = true
  stile : r.stile = false
  dtile : r.dtile = false
  conv : r.conv = 0
  pbv : r.pbv = false
  tr : r.tr = false
  rows : r.rows = 1
  pos : 0 < r.rowb
  le : r.rowb ≤ 512

section
variable {r : Copy} (hr : r.PlainRow)
include hr

theorem Copy.PlainRow.srcElem : r.srcElem = 1 := by simp [Copy.srcElem, hr.conv]

theorem Copy.PlainRow.dstElem : r.dstElem = 1 := by simp [Copy.dstElem, hr.conv]

theorem Copy.PlainRow.elems : r.elems = r.rowb := by simp [Copy.elems, Copy.perRow, hr.rows, hr.srcElem]

theorem Copy.PlainRow.chunks : r.chunks = 1 := by
  have hpos := hr.pos
  have hle := hr.le
  rw [Copy.chunks, Copy.written, hr.elems, hr.dstElem, ceilDiv]
  omega

theorem Copy.PlainRow.place {n : Nat} (h : n < r.rowb) : r.place n = (0, n) := by
  simp [Copy.place, hr.tr, hr.rows, hr.dstElem, Copy.perRow, hr.srcElem, Nat.div_eq_of_lt h, Nat.mod_eq_of_lt h]

theorem Copy.PlainRow.chunkElems : r.chunkElems 0 = (List.range r.rowb).map (fun n => (0, n)) := by
  rw [Copy.chunkElems, hr.elems, hr.dstElem]
  simp only [Nat.zero_mul, Nat.sub_zero, Nat.div_one, Nat.zero_add, Nat.min_eq_right hr.le]
  exact List.map_congr_left (fun n hn => hr.place (List.mem_range.mp hn))

theorem Copy.PlainRow.touched (s : State) (core : Nat) (g : Group) (l : List (Nat × Nat)) : r.touched s core g l = [] := by
  simp [Copy.touched, hr.ssp, hr.dsp]

/-- The bytes of scratchpad that the elements of a chunk are. -/
theorem gatherChunk_plainRow (run : CopyRun) (core : Nat) (g : Group) (l : List Nat) (out : List (Nat × List Byte)) (s : State) :
    gatherChunk run r core g (l.map (fun n => (0, n))) out s =
      (.inl (out.reverse ++ l.map (fun n => (n, [memRead (getCore s core).scratch (g.sbase + r.src + n)]))), s) := by
  induction l generalizing out with
  | nil => simp [gatherChunk]
  | cons n l ih =>
    have hread : copyRead run r core g (r.srcBase s core g + r.srcOff 0 n) r.srcElem s =
        (.inl [memRead (getCore s core).scratch (g.sbase + r.src + n)], s) := by
      simp [copyRead, hr.ssp, Copy.srcBase, hr.stile, Copy.srcOff, hr.srcElem, natToBytes_scratchRead, memReadBytes, Nat.add_assoc]
    have hconv : ∀ bs, r.convert bs 0 = bs := fun bs => by simp [Copy.convert, hr.conv]
    have hoff : r.dstOff 0 n = n := by simp [Copy.dstOff, hr.tr, hr.dstElem]
    rw [List.map_cons, gatherChunk, hread]
    simp only [hr.conv, hconv, hoff]
    rw [if_neg (by simp), ih]
    simp

end

/-- Single bytes at consecutive offsets are one piece. -/
theorem joinPieces_bytes (b : Nat → Byte) (n a : Nat) :
    joinPieces ((List.range' a (n + 1)).map (fun k => (k, [b k]))) = [(a, (List.range' a (n + 1)).map b)] := by
  induction n generalizing a with
  | zero => rfl
  | succ n ih =>
    rw [List.range'_succ, List.map_cons, joinPieces, ih (a + 1)]
    simp

theorem joinPieces_range {n : Nat} (b : Nat → Byte) (h : 0 < n) :
    joinPieces ((List.range n).map (fun k => (k, [b k]))) = [(0, (List.range n).map b)] := by
  obtain ⟨k, rfl⟩ := Nat.exists_eq_add_of_lt h
  rw [List.range_eq_range', Nat.zero_add]
  exact joinPieces_bytes b k 0

theorem chargeChunk_other (core : Nat) (run : CopyRun) (r : Copy) (g : Group) (l : List (Nat × Nat)) (s : State) :
    ∃ p, chargeChunk core run r g l s = { s with spent := p } := by
  unfold chargeChunk
  dsimp only
  split <;> exact ⟨_, rfl⟩

theorem creditPhase_without {r : Copy} (h : r.pbv = false) (core gslot ctx n : Nat) (s : State) :
    creditPhase core gslot ctx r n s = s := by
  unfold creditPhase
  split
  · rfl
  · simp [h]

theorem leaveTiles_without {run : CopyRun} (hs : (copyOf run.request).stile = false) (hd : (copyOf run.request).dtile = false)
    (core st : Nat) (s : State) : leaveTiles core st run s = s := by
  unfold leaveTiles
  split
  · rfl
  · simp [hs, hd]

/-- A gang whose engine operation of a number is over and stands as a lane's that is made (16 R338). -/
def Gang.opMade (id : Nat) (g : Gang) : Gang :=
  { g with ops := g.ops.map (fun o => if o.kind = .engine id then { o with kind := .lane false } else o) }

theorem closeOp_eq (core slot id : Nat) (s : State) : closeOp core slot id s = modGang s core slot (Gang.opMade id) := by
  simp only [closeOp, beq_iff_eq]
  rfl

/-- A request that runs alone, and has no part queued, is over with its operation. -/
theorem copyDone_alone {core : Nat} {run : CopyRun} {s : State} (hst : (copyOf run.request).stile = false)
    (hdt : (copyOf run.request).dtile = false) (hrun : (getCore s core).copyrun = [run])
    (hq : ∀ x ∈ (getCore s core).copyq, x.id ≠ run.id) :
    (copyDone core run s).mem = s.mem ∧ getCore (copyDone core run s) core = { getCore s core with
      copyrun := [], gangs := mapModify (getCore s core).gangs run.slot (Gang.opMade run.id) } := by
  have hin : (getCore s core).copyrun.contains run = true := by simp [hrun]
  have hany : (getCore s core).copyq.any (fun q => q.id == run.id) = false := by simpa using hq
  generalize hu : modCore s core (fun c => { c with copyrun := c.copyrun.filter (fun x => x ≠ run) }) = u
  have huc : getCore u core = { getCore s core with copyrun := [] } := by
    rw [← hu, getCore_modCore_same, hrun]
    simp
  rw [copyDone, if_pos hin, hu, leaveTiles_without hst hdt, copyEnds, huc]
  simp only [hany, List.any_nil, Bool.or_self, Bool.false_eq_true, if_false, closeOp_eq]
  exact ⟨by rw [← hu]; rfl, by rw [getCore_modGang_same, huc]⟩

/-- A request with its next chunk behind it. -/
def CopyRun.performed (run : CopyRun) (refs : List PageRef) : CopyRun :=
  { run with chunk := run.chunk + 1, refs := refs, peer := none }

/-- The only chunk of a request ends it. -/
theorem chunkDone_plainRow {core : Nat} {run : CopyRun} (hr : (copyOf run.request).PlainRow) (h0 : run.chunk = 0) (g : Group)
    (l : List (Nat × Nat)) (s : State) : ∃ p refs, chunkDone core run (copyOf run.request) g l s =
      copyDone core (run.performed refs) (modRun core run (fun _ => run.performed refs) { s with spent := p }) := by
  obtain ⟨p, hp⟩ := chargeChunk_other core run (copyOf run.request) g l s
  have hlast : ¬ run.chunk + 1 < (copyOf run.request).chunks := by rw [hr.chunks]; omega
  refine ⟨p, copyRefs run (copyOf run.request) { s with spent := p } core g l, ?_⟩
  simp only [chunkDone, hp, creditPhase_without hr.pbv, if_neg hlast]
  rfl

theorem getCore_modRun_alone {core : Nat} {run : CopyRun} {s : State} (hrun : (getCore s core).copyrun = [run]) (next : CopyRun) :
    getCore (modRun core run (fun _ => next) s) core = { getCore s core with copyrun := [next] } := by
  rw [modRun, getCore_modCore_same, hrun]
  simp

theorem copyChunk_moves (core : Nat) (run : CopyRun) (g : Group) : Moves (.copyChunkPerformed core)
    (fun s => (getCore s core).copyrun = [run] ∧ (∀ x ∈ (getCore s core).copyq, x.id ≠ run.id) ∧ run.onPage = none ∧
      run.chunk = 0 ∧ getGroup s core run.gslot = some g ∧ hasBudget s 0 core (levelOf s g) = true ∧
      (copyOf run.request).PlainRow ∧ groupsLive core s)
    (fun s t => let r := copyOf run.request
      (getCore t core).copyrun = [] ∧ t.mem = s.mem ∧
      (∀ k, k < r.rowb → memRead (getCore t core).scratch (g.sbase + r.dst + k) =
        memRead (getCore s core).scratch (g.sbase + r.src + k)) ∧
      (∀ a, a < g.sbase + r.dst ∨ g.sbase + r.dst + r.rowb ≤ a →
        memRead (getCore t core).scratch a = memRead (getCore s core).scratch a) ∧
      ∀ x, getGang s core run.slot = some x →
        getGang t core run.slot = some { x with ops := x.ops.map (fun o =>
          if o.kind = .engine run.id then { o with kind := .lane false } else o) }) := by
  intro s ⟨hrun, hq, hpage, h0, hg, hbudget, hr, hlive⟩
  generalize hbytes : (List.range (copyOf run.request).rowb).map
    (fun k => memRead (getCore s core).scratch (g.sbase + (copyOf run.request).src + k)) = bytes
  have hlen : bytes.length = (copyOf run.request).rowb := by rw [← hbytes]; simp
  generalize hu : scratchWrite core g (copyOf run.request).dst bytes s = u
  have huc : getCore u core = { getCore s core with
      scratch := memWriteBytes (getCore s core).scratch (g.sbase + (copyOf run.request).dst) bytes } := by
    rw [← hu, scratchWrite, getCore_modCore_same]
  have hwork : workingCopy (getCore s core).copyrun = some run := by simp [workingCopy, hrun, hpage]
  have hroom : chunkBudget core run (copyOf run.request) g ((copyOf run.request).chunkElems 0) s = true := by
    simp [chunkBudget, hbudget, hr.touched, podChunk]
  have hchunk : copyChunk core s =
      chunkDone core run (copyOf run.request) g ((copyOf run.request).chunkElems 0) u := by
    have hgather := gatherChunk_plainRow hr run core g (List.range (copyOf run.request).rowb) [] s
    rw [← hr.chunkElems] at hgather
    simp only [copyChunk, hwork, hg, h0, hroom, hgather, Bool.not_true, Bool.false_eq_true, if_false, List.reverse_nil,
      List.nil_append, hr.dsp, if_true, joinPieces_range _ hr.pos, hbytes, List.foldl_cons, List.foldl_nil, Copy.dstBase, hr.dtile,
      Nat.add_zero, hu, countChunk, hr.ssp]
  obtain ⟨p, refs, hdone⟩ := chunkDone_plainRow (core := core) hr h0 g ((copyOf run.request).chunkElems 0) u
  have hnext := getCore_modRun_alone (core := core) (run := run) (s := { u with spent := p })
    ((congrArg Core.copyrun huc).trans hrun) (run.performed refs)
  obtain ⟨hmem, hcore⟩ := copyDone_alone (core := core) (run := run.performed refs) hr.stile hr.dtile
    (congrArg Core.copyrun hnext) (by rw [hnext]; exact (congrArg Core.copyq huc).symm ▸ hq)
  rw [← hdone, ← hchunk] at hmem hcore
  have hkept : getCore { u with spent := p } core = getCore u core := rfl
  rw [hnext, hkept, huc] at hcore
  refine ⟨copyChunk core s, congrArg Host.Outcome.next (endGroup_of_groupsLive fun e he => ?_), by rw [hcore],
    hmem.trans (by rw [← hu]; rfl), fun k hk => ?_, fun a ha => ?_, fun x hx => ?_⟩
  · rw [hcore] at he
    exact gangsOfGroup_mapModify (c := getCore s core) (congrArg Core.gangs hcore) (fun _ => rfl) (hlive e he)
  · rw [hcore]
    refine (memRead_memWriteBytes_inside bytes _ _ k (hlen ▸ hk)).trans ?_
    simp [← hbytes, hk]
  · rw [hcore]
    exact memRead_memWriteBytes_outside bytes _ _ a (hlen ▸ ha)
  · rw [getGang, hcore]
    exact (mapFind_mapModify_same _ _ _).trans (congrArg (Option.map _) hx)

end Sys2Proof.Machine
end

section
/-! SUPPORT. The matrix engine: the acceptance of commands, and the k-steps of an `mma` (07 R148 to R151, R153, R155, R156,
R159). -/

namespace Sys2Proof.Machine

/-! ## Acceptance (07 R155, R159) -/

/-- An `mzero` is at the head of the queue of an engine that runs nothing and follows no other. -/
def zeroQueued (core : Nat) (s : State) (m : MCommand) (rest : List MCommand) : Prop :=
  (getCore s core).mqueue = m :: rest ∧ m.kind = .mzero ∧ (getCore s core).mrun = [] ∧ (getCore s core).slaved = none ∧
  heldForSave s core m.ctx (rest.length + 1) = false ∧ cmdBudget s core m = true

theorem headCmd_of_zeroQueued {core : Nat} {s : State} {m : MCommand} {rest : List MCommand} (h : zeroQueued core s m rest)
    {wide : Bool} (hw : (m.scope != 0) = wide) : headCmd s core wide = some m := by
  obtain ⟨hq, -, hrun, hslaved, hsave, hbudget⟩ := h
  have hroom : roomFor s core m = true := by simp [roomFor, hrun]
  simp [headCmd, hq, hw, hslaved, hroom, hsave, hbudget]

/-- An accepted `mzero` leaves the queue and runs. -/
theorem acceptCmd_mzero {core : Nat} {s : State} {m : MCommand} {rest : List MCommand} (hk : m.kind = .mzero)
    (hq : (getCore s core).mqueue = m :: rest) (hrun : (getCore s core).mrun = []) :
    OnlyCore core s (acceptCmd core m s) { getCore s core with mqueue := rest, mrun := [m] } := by
  have hstart : acceptCmd core m s = startCmd core m (modCore s core (fun c => { c with mqueue := c.mqueue.tail })) := by
    simp only [acceptCmd, hk]
    split <;> rfl
  have h := onlyCore_modCore s core (fun c => { c with mqueue := c.mqueue.tail })
  have h' := onlyCore_modCore (modCore s core (fun c => { c with mqueue := c.mqueue.tail })) core
    (fun c => { c with mrun := c.mrun ++ [m] })
  rw [hstart]
  refine ⟨h'.device.trans h.device, h'.queue.trans h.queue, fun n hn => (h'.others n hn).trans (h.others n hn), ?_⟩
  rw [startCmd, h'.core, h.core, hq, hrun]
  rfl

theorem matrixCmdAccept_accepts (core : Nat) (m : MCommand) (rest : List MCommand) : Moves (.matrixCmdAccept core)
    (fun s => zeroQueued core s m rest ∧ m.scope = 0)
    (fun s t => OnlyCore core s t { getCore s core with mqueue := rest, mrun := [m] }) := by
  intro s ⟨h, hs⟩
  have hhead := headCmd_of_zeroQueued h (wide := false) (by simp [hs])
  obtain ⟨hq, hk, hrun, -, -, -⟩ := h
  refine ⟨acceptCmd core m s, congrArg Host.Outcome.next ?_, acceptCmd_mzero hk hq hrun⟩
  rw [hhead]

/-- The engine of a part of a command follows that of its leader. -/
def followLeader (core : Nat) (s : State) (e : Nat × Nat × Group) : State :=
  if e.1 == core then s else modCore s e.1 (fun c => { c with slaved := some core })

theorem getCore_followLeader (core : Nat) (s : State) (e : Nat × Nat × Group) : getCore (followLeader core s e) core = getCore s core := by
  unfold followLeader
  split
  · rfl
  next h => exact getCore_modCore_ne _ _ _ _ (fun he => h (by simp [he]))

theorem slaved_followLeader_of_slaved {core n : Nat} {s : State} (h : (getCore s n).slaved = some core) (e : Nat × Nat × Group) :
    (getCore (followLeader core s e) n).slaved = some core := by
  unfold followLeader
  split
  · exact h
  · by_cases hn : n = e.1
    · rw [hn, getCore_modCore_same]
    · rw [getCore_modCore_ne _ _ _ _ hn, h]

theorem slaved_foldl_followLeader {core : Nat} {parts : List (Nat × Nat × Group)} {e : Nat × Nat × Group} (he : e ∈ parts)
    (hne : e.1 ≠ core) (s : State) : (getCore (parts.foldl (followLeader core) s) e.1).slaved = some core := by
  induction parts generalizing s with
  | nil => simp at he
  | cons x parts ih =>
    rw [List.foldl_cons]
    rcases List.mem_cons.mp he with rfl | he
    · refine List.foldlRecOn (motive := fun t => (getCore t e.1).slaved = some core) parts _ ?_
        (fun _ h a _ => slaved_followLeader_of_slaved h a)
      rw [followLeader, if_neg (by simpa using hne), getCore_modCore_same]
    · exact ih he _

theorem mem_foldl_followLeader (core : Nat) (parts : List (Nat × Nat × Group)) (s : State) :
    (parts.foldl (followLeader core) s).mem = s.mem :=
  observe_foldl_other (obs := State.mem) (fun e _ s => by unfold followLeader; split <;> rfl) s

theorem scopeCommandStart_slaves (core : Nat) (m : MCommand) (rest : List MCommand) : Moves (.scopeCommandStart core)
    (fun s => zeroQueued core s m rest ∧ m.scope ≠ 0 ∧ followersFree s core m = true)
    (fun s t => (getCore t core).mqueue = rest ∧ (getCore t core).mrun = [m] ∧ t.mem = s.mem ∧
      ∀ e ∈ cmdParts s core m, e.1 ≠ core → (getCore t e.1).slaved = some core) := by
  intro s ⟨h, hs, hfree⟩
  have hhead := headCmd_of_zeroQueued h (wide := true) (by simpa using hs)
  obtain ⟨hq, hk, hrun, -, -, -⟩ := h
  have hu : getCore ((cmdParts s core m).foldl (followLeader core) s) core = getCore s core :=
    observe_foldl_other (obs := fun t => getCore t core) (fun e _ t => getCore_followLeader core t e) s
  have hslaved := fun e he hne => slaved_foldl_followLeader (core := core) (parts := cmdParts s core m) (e := e) he hne s
  have hmem := mem_foldl_followLeader core (cmdParts s core m) s
  generalize hfold : (cmdParts s core m).foldl (followLeader core) s = u at hu hslaved hmem
  have ha := acceptCmd_mzero hk ((congrArg Core.mqueue hu).trans hq) ((congrArg Core.mrun hu).trans hrun)
  refine ⟨acceptCmd core m u, congrArg Host.Outcome.next ?_, by rw [ha.core], by rw [ha.core],
    ((congrArg State.mem ha.device :)).trans hmem, fun e he hne => ?_⟩
  · have hany : (getCore (acceptCmd core m u) core).mrun.any (fun x => x.scope != 0) = true := by simp [ha.core, hs]
    rw [hhead]
    change (if followersFree s core m then
      let t := acceptCmd core m ((cmdParts s core m).foldl (followLeader core) s)
      if (getCore t core).mrun.any (fun x => x.scope != 0) then t else freeFollowers core t else s) = _
    rw [if_pos hfree, hfold]
    exact if_pos hany
  · rw [ha.others e.1 hne]
    exact hslaved e he hne

/-! ## Elements (07 R151, R153) -/

@[simp] theorem elem_setElem_same (t : AccTile) (e : Nat) (x : AccElem) : (t.setElem e x).elem e = x := by
  simp [AccTile.elem, AccTile.setElem]

@[simp] theorem elem_setElem_ne (t : AccTile) (e : Nat) (x : AccElem) {k : Nat} (h : k ≠ e) : (t.setElem e x).elem k = t.elem k := by
  simp [AccTile.elem, AccTile.setElem, h]

theorem accIndex_inj {i j k l : Nat} (hj : j < 256) (hl : l < 256) (h : accIndex i j = accIndex k l) : i = k ∧ j = l := by
  unfold accIndex at h
  omega

/-- A row leaves the elements of every other row. -/
theorem elem_addRow_ne {row i j : Nat} (hne : row ≠ i) (hj : j < 256) (a : OpWord) {bs : List OpWord} (hl : bs.length ≤ 256)
    (t : AccTile) : (addRow row a bs t).elem (accIndex i j) = t.elem (accIndex i j) := by
  unfold addRow
  split
  · rfl
  · refine observe_foldl_other (obs := fun t => t.elem (accIndex i j)) (fun e he t => ?_) t
    have hlt := (List.getElem?_eq_some_iff.mp (mem_zip_range.mp he)).1
    exact elem_setElem_ne _ _ _ (fun h => hne (accIndex_inj hj (hlt.trans_le hl) h).1.symm)

/-- A row adds to an element its product, but for a word of A that is zero and not poison. -/
theorem elem_addRow_same {row j : Nat} {a b : OpWord} {bs : List OpWord} (hl : bs.length ≤ 256) (hb : bs[j]? = some b)
    (t : AccTile) : (addRow row a bs t).elem (accIndex row j) =
      if zeroWord a then t.elem (accIndex row j) else addProduct (t.elem (accIndex row j)) a b := by
  have hj := (List.getElem?_eq_some_iff.mp hb).1
  unfold addRow
  split
  · rfl
  · refine observe_foldl_once (obs := fun t => t.elem (accIndex row j)) (G := fun x => addProduct x a b) (x := (b, j))
      (nodup_zip_range bs) (mem_zip_range.mpr hb) (fun e he hne t => ?_) (fun t => ?_) t
    swap
    · exact elem_setElem_same _ _ _
    have he := mem_zip_range.mp he
    have hlt := (List.getElem?_eq_some_iff.mp he).1
    refine elem_setElem_ne _ _ _ (fun h => hne ?_)
    obtain ⟨-, hk⟩ := accIndex_inj (hj.trans_le hl) (hlt.trans_le hl) h
    obtain ⟨w, k⟩ := e
    subst hk
    rw [hb] at he
    injection he with he
    rw [he]

/-- A k-step adds to each element the product of its row's word and its column's. -/
theorem elem_addStep (l r : List OpWord) (t : AccTile) (i j : Nat) (a b : OpWord) (hl : r.length ≤ 256) (ha : l[i]? = some a)
    (hb : r[j]? = some b) : (addStep l r t).elem (accIndex i j) =
      if a.val = 0 ∧ a.poison = false then t.elem (accIndex i j) else
        { res := (List.range 10).map (fun c => ((t.elem (accIndex i j)).res.getD c 0 +
            residueOf c a.val * residueOf c b.val) % modulus c),
          poison := (t.elem (accIndex i j)).poison || a.poison || b.poison } := by
  have hj := (List.getElem?_eq_some_iff.mp hb).1
  have hstep : (addStep l r t).elem (accIndex i j) =
      if zeroWord a then t.elem (accIndex i j) else addProduct (t.elem (accIndex i j)) a b := by
    refine observe_foldl_once (obs := fun t => t.elem (accIndex i j))
      (G := fun x => if zeroWord a then x else addProduct x a b) (x := (a, i))
      (nodup_zip_range l) (mem_zip_range.mpr ha) (fun e he hne t => ?_) (fun t => ?_) t
    swap
    · exact elem_addRow_same hl hb t
    refine elem_addRow_ne (fun hi => hne ?_) (hj.trans_le hl) _ hl t
    obtain ⟨w, k⟩ := e
    have hi : k = i := hi
    have he := mem_zip_range.mp he
    rw [hi, ha] at he
    injection he with he
    rw [he, hi]
  rw [hstep]
  simp only [zeroWord, Bool.and_eq_true, beq_iff_eq, Bool.not_eq_true']
  rfl

/-! ## Words of operands (07 R148 to R150) -/

/-- The poison code, read at each width. -/
theorem operandWord_poisonCode (w : Nat) (h1 : 1 ≤ w) (h32 : w ≤ 32) : operandWord w 0xFFF80000 =
    { val := if w < 20 then 0 else -524288, poison := decide (17 ≤ w ∧ w ≤ 20) } := by
  interval_cases w <;> decide

@[simp] theorem length_wordsOf (w cb n : Nat) (bs : List Byte) : (wordsOf w cb n bs).length = n := by simp [wordsOf]

theorem getElem?_wordsOf {n i : Nat} (h : i < n) (w cb : Nat) (bs : List Byte) :
    (wordsOf w cb n bs)[i]? = some (operandWord w (bytesToNat ((bs.drop (cb * i)).take cb))) := by
  simp [wordsOf, h]

/-- A word of a scratchpad range. -/
theorem getElem?_wordsOf_scratchRead {n i : Nat} (h : i < n) (w cb : Nat) (s : State) (core : Nat) (g : Group) (off : Nat) :
    (wordsOf w cb n (natToBytes (n * cb) (scratchRead s core g off (n * cb))))[i]? =
      some (operandWord w (scratchRead s core g (off + cb * i) cb)) := by
  have hle : cb * i + cb ≤ n * cb := by
    calc cb * i + cb = (i + 1) * cb := by ring
      _ ≤ n * cb := Nat.mul_le_mul_right cb h
  rw [getElem?_wordsOf h, natToBytes_scratchRead, drop_take_memReadBytes _ _ hle, scratchRead, Nat.add_assoc]

/-- A ring whose tile is open gives the words at its place. -/
theorem readStep_ring (s : State) (core : Nat) (g : Group) (m : MCommand) (first len : Nat) (isA : Bool)
    (w n lines kAll k rank : Nat) (p : RingPos) (e i : Nat) (hp : p.reading = true) (he : ringEntry g first len p = some e)
    (hi : i < n) : ∃ l, readStep core g m (.ring first len) isA w n lines kAll k rank p s = (.words l, p, s) ∧ l.length = n ∧
      l[i]? = some (operandWord w (scratchRead s core g (tileBase (tileWord s core e) +
        ((k - p.start) * lines + i) * containerOf w) (containerOf w))) := by
  have hopen : openRing s core g first len (lines * containerOf w) kAll p = .ready p e := by simp [openRing, he, hp]
  refine ⟨_, ?_, length_wordsOf _ _ _ _, (getElem?_wordsOf_scratchRead hi w (containerOf w) s core g
    (tileBase (tileWord s core e) + (k - p.start) * lines * containerOf w)).trans ?_⟩
  · simp [readStep, hopen, hp]
  · rw [Nat.add_assoc, Nat.add_mul, Nat.mul_comm i]

/-- A row of B by address is read whole. -/
theorem readStep_addr (s : State) (core : Nat) (g : Group) (m : MCommand) (base stride w n lines kAll k rank : Nat) (p : RingPos)
    (bs : List Byte) (u : State) (i : Nat) (hr : cmdRead core m g (base + k * stride) (n * containerOf w) s = (.inl bs, u))
    (hi : i < n) : ∃ l, readStep core g m (.addr base stride) false w n lines kAll k rank p s = (.words l, p, u) ∧ l.length = n ∧
      l[i]? = some (operandWord w (bytesToNat ((bs.drop (containerOf w * i)).take (containerOf w)))) :=
  ⟨_, by simp [readStep, hr], length_wordsOf _ _ _ _, getElem?_wordsOf hi _ _ _⟩

/-! ## A k-step (07 R151, R153) -/

/-- Two states agree in memory and, but for the table of its tiles, in a core. -/
structure SameButTileTab (core : Nat) (s t : State) : Prop where
  mem : t.mem = s.mem
  core : ∃ l, getCore t core = { getCore s core with tileTab := l }

theorem SameButTileTab.refl (core : Nat) (s : State) : SameButTileTab core s s := ⟨rfl, _, rfl⟩

theorem SameButTileTab.trans {core : Nat} {a b c : State} (h : SameButTileTab core a b) (k : SameButTileTab core b c) :
    SameButTileTab core a c := by
  obtain ⟨l, hl⟩ := h.core
  obtain ⟨l', hl'⟩ := k.core
  exact ⟨k.mem.trans h.mem, l', by rw [hl', hl]⟩

theorem setTileWord_sameButTileTab (core e : Nat) (w : Word) (s : State) : SameButTileTab core s (setTileWord core e w s) :=
  ⟨rfl, _, getCore_modCore_same _ _ _⟩

theorem stepRing_sameButTileTab (core e unit row : Nat) (rel : Bool) (p : RingPos) (s : State) :
    SameButTileTab core s (stepRing core e unit row rel p s).2 := by
  unfold stepRing
  dsimp only
  split
  · split
    · exact (setTileWord_sameButTileTab _ _ _ _).trans (setTileWord_sameButTileTab _ _ _ _)
    · exact setTileWord_sameButTileTab _ _ _ _
  · exact .refl _ _

theorem stepRings_sameButTileTab (op : MOperand) (r : BitVec 64) (row : Nat) (rel : Bool) (core k : Nat) (g : Group)
    (p : RingPos) (s : State) : SameButTileTab core s (stepRings op r row rel [(core, k, g)] [p] s).2 := by
  simp only [stepRings]
  cases op with
  | addr _ _ => exact .refl _ _
  | ring first len =>
    dsimp only
    cases ringEntry g first len p with
    | none => exact .refl _ _
    | some e => exact stepRing_sameButTileTab _ _ _ _ _ _ _

/-- A k-step whose words of A are all zero and not poison reads no row of B by address. -/
def sparesRow (col : List OpWord) (b : MOperand) : Prop :=
  (∀ x ∈ col, x.val = 0 ∧ x.poison = false) ∧ ∃ base stride, b = .addr base stride

theorem sparesRow_addr (col : List OpWord) (base stride : Nat) :
    sparesRow col (.addr base stride) ↔ col.all zeroWord = true := by
  simp [sparesRow, zeroWord]

theorem not_sparesRow_ring (col : List OpWord) (first len : Nat) : ¬ sparesRow col (.ring first len) := by
  simp [sparesRow]

/-- The ring of operand B after a k-step. -/
def stepRowRing (core : Nat) (g : Group) (r : BitVec 64) (row : Nat) (rel : Bool) (q : RingPos) (s : State) :
    MOperand → RingPos × State
  | .ring first len => match ringEntry g first len q with
    | some e => stepRing core e (256 * containerOf (shapeWb r)) row rel q s
    | none => (q, s)
  | .addr _ _ => (q, s)

theorem stepRowRing_sameButTileTab (core : Nat) (g : Group) (r : BitVec 64) (row : Nat) (rel : Bool) (q : RingPos) (s : State)
    (b : MOperand) : SameButTileTab core s (stepRowRing core g r row rel q s b).2 := by
  cases b with
  | addr _ _ => exact .refl _ _
  | ring first len =>
    rw [stepRowRing]
    cases ringEntry g first len q with
    | none => exact .refl _ _
    | some e => exact stepRing_sameButTileTab _ _ _ _ _ _ _

/-- A k-step of a command of core scope adds its products to the tile and goes on to the next; its rings may pass a tile. -/
theorem mmaStep_adds {core : Nat} {m : MCommand} {a b : MOperand} {r : BitVec 64} {s : State} {g : Group} {col row : List OpWord}
    {p q : RingPos} {u v : State} (rel : Bool) (hparts : cmdParts s core m = [(core, m.gslot, g)])
    (hcol : readStep core g m a true (shapeWa r) (shapeRows r) 128 (shapeK r) m.row 0 (m.ringA.headD {}) s = (.words col, p, u))
    (hspared : sparesRow col b → row = [] ∧ q = m.ringB ∧ v = u)
    (hrow : ¬ sparesRow col b →
      readStep core g m b false (shapeWb r) (shapeCols r) 256 (shapeK r) m.row 0 m.ringB u = (.words row, q, v)) :
    ∃ z ps q', SameButTileTab core (modAcc core (physTile g m) (addStep col row) v) z ∧
      mmaStep core m a b r rel s =
        passRow core m (m.row + 1) (modCmd core m (fun x => { x with ringA := ps, ringB := q' }) z) := by
  have hcols : readColumns m a r 0 [(core, m.gslot, g)] m.ringA s = (.inl [col], [p], u) := by
    simp only [readColumns, hcol]
  generalize hw : modAcc core (physTile g m) (addStep col row) v = w
  generalize hx : stepRings a r m.row rel [(core, m.gslot, g)] [p] w = x
  generalize hy : stepRowRing core g r m.row rel q x.2 b = y
  have htab : SameButTileTab core w y.2 :=
    (hx ▸ stepRings_sameButTileTab a r m.row rel core m.gslot g p w).trans
      (hy ▸ stepRowRing_sameButTileTab core g r m.row rel q x.2 b)
  refine ⟨chargeBudget 1 core (levelOf y.2 g) (if 20 < max (shapeWa r) (shapeWb r) then 2 else 1) y.2, x.1, y.1,
    htab.trans ⟨rfl, _, rfl⟩, ?_⟩
  unfold mmaStep
  simp only [hparts, hcols, List.all_cons, List.all_nil, Bool.and_true, List.zip_cons_cons, List.zip_nil_right, List.foldl_cons,
    List.foldl_nil]
  subst hy
  cases b with
  | ring first len =>
    simp only [hrow (not_sparesRow_ring col first len), Bool.and_false, Bool.false_eq_true, if_false, hw, hx]
    rfl
  | addr base stride =>
    by_cases h : col.all zeroWord = true
    · obtain ⟨rfl, rfl, rfl⟩ := hspared ((sparesRow_addr col base stride).mpr h)
      simp only [h, Bool.and_true, if_true, hw, hx]
      rfl
    · simp only [h, Bool.and_true, Bool.false_eq_true, if_false, hrow (fun hs => h ((sparesRow_addr col base stride).mp hs)), hw, hx]
      rfl

theorem execMmaRetire_of_runsAlone {core : Nat} {s : State} {m : MCommand} {a b : MOperand} {r : BitVec 64} {sat rel : Bool}
    (h : runsAlone core s m 2) (hk : m.kind = .mma a b r sat rel) : exec (.mmaRetire core) s = .next (
      if shapeK r ≤ m.row then retireCmd core m s
      else if heldForSave s core m.ctx (getCore s core).mqueue.length || !cmdBudget s core m then s
      else mmaStep core m a b r rel s) := by
  change execMmaRetire core s = _
  rw [execMmaRetire, runningCmd_of_runsAlone h]
  · simp only [hk]
  · rw [hk]

theorem mmaRetire_steps (core : Nat) (m : MCommand) (a b : MOperand) (r : BitVec 64) (sat rel : Bool) (g : Group)
    (col : List OpWord) (p : RingPos) (u : State) (row : List OpWord) (q : RingPos) (v : State) : Moves (.mmaRetire core)
    (fun s => runsAlone core s m 2 ∧ m.kind = .mma a b r sat rel ∧ m.row < shapeK r ∧
      (cmdParts s core m = [(core, m.gslot, g)] ∧ cmdBudget s core m = true) ∧
      heldForSave s core m.ctx (getCore s core).mqueue.length = false ∧
      readStep core g m a true (shapeWa r) (shapeRows r) 128 (shapeK r) m.row 0 (m.ringA.headD {}) s = (.words col, p, u) ∧
      (sparesRow col b → row = [] ∧ q = m.ringB ∧ v = u) ∧
      (¬ sparesRow col b →
        readStep core g m b false (shapeWb r) (shapeCols r) 256 (shapeK r) m.row 0 m.ringB u = (.words row, q, v)))
    (fun _ t => accTile t core (physTile g m) = addStep col row (accTile v core (physTile g m)) ∧
      (∀ n, n ≠ physTile g m → accTile t core n = accTile v core n) ∧ t.mem = v.mem ∧
      (getCore t core).scratch = (getCore v core).scratch ∧
      cmdRows core t = (cmdRows core v).map (fun x => if x.1 = m.id then (m.id, m.row + 1) else x)) := by
  intro s ⟨hruns, hk, hlt, ⟨hparts, hbudget⟩, hsave, hcol, hspared, hrow⟩
  obtain ⟨z, ps, q', htab, hstep⟩ := mmaStep_adds rel hparts hcol hspared hrow
  obtain ⟨l, hz⟩ := htab.core
  have hexec : exec (.mmaRetire core) s = .next (mmaStep core m a b r rel s) := by
    rw [execMmaRetire_of_runsAlone hruns hk, if_neg (Nat.not_le.mpr hlt), hsave, hbudget]
    rfl
  have hacc (n : Nat) : accTile (mmaStep core m a b r rel s) core n =
      accTile (modAcc core (physTile g m) (addStep col row) v) core n :=
    accTile_of_acc (by rw [hstep, passRow, getCore_modCmd, getCore_modCmd, hz]) n
  refine ⟨_, hexec, (hacc _).trans (accTile_modAcc_same _ _ _ _), fun n hn => (hacc n).trans (accTile_modAcc_ne _ _ _ _ hn), ?_, ?_, ?_⟩
  · rw [hstep]
    exact htab.mem
  · rw [hstep, passRow, getCore_modCmd, getCore_modCmd, hz, getCore_modAcc]
  · have hv : cmdRows core z = cmdRows core v := cmdRows_of_mrun (by rw [hz, getCore_modAcc])
    rw [hstep, cmdRows_passRow]
    refine congrArg (List.map _) ((cmdRows_modCmd_of_kept ?_ z).trans hv)
    exact fun _ => rfl

theorem mmaRetire_ends (core : Nat) (m : MCommand) (a b : MOperand) (r : BitVec 64) (sat rel : Bool) : Moves (.mmaRetire core)
    (fun s => runsAlone core s m 2 ∧ m.kind = .mma a b r sat rel ∧ shapeK r ≤ m.row) (fun s t => commandEnds core m s t) := by
  intro s ⟨hruns, hk, hle⟩
  refine ⟨retireCmd core m s, ?_, retireCmd_ends (scope_of_runsAlone hruns) rfl rfl rfl⟩
  rw [execMmaRetire_of_runsAlone hruns hk, if_pos hle]

end Sys2Proof.Machine
end

section
/-! SUPPORT. Drains of accumulator tiles: a unit, the reports of its elements, and the steps of the engine (07 R161, R167 to
R169, 06 R140). -/

namespace Sys2Proof.Machine

/-! ## The reports of an element (06 R140, 14 R303) -/

theorem reportLost_recorded (core tile elem ctx : Nat) (task : Option Group) (record : Bool) (s : State) :
    Recorded s (reportLost core tile elem ctx task record s) := by
  unfold reportLost
  dsimp only
  split
  · exact ((recorded_setReg64 s offContainLog _ (by decide) (by decide)).trans (raiseIrq_recorded 2 _)).trans
      (writeEvent_recorded _ _ _ _ _ _)
  · exact (recorded_setReg64 s offContainLog _ (by decide) (by decide)).trans (raiseIrq_recorded 2 _)

/-- What reports leave alone: the cores and the welts. -/
structure Reported (s t : State) : Prop where
  cores : t.cores = s.cores
  welts : t.welts = s.welts
  tripped : t.tripped = s.tripped

theorem Reported.refl (s : State) : Reported s s := ⟨rfl, rfl, rfl⟩

theorem Reported.trans {a b c : State} (h : Reported a b) (k : Reported b c) : Reported a c :=
  ⟨k.cores.trans h.cores, k.welts.trans h.welts, k.tripped.trans h.tripped⟩

theorem Recorded.reported {s t : State} (h : Recorded s t) : Reported s t :=
  ⟨h.keeps State.cores, h.keeps State.welts, h.keeps State.tripped⟩

theorem setReg32_reported (s : State) (off : Nat) (v : Word) : Reported s (setReg32 s off v) := ⟨rfl, rfl, rfl⟩

theorem reportFixed_reported (core tile j fixed recv : Nat) (s : State) : Reported s (reportFixed core tile j fixed recv s) := by
  unfold reportFixed
  exact (((setReg32_reported _ _ _).trans (setReg32_reported _ _ _)).trans (setReg32_reported _ _ _)).trans
    (raiseIrq_recorded 2 _).reported

theorem mem_reportFixed (core tile j fixed recv : Nat) (s : State) : (reportFixed core tile j fixed recv s).mem = s.mem := by
  have raised (n : Nat) (t : State) : (raiseIrq n t).mem = t.mem := rfl
  unfold reportFixed
  exact (raised 2 _).trans ((setReg32_mem _ _ _).trans (setReg64_mem _ _ _))

theorem reportElem_reported (core tile ctx : Nat) (task : Option Group) (x : Drained) (r : Bool × State) :
    Reported r.2 (reportElem core tile ctx task x r).2 := by
  unfold reportElem
  split
  · exact reportFixed_reported _ _ _ _ _ _
  · exact (reportLost_recorded _ _ _ _ _ _ _).reported
  · exact .refl _

theorem mem_reportElem {x : Drained} (h : x.verdict ≠ .uncorrectable) (core tile ctx : Nat) (task : Option Group) (r : Bool × State) :
    (reportElem core tile ctx task x r).2.mem = r.2.mem := by
  unfold reportElem
  split
  · exact mem_reportFixed _ _ _ _ _ _
  next hv => exact absurd hv h
  · rfl

/-- The reports of a unit's elements, in their order. -/
def reportUnit (core tile ctx : Nat) (task : Option Group) (xs : List Drained) (r : Bool × State) : Bool × State :=
  xs.foldl (fun r x => reportElem core tile ctx task x r) r

theorem reportUnit_reported (core tile ctx : Nat) (task : Option Group) (xs : List Drained) (r : Bool × State) :
    Reported r.2 (reportUnit core tile ctx task xs r).2 :=
  List.foldlRecOn (motive := fun t : Bool × State => Reported r.2 t.2) xs _ (.refl _) fun (t : Bool × State) h x _ =>
    h.trans (reportElem_reported core tile ctx task x t)

theorem mem_reportUnit {xs : List Drained} (h : ∀ x ∈ xs, x.verdict ≠ .uncorrectable) (core tile ctx : Nat) (task : Option Group)
    (r : Bool × State) : (reportUnit core tile ctx task xs r).2.mem = r.2.mem :=
  observe_foldl_other (obs := fun t : Bool × State => t.2.mem)
    (fun x hx (t : Bool × State) => mem_reportElem (h x hx) core tile ctx task t) r

/-! ## A unit (07 R168) -/

theorem weltDelivers_congr {s t : State} (hw : t.welts = s.welts) (ht : t.tripped = s.tripped) : weltDelivers t = weltDelivers s := by
  funext j e r
  simp only [weltDelivers, hw, ht]

/-- Two tiles hold the same elements under the same certificate. -/
structure SameElements (a b : AccTile) : Prop where
  elems : b.elems = a.elems
  unspec : b.unspec = a.unspec
  stale : b.stale = a.stale
  cert : b.cert = a.cert

theorem SameElements.elem {a b : AccTile} (h : SameElements a b) (e : Nat) : b.elem e = a.elem e := by
  simp only [AccTile.elem, h.elems, h.unspec]

/-- An element is drained alike where the welts deliver alike. -/
theorem drainElem_congr {s t : State} (hw : t.welts = s.welts) (ht : t.tripped = s.tripped) {a b : AccTile}
    (h : SameElements a b) (e : Nat) : drainElem t b e = drainElem s a e := by
  simp only [drainElem, delivered, weltDelivers_congr hw ht, h.elem, h.stale, h.cert]

/-- A drain a number of elements further, with what its steps set anew. -/
def drainAt (m : MCommand) (k : Nat) (rep : Bool) (peer : Option Nat) (refs : List PageRef) : MCommand :=
  { m with row := m.row + k, reported := rep, peer := peer, refs := refs }

/-- The elements of the unit of a drain's core at an element, and what they become. -/
def unitElements (s : State) (core : Nat) (g : Group) (m : MCommand) (d : BitVec 256) (elem : Nat) : List Drained :=
  (List.range (unitElems (dFmt d))).map (fun n => drainElem s (accTile s core (physTile g m)) (elem + n))
def unitOuts (s : State) (core : Nat) (g : Group) (d : BitVec 256) (xs : List Drained) : List OutElem :=
  if dFmt d == 7 then [] else xs.map (convertDrain s core g d)

/-- What the write of the unit of a drain of core scope comes to. -/
def unitPut (core : Nat) (g : Group) (m : MCommand) (d : BitVec 256) (elem : Nat) (s : State) : Put × State :=
  let xs := unitElements s core g m d elem
  let out := unitOutput (dFmt d) xs (unitOuts s core g d xs)
  writeUnit core core m.gslot g m d (unitPlace d 0 elem) out.1 out.2 s

/-- A unit that is written is reported, and the command goes on behind it. -/
theorem drainUnit_done {core : Nat} {m : MCommand} {g : Group} {d : BitVec 256} {s u : State} {elem : Nat}
    (hparts : cmdParts s core m = [(core, m.gslot, g)]) (hd : m.descs = [d]) (hput : unitPut core g m d elem s = (.done, u)) :
    ∃ task refs, let xs := unitElements s core g m d elem
      let v := reportUnit core (physTile g m) m.ctx task xs
        (m.reported, modAcc core (physTile g m) (statusOf xs (unitOuts s core g d xs)) u)
      let m' := drainAt m (unitElems (dFmt d)) v.1 none refs
      drainUnit core m 0 elem s = (some m', modCmd core m' (fun _ => m') v.2) := by
  have hdesc : m.descs.getD 0 0 = d := by rw [hd, List.getD_cons_zero]
  simp only [unitPut] at hput
  simp only [drainUnit, hparts, hdesc, List.getElem?_cons_zero]
  rw [unitElements, unitOuts] at hput ⊢
  rw [hput]
  exact ⟨if g.held then some g else none, _, rfl⟩

theorem drainUnit_full {core : Nat} {m : MCommand} {g : Group} {d : BitVec 256} {s u : State} {elem : Nat}
    (hparts : cmdParts s core m = [(core, m.gslot, g)]) (hd : m.descs = [d]) (hput : unitPut core g m d elem s = (.full, u)) :
    drainUnit core m 0 elem s = (none, u) := by
  have hdesc : m.descs.getD 0 0 = d := by rw [hd, List.getD_cons_zero]
  simp only [unitPut] at hput
  simp only [drainUnit, hparts, hdesc, List.getElem?_cons_zero]
  rw [unitElements, unitOuts] at hput
  rw [hput]
  rfl

end Sys2Proof.Machine
end

section
/-! SUPPORT. Drains of 64 elements to scratchpad (07 R168, R169). -/

namespace Sys2Proof.Machine

/-- A drain to scratchpad of single elements that no band scales. -/
structure PlainDrain (d : BitVec 256) : Prop where
  sp : dSp d = true
  band : dBand d = false
  fmt : dFmt d ∈ [0, 1, 2, 3, 4, 5, 8]

theorem PlainDrain.unitElems {d : BitVec 256} (h : PlainDrain d) : unitElems (dFmt d) = 1 := by
  have hall : ∀ f ∈ [0, 1, 2, 3, 4, 5, 8], Machine.unitElems f = 1 := by decide
  exact hall _ h.fmt

theorem PlainDrain.single {d : BitVec 256} (h : PlainDrain d) : dFmt d ≠ 6 ∧ dFmt d ≠ 7 := by
  have hall : ∀ f ∈ [0, 1, 2, 3, 4, 5, 8], f ≠ 6 ∧ f ≠ 7 := by decide
  exact hall _ h.fmt

theorem PlainDrain.unitOuts {d : BitVec 256} (h : PlainDrain d) (s : State) (core : Nat) (g : Group) (xs : List Drained) :
    unitOuts s core g d xs = xs.map (convertDrain s core g d) := by
  simp [Machine.unitOuts, h.single]

theorem PlainDrain.unitOutput {d : BitVec 256} (h : PlainDrain d) (xs : List Drained) (outs : List OutElem) :
    unitOutput (dFmt d) xs outs = (outs.flatMap (fun o => natToBytes (unitBytes (dFmt d)) o.code), []) := by
  simp [Machine.unitOutput, h.single]

theorem PlainDrain.unitElements {d : BitVec 256} (h : PlainDrain d) (s : State) (core : Nat) (g : Group) (m : MCommand) (elem : Nat) :
    unitElements s core g m d elem = [drainElem s (accTile s core (physTile g m)) elem] := by
  simp [Machine.unitElements, h.unitElems]

theorem convertDrain_congr {d : BitVec 256} (h : dBand d = false) (s t : State) (core : Nat) (g : Group) :
    convertDrain t core g d = convertDrain s core g d := by
  funext x
  simp [convertDrain, h]

theorem PlainDrain.place {d : BitVec 256} (h : PlainDrain d) (row : Nat) :
    (unitPlace d 0 row).1 = dDst d + row / 256 * dRow d + row % 256 * unitBytes (dFmt d) := by
  simp [unitPlace, h.sp, h.unitElems]

/-- The elements of 64 follow one another. -/
theorem PlainDrain.place_add {d : BitVec 256} (h : PlainDrain d) {row k : Nat} (hrow : 64 ∣ row) (hk : k < 64) :
    (unitPlace d 0 (row + k)).1 = (unitPlace d 0 row).1 + k * unitBytes (dFmt d) := by
  have hdiv : (row + k) / 256 = row / 256 := by omega
  have hmod : (row + k) % 256 = row % 256 + k := by omega
  rw [h.place, h.place, hdiv, hmod, Nat.add_mul, ← Nat.add_assoc]

theorem memWriteBytes_append (xs ys : List Byte) (m : Memory) (a : Nat) :
    memWriteBytes m a (xs ++ ys) = memWriteBytes (memWriteBytes m a xs) (a + xs.length) ys := by
  induction xs generalizing m a with
  | nil => rfl
  | cons x xs ih =>
    rw [List.cons_append, memWriteBytes, ih, memWriteBytes, List.length_cons, Nat.add_assoc, Nat.add_comm 1]

theorem statusOf_nil (t : AccTile) : statusOf [] [] t = t := by
  simp [statusOf]

theorem statusOf_append (xs ys : List Drained) (a b : List OutElem) (t : AccTile) :
    statusOf ys b (statusOf xs a t) = statusOf (xs ++ ys) (a ++ b) t := by
  simp only [statusOf, List.any_append, AccTile.mk.injEq, Bool.or_assoc, true_and, and_true]
  ac_rfl

theorem statusOf_sameElements (xs : List Drained) (outs : List OutElem) (t : AccTile) : SameElements t (statusOf xs outs t) :=
  ⟨rfl, rfl, rfl, rfl⟩

/-- The first elements that a drain comes to, and what they become. -/
def nextElements (core : Nat) (g : Group) (m : MCommand) (s : State) (k : Nat) : List Drained :=
  (List.range k).map (fun j => drainElem s (accTile s core (physTile g m)) (m.row + j))

def nextOuts (core : Nat) (g : Group) (m : MCommand) (d : BitVec 256) (s : State) (k : Nat) : List OutElem :=
  (nextElements core g m s k).map (convertDrain s core g d)

/-- The bytes of the elements that a drain to scratchpad comes to. -/
def nextBytes (core : Nat) (g : Group) (m : MCommand) (d : BitVec 256) (s : State) (k : Nat) : List Byte :=
  (nextOuts core g m d s k).flatMap (fun o => natToBytes (unitBytes (dFmt d)) o.code)

theorem nextElements_succ (core : Nat) (g : Group) (m : MCommand) (s : State) (k : Nat) :
    nextElements core g m s (k + 1) =
      nextElements core g m s k ++ [drainElem s (accTile s core (physTile g m)) (m.row + k)] := by
  simp [nextElements, List.range_succ]

theorem nextOuts_succ (core : Nat) (g : Group) (m : MCommand) (d : BitVec 256) (s : State) (k : Nat) :
    nextOuts core g m d s (k + 1) = nextOuts core g m d s k ++
      [convertDrain s core g d (drainElem s (accTile s core (physTile g m)) (m.row + k))] := by
  simp [nextOuts, nextElements_succ]

theorem nextBytes_succ (core : Nat) (g : Group) (m : MCommand) (d : BitVec 256) (s : State) (k : Nat) :
    nextBytes core g m d s (k + 1) = nextBytes core g m d s k ++ natToBytes (unitBytes (dFmt d))
      (convertDrain s core g d (drainElem s (accTile s core (physTile g m)) (m.row + k))).code := by
  simp [nextBytes, nextOuts_succ]

theorem length_nextBytes (core : Nat) (g : Group) (m : MCommand) (d : BitVec 256) (s : State) (k : Nat) :
    (nextBytes core g m d s k).length = k * unitBytes (dFmt d) := by
  induction k with
  | zero => simp [nextBytes, nextOuts, nextElements]
  | succ k ih => rw [nextBytes_succ, List.length_append, ih, length_natToBytes, Nat.succ_mul]

theorem getD_nextBytes (core : Nat) (g : Group) (m : MCommand) (d : BitVec 256) (s : State) {j k b : Nat} (hj : j < k)
    (hb : b < unitBytes (dFmt d)) : (nextBytes core g m d s k).getD (j * unitBytes (dFmt d) + b) 0 =
      (natToBytes (unitBytes (dFmt d))
        (convertDrain s core g d (drainElem s (accTile s core (physTile g m)) (m.row + j))).code).getD b 0 := by
  have hlen := length_nextBytes core g m d s
  induction k with
  | zero => exact absurd hj (Nat.not_lt_zero j)
  | succ k ih =>
    rw [nextBytes_succ]
    rcases Nat.lt_succ_iff_lt_or_eq.mp hj with h | rfl
    · rw [List.getD_append _ _ _ _ ?_, ih h]
      rw [hlen]
      calc j * unitBytes (dFmt d) + b < (j + 1) * unitBytes (dFmt d) := by rw [Nat.succ_mul]; omega
        _ ≤ k * unitBytes (dFmt d) := Nat.mul_le_mul_right _ h
    · rw [List.getD_append_right _ _ _ _ (by rw [hlen]; omega), hlen, Nat.add_sub_cancel_left]

/-- A byte of an element, where the elements are written. -/
theorem memRead_nextBytes (core : Nat) (g : Group) (m : MCommand) (d : BitVec 256) (s : State) (w : Memory) (a : Nat) {j k b : Nat}
    (hj : j < k) (hb : b < unitBytes (dFmt d)) :
    memRead (memWriteBytes w a (nextBytes core g m d s k)) (a + j * unitBytes (dFmt d) + b) =
      (natToBytes (unitBytes (dFmt d))
        (convertDrain s core g d (drainElem s (accTile s core (physTile g m)) (m.row + j))).code).getD b 0 := by
  rw [Nat.add_assoc, memRead_memWriteBytes_inside, getD_nextBytes _ _ _ _ _ hj hb]
  rw [length_nextBytes]
  calc j * unitBytes (dFmt d) + b < (j + 1) * unitBytes (dFmt d) := by rw [Nat.succ_mul]; omega
    _ ≤ k * unitBytes (dFmt d) := Nat.mul_le_mul_right _ hj

/-! ## What a written unit comes to -/

/-- Of the state in which a unit's bytes are written, its tile's status bits and the command have changed, and reports may have
been made. -/
structure UnitDone (core tile : Nat) (xs : List Drained) (outs : List OutElem) (u : State) (m : MCommand) (t : State) : Prop where
  core : getCore t core = { getCore u core with
    mrun := (getCore u core).mrun.map (fun x => if x.id == m.id then m else x),
    acc := mapSet (getCore u core).acc tile (statusOf xs outs (accTile u core tile)) }
  welts : t.welts = u.welts
  tripped : t.tripped = u.tripped
  mem : (∀ x ∈ xs, x.verdict ≠ .uncorrectable) → t.mem = u.mem

theorem drainUnit_unitDone {core : Nat} {m : MCommand} {g : Group} {d : BitVec 256} {s u : State} {elem : Nat}
    (hparts : cmdParts s core m = [(core, m.gslot, g)]) (hd : m.descs = [d]) (hput : unitPut core g m d elem s = (.done, u)) :
    ∃ rep refs t, drainUnit core m 0 elem s = (some (drainAt m (unitElems (dFmt d)) rep none refs), t) ∧
      UnitDone core (physTile g m) (unitElements s core g m d elem) (unitOuts s core g d (unitElements s core g m d elem)) u
        (drainAt m (unitElems (dFmt d)) rep none refs) t := by
  obtain ⟨task, refs, hunit⟩ := drainUnit_done hparts hd hput
  simp only at hunit
  generalize unitElements s core g m d elem = xs at hunit ⊢
  generalize unitOuts s core g d xs = outs at hunit ⊢
  generalize hv : reportUnit core (physTile g m) m.ctx task xs (m.reported, modAcc core (physTile g m) (statusOf xs outs) u) = v
    at hunit
  obtain ⟨hcores, hwelts, htripped⟩ := hv ▸ reportUnit_reported core (physTile g m) m.ctx task xs
    (m.reported, modAcc core (physTile g m) (statusOf xs outs) u)
  refine ⟨v.1, refs, _, hunit, ?_, hwelts, htripped, fun hx => ?_⟩
  · rw [getCore_modCmd, getCore, hcores, ← getCore, getCore_modAcc]
  · rw [mem_modCmd, ← hv]
    exact mem_reportUnit hx core (physTile g m) m.ctx task _

section
variable {core tile : Nat} {xs : List Drained} {outs : List OutElem} {u t : State} {m : MCommand}
  (h : UnitDone core tile xs outs u m t)
include h

theorem UnitDone.accTile_same : accTile t core tile = statusOf xs outs (accTile u core tile) := by
  rw [accTile, h.core]
  exact mapGet_mapSet_same _ _ _ _

theorem UnitDone.rows : cmdRows core t = (cmdRows core u).map (fun x => if x.1 = m.id then (m.id, m.row) else x) := by
  have hm : cmdRows core t = cmdRows core (modCmd core m (fun _ => m) u) := cmdRows_of_mrun (by rw [h.core, getCore_modCmd])
  refine hm.trans (cmdRows_modCmd ?_ ?_ u)
  · exact fun _ _ => rfl
  · exact fun _ => rfl

theorem UnitDone.getGroup (gslot : Nat) : getGroup t core gslot = getGroup u core gslot := by
  rw [Machine.getGroup, h.core]
  rfl

end

/-! ## The invariant of the loop -/

/-- The drain `m` of a core has, from the state `s`, written and judged `k` elements, and stands as `m'` in the state `t`. -/
structure DrainedTo (core : Nat) (g : Group) (m : MCommand) (d : BitVec 256) (s : State) (k : Nat) (m' : MCommand) (t : State) :
    Prop where
  cmd : ∃ rep peer refs, m' = drainAt m k rep peer refs
  run : (getCore t core).mrun = [m']
  group : getGroup t core m.gslot = some g
  scratch : (getCore t core).scratch =
    memWriteBytes (getCore s core).scratch (g.sbase + (unitPlace d 0 m.row).1) (nextBytes core g m d s k)
  tile : accTile t core (physTile g m) =
    statusOf (nextElements core g m s k) (nextOuts core g m d s k) (accTile s core (physTile g m))
  welts : t.welts = s.welts
  tripped : t.tripped = s.tripped
  mem : (∀ x ∈ nextElements core g m s k, x.verdict ≠ .uncorrectable) → t.mem = s.mem

theorem drainedTo_start {core : Nat} {g : Group} {m : MCommand} {s : State} (hrun : (getCore s core).mrun = [m])
    (hg : getGroup s core m.gslot = some g) (d : BitVec 256) (level : Nat) :
    DrainedTo core g m d s 0 m (chargeBudget 1 core level 1 s) :=
  ⟨⟨_, _, _, rfl⟩, hrun, hg, rfl, (statusOf_nil _).symm, rfl, rfl, fun _ => rfl⟩

/-- Of a core, writes to scratchpad change the scratchpad alone. -/
theorem getCore_scratchWrite (core : Nat) (g : Group) (off : Nat) (bs : List Byte) (s : State) :
    getCore (scratchWrite core g off bs s) core =
      { getCore s core with scratch := memWriteBytes (getCore s core).scratch (g.sbase + off) bs } := getCore_modCore_same _ _ _

/-- A unit to scratchpad is written at its place. -/
theorem unitPut_plain {d : BitVec 256} (h : PlainDrain d) (core : Nat) (g : Group) (m : MCommand) (elem : Nat) (s : State) :
    let bytes := natToBytes (unitBytes (dFmt d)) (convertDrain s core g d (drainElem s (accTile s core (physTile g m)) elem)).code
    ∃ u, unitPut core g m d elem s = (.done, u) ∧ u.welts = s.welts ∧ u.tripped = s.tripped ∧ u.mem = s.mem ∧
      getCore u core = { getCore s core with
        scratch := memWriteBytes (getCore s core).scratch (g.sbase + (unitPlace d 0 elem).1) bytes } := by
  intro bytes
  refine ⟨scratchWrite core g (unitPlace d 0 elem).2 [] (scratchWrite core g (unitPlace d 0 elem).1 bytes s), ?_, rfl, rfl, rfl, ?_⟩
  · simp only [unitPut, h.unitElements, h.unitOuts, h.unitOutput, writeUnit, h.sp, if_true, List.map_cons, List.map_nil,
      List.flatMap_cons, List.flatMap_nil, List.append_nil]
    rfl
  · rw [getCore_scratchWrite, getCore_scratchWrite]
    rfl

/-- The next element is written and judged. -/
theorem drainedTo_succ {core : Nat} {g : Group} {m : MCommand} {d : BitVec 256} {s : State} {k : Nat} {m' : MCommand} {t : State}
    (hd : PlainDrain d) (hscope : m.scope = 0) (hdescs : m.descs = [d]) (hrow : 64 ∣ m.row) (hk : k < 64)
    (h : DrainedTo core g m d s k m' t) :
    ∃ m'' t', drainUnit core m' 0 m'.row t = (some m'', t') ∧ DrainedTo core g m d s (k + 1) m'' t' := by
  obtain ⟨⟨rep, peer, refs, rfl⟩, hrun, hgroup, hscratch, htile, hwelts, htripped, hmem⟩ := h
  have hsame : SameElements (accTile s core (physTile g m)) (accTile t core (physTile g m)) := htile ▸ statusOf_sameElements _ _ _
  have hx : drainElem t (accTile t core (physTile g (drainAt m k rep peer refs))) (m.row + k) =
    drainElem s (accTile s core (physTile g m)) (m.row + k) := drainElem_congr hwelts htripped hsame (m.row + k)
  have hconv := convertDrain_congr hd.band s t core g
  obtain ⟨u, hput, huw, hut, hum, huc⟩ := unitPut_plain hd core g (drainAt m k rep peer refs) (m.row + k) t
  obtain ⟨rep', refs', t', hunit, hdone⟩ := drainUnit_unitDone (m := drainAt m k rep peer refs)
    (cmdParts_of_group hscope hgroup) hdescs hput
  rw [hd.unitElements, hx, hd.unitOuts, List.map_cons, List.map_nil, hconv, hd.unitElems] at hdone
  rw [hx, hconv] at huc
  refine ⟨_, t', hunit, ⟨rep', none, refs', ?_⟩, ?_, ?_, ?_, ?_, hdone.welts.trans (huw.trans hwelts),
    hdone.tripped.trans (hut.trans htripped), fun hv => ?_⟩
  · rw [hd.unitElems]
    rfl
  · rw [hdone.core, huc, hrun, hd.unitElems]
    simp [drainAt]
  · rw [hdone.getGroup, getGroup, huc]
    exact hgroup
  · rw [hdone.core, huc, hscratch, nextBytes_succ, memWriteBytes_append, length_nextBytes, hd.place_add hrow hk, Nat.add_assoc]
  · have htu : accTile u core (physTile g m) = accTile t core (physTile g m) := accTile_of_acc (by rw [huc]) _
    rw [nextElements_succ, nextOuts_succ, ← statusOf_append, ← htile, ← htu]
    exact hdone.accTile_same
  · rw [nextElements_succ] at hv
    exact (hdone.mem fun x hx => hv x (List.mem_append_right _ hx)).trans
      (hum.trans (hmem fun x hx => hv x (List.mem_append_left _ hx)))

end Sys2Proof.Machine
end

section
/-! SUPPORT. The steps of a drain of core scope (07 R161, R168). -/

namespace Sys2Proof.Machine

/-- A drain of core scope has one core at the most. -/
theorem cores_of_scope {core : Nat} {m : MCommand} (hs : m.scope = 0) (s : State) :
    max (drainOrder s (cmdParts s core m)).length 1 = 1 := by
  simp only [cmdParts, scopeParts, hs, beq_self_eq_true, if_true]
  split <;> rfl

/-- The state behind 64 elements of a drain, which retires when they were its last. -/
def drainBehind (core : Nat) (m : MCommand) (s : State) : State := if m.row < 32768 then s else retireCmd core m s

section
variable {core target fuel : Nat} {m : MCommand} {s : State} (hs : m.scope = 0)
include hs

theorem drainUnits_retires (h : 32768 ≤ m.row) : drainUnits core target (fuel + 1) m s = retireCmd core m s := by
  simp only [drainUnits, cores_of_scope hs, Nat.mul_one, if_pos h]

theorem drainUnits_behind (h : target ≤ m.row) : drainUnits core target (fuel + 1) m s = drainBehind core m s := by
  rw [drainBehind]
  split
  next hlt => simp only [drainUnits, cores_of_scope hs, Nat.mul_one, if_neg (Nat.not_le.mpr hlt), if_pos h]
  next hlast => exact drainUnits_retires hs (Nat.not_lt.mp hlast)

theorem mem_drainBehind : (drainBehind core m s).mem = s.mem := by
  rw [drainBehind]
  split
  · rfl
  · exact mem_retireCmd hs s

theorem accTile_drainBehind (n : Nat) : accTile (drainBehind core m s) core n = accTile s core n := by
  rw [drainBehind]
  split
  · rfl
  · exact accTile_retireCmd hs s n

theorem scratch_drainBehind : (getCore (drainBehind core m s) core).scratch = (getCore s core).scratch := by
  rw [drainBehind]
  split
  · rfl
  · rw [getCore_retireCmd hs]

/-- The only core of a drain comes to the unit at its row. -/
theorem drainUnits_drains (hlt : m.row < 32768) (h : m.row < target) : drainUnits core target (fuel + 1) m s =
    (drainUnit core m 0 m.row s).1.elim (drainUnit core m 0 m.row s).2
      (fun m' => drainUnits core target fuel m' (drainUnit core m 0 m.row s).2) := by
  have hplace : drainPlace 1 m.row = (0, m.row) := by
    rw [drainPlace, Nat.mod_one, Nat.div_one, Nat.div_add_mod' m.row 64]
  have hfirst : (drainOrder s (cmdParts s core m)).getD 0 0 = 0 := by
    simp only [cmdParts, scopeParts, hs, beq_self_eq_true, if_true]
    split <;> rfl
  simp only [drainUnits, cores_of_scope hs, hplace, hfirst, Nat.mul_one, if_neg (Nat.not_le.mpr hlt), if_neg (Nat.not_le.mpr h)]
  rcases drainUnit core m 0 m.row s with ⟨_ | _, _⟩ <;> rfl

end

/-- The step of the engine on a drain of its own. -/
theorem exec_drainComplete {core : Nat} {m : MCommand} {g : Group} {s : State} (h : runsAlone core s m 4)
    (hparts : cmdParts s core m = [(core, m.gslot, g)]) (hbudget : cmdBudget s core m = true) : exec (.drainComplete core) s =
      .next (drainUnits core ((m.row / 64 + 1) * 64) 65 m (chargeBudget 1 core (levelOf s g) 1 s)) := by
  have hrunning := runningCmd_of_runsAlone h (fun k => kindCode k == 4) (by rw [kindCode_of_runsAlone h]; rfl)
  have hon : drainOn s core = some (core, m) := by
    simp only [drainOn, hrunning]
    rfl
  have hplace : (drainPlace 1 m.row).1 = 0 := Nat.mod_one _
  have hone := cores_of_scope (core := core) (scope_of_runsAlone h) s
  rw [hparts] at hone
  have hfirst : (drainOrder s [(core, m.gslot, g)]).getD 0 0 = 0 := rfl
  change execDrainComplete core s = _
  simp only [execDrainComplete, hon, hparts, hone, hplace, hfirst, List.getElem?_cons_zero, beq_self_eq_true, hbudget,
    Bool.and_true, if_true]

theorem drainComplete_ends (core : Nat) (m : MCommand) (g : Group) : Moves (.drainComplete core)
    (fun s => runsAlone core s m 4 ∧ (cmdParts s core m = [(core, m.gslot, g)] ∧ cmdBudget s core m = true) ∧ 32768 ≤ m.row)
    (fun s t => commandEnds core m s t) := by
  intro s ⟨hruns, ⟨hparts, hbudget⟩, hrow⟩
  have hexec := exec_drainComplete hruns hparts hbudget
  rw [drainUnits_retires (scope_of_runsAlone hruns) hrow] at hexec
  exact ⟨_, hexec, retireCmd_ends (scope_of_runsAlone hruns) rfl rfl rfl⟩

/-! ## A write that finds no room -/

/-- The write of an element of 32 bits to memory. -/
theorem unitPut_int32 {d : BitVec 256} (hsp : dSp d = false) (hfmt : dFmt d = 2) (core : Nat) (g : Group) (m : MCommand) (row : Nat)
    (s : State) : unitPut core g m d row s = cmdWrite core core m.gslot g m
      [(dDst d + row / 256 * dRow d + row % 256 * 4,
        natToBytes 4 (convertDrain s core g d (drainElem s (accTile s core (physTile g m)) row)).code)] s := by
  have hper : unitElems 2 = 1 := rfl
  have hxs : unitElements s core g m d row = [drainElem s (accTile s core (physTile g m)) row] := by
    simp [unitElements, hfmt, hper]
  have houts (x : Drained) : unitOuts s core g d [x] = [convertDrain s core g d x] := by simp [unitOuts, hfmt]
  have hout (x : Drained) (o : OutElem) : unitOutput 2 [x] [o] = (natToBytes 4 o.code, []) := by
    simp [unitOutput, unitBytes]
  have hplace : (unitPlace d 0 row).1 = dDst d + row / 256 * dRow d + row % 256 * 4 := by
    simp [unitPlace, hsp, hfmt, hper, unitBytes]
  simp only [unitPut, writeUnit, hsp, hplace, hxs, houts, hfmt, hout, List.isEmpty_nil, if_true, Bool.false_eq_true, if_false]

/-- A drain whose write finds no room stays as it is. -/
theorem drainComplete_full (core : Nat) (m : MCommand) (d : BitVec 256) (g : Group) (u : State) : Moves (.drainComplete core)
    (fun s => runsAlone core s m 4 ∧ (cmdParts s core m = [(core, m.gslot, g)] ∧ cmdBudget s core m = true) ∧ m.descs = [d] ∧
      dSp d = false ∧ dFmt d = 2 ∧ m.row < 32768 ∧
      cmdWrite core core m.gslot g m [(dDst d + m.row / 256 * dRow d + m.row % 256 * 4,
        natToBytes 4 (convertDrain s core g d (drainElem s (accTile s core (physTile g m)) m.row)).code)]
        (chargeBudget 1 core (levelOf s g) 1 s) = (.full, u))
    (fun _ t => t = u) := by
  intro s ⟨hruns, ⟨hparts, hbudget⟩, hdescs, hsp, hfmt, hrow, hwrite⟩
  have hput := (unitPut_int32 hsp hfmt core g m m.row (chargeBudget 1 core (levelOf s g) 1 s)).trans hwrite
  have hunit := drainUnit_full (s := chargeBudget 1 core (levelOf s g) 1 s) hparts hdescs hput
  refine ⟨_, exec_drainComplete hruns hparts hbudget, ?_⟩
  rw [drainUnits_drains (scope_of_runsAlone hruns) hrow (by omega), hunit]
  rfl

/-! ## To scratchpad -/

theorem DrainedTo.row {core : Nat} {g : Group} {m m' : MCommand} {d : BitVec 256} {s t : State} {k : Nat}
    (h : DrainedTo core g m d s k m' t) : m'.row = m.row + k := by
  obtain ⟨_, _, _, rfl⟩ := h.cmd
  rfl

theorem DrainedTo.scope {core : Nat} {g : Group} {m m' : MCommand} {d : BitVec 256} {s t : State} {k : Nat}
    (h : DrainedTo core g m d s k m' t) : m'.scope = m.scope := by
  obtain ⟨_, _, _, rfl⟩ := h.cmd
  rfl

/-- The loop writes the elements that are left of the 64, and retires the drain when they were its last. -/
theorem drainUnits_drainedTo {core : Nat} {g : Group} {m : MCommand} {d : BitVec 256} {s : State} (hd : PlainDrain d)
    (hscope : m.scope = 0) (hdescs : m.descs = [d]) (hrow : 64 ∣ m.row) (hlt : m.row < 32768) (j : Nat) :
    ∀ {k : Nat} {m' : MCommand} {t : State}, k + j = 64 → DrainedTo core g m d s k m' t →
      ∃ m'' u, DrainedTo core g m d s 64 m'' u ∧ drainUnits core (m.row + 64) (j + 1) m' t = drainBehind core m'' u := by
  induction j with
  | zero =>
    intro k m' t hk h
    obtain rfl : k = 64 := hk
    exact ⟨m', t, h, drainUnits_behind (h.scope.trans hscope) h.row.ge⟩
  | succ j ih =>
    intro k m' t hk h
    have hr := h.row
    obtain ⟨m'', u, hunit, hnext⟩ := drainedTo_succ hd hscope hdescs hrow (by omega) h
    rw [drainUnits_drains (h.scope.trans hscope) (by omega) (by omega), hunit]
    exact ih (by omega) hnext

theorem any_or_any {α : Type} (l : List α) (p q : α → Bool) : (l.any p || l.any q) = l.any (fun x => p x || q x) := by
  induction l with
  | nil => rfl
  | cons x l ih =>
    simp only [List.any_cons, ← ih]
    ac_rfl

theorem drainComplete_scratch (core : Nat) (m : MCommand) (d : BitVec 256) (g : Group) : Moves (.drainComplete core)
    (fun s => runsAlone core s m 4 ∧ (cmdParts s core m = [(core, m.gslot, g)] ∧ cmdBudget s core m = true) ∧ m.descs = [d] ∧
      dSp d = true ∧ dBand d = false ∧ dFmt d ∈ [0, 1, 2, 3, 4, 5, 8] ∧ 64 ∣ m.row ∧ m.row < 32768)
    (fun s t =>
      let tile := accTile s core (physTile g m)
      let tile' := accTile t core (physTile g m)
      let x (k : Nat) := drainElem s tile (m.row + k)
      let o (k : Nat) := convertDrain s core g d (x k)
      let n := unitBytes (dFmt d)
      let first := g.sbase + dDst d + m.row / 256 * dRow d + m.row % 256 * n
      (∀ k b, k < 64 → b < n → memRead (getCore t core).scratch (first + k * n + b) = (natToBytes n (o k).code).getD b 0) ∧
      (∀ a, a < first ∨ first + 64 * n ≤ a → memRead (getCore t core).scratch a = memRead (getCore s core).scratch a) ∧
      (∀ e, tile'.elem e = tile.elem e) ∧ tile'.sat = (tile.sat || (List.range 64).any (fun k => (o k).sat)) ∧
      tile'.pois = (tile.pois || (List.range 64).any (fun k => (x k).val.isNone || (o k).poison)) ∧
      tile'.ovf = (tile.ovf || (List.range 64).any (fun k => (x k).verdict == .overflow)) ∧
      tile'.unc = (tile.unc || (List.range 64).any (fun k => (x k).verdict == .uncorrectable)) ∧
      ((∀ k, k < 64 → (x k).verdict ≠ .uncorrectable) → t.mem = s.mem) ∧
      cmdRows core t = if m.row + 64 < 32768 then [(m.id, m.row + 64)] else []) := by
  intro s ⟨hruns, ⟨hparts, hbudget⟩, hdescs, hsp, hband, hfmt, hrow, hlt⟩
  have hd : PlainDrain d := ⟨hsp, hband, hfmt⟩
  have hscope := scope_of_runsAlone hruns
  obtain ⟨hrun, -⟩ := id hruns
  have hstart := drainedTo_start hrun (getGroup_of_cmdParts hscope hparts) d (levelOf s g)
  obtain ⟨m', u, hu, hunits⟩ := drainUnits_drainedTo hd hscope hdescs hrow hlt 64 (Nat.zero_add 64) hstart
  have hexec := exec_drainComplete hruns hparts hbudget
  rw [show (m.row / 64 + 1) * 64 = m.row + 64 by omega, hunits] at hexec
  refine ⟨_, hexec, ?_⟩
  have hsc := hu.scope.trans hscope
  have hscratch := (scratch_drainBehind (core := core) hsc (s := u)).trans hu.scratch
  rw [hd.place, ← Nat.add_assoc, ← Nat.add_assoc] at hscratch
  have htile := (accTile_drainBehind (core := core) hsc (s := u) (physTile g m)).trans hu.tile
  refine ⟨fun k b hk hb => ?_, fun a ha => ?_, fun e => ?_, ?_, ?_, ?_, ?_, fun hx => ?_, ?_⟩
  · rw [hscratch]
    exact memRead_nextBytes core g m d s _ _ hk hb
  · rw [hscratch]
    exact memRead_memWriteBytes_outside _ _ _ _ (by rwa [length_nextBytes])
  · rw [htile]
    exact (statusOf_sameElements _ _ _).elem e
  · rw [htile]
    simp [statusOf, nextOuts, nextElements, Function.comp_def]
  · rw [htile]
    simp only [statusOf, nextOuts, nextElements, List.any_map, ← any_or_any, Function.comp_def]
    ac_rfl
  · rw [htile]
    simp [statusOf, nextElements, Function.comp_def]
  · rw [htile]
    simp [statusOf, nextElements, Function.comp_def]
  · refine (mem_drainBehind hsc).trans (hu.mem ?_)
    simpa [nextElements] using hx
  · rw [drainBehind, hu.row, cmdRows]
    split
    · rw [hu.run]
      obtain ⟨_, _, _, rfl⟩ := hu.cmd
      rfl
    · rw [getCore_retireCmd hsc, hu.run]
      simp

/-! ## An RP8 unit to memory -/

/-- A byte of a value's RP8 word, of poison the byte that no residue is. -/
def rp8Byte (j : Nat) : Option Int → Byte
  | some v => BitVec.ofNat 8 (residueOf j v)
  | none => 0xFF

theorem unitPut_rp8 {d : BitVec 256} (hsp : dSp d = false) (hfmt : dFmt d = 7) (core : Nat) (g : Group) (m : MCommand) (row : Nat)
    (s : State) : unitPut core g m d row s = cmdWrite core core m.gslot g m
      [(dDst d + row / 256 * dRow d + row % 256 / 64 * 512, (List.range 8).flatMap (fun j => (List.range 64).map (fun k =>
        rp8Byte j (drainElem s (accTile s core (physTile g m)) (row + k)).val)))] s := by
  have hout (xs : List Drained) : unitOutput 7 xs [] = ((List.range 8).flatMap (fun j => xs.map (fun x => rp8Byte j x.val)), []) := rfl
  have hplace : (unitPlace d 0 row).1 = dDst d + row / 256 * dRow d + row % 256 / 64 * 512 := by
    simp [unitPlace, hsp, hfmt, unitElems, unitBytes]
  have hper : unitElems 7 = 64 := rfl
  simp only [unitPut, writeUnit, hsp, hplace, unitElements, unitOuts, hfmt, beq_self_eq_true, if_true, hout, List.isEmpty_nil,
    hper, List.map_map, Function.comp_def, Bool.false_eq_true, if_false]

theorem drainComplete_rp8 (core : Nat) (m : MCommand) (d : BitVec 256) (g : Group) (u : State) : Moves (.drainComplete core)
    (fun s => runsAlone core s m 4 ∧ (cmdParts s core m = [(core, m.gslot, g)] ∧ cmdBudget s core m = true) ∧ m.descs = [d] ∧
      dSp d = false ∧ dFmt d = 7 ∧ 64 ∣ m.row ∧ m.row < 32768 ∧
      cmdWrite core core m.gslot g m [(dDst d + m.row / 256 * dRow d + m.row % 256 / 64 * 512,
        (List.range 8).flatMap (fun j => (List.range 64).map (fun k =>
          rp8Byte j (drainElem s (accTile s core (physTile g m)) (m.row + k)).val)))]
        (chargeBudget 1 core (levelOf s g) 1 s) = (.done, u))
    (fun s t =>
      ((∀ k, k < 64 → (drainElem s (accTile s core (physTile g m)) (m.row + k)).verdict ≠ .uncorrectable) → t.mem = u.mem) ∧
      (∀ e, (accTile t core (physTile g m)).elem e = (accTile u core (physTile g m)).elem e) ∧
      (m.row + 64 < 32768 → cmdRows core t = (cmdRows core u).map (fun x => if x.1 = m.id then (m.id, m.row + 64) else x))) := by
  intro s ⟨hruns, ⟨hparts, hbudget⟩, hdescs, hsp, hfmt, hrow, hlt, hwrite⟩
  have hput := (unitPut_rp8 hsp hfmt core g m m.row (chargeBudget 1 core (levelOf s g) 1 s)).trans hwrite
  obtain ⟨rep, refs, t, hunit, hdone⟩ := drainUnit_unitDone (s := chargeBudget 1 core (levelOf s g) 1 s) hparts hdescs hput
  have hexec := exec_drainComplete hruns hparts hbudget
  rw [show (m.row / 64 + 1) * 64 = m.row + 64 by omega, drainUnits_drains (scope_of_runsAlone hruns) hlt (by omega), hunit] at hexec
  have hper : unitElems (dFmt d) = 64 := by rw [hfmt]; rfl
  have hsc : (drainAt m 64 rep none refs).scope = 0 := (scope_of_runsAlone hruns :)
  rw [hper] at hexec hdone
  have hend : exec (.drainComplete core) s = .next (drainBehind core (drainAt m 64 rep none refs) t) :=
    hexec.trans (congrArg Host.Outcome.next (drainUnits_behind hsc (Nat.le_refl (m.row + 64))))
  refine ⟨_, hend, fun hx => ?_, fun e => ?_, fun hmore => ?_⟩
  · refine (mem_drainBehind hsc).trans (hdone.mem fun x hmem => ?_)
    rw [unitElements, hper] at hmem
    obtain ⟨k, hk, rfl⟩ := List.mem_map.mp hmem
    exact hx k (List.mem_range.mp hk)
  · rw [accTile_drainBehind hsc, hdone.accTile_same]
    exact (statusOf_sameElements _ _ _).elem e
  · have hgoes : drainBehind core (drainAt m 64 rep none refs) t = t := if_pos hmore
    rw [hgoes]
    exact hdone.rows

end Sys2Proof.Machine
end

section
/-! SUPPORT. The commands that zero, save and load a tile (07 R164 to R166). -/

namespace Sys2Proof.Machine

/-! ## `mzero` (07 R164) -/

theorem kind_mzero {k : MKind} (h : kindCode k = 1) : k = .mzero := by
  cases k
  case mzero => rfl
  all_goals exact absurd h (by simp [kindCode])

/-- Of a state, charges of a command's cores change what their levels have spent. -/
theorem chargeParts_other (core : Nat) (m : MCommand) (cycles : Nat) (s : State) :
    ∃ p, chargeParts core m cycles s = { s with spent := p } := by
  unfold chargeParts
  refine List.foldlRecOn (motive := fun t : State => ∃ p, t = { s with spent := p }) (cmdParts s core m) _ ⟨s.spent, rfl⟩ ?_
  intro t ht e _
  obtain ⟨p, rfl⟩ := ht
  exact ⟨_, rfl⟩

theorem exec_mzeroDone {core : Nat} {m : MCommand} {g : Group} {s : State} (h : runsAlone core s m 1)
    (hbudget : cmdBudget s core m = true) (hparts : cmdParts s core m = [(core, m.gslot, g)]) : exec (.mzeroDone core) s =
      .next (chargeParts core m 8 (retireCmd core m (modAcc core (physTile g m) AccTile.zeroed s))) := by
  have hrunning := runningCmd_of_runsAlone h (fun k => k == .mzero) (by rw [kind_mzero (kindCode_of_runsAlone h)]; rfl)
  change execMzeroDone core s = _
  simp only [execMzeroDone, hrunning, hbudget, hparts, if_true]
  rfl

theorem mzeroDone_zeroes (core : Nat) (m : MCommand) (g : Group) : Moves (.mzeroDone core)
    (fun s => runsAlone core s m 1 ∧ cmdBudget s core m = true ∧ cmdParts s core m = [(core, m.gslot, g)])
    (fun s t => commandEnds core m s t ∧ accTile t core (physTile g m) =
      { accTile s core (physTile g m) with
        unspec := none, stale := [], elems := [], kacc := 0, wmax := 0, hb := 0, hr := 0, cert := true } ∧
      (∀ e, ((accTile t core (physTile g m)).elem e) = { res := List.replicate 10 0, poison := false }) ∧
      ∀ n, n ≠ physTile g m → accTile t core n = accTile s core n) := by
  intro s ⟨hruns, hbudget, hparts⟩
  have hs := scope_of_runsAlone hruns
  generalize hu : modAcc core (physTile g m) AccTile.zeroed s = u
  have huc := hu ▸ getCore_modAcc core (physTile g m) AccTile.zeroed s
  have hexec := exec_mzeroDone hruns hbudget hparts
  rw [hu] at hexec
  obtain ⟨p, hp⟩ := chargeParts_other core m 8 (retireCmd core m u)
  rw [hp] at hexec
  have htile (n : Nat) : accTile { retireCmd core m u with spent := p } core n = accTile u core n := accTile_retireCmd hs u n
  have hzeroed : accTile { retireCmd core m u with spent := p } core (physTile g m) =
      (accTile s core (physTile g m)).zeroed := by
    rw [htile, ← hu, accTile_modAcc_same]
  refine ⟨_, hexec, ?_, hzeroed, fun e => ?_, fun n hn => ?_⟩
  · exact retireCmd_ends hs (hu ▸ rfl) (by rw [huc]) (by rw [huc])
  · rw [hzeroed]
    rfl
  · rw [htile, ← hu, accTile_modAcc_ne _ _ _ _ hn]

/-! ## `msave` (07 R161, R166) -/

/-- A part of a tile's image, at its address. -/
def imagePart (s : State) (t : AccTile) (base a n : Nat) : Nat × List Byte := (base + a, imageBytes s t a n)

theorem saveUnit_eq (s : State) (t : AccTile) (base u : Nat) : saveUnit s t base u =
    [imagePart s t base (512 * u) 512, imagePart s t base (262144 + 256 * u) 256, imagePart s t base (393216 + 8 * u) 8] ++
      (if u = 511 then [imagePart s t base 397312 4096] else []) := by
  simp only [saveUnit, imagePart, Nat.add_assoc, beq_iff_eq]

section
variable {core : Nat} {m : MCommand} {base : Nat} {g : Group} {s : State}

theorem exec_msaveComplete_end (h : runsAlone core s m 5) (hk : m.kind = .msave base) (hg : getGroup s core m.gslot = some g)
    (hrow : 512 ≤ m.row) : exec (.msaveComplete core) s = .next (retireCmd core m s) := by
  have hrunning := runningCmd_of_runsAlone h (fun k => kindCode k == 5) (by rw [hk]; rfl)
  change execMsaveComplete core s = _
  simp only [execMsaveComplete, hrunning, hk, hg, if_pos hrow]

theorem exec_msaveComplete_done {u : State} (h : runsAlone core s m 5) (hk : m.kind = .msave base)
    (hg : getGroup s core m.gslot = some g) (hrow : m.row < 512) (hbudget : cmdBudget s core m = true)
    (hwrite : cmdWrite core core m.gslot g m (saveUnit s (accTile s core (physTile g m)) base m.row) s = (.done, u)) :
    exec (.msaveComplete core) s = .next (passRow core m (m.row + 1) (chargeBudget 1 core (levelOf u g) 1 u)) := by
  have hrunning := runningCmd_of_runsAlone h (fun k => kindCode k == 5) (by rw [hk]; rfl)
  change execMsaveComplete core s = _
  simp only [execMsaveComplete, hrunning, hk, hg, if_neg (Nat.not_le.mpr hrow), hbudget, Bool.not_true, Bool.false_eq_true,
    if_false, hwrite]

end

theorem msaveComplete_ends (core : Nat) (m : MCommand) (base : Nat) (g : Group) : Moves (.msaveComplete core)
    (fun s => runsAlone core s m 5 ∧ m.kind = .msave base ∧ getGroup s core m.gslot = some g ∧ 512 ≤ m.row)
    (fun s t => commandEnds core m s t) := by
  intro s ⟨hruns, hk, hg, hrow⟩
  exact ⟨_, exec_msaveComplete_end hruns hk hg hrow, retireCmd_ends (scope_of_runsAlone hruns) rfl rfl rfl⟩

theorem msaveComplete_saves (core : Nat) (m : MCommand) (base : Nat) (g : Group) (u : State) : Moves (.msaveComplete core)
    (fun s => let image (a n : Nat) := imagePart s (accTile s core (physTile g m)) base a n
      runsAlone core s m 5 ∧ m.kind = .msave base ∧ getGroup s core m.gslot = some g ∧ m.row < 512 ∧
      cmdBudget s core m = true ∧ cmdWrite core core m.gslot g m
        ([image (512 * m.row) 512, image (262144 + 256 * m.row) 256, image (393216 + 8 * m.row) 8] ++
          (if m.row = 511 then [image 397312 4096] else [])) s = (.done, u))
    (fun _ t => t.mem = u.mem ∧ (getCore t core).mrun = (getCore u core).mrun.map (fun x =>
      if x.id = m.id then { x with row := m.row + 1, peer := none, refs := [] } else x)) := by
  intro s ⟨hruns, hk, hg, hrow, hbudget, hwrite⟩
  have hrefs (t : State) (n : Nat) (x : List PageRef) (done : List (Nat × Nat)) (row : Nat) : cmdRefs t n m x done row = [] := by
    rw [cmdRefs, hk]
    rfl
  refine ⟨_, exec_msaveComplete_done hruns hk hg hrow hbudget ((congrArg (cmdWrite core core m.gslot g m · s)
    (saveUnit_eq s _ base m.row)).trans hwrite), rfl, ?_⟩
  simp only [passRow, getCore_modCmd, hrefs, beq_iff_eq]
  rfl

/-! ## `mldc` (07 R165, R166) -/

theorem elem_loadUnit {k : Nat} (hk : k < 64) (bs : List Byte) (first : Nat) (t : AccTile) :
    (loadUnit bs first t).elem (first + k) = loadElem ((List.range 8).map (fun j => imageField bs (64 * j + k) 1)) := by
  unfold loadUnit
  refine observe_foldl_once (obs := fun t : AccTile => t.elem (first + k)) (x := k)
    (G := fun _ => loadElem ((List.range 8).map (fun j => imageField bs (64 * j + k) 1)))
    List.nodup_range (List.mem_range.mpr hk) (fun j _ hne t => ?_) (fun t => ?_) { t with stale := [] }
  · exact elem_setElem_ne _ _ _ (by omega)
  · exact elem_setElem_same _ _ _

theorem elem_loadUnit_ne {e first : Nat} (he : e < first ∨ first + 64 ≤ e) (bs : List Byte) (t : AccTile) :
    (loadUnit bs first t).elem e = t.elem e := by
  unfold loadUnit
  refine observe_foldl_other (obs := fun t : AccTile => t.elem e) (fun k hk t => ?_) { t with stale := [] }
  have hlt := List.mem_range.mp hk
  exact elem_setElem_ne _ _ _ (by omega)

theorem exec_mldcComplete_rp8 {core : Nat} {m : MCommand} {base stride hb : Nat} {g : Group} {s : State}
    (h : runsAlone core s m 3) (hk : m.kind = .mldcRp8 base stride hb) (hg : getGroup s core m.gslot = some g)
    (hbudget : cmdBudget s core m = true) : exec (.mldcComplete core) s = .next (loadNext core m base stride s) := by
  have hrunning := runningCmd_of_runsAlone h (fun k => kindCode k == 3) (by rw [hk]; rfl)
  change execMldcComplete core s = _
  simp only [execMldcComplete, hrunning, hk, hg, hbudget, Bool.not_true, Bool.false_eq_true, if_false]

theorem exec_mldcComplete_img {core : Nat} {m : MCommand} {base : Nat} {g : Group} {s : State}
    (h : runsAlone core s m 3) (hk : m.kind = .mldcImg base) (hg : getGroup s core m.gslot = some g)
    (hbudget : cmdBudget s core m = true) : exec (.mldcComplete core) s = .next (loadImage core m base g s) := by
  have hrunning := runningCmd_of_runsAlone h (fun k => kindCode k == 3) (by rw [hk]; rfl)
  change execMldcComplete core s = _
  simp only [execMldcComplete, hrunning, hk, hg, hbudget, Bool.not_true, Bool.false_eq_true, if_false]

theorem mldcComplete_ends (core : Nat) (m : MCommand) (base stride hb : Nat) (g : Group) : Moves (.mldcComplete core)
    (fun s => runsAlone core s m 3 ∧ m.kind = .mldcRp8 base stride hb ∧ getGroup s core m.gslot = some g ∧
      cmdBudget s core m = true ∧ 512 * (cmdParts s core m).length ≤ m.row)
    (fun s t => commandEnds core m s t) := by
  intro s ⟨hruns, hk, hg, hbudget, hrow⟩
  refine ⟨retireCmd core m s, ?_, retireCmd_ends (scope_of_runsAlone hruns) rfl rfl rfl⟩
  rw [exec_mldcComplete_rp8 hruns hk hg hbudget, loadNext, if_pos hrow]

/-- A load of core scope takes its next unit. -/
theorem loadNext_loads {core : Nat} {m : MCommand} {base stride : Nat} {g : Group} {s v : State} {bs : List Byte}
    (hparts : cmdParts s core m = [(core, m.gslot, g)]) (hrow : m.row < 512)
    (hread : cmdRead core m g (base + m.row / 4 * stride + m.row % 4 * 512) 512 s = (.inl bs, v)) :
    loadNext core m base stride s = passRow core m (m.row + 1)
      (chargeBudget 1 core (levelOf v g) 1 (modAcc core (physTile g m) (loadUnit bs (64 * m.row)) v)) := by
  simp only [loadNext, hparts, List.length_cons, List.length_nil, Nat.zero_add, Nat.mul_one, if_neg (Nat.not_le.mpr hrow),
    Nat.max_self, Nat.mod_one, List.getElem?_cons_zero, Nat.div_one, Nat.mul_zero, hread]
  rfl

theorem mldcComplete_loads (core : Nat) (m : MCommand) (base stride hb : Nat) (g : Group) (bs : List Byte) (v : State) :
    Moves (.mldcComplete core)
    (fun s => runsAlone core s m 3 ∧ m.kind = .mldcRp8 base stride hb ∧ getGroup s core m.gslot = some g ∧
      (cmdParts s core m = [(core, m.gslot, g)] ∧ cmdBudget s core m = true) ∧ m.row < 512 ∧
      cmdRead core m g (base + m.row / 4 * stride + m.row % 4 * 512) 512 s = (.inl bs, v))
    (fun _ t =>
      let byte (j k : Nat) := bytesToNat ((bs.drop (64 * j + k)).take 1)
      let work (k : Nat) := (List.range 8).map (fun j => byte j k)
      (∀ k, k < 64 → (accTile t core (physTile g m)).elem (64 * m.row + k) =
        { res := extendBytes (work k), poison := !bytesValid (work k) }) ∧
      (∀ e, e < 64 * m.row ∨ 64 * m.row + 64 ≤ e →
        (accTile t core (physTile g m)).elem e = (accTile v core (physTile g m)).elem e) ∧
      (∀ n, n ≠ physTile g m → accTile t core n = accTile v core n) ∧ t.mem = v.mem ∧
      cmdRows core t = (cmdRows core v).map (fun x => if x.1 = m.id then (m.id, m.row + 1) else x)) := by
  intro s ⟨hruns, hk, hg, ⟨hparts, hbudget⟩, hrow, hread⟩
  generalize hu : modAcc core (physTile g m) (loadUnit bs (64 * m.row)) v = u
  have hnext := loadNext_loads hparts hrow hread
  rw [hu] at hnext
  have hexec := exec_mldcComplete_rp8 hruns hk hg hbudget
  rw [hnext] at hexec
  have hacc (n : Nat) : accTile (passRow core m (m.row + 1) (chargeBudget 1 core (levelOf v g) 1 u)) core n = accTile u core n :=
    accTile_of_acc (by rw [passRow, getCore_modCmd]; rfl) n
  have hloaded := (hacc (physTile g m)).trans (hu ▸ accTile_modAcc_same core (physTile g m) (loadUnit bs (64 * m.row)) v)
  refine ⟨_, hexec, fun k hk => ?_, fun e he => ?_, fun n hn => ?_, ?_, ?_⟩
  · rw [hloaded, elem_loadUnit hk]
    rfl
  · rw [hloaded, elem_loadUnit_ne he]
  · rw [hacc, ← hu, accTile_modAcc_ne _ _ _ _ hn]
  · rw [← hu]
    rfl
  · refine (cmdRows_passRow core m (m.row + 1) _).trans (congrArg (List.map _) (cmdRows_of_mrun ?_))
    rw [← hu, getCore_chargeBudget, getCore_modAcc]

theorem mldcComplete_restores (core : Nat) (m : MCommand) (base : Nat) (g : Group) (bs : List Byte) (v : State) :
    Moves (.mldcComplete core)
    (fun s => runsAlone core s m 3 ∧ m.kind = .mldcImg base ∧ getGroup s core m.gslot = some g ∧ cmdBudget s core m = true ∧
      cmdRead core m g base 401408 s = (.inl bs, v))
    (fun _ t => if imageBad bs = true then t = faultReason core m 4 v
      else accTile t core (physTile g m) = tileOfImage bs ∧ t.mem = v.mem ∧
        (∀ n, n ≠ physTile g m → accTile t core n = accTile v core n) ∧
        (getCore t core).mrun = (getCore v core).mrun.filter (fun x => x.id != m.id)) := by
  intro s ⟨hruns, hk, hg, hbudget, hread⟩
  have hs := scope_of_runsAlone hruns
  have hexec := exec_mldcComplete_img hruns hk hg hbudget
  simp only [loadImage, hread] at hexec
  refine ⟨_, hexec, ?_⟩
  by_cases hbad : imageBad bs = true
  · simp only [if_pos hbad]
  · simp only [if_neg hbad]
    refine ⟨?_, mem_retireCmd hs _, fun n hn => ?_, ?_⟩
    · rw [accTile_retireCmd hs, accTile_modAcc_same]
    · rw [accTile_retireCmd hs, accTile_modAcc_ne _ _ _ _ hn]
      rfl
    · rw [getCore_retireCmd hs, getCore_modAcc]
      rfl

end Sys2Proof.Machine
end

section
/-! THEOREM. The steps of the copy and matrix engines (07, 09 R201, R202). -/

namespace Sys2Proof.Machine

/-- Settles O54: the copy engine's two steps, the acceptance of matrix commands, and a lemma for each step and each end of the
commands that run, in the order of the statement. -/
theorem engineSteps : Obligations.EngineSteps := by
  unfold Obligations.EngineSteps
  refine ⟨copyAccept_accepts, fun core run g s h => ?_, matrixCmdAccept_accepts, scopeCommandStart_slaves, elem_addStep,
    operandWord_poisonCode, mmaRetire_steps, readStep_ring, readStep_addr, mmaRetire_ends, mzeroDone_zeroes,
    drainComplete_scratch, drainComplete_rp8, drainComplete_full, drainComplete_ends, msaveComplete_ends, msaveComplete_saves,
    mldcComplete_loads, mldcComplete_restores, mldcComplete_ends⟩
  obtain ⟨hrun, hq, hpage, h0, hg, hbudget, hssp, hdsp, hst, hdt, hconv, hpbv, htr, hrows, hpos, hle, hlive⟩ := h
  exact copyChunk_moves core run g s
    ⟨hrun, hq, hpage, h0, hg, hbudget, ⟨hssp, hdsp, hst, hdt, hconv, hpbv, htr, hrows, hpos, hle⟩, hlive⟩

end Sys2Proof.Machine
end

section
/-! SUPPORT. Accesses that need no walk: what the TLB gives without one, what the shared operations on memory and on caches
leave alone, and what stands once an access has been made (08 R178 to R183, 10 R226, 11 R241, 16 R353). -/

namespace Sys2Proof.Machine

/-! ## The issuing core with its split taken -/

@[simp] theorem tlb_taken (c : Cursor) (s : State) (n : Nat) : (getCore (taken c s) n).tlb = (getCore s n).tlb :=
  (congrArg Core.tlb (apart_getCore_taken c s n) :)

@[simp] theorem near_taken (c : Cursor) (s : State) (n : Nat) : (getCore (taken c s) n).near = (getCore s n).near :=
  (congrArg Core.near (apart_getCore_taken c s n) :)

/-! ## Translation without a walk (11 R241) -/

/-- An address that the core's TLB maps changes nothing. -/
theorem translate_of_find {core ctx va : Nat} {s : State} {e : TlbEntry}
    (h : (getCore s core).tlb.find? (fun e => e.covers ctx va) = some e) : translate core ctx va s = (.leaf e, s) := by
  simp only [translate, h]

/-- An access that finds memory reaches it, also once the split has been taken, and changes nothing. -/
theorem reach_of_finds {x : Ctx} {s : State} {k : AccessKind} {a : GAddr} {pa : Nat} (h : finds s x k a pa) :
    reach x.cur.core x.gang.ctx a k (taken x.cur s) = (.ok pa, taken x.cur s) := by
  obtain ⟨p, w, e, hm, hr⟩ := h
  replace hr : reachPhys (taken x.cur s) a.va p w e k = .ok pa := hr
  unfold mapped at hm
  split at hm
  next hd =>
    cases hm
    simp only [reach, hd, hr]
  next hd =>
    obtain ⟨l, hl, he⟩ := Option.map_eq_some_iff.mp hm
    cases he
    rw [← tlb_taken x.cur] at hl
    simp only [reach, hd, reachVirt, translate_of_find hl, hr]

/-- Memory that an access finds is of a range on which the access is supported (11 R243). -/
theorem supported_of_finds {x : Ctx} {s : State} {k : AccessKind} {a : GAddr} {pa : Nat} (h : finds s x k a pa) :
    k.unsupported (tierOf pa) = false := by
  obtain ⟨p, w, e, -, hr⟩ := h
  unfold reachPhys at hr
  split at hr
  · cases hr
  next hc =>
    have hpa : localPa s p = pa := by
      dsimp only at hr
      split at hr
      · cases hr
      · split at hr
        · injection hr
        · split at hr
          · cases hr
          · split at hr
            · cases hr
            · injection hr
    by_contra hu
    have hu : k.unsupported (tierOf (localPa s p)) = true := by simpa [hpa] using hu
    unfold accessCause at hc
    dsimp only at hc
    rw [hu, Bool.true_or, if_pos rfl] at hc
    split at hc
    · cases hc
    · split at hc <;> cases hc

/-! ## What an update leaves of the gangs -/

theorem getGang_of_cores {s t : State} (h : t.cores = s.cores) (c k : Nat) : getGang t c k = getGang s c k := by
  rw [getGang, getCore, h, ← getCore, ← getGang]

/-- A change of a core that keeps its gangs. -/
theorem getGang_modCore_kept {f : Core → Core} (hf : ∀ c, (f c).gangs = c.gangs) (s : State) (n c k : Nat) :
    getGang (modCore s n f) c k = getGang s c k := by
  by_cases h : c = n
  · rw [h, getGang, getCore_modCore_same, hf, getGang]
  · rw [getGang, getCore_modCore_ne _ _ _ _ h, getGang]

/-- What running grids overwrite is all that its record changes. -/
theorem overwrite_other (core gslot pa : Nat) (bs : List Byte) (s : State) :
    ∃ l, overwrite core gslot pa bs s = { s with overwritten := l } := by
  unfold overwrite
  split
  · exact ⟨_, rfl⟩
  · dsimp only
    split
    · exact ⟨_, rfl⟩
    · split <;> exact ⟨_, rfl⟩

@[simp] theorem overwrite_mem (core gslot pa : Nat) (bs : List Byte) (s : State) : (overwrite core gslot pa bs s).mem = s.mem := by
  obtain ⟨l, hl⟩ := overwrite_other core gslot pa bs s
  rw [hl]

@[simp] theorem overwrite_cores (core gslot pa : Nat) (bs : List Byte) (s : State) :
    (overwrite core gslot pa bs s).cores = s.cores := by
  obtain ⟨l, hl⟩ := overwrite_other core gslot pa bs s
  rw [hl]

theorem fillL2_other (line reads : Nat) (s : State) : ∃ l, fillL2 line reads s = { s with l2 := l } := by
  have hw : ∃ l, freeWay line s = { s with l2 := l } := by
    unfold freeWay
    dsimp only
    split
    · exact ⟨_, rfl⟩
    · split <;> exact ⟨_, rfl⟩
  obtain ⟨l, hl⟩ := hw
  unfold fillL2
  rw [hl]
  dsimp only
  split <;> exact ⟨_, rfl⟩

/-! ## Caches (08 R178, R181) -/

/-- Two states agree but in the lines of a core's L1 and of L2. -/
structure SameButCaches (core : Nat) (s t : State) : Prop where
  device : t.apart = { s.apart with l2 := t.l2 }
  queue : t.issueQ = s.issueQ
  others : ∀ n, n ≠ core → getCore t n = getCore s n
  core : getCore t core = { getCore s core with l1 := (getCore t core).l1 }

theorem SameButCaches.refl (core : Nat) (s : State) : SameButCaches core s s := ⟨rfl, rfl, fun _ _ => rfl, rfl⟩

theorem SameButCaches.trans {core : Nat} {a b c : State} (h : SameButCaches core a b) (k : SameButCaches core b c) :
    SameButCaches core a c where
  device := by rw [k.device, h.device]
  queue := k.queue.trans h.queue
  others n hn := (k.others n hn).trans (h.others n hn)
  core := by rw [k.core, h.core]

theorem SameButCaches.of_l2 (core : Nat) (s : State) (l : SMap Nat) : SameButCaches core s { s with l2 := l } :=
  ⟨rfl, rfl, fun _ _ => rfl, rfl⟩

theorem SameButCaches.of_l1 (core : Nat) (s : State) {f : Core → Core} (hf : ∀ c, f c = { c with l1 := (f c).l1 }) :
    SameButCaches core s (modCore s core f) where
  device := rfl
  queue := rfl
  others _ hn := getCore_modCore_ne _ _ _ _ hn
  core := by rw [getCore_modCore_same]; exact hf _

theorem SameButCaches.gang {core : Nat} {s t : State} (h : SameButCaches core s t) (k : Nat) :
    getGang t core k = getGang s core k := by
  rw [getGang, h.core, getGang]

theorem fillL2_sameButCaches (core line reads : Nat) (s : State) : SameButCaches core s (fillL2 line reads s) := by
  obtain ⟨l, hl⟩ := fillL2_other line reads s
  rw [hl]
  exact .of_l2 core s l

theorem fillL1_other (clock core : Nat) (c : Core) (line : Nat) (x : BitVec 1024) :
    fillL1 clock core c line x = { c with l1 := (fillL1 clock core c line x).l1 } := by
  unfold fillL1
  dsimp only
  split
  · rfl
  · split
    · rfl
    · split <;> rfl

/-! ## The end of an issue -/

theorem past_complete {x : Ctx} {s u : State} (hu : getGang u x.cur.core x.cur.slot = some (x.issued s)) :
    past x s (complete x u) x.gang.ops := by
  rw [past, complete, onGang, getGang_modGang_same, hu]
  rfl

/-- What a change of caches leaves of the state before the issue. -/
theorem SameButCaches.leaves {x : Ctx} {s u : State} (h : SameButCaches x.cur.core (taken x.cur s) u) (F : Gang → Gang) :
    Leaves x s (touched x s (onGang x F u)) (onGang x F u) where
  device := by
    have hmem : u.mem = s.mem := (congrArg State.mem h.device :)
    have hover : u.overwritten = s.overwritten := (congrArg State.overwritten h.device :)
    change u.apart = { s.apart with mem := u.mem, l2 := u.l2, overwritten := u.overwritten }
    rw [h.device, hmem, hover]
    rfl
  queue := h.queue
  otherCores n hn := ((leaves_taken x s).otherCores n hn ▸ h.others n hn ▸ getCore_modGang_ne u _ _ _ _ hn :)
  sameCore := by
    have hcore : (getCore u x.cur.core).apart = { (getCore s x.cur.core).apart with l1 := (getCore u x.cur.core).l1 } := by
      rw [h.core, ← apart_getCore_taken x.cur s]
      rfl
    have hgroups : (getCore u x.cur.core).groups = (getCore s x.cur.core).groups := (congrArg Core.groups hcore :)
    rw [touched, getCore_modCore_same, onGang, getCore_modGang_same]
    change (getCore u x.cur.core).apart =
      { (getCore s x.cur.core).apart with l1 := (getCore u x.cur.core).l1, groups := (getCore u x.cur.core).groups }
    rw [hcore, hgroups]
    rfl
  otherGangs k hk := by
    have hne : (x.cur.core, k) ≠ (x.cur.core, x.cur.slot) := fun e => hk (Prod.mk.inj e).2
    rw [onGang, getGang_modGang_ne _ _ _ _ _ _ hne, h.gang]
    exact (leaves_taken x s).otherGangs k hk

/-- A change of the issuing core that does not look at its gangs, on top of what others have changed. -/
theorem Leaves.changeCore {x : Ctx} {s want u : State} (h : Leaves x s want u) {f : Core → Core}
    (hf : ∀ (c : Core) l, f { c with gangs := l } = { f c with gangs := l }) :
    Leaves x s (Machine.modCore want x.cur.core f) (Machine.modCore u x.cur.core f) where
  device := h.device
  queue := h.queue
  otherCores n hn := (getCore_modCore_ne _ _ _ _ hn).trans (h.otherCores n hn)
  sameCore := by
    rw [getCore_modCore_same, getCore_modCore_same]
    exact (hf _ []).symm.trans ((congrArg f h.sameCore).trans (hf _ []))
  otherGangs k hk :=
    (getGang_modCore_kept (fun c => (congrArg Core.gangs (hf c c.gangs) :)) u _ _ k).trans (h.otherGangs k hk)

/-- Lines of L2 are dropped after an issue as they are before it. -/
theorem Leaves.filterL2 {x : Ctx} {s want u : State} (h : Leaves x s want u) (p : Nat × Nat → Bool) :
    Leaves x s { want with l2 := want.l2.filter p } { u with l2 := u.l2.filter p } where
  device := congrArg (fun t : State => { t with l2 := t.l2.filter p }) h.device
  queue := h.queue
  otherCores := h.otherCores
  sameCore := h.sameCore
  otherGangs := h.otherGangs

/-- An acquire by the issuing core leaves what it leaves of the state before the issue (10 R226). -/
theorem Leaves.acquire {x : Ctx} {s want u : State} (h : Leaves x s want u) (agent stor : Nat) :
    Leaves x s (Machine.acquire x.cur.core agent stor want) (Machine.acquire x.cur.core agent stor u) := by
  have hdrop : Leaves x s (dropL1 x.cur.core want) (dropL1 x.cur.core u) := h.changeCore (fun _ _ => rfl)
  unfold Machine.acquire
  split
  · exact hdrop.filterL2 _
  · split
    · exact hdrop
    · exact h

theorem getGang_acquire (core agent stor : Nat) (s : State) (c k : Nat) :
    getGang (acquire core agent stor s) c k = getGang s c k := by
  have hdrop : getGang (dropL1 core s) c k = getGang s c k :=
    getGang_modCore_kept (f := fun c => { c with l1 := [] }) (fun _ => rfl) s core c k
  unfold acquire
  split
  · exact hdrop
  · split
    · exact hdrop
    · rfl

/-- A long-latency access of one issue that nothing keeps from being made completes (16 R337). -/
theorem onceAccess_made {x : Ctx} {f : LaneStep} {s u : State} (ha : x.act ≠ 0) (hf : f x.lane0 ({}, s) = ({}, u)) :
    onceAccess x true f s = completeWith x (startOp x (.lane (x.row.d.v != 0 || x.row.d.s != 0))) u := by
  rw [onceAccess, if_neg (by simpa using ha), hf]
  rfl

end Sys2Proof.Machine
end

section
/-! SUPPORT. `win`, `fence` and `nfence` (08 R195, R196, 10 R223, R226, R229, 18 R414, 19 R474, 20 R517). -/

namespace Sys2Proof.Machine

/-! ## `win` (08 R196, 20 R517) -/

theorem wreg_mapPut_ne (g : Gang) {n m : Nat} (w : BitVec 192) (h : m ≠ n) :
    wreg { g with w := mapPut 0 g.w n w } m = wreg g m := mapGet_mapPut_ne _ _ _ _ _ _ h

theorem tierCode_le (t : Tier) : tierCode t ≤ 3 := by
  cases t <;> simp [tierCode]

/-- A window is its VALID and W bits, four bits that name its range, its limit and its two addresses, side by side. -/
theorem windowOf_eq (va n : Nat) (e : TlbEntry) : ∃ range, range < 16 ∧
    windowOf va n e = BitVec.ofNat 192 (2 ^ 191 + (if e.writable then 2 ^ 190 else 0) + range * 2 ^ 186 +
      min n (e.va + 2 ^ e.size - va) * 2 ^ 128 + e.phys va * 2 ^ 64 + va) := by
  have hcode := tierCode_le (tierOf (e.phys va))
  have sum (near : Nat) (hn : near ≤ 1) (mx : Bool) (w a b c : Nat) : ∃ range, range < 16 ∧
      BitVec.ofNat 192 (2 ^ 191 + w + (if mx then 2 ^ 189 else 0) + near * 2 ^ 188 + tierCode (tierOf (e.phys va)) * 2 ^ 186 +
        a + b + c) = BitVec.ofNat 192 (2 ^ 191 + w + range * 2 ^ 186 + a + b + c) := by
    refine ⟨(if mx then 8 else 0) + near * 4 + tierCode (tierOf (e.phys va)), ?_, congrArg _ ?_⟩ <;>
      cases mx <;> simp only [Bool.false_eq_true, if_true, if_false] <;> omega
  exact sum _ (by split <;> omega) _ _ _ _ _

/-- A window reads back as its VALID and W bits, the addresses of its base, and its limit (08 R195). -/
theorem field_windowOf {va n : Nat} {e : TlbEntry} (hva : va < 2 ^ 52) (hpa : e.phys va < 2 ^ 52)
    (hlimit : min n (e.va + 2 ^ e.size - va) < 2 ^ 22) :
    field (windowOf va n e) 191 191 = 1 ∧ field (windowOf va n e) 190 190 = (if e.writable then 1 else 0) ∧
      field (windowOf va n e) 51 0 = va ∧ field (windowOf va n e) 115 64 = e.phys va ∧
      field (windowOf va n e) 149 128 = min n (e.va + 2 ^ e.size - va) := by
  obtain ⟨range, hrange, he⟩ := windowOf_eq va n e
  simp only [he, field, fieldN, BitVec.toNat_ofNat]
  cases e.writable <;> simp only [Bool.false_eq_true, if_true, if_false] <;> omega

/-- The cacheability of a window's leaf is kept beside the windows, a bit for each (11 R239). -/
theorem getLsbD_windowBit (old : BitVec 8) (n m : Nat) (hm : m < 8) (b : Bool) :
    ((old &&& ~~~(1#8 <<< n)) ||| (if b then 1#8 <<< n else 0)).getLsbD m = if m = n then b else old.getLsbD m := by
  have hbit : (1#8 <<< n).getLsbD m = decide (m = n) := by
    simp only [BitVec.getLsbD_shiftLeft, hm, decide_true, Bool.true_and, BitVec.getLsbD_one]
    by_cases h : m = n
    · simp [h]
    · simp only [h, decide_false, Bool.and_eq_false_iff, Bool.not_eq_false', decide_eq_true_eq, decide_eq_false_iff_not]
      omega
  have hnew : (if b then 1#8 <<< n else (0 : BitVec 8)).getLsbD m = (b && decide (m = n)) := by
    cases b
    · exact BitVec.getLsbD_zero
    · exact hbit
  rw [BitVec.getLsbD_or, BitVec.getLsbD_and, BitVec.getLsbD_not, hbit, hnew]
  by_cases h : m = n <;> simp [h, hm]

/-- A gang with other windows. -/
def Gang.withWindows (g : Gang) (w : SMap (BitVec 192)) (cached : BitVec 8) : Gang := { g with w := w, wCached := cached }

theorem sameRegs_of_files {g g' : Gang} (hv : g'.v = g.v) (hs : g'.s = g.s) (hp : g'.p = g.p) (hq : g'.q = g.q) :
    sameRegs g g' :=
  ⟨fun _ _ _ => by rw [vreg, hv, vreg], fun _ => by rw [sreg, hs, sreg], fun _ => by rw [preg, hp, preg], hq⟩

/-- The gang past its instruction that has written its windows: nothing of it but those and its splits has changed. -/
theorem advanced_windows {x : Ctx} {s : State} {w : SMap (BitVec 192)} {cached : BitVec 8} {g' : Gang}
    (hg : advanceSplit x.cur ((x.issued s).withWindows w cached) = g') :
    g'.w = w ∧ g'.wCached = cached ∧ g'.apart = (endReplay x.cur.lane (x.gang.withWindows w cached)).apart ∧
      sameRegs x.gang g' ∧ g'.splits = splitsAfter x.cur x.gang := by
  obtain ⟨l, hl⟩ := advanceSplit_other x.cur ((x.issued s).withWindows w cached)
  have hu := endReplay_taken x.cur.lane x.cur.clause (x.gang.withWindows w cached) ((x.issued s).withWindows w cached)
    rfl rfl rfl
  have hother : g' = { endReplay x.cur.lane ((x.issued s).withWindows w cached) with splits := l } := hg.symm.trans hl
  have hkept : g'.w = w ∧ g'.wCached = cached ∧ g'.v = x.gang.v ∧ g'.s = x.gang.s ∧ g'.p = x.gang.p ∧ g'.q = x.gang.q := by
    rw [hother]
    simp only [endReplay, Gang.withWindows, Ctx.issued, modSplit, and_self]
  obtain ⟨hw, hc, hv, hs, hp, hq⟩ := hkept
  refine ⟨hw, hc, ?_, sameRegs_of_files hv hs hp hq, ?_⟩
  · rw [hother, endReplay_apart _ (x.gang.withWindows w cached), ← hu]
    simp only [Gang.apart, endReplay, Gang.withWindows, Ctx.issued, modSplit]
  · rw [← hg, splitsAfter]
    exact advanceSplit_congr x.cur _ ((x.issued s).withWindows w cached) rfl rfl

theorem bounds_of_covers {e : TlbEntry} {ctx va : Nat} (h : e.covers ctx va = true) : e.va ≤ va ∧ va < e.va + 2 ^ e.size := by
  simp only [TlbEntry.covers, Bool.and_eq_true, decide_eq_true_eq] at h
  obtain ⟨⟨-, hfrom⟩, hto⟩ := h
  exact ⟨hfrom, hto⟩

section
variable {f : Form}

/-- The windows, and their leaves' cacheability, with the window of a leaf in one of them (08 R196, 11 R239). -/
def Ctx.loadsWindow (x : Ctx) (n : Nat) (e : TlbEntry) (g : Gang) : Gang :=
  g.withWindows (mapPut 0 g.w n (windowOf (x.a x.lane0 % 2 ^ 52) (x.b x.lane0) e))
    ((g.wCached &&& ~~~(1#8 <<< n)) ||| (if e.cacheable then 1#8 <<< n else 0))

theorem winOp_mapped {x : Ctx} {s : State} {e : TlbEntry} {n : Nat} (ha : x.act ≠ 0) (hb : x.b x.lane0 ≠ 0)
    (hd : namedReg x.f.e.d.toNat = some (.w, n))
    (he : (getCore s x.cur.core).tlb.find? (fun e => e.covers x.gang.ctx (x.a x.lane0 % 2 ^ 52)) = some e) :
    winOp x s = completeWith x (x.loadsWindow n e) s := by
  simp only [winOp, hd, beq_eq_false_iff_ne.mpr ha, beq_eq_false_iff_ne.mpr hb, Bool.false_eq_true, if_false,
    translate_of_find he]
  rfl

theorem win_loads (e : TlbEntry) (n : Nat) : Ends (.win f)
    (fun x s => x.act ≠ 0 ∧ x.b x.lane0 ≠ 0 ∧ namedReg x.f.e.d.toNat = some (.w, n) ∧
      (getCore s x.cur.core).tlb.find? (fun e => e.covers x.gang.ctx (x.a x.lane0 % 2 ^ 52)) = some e ∧
      x.b x.lane0 < 2 ^ 32 ∧ e.size ≤ 21 ∧ e.phys (x.a x.lane0 % 2 ^ 52) < 2 ^ 52)
    (fun x s t => SameButGang x.cur.core x.cur.slot s t ∧ ∃ g', getGang t x.cur.core x.cur.slot = some g' ∧
      g'.apart = (endReplay x.cur.lane { x.gang with w := g'.w, wCached := g'.wCached }).apart ∧ sameRegs x.gang g' ∧
      g'.splits = splitsAfter x.cur x.gang ∧ (∀ m, m ≠ n → wreg g' m = wreg x.gang m) ∧
      (∀ m, m < 8 → g'.wCached.getLsbD m = if m = n then e.cacheable else x.gang.wCached.getLsbD m) ∧
      (let va := x.a x.lane0 % 2 ^ 52
       field (wreg g' n) 191 191 = 1 ∧ field (wreg g' n) 190 190 = (if e.writable then 1 else 0) ∧
       field (wreg g' n) 51 0 = va ∧ field (wreg g' n) 115 64 = e.phys va ∧
       field (wreg g' n) 149 128 = min (x.b x.lane0) (e.va + 2 ^ e.size - va))) :=
  ends_of_encoded (op := 0x61) (body := winOp) rfl rfl (fun _ => rfl) fun x s hi ⟨ha, hb, hd, he, _, hsize, hpa⟩ => by
    rw [winOp_mapped ha hb hd (by rwa [tlb_taken])]
    obtain ⟨hsame, hgang⟩ := becomes_onGang x s (fun g => advanceSplit x.cur (x.loadsWindow n e g)) hi
    refine ⟨hsame, _, hgang, ?_⟩
    generalize hg : advanceSplit x.cur (x.loadsWindow n e (x.issued s)) = g'
    obtain ⟨hw, hc, hapart, hregs, hsplits⟩ := advanced_windows hg
    refine ⟨by rwa [hw, hc], hregs, hsplits, fun m hm => ?_, fun m hm => ?_, ?_⟩
    · rw [wreg, hw]
      exact wreg_mapPut_ne x.gang _ hm
    · rw [hc]
      exact getLsbD_windowBit _ _ _ hm _
    · have hwin : wreg g' n = windowOf (x.a x.lane0 % 2 ^ 52) (x.b x.lane0) e := by
        rw [wreg, hw, mapGet_mapPut_same]
      have hva : x.a x.lane0 % 2 ^ 52 < 2 ^ 52 := Nat.mod_lt _ (by decide)
      have hbounds := bounds_of_covers (List.find?_some (p := fun e => TlbEntry.covers e _ _) he)
      have hpage : 2 ^ e.size ≤ 2 ^ 21 := Nat.pow_le_pow_right (by decide) hsize
      rw [hwin]
      exact field_windowOf hva hpa (by omega)

theorem win_clears (n : Nat) : Ends (.win f)
    (fun x _ => x.act ≠ 0 ∧ x.b x.lane0 = 0 ∧ namedReg x.f.e.d.toNat = some (.w, n))
    (fun x s t => becomes x s t (advanceSplit x.cur
      { x.issued s with w := mapPut 0 x.gang.w n (setField (wreg x.gang n) 191 191 0) })) :=
  ends_of_encoded (op := 0x61) (body := winOp) rfl rfl (fun _ => rfl) fun x s hi ⟨ha, hb, hd⟩ => by
    have hop : winOp x (taken x.cur s) = completeWith x
        (fun g => { g with w := mapPut 0 g.w n (setField (wreg g n) 191 191 0) }) (taken x.cur s) := by
      simp only [winOp, hd, hb, beq_eq_false_iff_ne.mpr ha, Bool.false_eq_true, if_false, beq_self_eq_true, if_true]
    rw [hop]
    exact becomes_onGang x s _ hi

/-! ## `fence` and `nfence` (10 R223, R226, R229, 18 R414, 19 R474) -/

@[simp] theorem fenceFrom_taken (x : Ctx) (s : State) : x.fenceFrom (taken x.cur s) = x.fenceFrom s := by
  simp only [Ctx.fenceFrom, opSeq_taken]

@[simp] theorem nearBusy_taken (x : Ctx) (s : State) : nearBusy x (taken x.cur s) = nearBusy x s := by
  simp only [nearBusy, nearBefore, fenceFrom_taken, near_taken]

theorem getGang_dropNearLines (core : Nat) (s : State) (c k : Nat) : getGang (dropNearLines core s) c k = getGang s c k :=
  getGang_modCore_kept (f := fun c => { c with l1 := c.l1.filter _ }) (fun _ => rfl) s core c k

/-- A fence that nothing holds back drops the near lines when its storage scope is in-layer, and acquires unless it only
releases. -/
theorem fenceWith_performs {x : Ctx} {s : State} {sem agent stor : Nat} (hi : issuer s = some (x.cur, x.gang, x.sp))
    (ha : x.act ≠ 0) (hfree : (stor = 2 ∨ stor = 3) → nearBusy x s = false) :
    let near (u : State) : State := if stor = 2 ∨ stor = 3 then dropNearLines x.cur.core u else u
    let t := fenceWith x sem agent stor (taken x.cur s)
    Leaves x s (if sem = 2 then near s else acquire x.cur.core agent stor (near s)) t ∧ past x s t x.gang.ops := by
  intro near t
  have hnear : Leaves x s (near s) (near (taken x.cur s)) := by
    dsimp only [near]
    split
    · exact (leaves_taken x s).changeCore (fun _ _ => rfl)
    · exact leaves_taken x s
  have hgang : getGang (near (taken x.cur s)) x.cur.core x.cur.slot = some (x.issued s) := by
    dsimp only [near]
    split
    · rw [getGang_dropNearLines, getGang_issued hi]
    · exact getGang_issued hi
  have hwait : ((stor == 2 || stor == 3) && nearBusy x (taken x.cur s)) = false := by
    by_cases h : stor = 2 ∨ stor = 3
    · rw [nearBusy_taken, hfree h, Bool.and_false]
    · rw [show (stor == 2 || stor == 3) = false by simpa using h, Bool.false_and]
  have ht : t = complete x (if sem = 2 then near (taken x.cur s)
      else acquire x.cur.core agent stor (near (taken x.cur s))) := by
    simp only [t, fenceWith, beq_eq_false_iff_ne.mpr ha, hwait, Bool.false_eq_true, if_false, Bool.or_eq_true, beq_iff_eq, near]
  rw [ht]
  split
  · exact ⟨hnear.onGang _, past_complete hgang⟩
  · exact ⟨(hnear.acquire agent stor).onGang _, past_complete ((getGang_acquire _ _ _ _ _ _).trans hgang)⟩

/-- A fence of in-layer scope waits while in-layer operations that its gang issued before it are in flight. -/
theorem fenceWith_waits {x : Ctx} {s : State} {stor : Nat} (hi : issuer s = some (x.cur, x.gang, x.sp)) (ha : x.act ≠ 0)
    (hlayer : stor = 2 ∨ stor = 3) (hbusy : nearBusy x s = true) (sem agent : Nat) :
    waitsAt x .fence (x.fenceFrom s) false s (fenceWith x sem agent stor (taken x.cur s)) := by
  have ht : fenceWith x sem agent stor (taken x.cur s) = waitAt x .fence (x.fenceFrom s) false (taken x.cur s) := by
    simp [fenceWith, show ¬ x.act = 0#64 from ha, hlayer, hbusy]
  rw [ht]
  exact waitAt_waits hi _ _ _

theorem toNat_eq_two_or_three (k : BitVec 2) : (k.toNat = 2 ∨ k.toNat = 3) ↔ k = 2#2 ∨ k = 3#2 := by
  simp only [← BitVec.toNat_inj, BitVec.reduceToNat]

theorem fence_performs : Ends (.fence f)
    (fun x s => x.act ≠ 0 ∧ ((x.f.e.stor = 2#2 ∨ x.f.e.stor = 3#2) → nearBusy x s = false))
    (fun x s t =>
      let layer := x.f.e.stor = 2#2 ∨ x.f.e.stor = 3#2
      let s1 := if layer then dropNearLines x.cur.core s else s
      Leaves x s (if x.f.e.sem = 2#2 then s1 else acquire x.cur.core x.f.e.agent.toNat x.f.e.stor.toNat s1) t ∧
        past x s t x.gang.ops) :=
  ends_of_encoded (op := 0x65) (body := fenceOp) rfl rfl (fun _ => rfl) fun x s hi ⟨ha, hfree⟩ => by
    have hsem : x.f.e.sem.toNat = 2 ↔ x.f.e.sem = 2#2 := by rw [← BitVec.toNat_inj]; rfl
    simpa only [fenceOp, toNat_eq_two_or_three, hsem] using fenceWith_performs (sem := x.f.e.sem.toNat) (agent := x.f.e.agent.toNat)
      hi ha (fun h => hfree ((toNat_eq_two_or_three _).mp h))

theorem nfence_performs : Ends (.nfence f) (fun x s => x.act ≠ 0 ∧ nearBusy x s = false)
    (fun x s t => Leaves x s (acquire x.cur.core 3 2 (dropNearLines x.cur.core s)) t ∧ past x s t x.gang.ops) :=
  ends_of_encoded (op := 0x6B) (body := nfenceOp) rfl rfl (fun _ => rfl) fun _ _ hi ⟨ha, hfree⟩ =>
    fenceWith_performs (sem := 3) (agent := 3) (stor := 2) hi ha (fun _ => hfree)

theorem nfence_waits : Ends (.nfence f) (fun x s => x.act ≠ 0 ∧ nearBusy x s = true)
    (fun x s t => waitsAt x .fence (x.fenceFrom s) false s t) :=
  ends_of_encoded (op := 0x6B) (body := nfenceOp) rfl rfl (fun _ => rfl) fun _ _ hi ⟨ha, hbusy⟩ =>
    fenceWith_waits hi ha (.inl rfl) hbusy 3 3

theorem fence_waits : Ends (.fence f)
    (fun x s => x.act ≠ 0 ∧ (x.f.e.stor = 2#2 ∨ x.f.e.stor = 3#2) ∧ nearBusy x s = true)
    (fun x s t => waitsAt x .fence (x.fenceFrom s) false s t) :=
  ends_of_encoded (op := 0x65) (body := fenceOp) rfl rfl (fun _ => rfl) fun _ _ hi ⟨ha, hlayer, hbusy⟩ =>
    fenceWith_waits hi ha ((toNat_eq_two_or_three _).mpr hlayer) hbusy _ _

end

end Sys2Proof.Machine
end

section
/-! SUPPORT. `pref` and `discard` (18 R406, R407, 20 R491). -/

namespace Sys2Proof.Machine

/-! ## `pref` (20 R491) -/

/-- A lane of `pref` fills lines of L2 and of its core's L1, or does nothing. -/
theorem prefLane_sameButCaches (x : Ctx) (s : State) (lane : Nat) : SameButCaches x.cur.core s (prefLane x s lane) := by
  have fill (u : State) (line : Nat) (b : BitVec 1024) : SameButCaches x.cur.core u
      (modCore u x.cur.core (fun k => fillL1 u.clock x.cur.core k line b)) := .of_l1 _ _ (fun c => fillL1_other _ _ c _ _)
  unfold prefLane
  dsimp only
  split
  · exact .refl _ _
  · split
    · exact .refl _ _
    · split
      · split
        · exact (fillL2_sameButCaches _ _ _ _).trans (fill _ _ _)
        · exact fillL2_sameButCaches _ _ _ _
      · split
        · exact fill _ _ _
        · exact .refl _ _

section
variable {f : Form}

theorem pref_fills : Ends (.pref f) (fun _ _ => True)
    (fun x s t => Leaves x s (touched x s t) t ∧ t.mem = s.mem ∧ t.overwritten = s.overwritten ∧ past x s t x.gang.ops ∧
      (∀ k, getGroup t x.cur.core k = getGroup s x.cur.core k)) :=
  ends_of_encoded (op := 0x66) (body := prefOp) rfl rfl (fun _ => rfl) fun x s hi _ => by
    have h : SameButCaches x.cur.core (taken x.cur s) (x.lanes.foldl (prefLane x) (taken x.cur s)) :=
      List.foldlRecOn (motive := SameButCaches x.cur.core (taken x.cur s)) x.lanes (prefLane x) (.refl _ _)
        (fun u hu lane _ => hu.trans (prefLane_sameButCaches x u lane))
    rw [prefOp]
    generalize x.lanes.foldl (prefLane x) (taken x.cur s) = u at h
    refine ⟨h.leaves _, (congrArg State.mem h.device :), (congrArg State.overwritten h.device :),
      past_complete ((h.gang _).trans (getGang_issued hi)), fun k => ?_⟩
    rw [complete, onGang, getGroup_modGang, getGroup, h.core]
    exact getGroup_modGang _ _ _ _ _ _

end

/-! ## `discard` (18 R406, R407) -/

theorem discardLines_cores (core gslot use pa n : Nat) (s : State) : (discardLines core gslot use pa n s).cores = s.cores := by
  induction n generalizing s with
  | zero => rfl
  | succ n ih =>
    rw [discardLines, ih]
    split
    · rw [physWrite_cores, overwrite_cores]
    · rfl

/-- A line of a discarded range reads as zeros where the free choice of 18 R406 zeroes it, and every other as before. -/
theorem memRead_discardLines {core gslot use pa n : Nat} (hmx : ∀ k, k < n → tierOf ((pa / 128 + k) * 128) ≠ .mx) (s : State)
    (a : Nat) : memRead (discardLines core gslot use pa n s).mem a =
      if pa / 128 ≤ a / 128 ∧ a / 128 < pa / 128 + n ∧ Config.discardZero use (a / 128) = true then 0 else memRead s.mem a := by
  induction n generalizing s with
  | zero => rw [if_neg (by omega), discardLines]
  | succ n ih =>
    rw [discardLines, ih (fun k hk => hmx k (by omega))]
    by_cases ha : a / 128 = pa / 128 + n
    · rw [if_neg (by omega), ← ha]
      by_cases hz : Config.discardZero use (a / 128) = true
      · rw [if_pos hz, if_pos ⟨by omega, by omega, hz⟩, physWrite_of_ne_mx _ _ _ (ha ▸ hmx n (by omega))]
        generalize overwrite core gslot (a / 128 * 128) (List.replicate 128 0) s = u
        have hin := memRead_poke_inside u (a / 128 * 128) (a % 128) (List.replicate 128 0)
          (by rw [List.length_replicate]; omega)
        rwa [Nat.div_add_mod' a 128, List.getD_replicate _ (by omega)] at hin
      · rw [if_neg hz, if_neg (fun ⟨_, _, h⟩ => hz h)]
    · have hlast : a / 128 < pa / 128 + (n + 1) ↔ a / 128 < pa / 128 + n := by omega
      have hline : ∀ u, memRead (physWrite ((pa / 128 + n) * 128) (List.replicate 128 0) u).mem a = memRead u.mem a := by
        intro u
        rw [physWrite_of_ne_mx _ _ _ (hmx n (by omega))]
        exact memRead_poke_outside u _ _ _ (by rw [List.length_replicate]; omega)
      simp only [hlast]
      split
      · rfl
      · split
        · rw [hline, overwrite_mem]
        · rfl

theorem tierOf_eq_mx (a : Nat) : tierOf a = .mx ↔ 0x38000000000 ≤ a ∧ a < 0x40000000000 := by
  unfold tierOf
  simp only [Bool.and_eq_true, decide_eq_true_eq]
  split_ifs <;> simp <;> omega

theorem leafLog2_cases (t : Tier) : leafLog2 t = 12 ∨ leafLog2 t = 16 ∨ leafLog2 t = 21 := by
  cases t <;> simp [leafLog2]

/-- A page with an address outside the range of MX has none in it: the range begins and ends at page boundaries (08 R171). -/
theorem tierOf_ne_mx_of_page {pa a : Nat} (h : tierOf pa ≠ .mx)
    (ha : a / 2 ^ leafLog2 (tierOf pa) = pa / 2 ^ leafLog2 (tierOf pa)) : tierOf a ≠ .mx := by
  rw [Ne, tierOf_eq_mx] at h ⊢
  rcases leafLog2_cases (tierOf pa) with hs | hs | hs <;> rw [hs] at ha <;> omega

/-- The copies of a range in L1 and L2, dropped (18 R406). -/
def dropCopies (pa len : Nat) (s : State) : State :=
  let u := (coreIds s).foldl (fun s n => dropLines n pa len s) s
  { u with l2 := u.l2.filter (fun e => !(pa / 128 ≤ e.1 && e.1 < (pa + len) / 128)) }

theorem getGang_dropCopies (pa len : Nat) (s : State) (c k : Nat) : getGang (dropCopies pa len s) c k = getGang s c k :=
  observe_foldl_other (obs := fun u => getGang u c k)
    (fun n _ u => getGang_modCore_kept (f := fun c => { c with l1 := c.l1.filter _ }) (fun _ => rfl) u n c k) s

theorem mem_dropCopies (pa len : Nat) (s : State) : (dropCopies pa len s).mem = s.mem :=
  observe_foldl_other (f := fun s n => dropLines n pa len s) (obs := State.mem) (fun _ _ _ => rfl) s

theorem discardStep_reached {x : Ctx} {s : State} {pa len : Nat} (halign : (x.globalAddr x.lane0 false).va % 128 = 0)
    (hreach : reach x.cur.core x.gang.ctx (x.globalAddr x.lane0 false) { write := true, unsupported := fun t => t == .mx } s =
      (.ok pa, s))
    (hpage : pa % 2 ^ leafLog2 (tierOf pa) + len ≤ 2 ^ leafLog2 (tierOf pa)) :
    ∃ keeps : Bool, discardStep x len x.lane0 ({}, s) = ({}, if keeps then dropCopies pa len s else
      discardLines x.cur.core x.gang.gslot (dropCopies pa len s).free pa (len / 128)
        { dropCopies pa len s with free := (dropCopies pa len s).free + 1 }) := by
  simp only [discardStep, halign, hreach, Nat.not_lt.mpr hpage, bne_self_eq_false, Bool.false_eq_true, if_false]
  exact ⟨_, rfl⟩

/-- An address past another in the same page. -/
theorem div_eq_of_page {pa page n k : Nat} (h : pa % page + n ≤ page) (hk : k < n) : (pa + k) / page = pa / page := by
  have hlt : k < page := by omega
  rw [Nat.add_div_eq_of_add_mod_lt (by rw [Nat.mod_eq_of_lt hlt]; omega), Nat.div_eq_of_lt hlt, Nat.add_zero]

/-- What a discard of a range in one page comes to: the gangs are as they were, and memory is as it was but for lines of the
range that read as zeros. -/
theorem discardStep_found {x : Ctx} {s : State} {pa len : Nat} (halign : (x.globalAddr x.lane0 false).va % 128 = 0)
    (hfinds : finds s x { write := true, unsupported := fun t => t == .mx } (x.globalAddr x.lane0 false) pa)
    (hpa : pa % 128 = 0) (hlen : len % 128 = 0)
    (hpage : pa % 2 ^ leafLog2 (tierOf pa) + len ≤ 2 ^ leafLog2 (tierOf pa)) :
    ∃ u, discardStep x len x.lane0 ({}, taken x.cur s) = ({}, u) ∧
      getGang u x.cur.core x.cur.slot = getGang (taken x.cur s) x.cur.core x.cur.slot ∧
      ∃ zero : Nat → Bool, ∀ a, memRead u.mem a =
        if pa ≤ a ∧ a < pa + len ∧ zero (a / 128) = true then 0 else memRead s.mem a := by
  have hmx : tierOf pa ≠ .mx := by simpa using supported_of_finds hfinds
  have hlines : ∀ k, k < len / 128 → tierOf ((pa / 128 + k) * 128) ≠ .mx := fun k hk => by
    refine tierOf_ne_mx_of_page hmx ?_
    rw [show (pa / 128 + k) * 128 = pa + 128 * k by omega]
    exact div_eq_of_page hpage (by omega)
  obtain ⟨keeps, hstep⟩ := discardStep_reached halign (reach_of_finds hfinds) hpage
  refine ⟨_, hstep, ?_⟩
  cases keeps with
  | true => exact ⟨getGang_dropCopies _ _ _ _ _, fun _ => false, fun a => by simp [mem_dropCopies]⟩
  | false =>
    refine ⟨(getGang_of_cores (discardLines_cores ..) _ _).trans (getGang_dropCopies pa len (taken x.cur s) _ _),
      Config.discardZero (dropCopies pa len (taken x.cur s)).free, fun a => ?_⟩
    have hrange : (pa ≤ a ∧ a < pa + len) ↔ pa / 128 ≤ a / 128 ∧ a / 128 < pa / 128 + len / 128 := by omega
    have h := memRead_discardLines (core := x.cur.core) (gslot := x.gang.gslot)
      (use := (dropCopies pa len (taken x.cur s)).free) hlines
      { dropCopies pa len (taken x.cur s) with free := (dropCopies pa len (taken x.cur s)).free + 1 } a
    rw [mem_dropCopies, mem_taken] at h
    simp only [← and_assoc, hrange] at h ⊢
    exact h

theorem discard_drops (f : Form) (pa : Nat) : Ends (.discard f)
    (fun x s => x.act ≠ 0 ∧ 0 < x.c x.lane0 ∧ x.c x.lane0 ≤ 2 ^ 21 ∧ x.c x.lane0 % 128 = 0 ∧
      (x.globalAddr x.lane0 false).va % 128 = 0 ∧
      finds s x { write := true, unsupported := fun t => t == .mx } (x.globalAddr x.lane0 false) pa ∧
      pa % 128 = 0 ∧ pa % 2 ^ leafLog2 (tierOf pa) + x.c x.lane0 ≤ 2 ^ leafLog2 (tierOf pa))
    (fun x s t => past x s t (x.withOp (.lane false)) ∧
      (∀ a, a < pa ∨ pa + x.c x.lane0 ≤ a → memRead t.mem a = memRead s.mem a) ∧
      ∀ l, pa ≤ 128 * l → 128 * l < pa + x.c x.lane0 →
        (∀ k, k < 128 → memRead t.mem (128 * l + k) = memRead s.mem (128 * l + k)) ∨
        (∀ k, k < 128 → memRead t.mem (128 * l + k) = 0)) :=
  ends_of_form (op := 0x67) (body := discardOp) rfl rfl rfl (fun _ => rfl)
    fun x s hi hx _ ⟨ha, hpos, hle, hlen, halign, hfinds, hpa, hpage⟩ => by
      have hrow : x.row.d = {} := by
        rw [hx]
        cases f <;> rfl
      obtain ⟨u, hstep, hgang, zero, hmem⟩ := discardStep_found halign hfinds hpa hlen hpage
      have hbad : (x.c x.lane0 % 128 != 0 || x.c x.lane0 == 0 || decide (2 ^ 21 < x.c x.lane0)) = false := by
        simp only [hlen, bne_self_eq_false, Bool.false_or, Bool.or_eq_false_iff, beq_eq_false_iff_ne, decide_eq_false_iff_not]
        omega
      have hop : discardOp x (taken x.cur s) = completeWith x (startOp x (.lane false)) u := by
        rw [discardOp, onceAccess_made ha hstep, hrow]
        simp only [hbad, Bool.and_false, Bool.false_eq_true, if_false]
        rfl
      rw [hop]
      refine ⟨past_startOp (hgang.trans (getGang_issued hi)) _, fun a h => ?_, fun l h1 h2 => ?_⟩
      · exact (hmem a).trans (if_neg (by omega))
      · have hline : ∀ k, k < 128 → memRead u.mem (128 * l + k) = if zero l = true then 0 else memRead s.mem (128 * l + k) :=
          fun k hk => by
            rw [hmem, show (128 * l + k) / 128 = l by omega]
            simp only [show pa ≤ 128 * l + k by omega, show 128 * l + k < pa + x.c x.lane0 by omega, true_and]
        by_cases hz : zero l = true
        · exact .inr fun k hk => (hline k hk).trans (if_pos hz)
        · exact .inl fun k hk => (hline k hk).trans (if_neg hz)

/-- Settles O45: each clause is what its instruction's own lemma above says. -/
theorem windowsFencesHints : Obligations.WindowsFencesHints :=
  ⟨fun _ => win_loads, fun _ => win_clears, fun _ => fence_performs, fun _ => nfence_performs, fun _ => nfence_waits,
    fun _ => fence_waits, fun _ => pref_fills, discard_drops⟩

end Sys2Proof.Machine
end

section
/-! SUPPORT. In-layer operations at issue: `nzero`, `ncopy` and `ncmp` join the core's operations (08 R188 to R190, 19 R471 to
R473, R477). -/

namespace Sys2Proof.Machine

/-- Ranges of an in-layer operation lie at physical addresses that the TLB maps, and may be used (08 R189). -/
def nearMapped (kind len : Nat) (x : Ctx) (s : State) (l : List (NearRange × Nat)) : Prop :=
  ∀ e ∈ l, ∃ t, (getCore s x.cur.core).tlb.find? (fun t => t.covers x.gang.ctx e.1.va) = some t ∧
    e.2 = localPa s (t.phys e.1.va) ∧ nearCause s e.2 len t.writable e.1 (kind == 0) = none

/-- Ranges that are mapped and may be used reach their physical addresses, and nothing changes. -/
theorem nearReach_mapped {x : Ctx} {kind len : Nat} {s : State} {ranges : List NearRange} {pas : List Nat}
    (hlen : pas.length = ranges.length) (h : nearMapped kind len x s (ranges.zip pas)) (done : List Nat) :
    nearReach x len (kind == 0) ranges done s = (.inl (done.reverse ++ pas), s) := by
  induction ranges generalizing pas done with
  | nil =>
    rw [List.length_eq_zero_iff.mp hlen, nearReach, List.append_nil]
  | cons r ranges ih =>
    cases pas with
    | nil => simp at hlen
    | cons pa pas =>
      rw [List.zip_cons_cons, nearMapped, List.forall_mem_cons] at h
      obtain ⟨⟨t, hfind, hpa, hcause⟩, hrest⟩ := h
      dsimp only at hfind hpa hcause
      rw [nearReach, translate_of_find hfind]
      dsimp only
      rw [← hpa, hcause]
      dsimp only
      rw [ih (by simpa using hlen) hrest]
      simp

/-- An in-layer operation goes ahead: some lane acts, its ranges are multiples of 64 bytes, each in one page, all in one
layer, mapped and usable, and fewer than four operations are under way (08 R189, R190). -/
def nearGoes (kind len : Nat) (ranges : List NearRange) (pas : List Nat) (x : Ctx) (s : State) : Prop :=
  x.act ≠ 0 ∧ (kind = 2 ∨ (x.group s).shadow = false) ∧ len % 64 = 0 ∧ 0 < len ∧ len ≤ 2 ^ 21 ∧
    (getCore s x.cur.core).near.length < 4 ∧ pas.length = ranges.length ∧
    ∀ e ∈ ranges.zip pas, e.1.va % 64 = 0 ∧ e.1.va % 2 ^ 21 + len ≤ 2 ^ 21 ∧ nearLayer e.2 = nearLayer (pas.headD 0) ∧
      ∃ l, (getCore s x.cur.core).tlb.find? (fun l => l.covers x.gang.ctx e.1.va) = some l ∧ e.2 = localPa s (l.phys e.1.va) ∧
        nearCause s e.2 len l.writable e.1 (kind == 0) = none

/-- A property of every pair of two lists of one length is one of every element of the first, and of the second. -/
theorem forall_of_forall_zip {α β : Type} {l : List α} {m : List β} {p : α → Prop} {q : β → Prop} (hlen : m.length = l.length)
    (h : ∀ e ∈ l.zip m, p e.1 ∧ q e.2) : (∀ a ∈ l, p a) ∧ ∀ b ∈ m, q b := by
  refine ⟨fun a ha => ?_, fun b hb => ?_⟩
  · rw [← List.map_fst_zip hlen.ge] at ha
    obtain ⟨e, he, rfl⟩ := List.mem_map.mp ha
    exact (h e he).1
  · rw [← List.map_snd_zip hlen.le] at hb
    obtain ⟨e, he, rfl⟩ := List.mem_map.mp hb
    exact (h e he).2

theorem nearGoes_taken {kind len : Nat} {ranges : List NearRange} {pas : List Nat} {x : Ctx} {s : State}
    (h : nearGoes kind len ranges pas x s) : nearGoes kind len ranges pas x (taken x.cur s) := by
  unfold nearGoes at h ⊢
  rw [group_taken, near_taken, tlb_taken]
  exact h

theorem nearIssue_goes {kind dreg len : Nat} {ranges : List NearRange} {pas : List Nat} {x : Ctx} {s : State}
    (h : nearGoes kind len ranges pas x s) : nearIssue x kind dreg ranges len s = nearStart x kind len dreg pas s := by
  obtain ⟨ha, hshadow, halign, hpos, hle, hroom, hlen, hall⟩ := h
  have hmapped : nearMapped kind len x s (ranges.zip pas) := fun e he => by
    obtain ⟨-, -, -, h⟩ := hall e he
    exact h
  obtain ⟨hranges, hlayers⟩ := forall_of_forall_zip (p := fun r : NearRange => r.va % 64 = 0 ∧ r.va % 2 ^ 21 + len ≤ 2 ^ 21)
    (q := fun pa => nearLayer pa = nearLayer (pas.headD 0)) hlen
    (fun e he => by
      obtain ⟨h64, hpage, hlayer, -⟩ := hall e he
      exact ⟨⟨h64, hpage⟩, hlayer⟩)
  have hlegal : (kind != 2 && (x.group s).shadow) = false := by
    rcases hshadow with h | h <;> simp [h]
  have hunaligned : ranges.find? (fun r => r.va % 64 != 0) = none :=
    List.find?_eq_none.mpr fun r hr => by simp [(hranges r hr).1]
  have hcrosses : ranges.find? (fun r => 2 ^ 21 < r.va % 2 ^ 21 + len) = none :=
    List.find?_eq_none.mpr fun r hr => by simpa using (hranges r hr).2
  have hlayer : pas.all (fun pa => nearLayer pa == nearLayer (pas.headD 0)) = true :=
    List.all_eq_true.mpr fun pa hp => by simpa using hlayers pa hp
  have hsize : (len == 0 || decide (2 ^ 21 < len)) = false := by
    simp only [Bool.or_eq_false_iff, beq_eq_false_iff_ne, decide_eq_false_iff_not]
    omega
  simp only [nearIssue, hlegal, beq_eq_false_iff_ne.mpr ha, hunaligned, halign, bne_self_eq_false, hsize, hcrosses,
    nearReach_mapped hlen hmapped, List.reverse_nil, List.nil_append, hlayer, Bool.not_true, Bool.false_eq_true, if_false,
    Nat.not_le.mpr hroom]

/-- An operation has joined the in-layer operations of the issuing core, and the gang is past its instruction. -/
def nearQueued (kind len dreg : Nat) (pas : List Nat) (x : Ctx) (s t : State) : Prop :=
  let k := getCore s x.cur.core
  Leaves x s (modCore s x.cur.core (fun c => { c with
    near := k.near ++ [{ kind := kind, dst := pas.headD 0, src := pas.getD 1 0, len := len, dreg := dreg,
                         layer := (nearLayer (pas.headD 0)).getD 0, arrived := s.clock, slot := x.cur.slot,
                         gslot := x.gang.gslot, ctx := x.gang.ctx, id := k.opSeq }],
    opSeq := k.opSeq + 1, groups := (getCore t x.cur.core).groups })) t ∧
  past x s t (x.withOp (.engine k.opSeq))

/-- The groups of the issuing core may be read off the state as it comes to be. -/
theorem Leaves.readGroups {x : Ctx} {s want want' u : State} (h : Leaves x s want u) (hd : want'.apart = want.apart)
    (hc : getCore want' x.cur.core = { getCore want x.cur.core with groups := (getCore u x.cur.core).groups }) :
    Leaves x s want' u where
  device := h.device.trans hd.symm
  queue := h.queue
  otherCores := h.otherCores
  sameCore := by
    have hgroups : (getCore u x.cur.core).groups = (getCore want x.cur.core).groups := (congrArg Core.groups h.sameCore :)
    rw [hc, hgroups]
    exact h.sameCore
  otherGangs := h.otherGangs

/-- The core with an in-layer operation added, which takes the next number. -/
def Core.withNear (o : NearOp) (c : Core) : Core := { c with near := c.near ++ [o], opSeq := c.opSeq + 1 }

/-- The operation that joins the core's in-layer operations at issue (08 R190). -/
def Ctx.nearOp (x : Ctx) (kind len dreg : Nat) (pas : List Nat) (s : State) : NearOp :=
  { kind := kind, dst := pas.headD 0, src := pas.getD 1 0, len := len, dreg := dreg, layer := (nearLayer (pas.headD 0)).getD 0,
    arrived := s.clock, slot := x.cur.slot, gslot := x.gang.gslot, ctx := x.gang.ctx, id := (getCore s x.cur.core).opSeq }

theorem nearStart_eq {x : Ctx} {s : State} {kind len dreg : Nat} {pas : List Nat} {o : NearOp}
    (ho : x.nearOp kind len dreg pas s = o) : nearStart x kind len dreg pas s =
      completeWith x (startOp x (.engine (getCore s x.cur.core).opSeq))
        (if kind = 2 then modCore s x.cur.core (Core.withNear o)
          else bindTask x.cur.core x.gang.gslot (modCore s x.cur.core (Core.withNear o))) := by
  subst ho
  simp only [nearStart, beq_iff_eq]
  rfl

/-- Binding a held task changes of its core the groups alone. -/
theorem Leaves.bindTask {x : Ctx} {s want u : State} (h : Leaves x s want u) (gslot : Nat) :
    Leaves x s (Machine.bindTask x.cur.core gslot want) (Machine.bindTask x.cur.core gslot u) := by
  unfold Machine.bindTask modGroup
  exact h.changeCore (fun _ _ => rfl)

theorem getCore_bindTask (core gslot : Nat) (s : State) :
    ∃ l, getCore (bindTask core gslot s) core = { getCore s core with groups := l } :=
  ⟨_, getCore_modGroup_same _ _ _ _⟩

theorem nearStart_queues {x : Ctx} {s : State} (hi : issuer s = some (x.cur, x.gang, x.sp)) (kind len dreg : Nat)
    (pas : List Nat) : nearQueued kind len dreg pas x s (nearStart x kind len dreg pas (taken x.cur s)) := by
  have ho : x.nearOp kind len dreg pas (taken x.cur s) = x.nearOp kind len dreg pas s := by
    rw [Ctx.nearOp, opSeq_taken, clock_taken, Ctx.nearOp]
  rw [nearStart_eq ho, opSeq_taken, nearQueued]
  generalize hop : x.nearOp kind len dreg pas s = o
  have hjoin : Leaves x s (modCore s x.cur.core (Core.withNear o)) (modCore (taken x.cur s) x.cur.core (Core.withNear o)) :=
    (leaves_taken x s).changeCore (fun _ _ => rfl)
  have hgang : getGang (modCore (taken x.cur s) x.cur.core (Core.withNear o)) x.cur.core x.cur.slot = some (x.issued s) := by
    rw [getGang_modCore_kept (f := Core.withNear o) (fun _ => rfl), getGang_issued hi]
  split
  · refine ⟨(hjoin.onGang _).readGroups rfl ?_, past_startOp hgang _⟩
    rw [getCore_modCore_same, getCore_modCore_same, ← hop]
    rfl
  · refine ⟨((hjoin.bindTask x.gang.gslot).onGang _).readGroups rfl ?_, past_startOp ((getGang_modGroup ..).trans hgang) _⟩
    obtain ⟨l, hl⟩ := getCore_bindTask x.cur.core x.gang.gslot (modCore s x.cur.core (Core.withNear o))
    rw [hl, getCore_modCore_same, getCore_modCore_same, ← hop]
    rfl

theorem nearIssue_queues {x : Ctx} {s : State} (hi : issuer s = some (x.cur, x.gang, x.sp)) {kind len : Nat}
    {ranges : List NearRange} {pas : List Nat} (h : nearGoes kind len ranges pas x s) (dreg : Nat) :
    nearQueued kind len dreg pas x s (nearIssue x kind dreg ranges len (taken x.cur s)) := by
  rw [nearIssue_goes (nearGoes_taken h)]
  exact nearStart_queues hi kind len dreg pas

section
variable {f : Form}

theorem nzero_queues (pas : List Nat) : Ends (.nzero f)
    (fun x s => nearGoes 0 (x.c x.lane0) [{ va := x.a x.lane0 % 2 ^ 52, write := true }] pas x s)
    (fun x s t => nearQueued 0 (x.c x.lane0) 0 pas x s t) :=
  ends_of_encoded (op := 0x68) (body := nzeroOp) rfl rfl (fun _ => rfl) fun _ _ hi h =>
    nearIssue_queues hi h _

theorem ncopy_queues (pas : List Nat) : Ends (.ncopy f)
    (fun x s => nearGoes 1 (x.c x.lane0) [{ va := x.d x.lane0 % 2 ^ 52, write := true },
      { va := x.a x.lane0 % 2 ^ 52, write := false }] pas x s)
    (fun x s t => nearQueued 1 (x.c x.lane0) 0 pas x s t) :=
  ends_of_encoded (op := 0x69) (body := ncopyOp) rfl rfl (fun _ => rfl) fun _ _ hi h =>
    nearIssue_queues hi h _

theorem ncmp_queues (pas : List Nat) : Ends (.ncmp f)
    (fun x s => nearGoes 2 (x.c x.lane0) [{ va := x.a x.lane0 % 2 ^ 52, write := false },
      { va := x.b x.lane0 % 2 ^ 52, write := false }] pas x s)
    (fun x s t => nearQueued 2 (x.c x.lane0) x.f.e.d.toNat pas x s t) :=
  ends_of_encoded (op := 0x6A) (body := ncmpOp) rfl rfl (fun _ => rfl) fun _ _ hi h =>
    nearIssue_queues hi h _

end

end Sys2Proof.Machine
end

section
/-! SUPPORT. In-layer operations performed (08 R188, R190, 19 R472, R473, R477). -/

namespace Sys2Proof.Machine

/-! ## Bytes of ranges -/

theorem getD_memReadBytes (m : Memory) (a n k : Nat) (hk : k < n) : (memReadBytes m a n).getD k 0 = memRead m (a + k) := by
  induction n generalizing a k with
  | zero => omega
  | succ n ih =>
    cases k with
    | zero => rfl
    | succ k =>
      rw [memReadBytes, List.getD_cons_succ, ih _ _ (by omega), Nat.add_right_comm, Nat.add_assoc]

/-- Where two ranges are equal, `ncmp` writes all ones. -/
theorem firstDiff_self (n : Nat) (l : List Byte) : firstDiff n l l = 0xFFFFFFFF := by
  induction l generalizing n with
  | nil => rfl
  | cons b l ih => rw [firstDiff, if_pos (by simp), ih]

/-- Two ranges of memory whose bytes are equal read as the same list. -/
theorem memReadBytes_congr {m : Memory} {a b n : Nat} (h : ∀ k, k < n → memRead m (a + k) = memRead m (b + k)) :
    memReadBytes m a n = memReadBytes m b n := by
  induction n generalizing a b with
  | zero => rfl
  | succ n ih =>
    rw [memReadBytes, memReadBytes, show memRead m a = memRead m b from h 0 (by omega)]
    refine congrArg _ (ih fun k hk => ?_)
    have := h (k + 1) (by omega)
    rwa [show a + (k + 1) = a + 1 + k by omega, show b + (k + 1) = b + 1 + k by omega] at this

/-- The first byte at which two ranges differ is the offset that `ncmp` writes. -/
theorem firstDiff_of_differ {m : Memory} {a b n k : Nat} (hk : k < n) (hne : memRead m (a + k) ≠ memRead m (b + k))
    (heq : ∀ j, j < k → memRead m (a + j) = memRead m (b + j)) (from_ : Nat) :
    firstDiff from_ (memReadBytes m a n) (memReadBytes m b n) = from_ + k := by
  induction n generalizing a b k from_ with
  | zero => omega
  | succ n ih =>
    rw [memReadBytes, memReadBytes, firstDiff]
    cases k with
    | zero =>
      rw [if_neg (by simpa using hne)]
      rfl
    | succ k =>
      have hfirst : memRead m a = memRead m b := heq 0 (by omega)
      have hshift (c j : Nat) : c + 1 + j = c + (j + 1) := by omega
      rw [if_pos (by simpa using hfirst), ih (k := k) (by omega) (by rwa [hshift, hshift])
        (fun j hj => by rw [hshift, hshift]; exact heq (j + 1) (by omega))]
      omega

/-! ## The effect of an operation (08 R188) -/

/-- A write of an in-layer operation: to memory, and to what a held task's version holds of its range (10 R232). -/
def nearWrite (core : Nat) (o : NearOp) (bs : List Byte) (s : State) : State :=
  bypassVersion core o.gslot o.dst bs (physWrite o.dst bs (overwrite core o.gslot o.dst bs s))

theorem mem_nearWrite {o : NearOp} (h : tierOf o.dst ≠ .mx) (core : Nat) (bs : List Byte) (s : State) :
    (nearWrite core o bs s).mem = memWriteBytes s.mem o.dst bs := by
  rw [nearWrite, physWrite_of_ne_mx _ _ _ h]
  exact congrArg (memWriteBytes · o.dst bs) (overwrite_mem core o.gslot o.dst bs s)

/-- A write of an in-layer operation changes of each core its groups alone. -/
theorem getCore_nearWrite (core : Nat) (o : NearOp) (bs : List Byte) (s : State) (n : Nat) :
    ∃ l, getCore (nearWrite core o bs s) n = { getCore s n with groups := l } := by
  have hcores : (physWrite o.dst bs (overwrite core o.gslot o.dst bs s)).cores = s.cores := by
    rw [physWrite_cores, overwrite_cores]
  have hcore : getCore (physWrite o.dst bs (overwrite core o.gslot o.dst bs s)) n = getCore s n := by
    rw [getCore, hcores, getCore]
  rw [nearWrite, bypassVersion]
  by_cases h : n = core
  · subst h
    rw [getCore_modGroup_same, hcore]
    exact ⟨_, rfl⟩
  · rw [getCore_modGroup_ne _ _ _ _ _ h, hcore]
    exact ⟨_, rfl⟩

/-- A gang in which the operation of an engine is over (03 R69). -/
def Gang.opOver (id : Nat) (g : Gang) : Gang := { g with ops := g.ops.filter (fun p => p.kind != .engine id) }

/-- What a performed operation leaves: memory, the operations that are still under way, and its gang, which it may have
changed before it was over. -/
def nearPerformed (core : Nat) (o : NearOp) (rest : List NearOp) (m : Memory) (change : Gang → Gang) (s t : State) : Prop :=
  t.mem = m ∧ (getCore t core).near = rest ∧
    getGang t core o.slot = (getGang s core o.slot).map (fun g => (change g).opOver o.id)

/-- An operation that has changed the issuing gang and the groups of its core alone is performed once it is over. -/
theorem nearPerformed_endOp {core : Nat} {o : NearOp} {rest : List NearOp} {m : Memory} {change : Gang → Gang} {s u : State}
    (hm : u.mem = m) (hn : (getCore u core).near = rest)
    (hg : getGang u core o.slot = (getGang s core o.slot).map change) :
    nearPerformed core o rest m change s (endOp core o.slot o.id u) := by
  refine ⟨hm, ?_, ?_⟩
  · rw [endOp, getCore_modGang_same]
    exact hn
  · rw [endOp, getGang_modGang_same, hg, Option.map_map]
    rfl

/-- A core whose oldest in-layer operation has left the others. -/
def nearRest (core : Nat) (rest : List NearOp) (s : State) : State := modCore s core (fun c => { c with near := rest })

theorem getCore_nearRest (core : Nat) (rest : List NearOp) (s : State) :
    getCore (nearRest core rest s) core = { getCore s core with near := rest } := getCore_modCore_same _ _ _

theorem getGang_nearRest (core : Nat) (rest : List NearOp) (s : State) (slot : Nat) :
    getGang (nearRest core rest s) core slot = getGang s core slot := by
  rw [getGang, getCore_nearRest, getGang]

/-- A write of the oldest operation, once it has left the operations of its core. -/
theorem nearPerformed_nearWrite {core : Nat} {o : NearOp} (hmx : tierOf o.dst ≠ .mx) (rest : List NearOp) (bs : List Byte)
    {lift : State → State} (hmem : ∀ u, (lift u).mem = u.mem) (hcores : ∀ u, (lift u).cores = u.cores) (s : State) :
    nearPerformed core o rest (memWriteBytes s.mem o.dst bs) id s
      (endOp core o.slot o.id (lift (nearWrite core o bs (nearRest core rest s)))) := by
  obtain ⟨l, hl⟩ := getCore_nearWrite core o bs (nearRest core rest s) core
  have hcore (u : State) : getCore (lift u) core = getCore u core := by rw [getCore, hcores, getCore]
  refine nearPerformed_endOp ?_ ?_ ?_
  · rw [hmem, mem_nearWrite hmx]
    rfl
  · rw [hcore, hl, getCore_nearRest]
  · rw [getGang, hcore, hl, getCore_nearRest, Option.map_id_fun, id, getGang]

/-- The issuing gang of `ncmp`, with the outcome in its scalar register while its operation is in flight. -/
def Gang.compared (o : NearOp) (m : Memory) (g : Gang) : Gang :=
  if g.ops.any (fun p => p.kind == .engine o.id) then
    setSreg g o.dreg (BitVec.ofNat 32 (firstDiff 0 (memReadBytes m o.dst o.len) (memReadBytes m o.src o.len)))
  else g

/-- The outcome of `ncmp` goes to its gang, while the gang is there and its operation in flight. -/
def storeDiff (core : Nat) (o : NearOp) (s : State) : State :=
  if ((getGang s core o.slot).map (fun g => g.ops.any (fun p => p.kind == .engine o.id))).getD false then
    modGang s core o.slot (fun g =>
      setSreg g o.dreg (BitVec.ofNat 32 (firstDiff 0 (memReadBytes s.mem o.dst o.len) (memReadBytes s.mem o.src o.len))))
  else s

theorem getGang_storeDiff (core : Nat) (o : NearOp) (s : State) :
    getGang (storeDiff core o s) core o.slot = (getGang s core o.slot).map (Gang.compared o s.mem) := by
  unfold storeDiff
  cases hg : getGang s core o.slot with
  | none =>
    rw [Option.map_none, Option.getD_none, if_neg (by simp), hg, Option.map_none]
  | some g =>
    rw [Option.map_some, Option.getD_some, Option.map_some, Gang.compared]
    split
    · rw [getGang_modGang_same, hg, Option.map_some]
    · exact hg

theorem storeDiff_other (core : Nat) (o : NearOp) (s : State) : (storeDiff core o s).mem = s.mem ∧
    (getCore (storeDiff core o s) core).near = (getCore s core).near := by
  unfold storeDiff
  split
  · exact ⟨rfl, by rw [getCore_modGang_same]⟩
  · exact ⟨rfl, rfl⟩

section
variable {core : Nat} {o : NearOp} {rest : List NearOp} {s : State} (hnear : (getCore s core).near = o :: rest)
include hnear

theorem performNear_zeroes (hmx : tierOf o.dst ≠ .mx) (hk : o.kind = 0) :
    nearPerformed core o rest (memWriteBytes s.mem o.dst (List.replicate o.len 0)) id s (performNear core s) := by
  have h := nearPerformed_nearWrite (core := core) hmx rest (List.replicate o.len 0)
    (lift := fun u => if o.dst % 2 ^ 21 == 0 && o.len == 2 ^ 21 then liftQuarantine (o.dst / 2 ^ 21) u else u)
    (fun u => by split <;> rfl) (fun u => by split <;> rfl) s
  simp only [performNear, hnear, hk]
  exact h

theorem performNear_copies (hmx : tierOf o.dst ≠ .mx) (hk : o.kind = 1) :
    nearPerformed core o rest (memWriteBytes s.mem o.dst (memReadBytes s.mem o.src o.len)) id s (performNear core s) := by
  have h := nearPerformed_nearWrite (core := core) hmx rest (memReadBytes s.mem o.src o.len) (lift := id) (fun _ => rfl)
    (fun _ => rfl) s
  simp only [performNear, hnear, hk]
  exact h

theorem performNear_compares (h0 : o.kind ≠ 0) (h1 : o.kind ≠ 1) :
    nearPerformed core o rest s.mem (Gang.compared o s.mem) s (performNear core s) := by
  have hop : performNear core s = endOp core o.slot o.id (storeDiff core o (nearRest core rest s)) := by
    simp only [performNear, hnear]
    rfl
  obtain ⟨hm, hn⟩ := storeDiff_other core o (nearRest core rest s)
  rw [hop]
  exact nearPerformed_endOp hm (by rw [hn, getCore_nearRest]) (by rw [getGang_storeDiff, getGang_nearRest]; rfl)

end

/-- A gang whose operation is over, and that it changed in its registers alone. -/
theorem nearPerformed_ends {core : Nat} {o : NearOp} {rest : List NearOp} {m : Memory} {change : Gang → Gang} {s t : State}
    (h : nearPerformed core o rest m change s t) (hc : ∀ g, (change g).ops = g.ops ∧ (change g).splits = g.splits) :
    (getCore t core).near = rest ∧ ∀ g g', getGang s core o.slot = some g → getGang t core o.slot = some g' →
      g'.ops = g.ops.filter (fun p => p.kind != .engine o.id) ∧ g'.splits = g.splits := by
  obtain ⟨-, hn, hg⟩ := h
  refine ⟨hn, fun g g' hs ht => ?_⟩
  rw [hs, Option.map_some, ht, Option.some_inj] at hg
  subst hg
  exact ⟨congrArg _ (hc g).1, (hc g).2⟩

theorem compared_other (o : NearOp) (m : Memory) (g : Gang) :
    (g.compared o m).ops = g.ops ∧ (g.compared o m).splits = g.splits := by
  unfold Gang.compared
  split <;> exact ⟨rfl, rfl⟩

/-! ## The step (08 R190, log 35) -/

/-- No group of a core retires while none of them is spent. -/
theorem endGroup_of_unspent {core : Nat} {t : State}
    (h : ∀ e ∈ (getCore t core).groups, groupSpent t core e.1 e.2 = false) : endGroup core t = t := by
  have hn : (getCore t core).groups.find? (fun e => groupSpent t core e.1 e.2 && e.2.atCommit == 0) = none :=
    List.find?_eq_none.mpr fun e he => by simp [h e he]
  rw [endGroup, hn]

section
variable {core : Nat} {o : NearOp} {rest : List NearOp} {s : State} (hnear : (getCore s core).near = o :: rest)
include hnear

theorem inLayerComplete_eq (hfree : layerBusy s core o = false) :
    exec (.inLayerComplete core) s = .next (endGroup core (performNear core s)) := by
  change execInLayerComplete core s = _
  simp only [execInLayerComplete, hnear, hfree, Bool.false_eq_true, if_false]

theorem performNear_ends (hmx : tierOf o.dst ≠ .mx) : (getCore (performNear core s) core).near = rest ∧
    ∀ g g', getGang s core o.slot = some g → getGang (performNear core s) core o.slot = some g' →
      g'.ops = g.ops.filter (fun p => p.kind != .engine o.id) ∧ g'.splits = g.splits := by
  by_cases h0 : o.kind = 0
  · exact nearPerformed_ends (performNear_zeroes hnear hmx h0) (fun _ => ⟨rfl, rfl⟩)
  by_cases h1 : o.kind = 1
  · exact nearPerformed_ends (performNear_copies hnear hmx h1) (fun _ => ⟨rfl, rfl⟩)
  · exact nearPerformed_ends (performNear_compares hnear h0 h1) (compared_other o s.mem)

theorem nzero_performed (hmx : tierOf o.dst ≠ .mx) (hk : o.kind = 0) :
    (∀ a, o.dst ≤ a → a < o.dst + o.len → memRead (performNear core s).mem a = 0) ∧
      ∀ a, a < o.dst ∨ o.dst + o.len ≤ a → memRead (performNear core s).mem a = memRead s.mem a := by
  obtain ⟨hm, -, -⟩ := performNear_zeroes hnear hmx hk
  rw [hm]
  refine ⟨fun a h1 h2 => ?_, fun a h => memRead_memWriteBytes_outside _ _ _ _ (by rwa [List.length_replicate])⟩
  obtain ⟨k, rfl⟩ := Nat.exists_eq_add_of_le h1
  rw [memRead_memWriteBytes_inside _ _ _ _ (by rw [List.length_replicate]; omega), List.getD_replicate _ (by omega)]

theorem ncopy_performed (hmx : tierOf o.dst ≠ .mx) (hk : o.kind = 1) :
    (∀ k, k < o.len → memRead (performNear core s).mem (o.dst + k) = memRead s.mem (o.src + k)) ∧
      ∀ a, a < o.dst ∨ o.dst + o.len ≤ a → memRead (performNear core s).mem a = memRead s.mem a := by
  obtain ⟨hm, -, -⟩ := performNear_copies hnear hmx hk
  rw [hm]
  refine ⟨fun k hlt => ?_, fun a h => memRead_memWriteBytes_outside _ _ _ _ (by rwa [length_memReadBytes])⟩
  rw [memRead_memWriteBytes_inside _ _ _ _ (by rwa [length_memReadBytes]), getD_memReadBytes _ _ _ _ hlt]

theorem ncmp_performed (hk : o.kind = 2) : (performNear core s).mem = s.mem ∧
    ∀ g g', getGang s core o.slot = some g → getGang (performNear core s) core o.slot = some g' →
      (∃ p ∈ g.ops, p.kind = .engine o.id) →
      (∀ n, n ≠ o.dreg → sreg g' n = sreg g n) ∧
      ((∀ k, k < o.len → memRead s.mem (o.dst + k) = memRead s.mem (o.src + k)) → sreg g' o.dreg = 0xFFFFFFFF) ∧
      ∀ k, k < o.len → memRead s.mem (o.dst + k) ≠ memRead s.mem (o.src + k) →
        (∀ j, j < k → memRead s.mem (o.dst + j) = memRead s.mem (o.src + j)) → sreg g' o.dreg = BitVec.ofNat 32 k := by
  obtain ⟨hm, -, hg⟩ := performNear_compares hnear (by omega) (by omega)
  refine ⟨hm, fun g g' hs ht hop => ?_⟩
  have hmine : g.ops.any (fun p => p.kind == .engine o.id) = true := by simpa using hop
  rw [hs, Option.map_some, ht, Option.some_inj, Gang.compared, if_pos hmine] at hg
  have hreg (n : Nat) : sreg g' n = sreg (setSreg g o.dreg (BitVec.ofNat 32
      (firstDiff 0 (memReadBytes s.mem o.dst o.len) (memReadBytes s.mem o.src o.len)))) n := by rw [hg]; rfl
  refine ⟨fun n hn => ?_, fun heq => ?_, fun k hlt hne heq => ?_⟩
  · rw [hreg, sreg_setSreg_ne _ _ _ _ hn]
  · rw [hreg, sreg_setSreg_same, memReadBytes_congr heq, firstDiff_self]
    rfl
  · rw [hreg, sreg_setSreg_same, firstDiff_of_differ hlt hne heq, Nat.zero_add]

end

/-- Settles O47: what queues each operation at issue, and what the oldest of them comes to when it is performed. -/
theorem nearOperations : Obligations.NearOperations := by
  unfold Obligations.NearOperations
  refine ⟨fun _ => nzero_queues, fun _ => ncopy_queues, fun _ => ncmp_queues, fun s core o rest hnear hfree hmx => ?_⟩
  obtain ⟨hrest, hgang⟩ := performNear_ends hnear hmx
  exact ⟨performNear core s, inLayerComplete_eq hnear hfree, endGroup_of_unspent, hrest, hgang, nzero_performed hnear hmx,
    ncopy_performed hnear hmx, ncmp_performed hnear⟩

end Sys2Proof.Machine
end
